-- ==== Sys2Proof/Word.lean ====
section
/-! DEFINITION. Word types, their plainest arithmetic, and the sparse table that every store of the machine
(memory, registers, local store, strands) is held in. -/

namespace Sys2Proof

/-- A 32-bit instruction word or lane value (08 R135, 07 R119). -/
abbrev Word := BitVec 32
/-- A 64-bit uniform register, address or memory doubleword (07 R119). -/
abbrev DWord := BitVec 64
/-- One byte of memory. -/
abbrev Byte := BitVec 8

/-- A sparse table in canonical form: keys rise strictly and no entry holds the default value, so that equal
tables are equal lists. -/
abbrev Tbl (α : Type) := List (Nat × α)

/-- The value at a key; an unlisted key holds the default `d`. -/
def Tbl.get {α : Type} (d : α) : Tbl α → Nat → α
  | [], _ => d
  | (k, v) :: t, i => if i = k then v else if i < k then d else Tbl.get d t i

/-- Removes the entry of a key, if there is one. -/
def Tbl.erase {α : Type} : Tbl α → Nat → Tbl α
  | [], _ => []
  | (k, v) :: t, i => if i = k then t else if i < k then (k, v) :: t else (k, v) :: Tbl.erase t i

/-- Places a value at a key in the rising order, replacing the entry of the key. -/
def Tbl.put {α : Type} (x : α) : Tbl α → Nat → Tbl α
  | [], i => [(i, x)]
  | (k, v) :: t, i =>
    if i = k then (i, x) :: t else if i < k then (i, x) :: (k, v) :: t else (k, v) :: Tbl.put x t i

/-- Writes a key: writing the default removes the entry. -/
def Tbl.set {α : Type} [DecidableEq α] (d : α) (t : Tbl α) (i : Nat) (x : α) : Tbl α :=
  if x = d then Tbl.erase t i else Tbl.put x t i

/-- Every key at or above `n` and no entry at the default: the canonical form from `n` on. -/
def Tbl.wfFrom {α : Type} [DecidableEq α] (d : α) : Nat → Tbl α → Bool
  | _, [] => true
  | n, (k, v) :: t => decide (n ≤ k) && decide (v ≠ d) && Tbl.wfFrom d (k + 1) t

/-- The canonical form of a table with default `d`. (DESIGN CHOICE, log entry 1.) -/
def Tbl.wf {α : Type} [DecidableEq α] (d : α) (t : Tbl α) : Bool := Tbl.wfFrom d 0 t

/-- Drops every entry whose key lies in `[lo, hi)`: those keys hold the default from then on. -/
def Tbl.clear {α : Type} (t : Tbl α) (lo hi : Nat) : Tbl α :=
  t.filter (fun e => decide (e.1 < lo ∨ hi ≤ e.1))

/-- Bit `i` of a natural number. -/
def bitOf (n i : Nat) : Bool := n.testBit i

/-- The field `[lo + w - 1 : lo]` of a natural number (00 R4). -/
def fieldOf (n lo w : Nat) : Nat := (n >>> lo) % 2 ^ w

/-- The first `n` naturals from `a`. -/
def rangeFrom (a : Nat) : Nat → List Nat
  | 0 => []
  | n + 1 => a :: rangeFrom (a + 1) n

end Sys2Proof
end

