-- ==== Sys2Proof/Parts.lean ====
section
/-! DEFINITION. The parts instructions and events are made of: the lane guard, and what an event from outside the
cores carries (a fabric packet, a host access, the figures the Ozona controller sets). -/

namespace Sys2Proof

/-- The lane guard of a lane-set word: a lane takes part when P[pr] XOR pn is 1 (08 R139). -/
structure Guard where
  pr : BitVec 3
  pn : BitVec 1
  deriving DecidableEq, Repr

/-- One byte as it travels, with its poison mark (01 R402). -/
structure PByte where
  val : Byte
  bad : Bool
  deriving DecidableEq, Repr

/-- A transit record (03 R75), with the amount as an exact number. -/
structure FieldRec where
  seq : Nat
  amount : Nat
  toCell : Nat
  fromCell : Nat
  slot : Nat
  package : Nat
  lane : Nat
  tag : Nat
  deriving DecidableEq, Repr

/-- What a fabric packet asks of the package it reaches (11 R196, R197; 03 R74, R77, R78). (DESIGN CHOICE, log entry 31.) -/
inductive FabBody where
  /-- bytes of a COPYP: the reduce code, the bytes, and on the last packet the remote counter action (05 R95) -/
  | put (red : BitVec 2) (bytes : List PByte) (last : Bool) (rce : Bool) (rcnt : Nat) (rcore : Nat)
  /-- FLD of a cell that lives here -/
  | fieldRead (slot cell : Nat)
  /-- the debit of a transfer whose from cell lives here; the clip flag is the XFER's mode -/
  | fieldDebit (r : FieldRec) (clip : Bool)
  /-- the credit of a transfer whose to cell lives here, from debit home number `home` of the sender -/
  | fieldCredit (home : Nat) (r : FieldRec)
  /-- the answer to a credit that this package sent: performed, or refused with a cause -/
  | fieldCredited (home : Nat) (r : FieldRec) (cause : Nat)
  /-- the answer to a debit that this package asked for: the amount moved, or a cause -/
  | fieldMoved (moved cause : Nat)
  /-- the end of a transfer debited elsewhere for this package: cause 0 when its credit was acknowledged -/
  | fieldSettled (cause : Nat)
  /-- the answer to an FLD of a cell that lives elsewhere -/
  | fieldValue (value : Nat)
  /-- FTOT of a domain whose total home is here, and the answer to one -/
  | fieldTotals (slot : Nat)
  | fieldTotal (initial injected removed : Nat)
  deriving DecidableEq, Repr

/-- A fabric packet as it reaches ingress: sender, system partition, tag and window offset (11 R196, R197). -/
structure FabPkt where
  src : Nat
  spid : Nat
  tag : Nat
  off : Nat
  body : FabBody
  deriving DecidableEq, Repr

/-- One element of a COLL packet: window offset and data word (11 R209). -/
structure CollElem where
  off : Nat
  data : Word
  bad : Bool
  deriving DecidableEq, Repr

/-- A COLL packet: collective-table entry, attempt number, operation and elements (11 R206, R209). (DESIGN CHOICE, log entry 31.) -/
structure CollPkt where
  src : Nat
  spid : Nat
  tag : Nat
  id : Nat
  attempt : Nat
  op : BitVec 2
  elems : List CollElem
  deriving DecidableEq, Repr

/-- What a destination answers to a COLL packet (11 R206, R210). (DESIGN CHOICE, log entry 31.) -/
inductive CollAnswer where
  | performed
  | dropped
  | retry
  | refused (cause : Nat) (addr : Nat)
  deriving DecidableEq, Repr

/-- A host access through the load/store window (16 R284). -/
inductive HostAcc where
  | read (size : Nat)
  | write (bytes : List Byte)
  deriving DecidableEq, Repr

/-- What packages exchange about a domain descriptor of a system partition (03 R61, R64, R348): its copy, with the declaring
package; INITIAL, with which the copy is declared; the wait for transit records before a retirement, the release, and the wish to
retire, each with its sender; an acknowledgement of one of the four parts, with the sum of the cells there; and a refusal, which says
whether the slot is taken there. (DESIGN CHOICE, log entry 31.) -/
inductive DomainMsg where
  | copy (src spid slot handle ctx : Nat) (words : List DWord)
  | total (src spid slot sum : Nat)
  | drain (src spid slot : Nat)
  | release (src spid slot : Nat)
  | retire (src spid slot : Nat)
  | acked (spid slot package part sum : Nat)
  | refused (spid slot package : Nat) (taken : Bool)
  deriving DecidableEq, Repr

/-- One partition as the Ozona controller sets it (16 R285, R290, R291): granules, ports, HBM channels,
and the packages that hold a partition of the same system partition. -/
structure PartCfg where
  num : Nat
  spid : BitVec 32
  ports : BitVec 16
  gran : BitVec 8
  chans : Nat
  members : List Nat
  deriving DecidableEq, Repr

/-- What bring-up fixes: whether the firmware's signature holds, the package identifier, the populated capacity
tier in MiB, and the partitions (16 R294, 01 R20). (DESIGN CHOICE, log entry 8.) -/
structure BringUp where
  genuine : Bool
  package : BitVec 21
  tierMiB : Nat
  parts : List PartCfg
  deriving DecidableEq, Repr

/-- An event of a core that has an energy coefficient of its own, beside the issue of an instruction (12 R228). -/
inductive EnergyEvent where
  | storePass
  | matrixPass
  | copiedByte
  | mereAccess
  | hbmBurst
  | flit
  deriving DecidableEq, Repr

/-- Where a register stands: a memory-control register of an I/O die (01 R8), or an offset of the configuration
window (16 R284). -/
inductive RegAddr where
  | ctl (die off : Nat)
  | cfg (off : Nat)
  deriving DecidableEq, Repr

end Sys2Proof
end

