-- ==== Sys2Proof/Config.lean ====
section
/-! DEFINITION. What an implementation fixes and the spec leaves open: constants with no body, so that nothing can be
proved of their values. Each is applied to plain data (a counter of the state, or the operands it depends on). -/

namespace Sys2Proof.Config

/-- Cycles that pass while step number `n` of the machine is made, less one (12 R223 leaves the count open). (DESIGN CHOICE, log entry 3.) -/
opaque elapsed (n : Nat) : BitVec 32
/-- The length of a compressed frame in units of 256 bytes, which the lossless form of 01 R25 leaves open. (DESIGN CHOICE, log entry 3.) -/
opaque compressed (n : Nat) : BitVec 16
/-- How far the power controller moves a permit beyond one in one interval (12 R226). (DESIGN CHOICE, log entry 3.) -/
opaque permitDelta (n : Nat) : BitVec 6
/-- The units of energy, less one, that make a microjoule: the coefficients of 12 R228, which it does not give, are counts of them.
(DESIGN CHOICE, log entry 3.) -/
opaque energyUnits : Nat
/-- The energy of an issued instruction by its class: that of its opcode byte, with the OPX of the word behind an XW (12 R228). (DESIGN
CHOICE, log entry 3.) -/
opaque issueEnergy (opcode : Nat) : Nat
/-- The energy of an event of a kind (12 R228). (DESIGN CHOICE, log entry 3.) -/
opaque eventEnergy (k : EnergyEvent) : Nat
/-- The static energy of a core in one cycle (12 R228). (DESIGN CHOICE, log entry 3.) -/
opaque staticEnergy : Nat
/-- Word `i` of the SHA3-512 value of a measured content (01 R30). (DESIGN CHOICE, log entry 3.) -/
opaque sha3 (content : List Nat) (i : Nat) : BitVec 64
/-- Word `i` of the ML-DSA-87 signature of a measurement (01 R30 names the scheme, not the key). (DESIGN CHOICE, log entry 3.) -/
opaque signature (measurement : List (BitVec 64)) (i : Nat) : BitVec 64
/-- What of a measurement block's content no register shows: the Ozona firmware, the repair tables, and the keys of a generation
(01 R30). (DESIGN CHOICE, log entry 3.) -/
opaque measuredContent (block n : Nat) : Nat
/-- The identity words of the configuration window (16 R284). (DESIGN CHOICE, log entry 3.) -/
opaque identity (off : Nat) : BitVec 32
/-- The version field of a capability header (16 R289). (DESIGN CHOICE, log entry 3.) -/
opaque capVersion (id : Nat) : BitVec 8
/-- Which of the equally loaded cores that fit a deterministic launch's seed picks (12 R222, 15 R270): a position in the
list of cores, taken modulo its length. (DESIGN CHOICE, log entry 3.) -/
opaque seedPick (seed : BitVec 32) (cores : List Nat) : Nat

/-- Which line a full set of a home slice gives up (04 R80 names no rule): a position in the list of its lines, modulo its
length. (DESIGN CHOICE, log entry 56.) -/
opaque victim (n : Nat) : Nat

end Sys2Proof.Config
end

