-- ==== Sys2Proof/Syntax.lean ====
section
/-! DEFINITION. The syntax: one constructor for each row of spec/opcode_table.json. The first 199 are the
instruction words, each with the fields its row names (`g` is the lane guard; XW carries the word that follows it,
with which it is one instruction, 08 R144). The last 90 are the events of the part, which have no word; an
argument `n` is the place of an item in a list of the state, the others name a register, an agent or an outside input. -/

namespace Sys2Proof

/-- The instructions and events of the PLN-K4. -/
inductive Instr where
  /-- IADD (R300): Each active lane writes the wrapped or saturated 32-bit sum of S1 and S2 to D. -/
  | iadd (g : Guard) (d : BitVec 6) (a : BitVec 6) (b : BitVec 6) (h : BitVec 2)
  /-- IADDI (R300): Each active lane adds a sign-extended 8-bit immediate to S1 modulo 2^32. -/
  | iaddi (g : Guard) (d : BitVec 6) (a : BitVec 6) (i : BitVec 8)
  /-- ISUB (R300): Each active lane writes S1 minus S2, wrapped or saturated. -/
  | isub (g : Guard) (d : BitVec 6) (a : BitVec 6) (b : BitVec 6) (h : BitVec 2)
  /-- IADDS (R300): Each active lane writes the signed-clamped sum of S1 and S2. -/
  | iadds (g : Guard) (d : BitVec 6) (a : BitVec 6) (b : BitVec 6) (h : BitVec 2)
  /-- IMUL (R300): Each active lane writes the low 32 bits, or the saturated value, of S1 times S2. -/
  | imul (g : Guard) (d : BitVec 6) (a : BitVec 6) (b : BitVec 6) (h : BitVec 2)
  /-- IMULHS (R300): Each active lane writes the high 32 bits of the signed product. -/
  | imulhs (g : Guard) (d : BitVec 6) (a : BitVec 6) (b : BitVec 6) (h : BitVec 2)
  /-- IMULHU (R300): Each active lane writes the high 32 bits of the unsigned product. -/
  | imulhu (g : Guard) (d : BitVec 6) (a : BitVec 6) (b : BitVec 6) (h : BitVec 2)
  /-- IMAD (R300): Each active lane writes S1 times S2 plus S3, wrapped or saturated. -/
  | imad (g : Guard) (d : BitVec 6) (a : BitVec 6) (b : BitVec 6) (h : BitVec 2)
  /-- IMINS (R301): Each active lane writes the signed minimum of S1 and S2. -/
  | imins (g : Guard) (d : BitVec 6) (a : BitVec 6) (b : BitVec 6) (h : BitVec 2)
  /-- IMINU (R301): Each active lane writes the unsigned minimum of S1 and S2. -/
  | iminu (g : Guard) (d : BitVec 6) (a : BitVec 6) (b : BitVec 6) (h : BitVec 2)
  /-- IMAXS (R301): Each active lane writes the signed maximum of S1 and S2. -/
  | imaxs (g : Guard) (d : BitVec 6) (a : BitVec 6) (b : BitVec 6) (h : BitVec 2)
  /-- IMAXU (R301): Each active lane writes the unsigned maximum of S1 and S2. -/
  | imaxu (g : Guard) (d : BitVec 6) (a : BitVec 6) (b : BitVec 6) (h : BitVec 2)
  /-- AND (R302): Each active lane writes S1 AND S2. -/
  | and (g : Guard) (d : BitVec 6) (a : BitVec 6) (b : BitVec 6) (h : BitVec 2)
  /-- OR (R302): Each active lane writes S1 OR S2. -/
  | or (g : Guard) (d : BitVec 6) (a : BitVec 6) (b : BitVec 6) (h : BitVec 2)
  /-- XOR (R302): Each active lane writes S1 XOR S2. -/
  | xor (g : Guard) (d : BitVec 6) (a : BitVec 6) (b : BitVec 6) (h : BitVec 2)
  /-- ANDN (R302): Each active lane writes S1 AND NOT S2. -/
  | andn (g : Guard) (d : BitVec 6) (a : BitVec 6) (b : BitVec 6) (h : BitVec 2)
  /-- ANDI (R302): Each active lane ANDs S1 with a zero-extended 8-bit immediate. -/
  | andi (g : Guard) (d : BitVec 6) (a : BitVec 6) (i : BitVec 8)
  /-- ORI (R302): Each active lane ORs S1 with a zero-extended 8-bit immediate. -/
  | ori (g : Guard) (d : BitVec 6) (a : BitVec 6) (i : BitVec 8)
  /-- XORI (R302): Each active lane XORs S1 with a zero-extended 8-bit immediate. -/
  | xori (g : Guard) (d : BitVec 6) (a : BitVec 6) (i : BitVec 8)
  /-- SHL (R303): Each active lane shifts S1 left by S2[4:0]. -/
  | shl (g : Guard) (d : BitVec 6) (a : BitVec 6) (b : BitVec 6) (h : BitVec 2)
  /-- SHR (R303): Each active lane shifts S1 right logically by S2[4:0]. -/
  | shr (g : Guard) (d : BitVec 6) (a : BitVec 6) (b : BitVec 6) (h : BitVec 2)
  /-- SAR (R303): Each active lane shifts S1 right arithmetically by S2[4:0]. -/
  | sar (g : Guard) (d : BitVec 6) (a : BitVec 6) (b : BitVec 6) (h : BitVec 2)
  /-- SHLI (R303): Each active lane shifts S1 left by a 5-bit immediate. -/
  | shli (g : Guard) (d : BitVec 6) (a : BitVec 6) (i : BitVec 5)
  /-- SHRI (R303): Each active lane shifts S1 right logically by a 5-bit immediate. -/
  | shri (g : Guard) (d : BitVec 6) (a : BitVec 6) (i : BitVec 5)
  /-- SARI (R303): Each active lane shifts S1 right arithmetically by a 5-bit immediate. -/
  | sari (g : Guard) (d : BitVec 6) (a : BitVec 6) (i : BitVec 5)
  /-- BFX (R304): Each active lane extracts a bit field of S1 given by S2 into D. -/
  | bfx (g : Guard) (d : BitVec 6) (a : BitVec 6) (b : BitVec 6) (h : BitVec 2)
  /-- BFI (R304): Each active lane inserts the low bits of S1 into a bit field of D. -/
  | bfi (g : Guard) (d : BitVec 6) (a : BitVec 6) (b : BitVec 6) (h : BitVec 2)
  /-- POPC (R305): Each active lane writes the number of set bits of S1. -/
  | popc (g : Guard) (d : BitVec 6) (a : BitVec 6) (h : BitVec 1)
  /-- CLZ (R305): Each active lane writes the count of leading zeros of S1. -/
  | clz (g : Guard) (d : BitVec 6) (a : BitVec 6) (h : BitVec 1)
  /-- BREV (R305): Each active lane writes S1 with its bits reversed. -/
  | brev (g : Guard) (d : BitVec 6) (a : BitVec 6) (h : BitVec 1)
  /-- ICMPS (R306): Each active lane sets a predicate to a signed comparison of S1 and S2. -/
  | icmps (g : Guard) (q : BitVec 3) (c : BitVec 3) (a : BitVec 6) (b : BitVec 6) (h : BitVec 2)
  /-- ICMPU (R306): Each active lane sets a predicate to an unsigned comparison of S1 and S2. -/
  | icmpu (g : Guard) (q : BitVec 3) (c : BitVec 3) (a : BitVec 6) (b : BitVec 6) (h : BitVec 2)
  /-- ICMPSI (R306): Each active lane sets a predicate to a signed comparison of S1 with an immediate. -/
  | icmpsi (g : Guard) (q : BitVec 3) (c : BitVec 3) (a : BitVec 6) (i : BitVec 8)
  /-- SEL (R309): Each active lane selects S1 or S2 by one of P4–P7. -/
  | sel (g : Guard) (d : BitVec 6) (a : BitVec 6) (b : BitVec 6) (s : BitVec 2)
  /-- MOV (R310): Each active lane copies S1 to D. -/
  | mov (g : Guard) (d : BitVec 6) (a : BitVec 6) (h : BitVec 1)
  /-- MOVI (R310): Each active lane writes a sign-extended 14-bit immediate. -/
  | movi (g : Guard) (d : BitVec 6) (i : BitVec 14)
  /-- MOVHI (R310): Each active lane writes a 14-bit immediate into D[31:18], keeping D[17:0]. -/
  | movhi (g : Guard) (d : BitVec 6) (i : BitVec 14)
  /-- SRD (R311): Each active lane reads the low 32 bits of a special register. -/
  | srd (g : Guard) (d : BitVec 6) (i : BitVec 14)
  /-- PLOG (R307): Each active lane writes a predicate from a 4-bit truth table of two predicates. -/
  | plog (g : Guard) (q : BitVec 3) (x : BitVec 3) (y : BitVec 3) (t : BitVec 4)
  /-- PMOV.PACK (R308): Each active lane packs its predicates into a register. -/
  | pmovPack (g : Guard) (d : BitVec 6)
  /-- PMOV.UNPACK (R308): Each active lane sets P1–P7 from bits of a register. -/
  | pmovUnpack (g : Guard) (a : BitVec 6) (h : BitVec 1)
  /-- FADD.F32 (R318): Each active lane writes the rounded FP32 sum. -/
  | faddF32 (g : Guard) (d : BitVec 6) (a : BitVec 6) (b : BitVec 6) (h : BitVec 2)
  /-- FMUL.F32 (R318): Each active lane writes the rounded FP32 product. -/
  | fmulF32 (g : Guard) (d : BitVec 6) (a : BitVec 6) (b : BitVec 6) (h : BitVec 2)
  /-- FFMA.F32 (R318): Each active lane writes a·b + c rounded once to FP32. -/
  | ffmaF32 (g : Guard) (d : BitVec 6) (a : BitVec 6) (b : BitVec 6) (h : BitVec 2)
  /-- FMIN.F32 (R319): Each active lane writes the FP32 minimum of S1 and S2. -/
  | fminF32 (g : Guard) (d : BitVec 6) (a : BitVec 6) (b : BitVec 6) (h : BitVec 2)
  /-- FMAX.F32 (R319): Each active lane writes the FP32 maximum of S1 and S2. -/
  | fmaxF32 (g : Guard) (d : BitVec 6) (a : BitVec 6) (b : BitVec 6) (h : BitVec 2)
  /-- FCMP.F32 (R320): Each active lane sets a predicate from an FP32 comparison. -/
  | fcmpF32 (g : Guard) (q : BitVec 3) (c : BitVec 3) (a : BitVec 6) (b : BitVec 6) (h : BitVec 2)
  /-- FRCP.F32 (R321): Each active lane writes the correctly rounded reciprocal. -/
  | frcpF32 (g : Guard) (d : BitVec 6) (a : BitVec 6) (h : BitVec 1)
  /-- FRSQ.F32 (R321): Each active lane writes the correctly rounded reciprocal square root. -/
  | frsqF32 (g : Guard) (d : BitVec 6) (a : BitVec 6) (h : BitVec 1)
  /-- FEX2.F32 (R321): Each active lane writes the correctly rounded 2^x. -/
  | fex2F32 (g : Guard) (d : BitVec 6) (a : BitVec 6) (h : BitVec 1)
  /-- FLG2.F32 (R321): Each active lane writes the correctly rounded log2 x. -/
  | flg2F32 (g : Guard) (d : BitVec 6) (a : BitVec 6) (h : BitVec 1)
  /-- FADD.BF16X2 (R322): Each active lane adds two packed BF16 pairs elementwise. -/
  | faddBf16x2 (g : Guard) (d : BitVec 6) (a : BitVec 6) (b : BitVec 6) (h : BitVec 2)
  /-- FMUL.BF16X2 (R322): Each active lane multiplies two packed BF16 pairs elementwise. -/
  | fmulBf16x2 (g : Guard) (d : BitVec 6) (a : BitVec 6) (b : BitVec 6) (h : BitVec 2)
  /-- FFMA.BF16X2 (R322): Each active lane performs a packed BF16 fused multiply-add. -/
  | ffmaBf16x2 (g : Guard) (d : BitVec 6) (a : BitVec 6) (b : BitVec 6) (h : BitVec 2)
  /-- FADD.F16X2 (R322): Each active lane adds two packed FP16 pairs elementwise. -/
  | faddF16x2 (g : Guard) (d : BitVec 6) (a : BitVec 6) (b : BitVec 6) (h : BitVec 2)
  /-- FMUL.F16X2 (R322): Each active lane multiplies two packed FP16 pairs elementwise. -/
  | fmulF16x2 (g : Guard) (d : BitVec 6) (a : BitVec 6) (b : BitVec 6) (h : BitVec 2)
  /-- FFMA.F16X2 (R322): Each active lane performs a packed FP16 fused multiply-add. -/
  | ffmaF16x2 (g : Guard) (d : BitVec 6) (a : BitVec 6) (b : BitVec 6) (h : BitVec 2)
  /-- FADD.F64 (R323): Each active lane adds two FP64 register pairs. -/
  | faddF64 (g : Guard) (d : BitVec 6) (a : BitVec 6) (b : BitVec 6)
  /-- FMUL.F64 (R323): Each active lane multiplies two FP64 register pairs. -/
  | fmulF64 (g : Guard) (d : BitVec 6) (a : BitVec 6) (b : BitVec 6)
  /-- FFMA.F64 (R323): Each active lane performs an FP64 fused multiply-add on register pairs. -/
  | ffmaF64 (g : Guard) (d : BitVec 6) (a : BitVec 6) (b : BitVec 6)
  /-- TSUM.F32 (R324): Each active lane writes the rounded FP32 sum and its exact error. -/
  | tsumF32 (g : Guard) (d : BitVec 6) (a : BitVec 6) (b : BitVec 6) (h : BitVec 2)
  /-- CVT (R313): Each active lane converts S1 between the selected types. -/
  | cvt (g : Guard) (d : BitVec 6) (a : BitVec 6) (f : BitVec 4) (t : BitVec 4)
  /-- F2FX (R314): Each active lane converts a float to fixed point with binary point p. -/
  | f2fx (g : Guard) (d : BitVec 6) (a : BitVec 6) (q : BitVec 1) (x : BitVec 1) (k : BitVec 6)
  /-- FX2F (R314): Each active lane converts a fixed-point value to a float. -/
  | fx2f (g : Guard) (d : BitVec 6) (a : BitVec 6) (q : BitVec 1) (x : BitVec 1) (k : BitVec 6)
  /-- IDP4S (R315): Each active lane accumulates a signed byte dot product into D. -/
  | idp4s (g : Guard) (d : BitVec 6) (a : BitVec 6) (b : BitVec 6) (h : BitVec 2)
  /-- IDP4U (R315): Each active lane accumulates an unsigned byte dot product into D. -/
  | idp4u (g : Guard) (d : BitVec 6) (a : BitVec 6) (b : BitVec 6) (h : BitVec 2)
  /-- TDEC (R326): Each active lane decodes one or two tapered codes exactly to F32 or BF16. -/
  | tdec (g : Guard) (d : BitVec 6) (a : BitVec 6) (f : BitVec 1) (x : BitVec 1) (s : BitVec 2)
  /-- TENC (R326): Each active lane encodes one or two floats into tapered codes in D. -/
  | tenc (g : Guard) (d : BitVec 6) (a : BitVec 6) (f : BitVec 1) (x : BitVec 1) (s : BitVec 2)
  /-- TBLO (R327): Each active lane looks up low nibbles of S1 in its 16-byte table. -/
  | tblo (g : Guard) (d : BitVec 6) (a : BitVec 6) (b : BitVec 6) (h : BitVec 2)
  /-- TBHI (R327): Each active lane looks up high nibbles of S1 in its 16-byte table. -/
  | tbhi (g : Guard) (d : BitVec 6) (a : BitVec 6) (b : BitVec 6) (h : BitVec 2)
  /-- BSEL (R328): Each active lane selects bytes from S1 and old D by selector bytes. -/
  | bsel (g : Guard) (d : BitVec 6) (a : BitVec 6) (b : BitVec 6) (h : BitVec 2)
  /-- SHFL (R329): Each active lane reads S1 from the lane indexed by S2. -/
  | shfl (g : Guard) (d : BitVec 6) (a : BitVec 6) (b : BitVec 6) (h : BitVec 2)
  /-- SHFLI (R329): Each active lane reads S1 from the lane at an immediate delta. -/
  | shfli (g : Guard) (d : BitVec 6) (a : BitVec 6) (i : BitVec 8)
  /-- VOTE (R330): Every active lane receives a ballot, any, all or count of a predicate. -/
  | vote (g : Guard) (d : BitVec 6) (s : BitVec 3) (o : BitVec 8)
  /-- LRED (R332): Every active lane receives the fixed-tree reduction over the group's active lanes. -/
  | lred (g : Guard) (d : BitVec 6) (a : BitVec 6) (o : BitVec 4)
  /-- LSCAN (R332): Each active lane receives the inclusive or exclusive fixed-tree scan. -/
  | lscan (g : Guard) (d : BitVec 6) (a : BitVec 6) (e : BitVec 1) (o : BitVec 4)
  /-- LPREV (R333): Each active lane receives the previous lane's S1, lane 0 the carry from S2. -/
  | lprev (g : Guard) (d : BitVec 6) (a : BitVec 6) (b : BitVec 6) (h : BitVec 2)
  /-- RDI (R334): Each active lane reads its allocation register indexed by its own value. -/
  | rdi (g : Guard) (d : BitVec 6) (a : BitVec 6) (h : BitVec 1)
  /-- WRI (R334): Each active lane writes its allocation register indexed by its own value. -/
  | wri (g : Guard) (a : BitVec 6) (b : BitVec 6) (h : BitVec 2)
  /-- LDL (R338): Each active lane loads from the local store. -/
  | ldl (g : Guard) (d : BitVec 6) (a : BitVec 6) (w : BitVec 4) (s : BitVec 2)
  /-- LDLFE (R339): Each active lane waits for its granule to be full, then loads and optionally clears it. -/
  | ldlfe (g : Guard) (d : BitVec 6) (a : BitVec 6) (w : BitVec 4) (c : BitVec 1) (s : BitVec 2)
  /-- STL (R338): Each active lane stores to the local store. -/
  | stl (g : Guard) (d : BitVec 6) (a : BitVec 6) (w : BitVec 4) (s : BitVec 2)
  /-- STLFE (R339): Each active lane stores to the local store and sets its granule full. -/
  | stlfe (g : Guard) (d : BitVec 6) (a : BitVec 6) (w : BitVec 4) (s : BitVec 2)
  /-- ATOML (R340): Each active lane performs a local-store atomic on a 32-bit word. -/
  | atoml (g : Guard) (d : BitVec 6) (a : BitVec 6) (w : BitVec 4) (s : BitVec 2)
  /-- LDG (R341): Each active lane gathers from global memory after translation and token checks. -/
  | ldg (g : Guard) (d : BitVec 6) (a : BitVec 6) (w : BitVec 4) (o : BitVec 2) (s : BitVec 2)
  /-- LDGC (R342): Each active lane reads 4 bytes of a layout-converted tile image. -/
  | ldgc (g : Guard) (d : BitVec 6) (a : BitVec 6) (w : BitVec 4) (o : BitVec 2) (s : BitVec 2)
  /-- STG (R341): Each active lane scatters a store to global memory. -/
  | stg (g : Guard) (d : BitVec 6) (a : BitVec 6) (w : BitVec 4) (o : BitVec 2) (s : BitVec 2)
  /-- ATOMGA (R343): Each active lane performs a 32-bit ADD, MINS, MAXS or EXCH atomic at the home. -/
  | atomga (g : Guard) (d : BitVec 6) (a : BitVec 6) (w : BitVec 4) (o : BitVec 2) (s : BitVec 2)
  /-- ATOMGB (R343): Each active lane performs a 32-bit AND, OR, XOR or CAS atomic at the home. -/
  | atomgb (g : Guard) (d : BitVec 6) (a : BitVec 6) (w : BitVec 4) (o : BitVec 2) (s : BitVec 2)
  /-- ATOMG64 (R343): Each active lane performs a 64-bit ADD, EXCH, CAS or MAXU atomic at the home. -/
  | atomg64 (g : Guard) (d : BitVec 6) (a : BitVec 6) (w : BitVec 4) (o : BitVec 2) (s : BitVec 2)
  /-- REDG (R345): Each active lane applies a reduction at the home with no reply. -/
  | redg (g : Guard) (d : BitVec 6) (a : BitVec 6) (w : BitVec 4) (o : BitVec 2) (s : BitVec 2)
  /-- XFER (R71): Each active lane moves an exact amount from one field cell to another. -/
  | xfer (g : Guard) (d : BitVec 6) (a : BitVec 6) (b : BitVec 6) (m : BitVec 1)
  /-- FLD (R78): Each active lane reads a field cell of the current domain at its home. -/
  | fld (g : Guard) (d : BitVec 6) (a : BitVec 6) (h : BitVec 2)
  /-- COLL (R209): Each active lane puts or adds an element into a peer rank's collective window. -/
  | coll (g : Guard) (d : BitVec 6) (a : BitVec 6) (b : BitVec 6) (o : BitVec 2)
  /-- SYSC (R248): The active lanes of the strand trap into the supervisor with cause SYSC. -/
  | sysc (g : Guard) (i : BitVec 8)
  /-- XW (R143): The extension word issues with its follower as one block, saturating or rounding instruction. -/
  | xw (r : BitVec 3) (c : BitVec 3) (s : BitVec 1) (m : BitVec 3) (t : BitVec 6) (p : BitVec 2) (w : Word)
  /-- NOP (R350): Does nothing. -/
  | nop
  /-- UADD (R350): Writes the 64-bit wrapped sum of two W registers. -/
  | uadd (d : BitVec 5) (a : BitVec 5) (b : BitVec 5)
  /-- UADDI (R351): Adds a sign-extended 14-bit immediate to a W register. -/
  | uaddi (d : BitVec 5) (a : BitVec 5) (i : BitVec 14)
  /-- USUB (R350): Writes the 64-bit wrapped difference. -/
  | usub (d : BitVec 5) (a : BitVec 5) (b : BitVec 5)
  /-- UMUL (R350): Writes the 64-bit wrapped product. -/
  | umul (d : BitVec 5) (a : BitVec 5) (b : BitVec 5)
  /-- UAND (R350): Writes the AND of two W registers. -/
  | uand (d : BitVec 5) (a : BitVec 5) (b : BitVec 5)
  /-- UOR (R350): Writes the OR of two W registers. -/
  | uor (d : BitVec 5) (a : BitVec 5) (b : BitVec 5)
  /-- UXOR (R350): Writes the XOR of two W registers. -/
  | uxor (d : BitVec 5) (a : BitVec 5) (b : BitVec 5)
  /-- USHL (R350): Shifts a W register left by an immediate amount. -/
  | ushl (d : BitVec 5) (a : BitVec 5) (n : BitVec 6)
  /-- USHR (R350): Shifts a W register right logically by an immediate amount. -/
  | ushr (d : BitVec 5) (a : BitVec 5) (n : BitVec 6)
  /-- USAR (R350): Shifts a W register right arithmetically by an immediate amount. -/
  | usar (d : BitVec 5) (a : BitVec 5) (n : BitVec 6)
  /-- UMIN (R350): Writes the signed or unsigned minimum of two W registers. -/
  | umin (d : BitVec 5) (a : BitVec 5) (b : BitVec 5) (u : BitVec 1)
  /-- UMAX (R350): Writes the signed or unsigned maximum of two W registers. -/
  | umax (d : BitVec 5) (a : BitVec 5) (b : BitVec 5) (u : BitVec 1)
  /-- UMOVI (R351): Writes a sign-extended 14-bit immediate to a W register. -/
  | umovi (d : BitVec 5) (i : BitVec 14)
  /-- UMOVHI (R351): Writes a 14-bit immediate into a W register at an even position. -/
  | umovhi (d : BitVec 5) (p : BitVec 5) (i : BitVec 14)
  /-- UMOV (R350): Copies a W register. -/
  | umov (d : BitVec 5) (a : BitVec 5)
  /-- BR (R353): Each strand of the group branches when its predicate condition holds. -/
  | br (p : BitVec 3) (c : BitVec 2) (o : BitVec 19)
  /-- BRS (R354): Each strand pushes a mask of the lanes that run a block, or skips it. -/
  | brs (p : BitVec 3) (c : BitVec 1) (o : BitVec 19)
  /-- JOIN (R355): Pops the innermost mask block, or dispatches the next BRT case. -/
  | join
  /-- BRT (R358): Dispatches the strand's lanes one case at a time through a target table. -/
  | brt (i : BitVec 6) (t : BitVec 18)
  /-- CALL (R353): Each deciding strand pushes a return address and branches. -/
  | call (p : BitVec 3) (c : BitVec 2) (o : BitVec 19)
  /-- RET (R359): Returns from a CALL or ends a CALLT case. -/
  | ret
  /-- CALLT (R358): Calls one table routine per case of lane indices. -/
  | callt (i : BitVec 6) (t : BitVec 18)
  /-- UBR (R356): Branches when a 64-bit comparison of two W registers holds. -/
  | ubr (a : BitVec 5) (b : BitVec 5) (c : BitVec 3) (o : BitVec 11)
  /-- TWIST (R215): Waits until every live strand of the ply waits at a TWIST, then re-forms the parts. -/
  | twist
  /-- EXIT (R361): Ends the strand once its counters are zero, delivering pending faults. -/
  | exit
  /-- WAIT (R363): Blocks the group until each counter class is at or below its field, delivering faults. -/
  | wait (l : BitVec 4) (s : BitVec 4) (c : BitVec 4) (t : BitVec 3) (x : BitVec 3)
  /-- YIELD (R362): Lets other ready plies of equal or higher priority issue first. -/
  | yield
  /-- BAR (R364): Each strand arrives at a named barrier and waits for the generation to complete. -/
  | bar (n : BitVec 4) (c : BitVec 10)
  /-- BARA (R364): Each strand arrives at a named barrier without waiting. -/
  | bara (n : BitVec 4) (c : BitVec 10)
  /-- BARW (R364): Each strand waits for the barrier's current generation without arriving. -/
  | barw (n : BitVec 4)
  /-- SBAR (R225): Each strand arrives at a scope barrier over skeins of a quad, die, package or pod. -/
  | sbar (l : BitVec 3)
  /-- FENCE (R237): Orders the group's earlier and later accesses at a scope and kind. -/
  | fence (s : BitVec 3) (k : BitVec 2) (c : BitVec 1) (x : BitVec 1)
  /-- ULD (R346): Loads one 8-byte word into a W register for the group. -/
  | uld (d : BitVec 5) (a : BitVec 5) (i : BitVec 14)
  /-- UST (R346): Stores one 8-byte W register for the group. -/
  | ust (d : BitVec 5) (a : BitVec 5) (i : BitVec 14)
  /-- UOWN (R367): Hands write rights of named W registers to another ply. -/
  | uown (a : BitVec 5) (p : BitVec 4)
  /-- SRDU (R368): Reads a 64-bit special register into a W register. -/
  | srdu (d : BitVec 5) (i : BitVec 14)
  /-- SWR (R369): Writes a special register from a W register. -/
  | swr (a : BitVec 5) (i : BitVec 14)
  /-- SWR (R114): Requests a local-store banking mode change that takes effect once the banks drain. -/
  | swrLsmode (a : BitVec 5)
  /-- SWR (R292): Sets the partition power cap, clamped to the package budget. -/
  | swrPcap (a : BitVec 5)
  /-- RGROW (R124): Adds registers per lane to every strand of the skein, blocking until granted. -/
  | rgrow (a : BitVec 5)
  /-- RGTRY (R124): Tries to grow the allocation without blocking and writes the status. -/
  | rgtry (d : BitVec 5) (a : BitVec 5)
  /-- RSHRK (R124): Removes the top registers per lane from every strand of the skein. -/
  | rshrk (a : BitVec 5)
  /-- VWBS (R123): Sets the register window base of the group's strands. -/
  | vwbs (a : BitVec 5)
  /-- COPY (R93): Issues a bulk copy to the copy engine, counting in CP. -/
  | copy (d : BitVec 5) (a : BitVec 5) (b : BitVec 5) (r : BitVec 2) (e : BitVec 1) (c : BitVec 6)
  /-- COPY2D (R95): Issues a strided two-dimensional copy. -/
  | copy2d (d : BitVec 5) (a : BitVec 5) (b : BitVec 5) (r : BitVec 2) (e : BitVec 1) (c : BitVec 6)
  /-- COPYP (R95): Issues a copy to a peer package's fabric window. -/
  | copyp (d : BitVec 5) (a : BitVec 5) (b : BitVec 5) (r : BitVec 2) (e : BitVec 1) (c : BitVec 6)
  /-- TRIG (R106): Arms a trigger record from the local store into a free slot. -/
  | trig (d : BitVec 5) (a : BitVec 5)
  /-- TRIG.CANCEL (R106): Cancels the oldest unfired record armed from an address. -/
  | trigCancel (d : BitVec 5) (a : BitVec 5)
  /-- CNTR.ADD (R375): Adds to a core trigger counter as a release at CORE scope. -/
  | cntrAdd (a : BitVec 5) (c : BitVec 6)
  /-- CNTR.SET (R375): Sets a core trigger counter. -/
  | cntrSet (a : BitVec 5) (c : BitVec 6)
  /-- CNTR.READ (R375): Reads a core trigger counter as an acquire at CORE scope. -/
  | cntrRead (d : BitVec 5) (c : BitVec 6)
  /-- COLLH (R203): Binds or unbinds the launch's collective handle on this package. -/
  | collh (a : BitVec 5)
  /-- COLLH.ABORT (R205): Drains the group's COLLs and advances the entry's attempt number. -/
  | collhAbort (d : BitVec 5)
  /-- COLLH.TREE (R211): Reduces staged slots by the fixed tree into a destination, as a copy. -/
  | collhTree (d : BitVec 5) (a : BitVec 5) (b : BitVec 5) (c : BitVec 6) (e : BitVec 1)
  /-- LEND (R50): Lends a region exclusively to a holder after waiting and writing back. -/
  | lend (d : BitVec 5) (a : BitVec 5)
  /-- LEND.SHARE (R51): Adds a read share of a region for a holder. -/
  | lendShare (d : BitVec 5) (a : BitVec 5)
  /-- RETN (R52): Gives back a share or a lent region. -/
  | retn (d : BitVec 5)
  /-- RETN.RECALL (R52): Recalls a lent region or drops its shares after draining the holder's accesses. -/
  | retnRecall (d : BitVec 5)
  /-- RETN.RECLAIM (R52): Clears the lost flag of a region in H mode. -/
  | retnReclaim (d : BitVec 5)
  /-- SPLIT (R53): Splits a region into two halves with the same chain. -/
  | split (d : BitVec 5)
  /-- MEND (R53): Merges two equal buddy regions into their parent. -/
  | mend (d : BitVec 5)
  /-- TQRY (R54): Returns a region's state, holders or a sharer into a W pair. -/
  | tqry (d : BitVec 5) (a : BitVec 5) (f : BitVec 9)
  /-- FDOM (R65): Sets the current field domain of the group's strands. -/
  | fdom (a : BitVec 5)
  /-- FTOT (R68): Waits on XF, then reads a domain's totals at its total home in one step. -/
  | ftot (d : BitVec 5) (a : BitVec 5) (f : BitVec 2)
  /-- FDECL (R61): Declares a field domain, copying its descriptor to every listed package. -/
  | fdecl (d : BitVec 5) (a : BitVec 5)
  /-- FDECL.RETIRE (R348): Retires a declared domain once no transit records remain. -/
  | fdeclRetire (d : BitVec 5) (a : BitVec 5)
  /-- TCFG (R180): Sets a tile's element format and shape. -/
  | tcfg (t : BitVec 3) (f : BitVec 3) (r : BitVec 6) (c : BitVec 5)
  /-- TLD (R189): Queues a load of a tile from the local store. -/
  | tld (t : BitVec 3) (a : BitVec 5)
  /-- TST (R189): Queues a store of a tile to the local store. -/
  | tst (t : BitVec 3) (a : BitVec 5)
  /-- MACQ (R184): Waits for and takes an accumulator token for the ply. -/
  | macq (k : BitVec 3)
  /-- MREL (R184): Releases the ply's accumulator token once earlier requests complete. -/
  | mrel (k : BitVec 3)
  /-- MMA (R186): Queues one matrix multiply step into an accumulator. -/
  | mma (k : BitVec 3) (a : BitVec 3) (b : BitVec 3) (w : BitVec 5)
  /-- MLOOP (R188): Starts a double-buffered chain of matrix steps from a loop block. -/
  | mloop (k : BitVec 3) (a : BitVec 2) (b : BitVec 2) (w : BitVec 5)
  /-- AMOV (R190): Moves accumulator rows into lane registers. -/
  | amov (k : BitVec 3) (a : BitVec 5) (r : BitVec 3) (v : BitVec 6)
  /-- AQNT (R191): Requantizes an accumulator into tapered blocks and scales in the local store. -/
  | aqnt (k : BitVec 3) (a : BitVec 5) (b : BitVec 5) (c : BitVec 1) (t : BitVec 1) (l : BitVec 2) (f : BitVec 1)
  /-- ACLR (R191): Queues the clearing of an accumulator to +0. -/
  | aclr (k : BitVec 3)
  /-- PHASE (R273): Commits the strand's part of a deterministic phase. -/
  | phase
  /-- DGST.READ (R276): Reads the folded digest of the group's strands. -/
  | dgstRead (d : BitVec 5)
  /-- DGST.ON (R276): Enables digest folding in the group's strands. -/
  | dgstOn
  /-- DGST.OFF (R276): Disables digest folding. -/
  | dgstOff
  /-- DGST.CLR (R276): Clears the group's digests. -/
  | dgstClr
  /-- DGST.FOLD (R276): Reads a memory range and folds each word into the group's digests. -/
  | dgstFold (a : BitVec 5) (b : BitVec 5)
  /-- ORDR.OFF (R281): Disarms an order-log entry and writes back USED, DIV and FULL. -/
  | ordrOff (d : BitVec 5) (a : BitVec 5)
  /-- ORDR.REC (R282): Arms recording of the request order on a watched word. -/
  | ordrRec (d : BitVec 5) (a : BitVec 5)
  /-- ORDR.PLAY (R282): Arms the order gate that replays a logged order. -/
  | ordrPlay (d : BitVec 5) (a : BitVec 5)
  /-- TRET (R249): Returns from the current trap level, restoring the stacks. -/
  | tret
  /-- HCALL (R380): Enters H mode with HCAUSE HCALL. -/
  | hcall (n : BitVec 8)
  /-- HRET (R381): Returns from H mode to S mode, or kills the skein after NEST. -/
  | hret
  /-- LNCH (R218): Reads, checks and accepts or refuses a launch message. -/
  | lnch (d : BitVec 5) (a : BitVec 5) (b : BitVec 5)
  /-- SKSV (R383): Saves and holds a named skein. -/
  | sksv (d : BitVec 5) (a : BitVec 5) (b : BitVec 5)
  /-- SKRS (R384): Releases a saved skein for restore. -/
  | skrs (d : BitVec 5) (a : BitVec 5) (b : BitVec 5)
  /-- TLBI (R385): Invalidates the translations of an aligned range of one context. -/
  | tlbi (a : BitVec 5) (b : BitVec 5)
  /-- TLBI.CTX (R385): Invalidates every translation of one context. -/
  | tlbiCtx (b : BitVec 5)
  /-- TLBI.ALL (R385): Invalidates every translation of the partition. -/
  | tlbiAll
  /-- BRK (R386): Traps BRK in every strand of the group. -/
  | brk (n : BitVec 9)
  /-- HALT (R387): Raises the partition halt line. -/
  | halt
  /-- CFLU (R388): Writes back the skein's dirty L1 lines in a range. -/
  | cflu (a : BitVec 5)
  /-- CFLU.INV (R388): Writes back and invalidates L1 data lines of a range. -/
  | cfluInv (a : BitVec 5)
  /-- CFLU.I (R388): Invalidates instruction-cache lines of a range on every core of the partition. -/
  | cfluI (a : BitVec 5)
  /-- MSGS (R389): Pushes a message into a partition message queue. -/
  | msgs (d : BitVec 5) (a : BitVec 5) (b : BitVec 5) (q : BitVec 5)
  /-- MSGR (R390): Waits for and takes one message from the selected queues. -/
  | msgr (d : BitVec 5) (a : BitVec 5) (b : BitVec 5)
  /-- MSGR.TRY (R390): Takes one message if any selected queue holds one, without waiting. -/
  | msgrTry (d : BitVec 5) (a : BitVec 5) (b : BitVec 5)
  /-- TRIGGER_EVALUATION (R107): Once per cycle, after counter changes, records whose predicate holds fire their actions. -/
  | triggerEvaluation (core : Nat)
  /-- POISON_TRAP (R265): At the next instruction boundary a strand with newly dead lanes traps POISON. -/
  | poisonTrap (sid ply strand : Nat)
  /-- GATHER_PACKET_AT_HOME (R16): A home slice answers or performs the lanes it holds in a gather or scatter packet and forwards the rest. -/
  | gatherPacketAtHome (n : Nat)
  /-- GATHER_PACKET_AT_STACK (R16): A base die splits a packet by channel and bank, reads or writes, and replies, converting tiles for LDGC. -/
  | gatherPacketAtStack (n : Nat)
  /-- GATHER_REPLY (R14): The core merges one reply of a gather into the lanes it answers. -/
  | gatherReply (n : Nat)
  /-- LATE_REPLY (R257): The reply catcher writes a reply that arrives after a save. -/
  | lateReply (n : Nat)
  /-- ATOMIC_AT_HOME (R83): The home performs an atomic or reduction request as one read-modify-write in the word's serial order. -/
  | atomicAtHome (n : Nat)
  /-- ATOMIC_REPLY (R344): An atomic's old value reaches the core and is written to the lane registers. -/
  | atomicReply (n : Nat)
  /-- GRANT_REQUEST (R48): A grant-cache miss reaches the token entry's home, which grants, refuses or holds it. -/
  | grantRequest (n : Nat)
  /-- GRANT_INSTALL (R241): A core installs a grant and first invalidates its L1 lines in the region. -/
  | grantInstall (n : Nat)
  /-- GRANT_REVOKE (R48): A die receives a revocation of cached grants for a region and acknowledges. -/
  | grantRevoke (n : Nat)
  /-- TOKEN_STATE_CHANGE (R50): After its waits and write-back, a token instruction's state change is made at the home and held grants answered. -/
  | tokenStateChange (n : Nat)
  /-- XFER_DEBIT (R74): The debit home checks and debits a lane and records a transit record. -/
  | xferDebit (n : Nat)
  /-- XFER_CREDIT (R77): The credit home applies a transit credit in sequence, or refuses it. -/
  | xferCredit (n : Nat)
  /-- XFER_CREDIT_ACK (R74): The debit home receives a credit acknowledgement and deletes the record. -/
  | xferCreditAck (n : Nat)
  /-- XFER_CREDIT_REFUSAL (R74): The debit home refunds a refused credit and reports an asynchronous fault. -/
  | xferCreditRefusal (n : Nat)
  /-- MATRIX_REQUEST_POST (R183): A request whose tiles and scales are in the engine is posted to the reservation table. -/
  | matrixRequestPost (sid : Nat)
  /-- MATRIX_PASS_GRANT (R183): The arbiter grants a reservation entry a pipeline pass. -/
  | matrixPassGrant (quad : Nat)
  /-- MLOOP_STEP_RETIRE (R188): An MLOOP step retires into the accumulator and may advance its counter. -/
  | mloopStepRetire (sid : Nat)
  /-- MATRIX_REQUEST_COMPLETE (R182): A matrix request completes, lowering TL and freeing a released token. -/
  | matrixRequestComplete (sid : Nat)
  /-- SKEIN_SAVE (R256): A skein is stopped, drained and written to its save image. -/
  | skeinSave (sid : Nat)
  /-- PBOOT_WRITE (R294): A write of PBOOT.REC makes Ozona place the dispatcher launch. -/
  | pbootWrite (part : Nat) (w : DWord)
  /-- PREEMPT_DEADLINE (R260): At the deadline, or when none remains resident, the resident skeins are force-saved. -/
  | preemptDeadline (part : Nat)
  /-- COPY_CHUNK (R101): The copy engine checks and moves one chunk, pausing on PAGE or stopping on other faults. -/
  | copyChunk (n : Nat)
  /-- COPY_COMPLETE (R96): A copy's last destination byte is performed and its counter actions run. -/
  | copyComplete (n : Nat)
  /-- FABRIC_INGRESS_ACCESS (R197): Ingress checks and performs, refuses or deduplicates a fabric packet. -/
  | fabricIngressAccess (pkt : FabPkt)
  /-- COLL_PACKET_ACK (R210): A COLL packet's acknowledgement or drop notice reaches the sending core, which lowers CP once every packet is acknowledged and records COLLABORT for a drop. -/
  | collPacketAck (tag package : Nat) (ans : CollAnswer)
  /-- HOME_MOVE_RELEASE (R89): Once old requests drain, the old home writes back its lines and releases the new home. -/
  | homeMoveRelease (frame : Nat)
  /-- LSMODE_TAKES_EFFECT (R114): A pending banking-mode write takes effect once the banks drain. -/
  | lsmodeTakesEffect (core : Nat)
  /-- RGROW_GRANT (R125): Freed registers grant blocked RGROW requests by priority and age. -/
  | rgrowGrant (core : Nat)
  /-- RGROW_DEADLOCK_BREAK (R125): When every resident skein is blocked in RGROW, the lowest-priority skein is saved. -/
  | rgrowDeadlockBreak (core : Nat)
  /-- PHASE_ALL_COMMITTED (R273): Once every skein commits a phase the launch digest is folded and the next phase lent. -/
  | phaseAllCommitted (launch : Nat)
  /-- SKEIN_PLACEMENT (R221): The launch scheduler places or restores a ready skein on a core that fits. -/
  | skeinPlacement (part : Nat)
  /-- MIGRATION_MOVE_DONE (R23): A frame move ends, its status word is written and HEAD advances. -/
  | migrationMoveDone (die : Nat)
  /-- MIGRATION_DESCRIPTOR_TAKE (R24): The migration engine takes the descriptor at HEAD, moving or skipping it. -/
  | migrationDescriptorTake (die : Nat)
  /-- PLY_SWAP (R223): A blocked or stalled active ply is swapped for a ready pending ply. -/
  | plySwap (core : Nat)
  /-- COPY_RESEND_ON_RETRY (R28): A sending copy engine that receives a retry refusal for an access held at a moving frame resends it and adds 1 to RETRYCNT. -/
  | copyResendOnRetry (tag : Nat)
  /-- FABRIC_REFUSAL (R102): A sender receives a refusal from remote ingress and stops the copy. -/
  | fabricRefusal (tag cause addr : Nat)
  /-- COLL_PACKET_INGRESS (R206): Ingress performs, drops or refuses a COLL packet by its attempt number. -/
  | collPacketIngress (pkt : CollPkt)
  /-- DOMAIN_DESCRIPTOR_COPY (R61): A listed package receives a domain descriptor copy or release and acknowledges. -/
  | domainDescriptorCopy (msg : DomainMsg)
  /-- CORE_FAILURE (R56): A failed core's regions are marked lost and its skeins killed. -/
  | coreFailure (core : Nat)
  /-- PLACEMENT_WAIT_TIMEOUT (R221): A head skein waiting 100 µs blocks other placements in the partition. -/
  | placementWaitTimeout (part : Nat)
  /-- HOST_WINDOW_ACCESS (R284): A host access through the load/store window is checked and performed or refused. -/
  | hostWindowAccess (part off : Nat) (acc : HostAcc)
  /-- FIELD_RECORD_RESEND (R77): After link recovery the debit home resends every unacknowledged record. -/
  | fieldRecordResend (package : Nat)
  /-- COLL_RETRY_RESEND (R206): A sender resends a COLL packet refused with a retry status. -/
  | collRetryResend (tag package : Nat)
  /-- ROUTER_COMBINE (R86): Two combinable requests meeting in a router queue merge into one. -/
  | routerCombine (n m : Nat)
  /-- ATM_EPOCH_END (R88): At each epoch end the home halves its counters and may start a home move. -/
  | atmEpochEnd
  /-- LDLFE_GRANULE_FILLED (R118): A waiting LDLFE completes once its granules are full. -/
  | ldlfeGranuleFilled (sid ply part : Nat)
  /-- PLY_ANTI_STARVATION (R223): A pending ply ready for 3,968 cycles takes an active slot. -/
  | plyAntiStarvation (core : Nat)
  /-- POWER_INTERVAL (R226): Every 10 µs the package computes partition power and sets the issue permit. -/
  | powerInterval (watts : List (Nat × Nat))
  /-- SKEIN_RESTORE (R256): A saved skein's image is reloaded onto a core that fits. -/
  | skeinRestore (sid : Nat)
  /-- REPLY_LOST_TIMEOUT (R258): A reply not arrived 2 ms after the save is declared lost. -/
  | replyLostTimeout (n : Nat)
  /-- SAVE_STOP_TIMEOUT (R261): A skein that does not stop within 100 µs fails its save. -/
  | saveStopTimeout (sid : Nat)
  /-- PRECTL_REQ (R260): A write of REQ starts a pre-emption drain of a context. -/
  | prectlReq (part : Nat) (w : DWord)
  /-- PRECTL_RESUME (R260): A write of RESUME lets held contexts be placed again. -/
  | prectlResume (part : Nat) (w : DWord)
  /-- SLICE_EXPIRY (R262): A context that has run its slice while another waits is pre-empted. -/
  | sliceExpiry (part : Nat)
  /-- DBGCTL_HALT (R263): Setting HALT saves every resident skein of the launch and holds it. -/
  | dbgctlHalt (part : Nat) (w : DWord)
  /-- DBGCTL_RELEASE (R263): Clearing HALT releases the halted launch. -/
  | dbgctlRelease (part : Nat) (w : DWord)
  /-- HALT_STOP_TIMEOUT (R267): Ozona writes an unclean stop record for agents not stopped in 256 cycles. -/
  | haltStopTimeout (part agent : Nat)
  /-- ORDER_GATE_TIMEOUT (R282): A gate whose requests waited 1 ms sets DIV, opens and posts an event. -/
  | orderGateTimeout (n : Nat)
  /-- SHADOW_LATCH_REPEAT (R283): A stage whose shadow latch disagrees repeats the cycle at half clock. -/
  | shadowLatchRepeat (die : Nat)
  /-- MIGBASE_WRITE (R24): A write of MIGBASE or MIGSIZE takes effect after the current move and resets HEAD and TAIL. -/
  | migbaseWrite (die off : Nat) (w : DWord)
  /-- MIGTAIL_WRITE (R24): A write of TAIL posts descriptors to the migration ring. -/
  | migtailWrite (die : Nat) (w : DWord)
  /-- CHRET_WRITE (R29): Setting a CHRET bit retires a channel from new allocation. -/
  | chretWrite (die word : Nat) (w : DWord)
  /-- FRMOVE_WRITE (R27): A write marks a frame as moving at its home, or names its new frame and releases held accesses. -/
  | frmoveWrite (die : Nat) (w : DWord)
  /-- MOVING_HOLD_TIMEOUT (R28): An access held at a moving frame for 20 µs is refused with a retry status. -/
  | movingHoldTimeout (n : Nat)
  /-- RETRYCNT_READ (R29): Reading RETRYCNT returns and clears the resend count. -/
  | retrycntRead (die : Nat)
  /-- ATMCTL_WRITE (R90): A write sets the epoch, threshold and home-move enable. -/
  | atmctlWrite (w : DWord)
  /-- ATMCNT_READ (R90): Reading ATMCNT returns and clears the count of home moves. -/
  | atmcntRead
  /-- HOMEBASE_WRITE (R91): A write names the home table and enables or disables its use. -/
  | homebaseWrite (w : DWord)
  /-- TOKBASE_WRITE (R91): A write names a partition's token-table area, ignored unless the partition is idle. -/
  | tokbaseWrite (part : Nat) (w : DWord)
  /-- COLLDROP_READ (R198): Reading COLLDROP returns and clears the count of dropped COLL packets. -/
  | colldropRead (part : Nat)
  /-- EVLOST_READ (R285): Reading EVLOST returns and clears the count of dropped events. -/
  | evlostRead (part : Nat)
  /-- REPLAYS_READ (R293): Reading REPLAYS returns and clears the die's half-clock repeat count. -/
  | replaysRead (die : Nat)
  /-- MQPUSH_WORD0 (R286): A host write of WORD0 latches the first word of a message. -/
  | mqpushWord0 (part q : Nat) (w : DWord)
  /-- MQPUSH_WORD1 (R286): A host write of WORD1 appends the latched message to the queue or discards it. -/
  | mqpushWord1 (part q : Nat) (w : DWord)
  /-- PRST_RESET (R295): A write of RESET halts, kills, zeroes and rekeys the partition. -/
  | prstReset (part : Nat) (w : DWord)
  /-- PARTITION_RESET_DONE (R295): The partition reset finishes and BUSY clears. -/
  | partitionResetDone (part : Nat)
  /-- EVCTL_WRITE (R287): A write sets coalescing and ring size, starting or stopping the ring. -/
  | evctlWrite (part : Nat) (w : DWord)
  /-- EVHEAD_WRITE (R287): A write of HEAD frees ring slots for held events. -/
  | evheadWrite (part : Nat) (w : DWord)
  /-- EVENT_INTERRUPT_TIMER (R288): An interrupt is sent when TIMEUS has passed since the oldest uncovered event. -/
  | eventInterruptTimer (part : Nat)
  /-- CHANNEL_EVENT (R287): A channel crosses its corrected-error threshold or fails and Ozona posts an event. -/
  | channelEvent (stack channel : Nat) (failed : Bool)
  /-- KEY_RELEASE (R31): The verifier releases the keys and memory opens to cores and engines. -/
  | keyRelease
  /-- SPDM_MEASUREMENT_REQUEST (R30): The host obtains signed measurement blocks over SPDM. -/
  | spdmMeasurementRequest (block : Nat)
  /-- POWER_ON (R294): Ozona ROM verifies the firmware, which trains memory and sets partitions. -/
  | powerOn (cfg : BringUp)
  /-- PORT_DOWN_TIMEOUT (R195): A port down for more than 1 ms is removed from routing. -/
  | portDownTimeout (port : Nat)
  /-- PACKAGE_LOST (R195): A package silent for 100 ms is declared lost with token and field effects. -/
  | packageLost (package : Nat)
  /-- FLIT_CRC_REPLAY (R195): A flit failing its CRC is replayed from the sender's link buffer. -/
  | flitCrcReplay (port : Nat)
  /-- REGISTER_WRITE (R7): A write to a register with no row of its own updates its writable fields. -/
  | registerWrite (reg : RegAddr) (w : DWord)
  /-- POWER_LOSS (R294): The package loses power and keeps no state until the next bring-up. -/
  | powerLoss
  deriving DecidableEq, Repr

end Sys2Proof
end

