-- ==== Sys2Proof/WellFormed.lean ====
section
/-! DEFINITION. Which instructions are well formed: the field values, register pairs and operand rules that the
entries define (08 R138 to R154 and the reference chapters). A word that breaks one traps ILLEGAL (08 R136 step 4). -/

namespace Sys2Proof

/-- A lane register that may name a pair: an even one (07 R119). -/
def evenReg (r : BitVec 6) : Bool := r.toNat % 2 == 0

/-- A uniform register that may name a pair. -/
def evenReg5 (r : BitVec 5) : Bool := r.toNat % 2 == 0

/-- The register rule of a load or store of width code `s` (20 R335). -/
def sizeReg (d : BitVec 6) (s : BitVec 2) : Bool :=
  if s == 1 then evenReg d else if s == 2 then d.toNat % 4 == 0 else true

/-- The special registers that the machine has (07 R129). -/
def srListed (i : Nat) : Bool :=
  decide (i ≤ 0x018) || (decide (0x100 ≤ i) && decide (i ≤ 0x10D)) || i == 0x110 || i == 0x111 ||
  (decide (0x200 ≤ i) && decide (i ≤ 0x205))

/-- The special registers that SWR may write (07 R129, access RW). -/
def srWritable (i : Nat) : Bool :=
  i == 0x018 || i == 0x100 || i == 0x102 || i == 0x104 || (decide (0x106 ≤ i) && decide (i ≤ 0x10D)) ||
  i == 0x110 || i == 0x201 || i == 0x202 || i == 0x203 || i == 0x205

/-- The operand rules of CVT: type codes 0 to 11, even pairs for F64 (18 R312). -/
def cvtWf (d a : BitVec 6) (f t : BitVec 4) : Bool :=
  decide (f.toNat < 12) && decide (t.toNat < 12) && (f != 11 || evenReg a) && (t != 11 || evenReg d)

/-- Bytes of one row of `cols` columns in a tile format (10 R180); format 7 has none. -/
def tileRowBytes (f cols : Nat) : Nat :=
  match f with
  | 0 => 6 * cols / 8
  | 1 => cols
  | 2 => 2 * cols
  | 3 => 2 * cols
  | 4 => cols
  | 5 => cols
  | 6 => 4 * cols
  | _ => 4096

/-- How an opcode accepts the extension word: block, SAT, RND, S3 (08 R142); `none` where it does not. -/
def xwAccept (op : Nat) : Option (Bool × Bool × Bool × Bool) :=
  if op = 0x00 ∨ op = 0x02 ∨ op = 0x04 then some (true, true, false, false)
  else if op = 0x07 then some (true, true, false, true)
  else if op = 0x03 ∨ op = 0x05 ∨ op = 0x06 ∨ (0x08 ≤ op ∧ op ≤ 0x0F) ∨ (0x13 ≤ op ∧ op ≤ 0x15) ∨
      (0x19 ≤ op ∧ op ≤ 0x1D) ∨ op = 0x21 ∨ op = 0x22 ∨ op = 0x3F ∨ op = 0x40 then
    some (true, false, false, false)
  else if op = 0x28 ∨ op = 0x29 ∨ op = 0x32 ∨ op = 0x33 ∨ op = 0x35 ∨ op = 0x36 then
    some (true, true, true, false)
  else if op = 0x2A ∨ op = 0x34 ∨ op = 0x37 then some (true, true, true, true)
  else if op = 0x2B ∨ op = 0x2C ∨ (0x2E ≤ op ∧ op ≤ 0x31) then some (true, false, false, false)
  else if op = 0x38 ∨ op = 0x39 then some (false, true, true, false)
  else if op = 0x3A then some (false, true, true, true)
  else if op = 0x3C ∨ op = 0x3D ∨ op = 0x3E then some (false, false, true, false)
  else none

/-- The opcode byte of a word: set selector and opcode (08 R135). -/
def opByte (w : Word) : Nat := (w.extractLsb' 24 8).toNat

/-- The field rules of a follower of XW, read from its bits (the entries of 18 and 19): a one-source opcode has
S2 and H[1] zero, an F64 opcode has even registers and H zero, conversions as their entries say. -/
def followerWf (w : Word) (t : BitVec 6) (m : BitVec 3) : Bool :=
  let op := opByte w
  let d := w.extractLsb' 14 6
  let a := w.extractLsb' 8 6
  let b := w.extractLsb' 2 6
  if (0x1B ≤ op ∧ op ≤ 0x1D) ∨ op = 0x22 ∨ (0x2E ≤ op ∧ op ≤ 0x31) then w.extractLsb' 1 7 == 0
  else if op = 0x38 ∨ op = 0x39 then evenReg d && evenReg a && evenReg b && w.extractLsb' 0 2 == 0
  else if op = 0x3A then evenReg d && evenReg a && evenReg b && evenReg t && w.extractLsb' 0 2 == 0
  else if op = 0x3C then
    cvtWf d a (w.extractLsb' 4 4) (w.extractLsb' 0 4) &&
      (m == 0 || (w.extractLsb' 0 4 != 5 && w.extractLsb' 0 4 != 6))
  else if op = 0x3D then
    (w.extractLsb' 7 1 == 0 || evenReg d) && (w.extractLsb' 6 1 == 0 || evenReg a)
  else if op = 0x3E then
    (w.extractLsb' 7 1 == 0 || evenReg a) && (w.extractLsb' 6 1 == 0 || evenReg d)
  else true

/-- The rules of an XW and its follower: the follower accepts it, a refused field is at its default, RND and PITCH
are defined, and the follower's own fields are (08 R140, R142). -/
def xwWf (r c : BitVec 3) (s : BitVec 1) (m : BitVec 3) (t : BitVec 6) (p : BitVec 2) (w : Word) : Bool :=
  match xwAccept (opByte w) with
  | none => false
  | some (blk, sat, rnd, s3) =>
    decide (m.toNat < 5) && p != 3 && (blk || (r == 0 && c == 0)) && (sat || s == 0) && (rnd || m == 0) &&
      (s3 || t == 0) && followerWf w t m

/-- Whether an instruction's fields have values that its entry defines; for an event, whether its arguments name
agents and registers of a package. -/
def Instr.wf : Instr → Bool
  | .iadd _ _ _ _ _ => true
  | .iaddi _ _ _ _ => true
  | .isub _ _ _ _ _ => true
  | .iadds _ _ _ _ _ => true
  | .imul _ _ _ _ _ => true
  | .imulhs _ _ _ _ _ => true
  | .imulhu _ _ _ _ _ => true
  | .imad _ _ _ _ _ => true
  | .imins _ _ _ _ _ => true
  | .iminu _ _ _ _ _ => true
  | .imaxs _ _ _ _ _ => true
  | .imaxu _ _ _ _ _ => true
  | .and _ _ _ _ _ => true
  | .or _ _ _ _ _ => true
  | .xor _ _ _ _ _ => true
  | .andn _ _ _ _ _ => true
  | .andi _ _ _ _ => true
  | .ori _ _ _ _ => true
  | .xori _ _ _ _ => true
  | .shl _ _ _ _ _ => true
  | .shr _ _ _ _ _ => true
  | .sar _ _ _ _ _ => true
  | .shli _ _ _ _ => true
  | .shri _ _ _ _ => true
  | .sari _ _ _ _ => true
  | .bfx _ _ _ _ _ => true
  | .bfi _ _ _ _ _ => true
  | .popc _ _ _ _ => true
  | .clz _ _ _ _ => true
  | .brev _ _ _ _ => true
  | .icmps _ _ c _ _ _ => decide (c.toNat < 6)
  | .icmpu _ _ c _ _ _ => decide (c.toNat < 6)
  | .icmpsi _ _ c _ _ => decide (c.toNat < 6)
  | .sel _ _ _ _ _ => true
  | .mov _ _ _ _ => true
  | .movi _ _ _ => true
  | .movhi _ _ _ => true
  | .srd _ _ i => srListed i.toNat
  | .plog _ _ _ _ _ => true
  | .pmovPack _ _ => true
  | .pmovUnpack _ _ _ => true
  | .faddF32 _ _ _ _ _ => true
  | .fmulF32 _ _ _ _ _ => true
  | .ffmaF32 _ _ _ _ _ => true
  | .fminF32 _ _ _ _ _ => true
  | .fmaxF32 _ _ _ _ _ => true
  | .fcmpF32 _ _ _ _ _ _ => true
  | .frcpF32 _ _ _ _ => true
  | .frsqF32 _ _ _ _ => true
  | .fex2F32 _ _ _ _ => true
  | .flg2F32 _ _ _ _ => true
  | .faddBf16x2 _ _ _ _ _ => true
  | .fmulBf16x2 _ _ _ _ _ => true
  | .ffmaBf16x2 _ _ _ _ _ => true
  | .faddF16x2 _ _ _ _ _ => true
  | .fmulF16x2 _ _ _ _ _ => true
  | .ffmaF16x2 _ _ _ _ _ => true
  | .faddF64 _ d a b => evenReg d && evenReg a && evenReg b
  | .fmulF64 _ d a b => evenReg d && evenReg a && evenReg b
  | .ffmaF64 _ d a b => evenReg d && evenReg a && evenReg b
  | .tsumF32 _ d _ _ _ => evenReg d
  | .cvt _ d a f t => cvtWf d a f t
  | .f2fx _ d a q x _ => (q == 0 || evenReg d) && (x == 0 || evenReg a)
  | .fx2f _ d a q x _ => (q == 0 || evenReg a) && (x == 0 || evenReg d)
  | .idp4s _ _ _ _ _ => true
  | .idp4u _ _ _ _ _ => true
  | .tdec _ _ _ _ x s => x == 0 || s.toNat % 2 == 0
  | .tenc _ _ _ _ x s => x == 0 || s.toNat % 2 == 0
  | .tblo _ _ _ _ _ => true
  | .tbhi _ _ _ _ _ => true
  | .bsel _ _ _ _ _ => true
  | .shfl _ _ _ _ _ => true
  | .shfli _ _ _ _ => true
  | .vote _ _ _ o => decide (o.toNat < 4)
  | .lred _ _ _ o => decide (o.toNat < 11)
  | .lscan _ _ _ _ o => decide (o.toNat < 11)
  | .lprev _ _ _ _ _ => true
  | .rdi _ _ _ _ => true
  | .wri _ _ _ _ => true
  | .ldl _ d _ _ s => sizeReg d s
  | .ldlfe _ d _ _ _ s => sizeReg d s
  | .stl _ d _ _ s => sizeReg d s
  | .stlfe _ d _ _ s => sizeReg d s
  | .atoml _ d _ _ s => s != 3 || evenReg d
  | .ldg _ d _ _ _ s => sizeReg d s
  | .ldgc _ _ _ _ _ s => s != 0
  | .stg _ d _ _ _ s => sizeReg d s
  | .atomga _ _ _ _ _ _ => true
  | .atomgb _ d _ _ _ s => s != 3 || evenReg d
  | .atomg64 _ d _ _ _ s => if s == 2 then d.toNat % 4 == 0 else evenReg d
  | .redg _ _ _ _ _ _ => true
  | .xfer _ _ _ _ _ => true
  | .fld _ _ _ h => decide (h.toNat < 2)
  | .coll _ _ _ _ _ => true
  | .sysc _ _ => true
  | .xw r c s m t p w => xwWf r c s m t p w
  | .nop => true
  | .uadd _ _ _ => true
  | .uaddi _ _ _ => true
  | .usub _ _ _ => true
  | .umul _ _ _ => true
  | .uand _ _ _ => true
  | .uor _ _ _ => true
  | .uxor _ _ _ => true
  | .ushl _ _ _ => true
  | .ushr _ _ _ => true
  | .usar _ _ _ => true
  | .umin _ _ _ _ => true
  | .umax _ _ _ _ => true
  | .umovi _ _ => true
  | .umovhi _ p _ => decide (p.toNat ≤ 25)
  | .umov _ _ => true
  | .br p c _ => c != 0 || p == 0
  | .brs _ _ _ => true
  | .join => true
  | .brt _ _ => true
  | .call p c _ => c != 0 || p == 0
  | .ret => true
  | .callt _ _ => true
  | .ubr _ _ c _ => decide (c.toNat < 6)
  | .twist => true
  | .exit => true
  | .wait _ _ _ _ _ => true
  | .yield => true
  | .bar _ _ => true
  | .bara _ _ => true
  | .barw _ => true
  | .sbar l => decide (1 ≤ l.toNat) && decide (l.toNat ≤ 4)
  | .fence s k _ _ => decide (s.toNat < 6) && k != 0
  | .uld _ _ _ => true
  | .ust _ _ _ => true
  | .uown _ _ => true
  | .srdu _ i => srListed i.toNat
  | .swr _ i => srWritable i.toNat && i.toNat != 0x110 && i.toNat != 0x203
  | .swrLsmode _ => true
  | .swrPcap _ => true
  | .rgrow _ => true
  | .rgtry _ _ => true
  | .rshrk _ => true
  | .vwbs _ => true
  | .copy _ _ _ _ _ _ => true
  | .copy2d _ _ b _ _ _ => evenReg5 b && b != 30
  | .copyp _ _ _ _ _ _ => true
  | .trig _ _ => true
  | .trigCancel _ _ => true
  | .cntrAdd _ _ => true
  | .cntrSet _ _ => true
  | .cntrRead _ _ => true
  | .collh _ => true
  | .collhAbort _ => true
  | .collhTree _ _ _ _ _ => true
  | .lend _ _ => true
  | .lendShare _ _ => true
  | .retn _ => true
  | .retnRecall _ => true
  | .retnReclaim _ => true
  | .split _ => true
  | .mend _ => true
  | .tqry d _ f => evenReg5 d && d != 0 && (decide (f.toNat < 2) || (decide (8 ≤ f.toNat) && decide (f.toNat < 16)))
  | .fdom _ => true
  | .ftot d _ _ => evenReg5 d && d != 0
  | .fdecl _ _ => true
  | .fdeclRetire _ _ => true
  | .tcfg _ f r c => f != 7 && decide ((r.toNat + 1) * tileRowBytes f.toNat (8 * (c.toNat + 1)) ≤ 4096)
  | .tld _ _ => true
  | .tst _ _ => true
  | .macq _ => true
  | .mrel _ => true
  | .mma _ _ _ _ => true
  | .mloop _ a b _ => a != b
  | .amov _ _ _ _ => true
  | .aqnt _ _ _ _ _ l _ => l != 3
  | .aclr _ => true
  | .phase => true
  | .dgstRead _ => true
  | .dgstOn => true
  | .dgstOff => true
  | .dgstClr => true
  | .dgstFold _ _ => true
  | .ordrOff _ _ => true
  | .ordrRec _ _ => true
  | .ordrPlay _ _ => true
  | .tret => true
  | .hcall _ => true
  | .hret => true
  | .lnch _ _ _ => true
  | .sksv _ _ _ => true
  | .skrs _ _ _ => true
  | .tlbi _ _ => true
  | .tlbiCtx _ => true
  | .tlbiAll => true
  | .brk _ => true
  | .halt => true
  | .cflu _ => true
  | .cfluInv _ => true
  | .cfluI _ => true
  | .msgs _ _ _ _ => true
  | .msgr _ _ _ => true
  | .msgrTry _ _ _ => true
  | .gatherPacketAtHome _ => true
  | .gatherPacketAtStack _ => true
  | .gatherReply _ => true
  | .atomicAtHome _ => true
  | .atomicReply _ => true
  | .routerCombine _ _ => true
  | .atmEpochEnd => true
  | .homeMoveRelease _ => true
  | .grantRequest _ => true
  | .grantInstall _ => true
  | .grantRevoke _ => true
  | .tokenStateChange _ => true
  | .coreFailure core => decide (core < 192)
  | .xferDebit _ => true
  | .xferCredit _ => true
  | .xferCreditAck _ => true
  | .xferCreditRefusal _ => true
  | .fieldRecordResend package => decide (package < 2097152)
  | .domainDescriptorCopy _ => true
  | .copyChunk _ => true
  | .copyComplete _ => true
  | .fabricIngressAccess _ => true
  | .fabricRefusal _ _ _ => true
  | .triggerEvaluation core => decide (core < 192)
  | .lsmodeTakesEffect core => decide (core < 192)
  | .ldlfeGranuleFilled _ _ part => decide (part < 8)
  | .rgrowGrant core => decide (core < 192)
  | .rgrowDeadlockBreak core => decide (core < 192)
  | .matrixRequestPost _ => true
  | .matrixPassGrant quad => decide (quad < 48)
  | .mloopStepRetire _ => true
  | .matrixRequestComplete _ => true
  | .collPacketIngress _ => true
  | .collRetryResend _ package => decide (package < 2097152)
  | .skeinPlacement part => decide (part < 8)
  | .placementWaitTimeout part => decide (part < 8)
  | .plySwap core => decide (core < 192)
  | .plyAntiStarvation core => decide (core < 192)
  | .powerInterval _ => true
  | .skeinSave _ => true
  | .skeinRestore _ => true
  | .lateReply _ => true
  | .replyLostTimeout _ => true
  | .saveStopTimeout _ => true
  | .poisonTrap _ _ _ => true
  | .prectlReq part _ => decide (part < 8)
  | .prectlResume part _ => decide (part < 8)
  | .preemptDeadline part => decide (part < 8)
  | .sliceExpiry part => decide (part < 8)
  | .dbgctlHalt part _ => decide (part < 8)
  | .dbgctlRelease part _ => decide (part < 8)
  | .haltStopTimeout part agent => decide (part < 8) && decide (agent < 242)
  | .phaseAllCommitted _ => true
  | .orderGateTimeout _ => true
  | .shadowLatchRepeat die => decide (die < 4)
  | .migbaseWrite die off _ => decide (die < 2) && (off == 0 || off == 8)
  | .migtailWrite die _ => decide (die < 2)
  | .migrationDescriptorTake die => decide (die < 2)
  | .migrationMoveDone die => decide (die < 2)
  | .chretWrite die word _ => decide (die < 2) && decide (word < 2)
  | .frmoveWrite die _ => decide (die < 2)
  | .movingHoldTimeout _ => true
  | .retrycntRead die => decide (die < 2)
  | .atmctlWrite _ => true
  | .atmcntRead => true
  | .homebaseWrite _ => true
  | .tokbaseWrite part _ => decide (part < 8)
  | .colldropRead part => decide (part < 8)
  | .evlostRead part => decide (part < 8)
  | .replaysRead die => decide (die < 4)
  | .mqpushWord0 part q _ => decide (part < 8) && decide (q < 32)
  | .mqpushWord1 part q _ => decide (part < 8) && decide (q < 32)
  | .prstReset part _ => decide (part < 8)
  | .partitionResetDone part => decide (part < 8)
  | .pbootWrite part _ => decide (part < 8)
  | .evctlWrite part _ => decide (part < 8)
  | .evheadWrite part _ => decide (part < 8)
  | .eventInterruptTimer part => decide (part < 8)
  | .hostWindowAccess part _ _ => decide (part < 8)
  | .channelEvent stack channel _ => decide (stack < 8) && decide (channel < 32)
  | .keyRelease => true
  | .spdmMeasurementRequest block => decide (1 ≤ block) && decide (block ≤ 4)
  | .powerOn _ => true
  | .portDownTimeout port => decide (port < 16)
  | .packageLost package => decide (package < 2097152)
  | .flitCrcReplay port => decide (port < 16)
  | .registerWrite _ _ => true
  | .copyResendOnRetry _ => true
  | .collPacketAck _ package _ => decide (package < 2097152)
  | .powerLoss => true

end Sys2Proof
end

