-- ==== Sys2Proof/Decode.lean ====
section
/-! DEFINITION. The decoder, total on any bytes and refusing by name, and the encoder, both from the encoding tables
of the spec (08 R135 to R154, the entries of 18 to 22 and spec/opcode_table.json). -/

namespace Sys2Proof

/-- Why bytes are no instruction: too few bytes, an unassigned opcode, an XW whose follower does not accept it (08
R136 step 2), or a field value that no entry defines (step 4). The words are those of EADDR (14 R247). -/
inductive DecodeError where
  | truncated
  | unassigned (w : Word)
  | refusedFollower (w f : Word)
  | badField (w f : Word)
  deriving DecidableEq, Repr

/-- The fields of IADD from its word. -/
def rowIadd (w : Word) : Option Instr :=
  some (.iadd ⟨w.extractLsb' 21 3, w.extractLsb' 20 1⟩ (w.extractLsb' 14 6) (w.extractLsb' 8 6) (w.extractLsb' 2 6) (w.extractLsb' 0 2))

/-- The fields of IADDI from its word. -/
def rowIaddi (w : Word) : Option Instr :=
  some (.iaddi ⟨w.extractLsb' 21 3, w.extractLsb' 20 1⟩ (w.extractLsb' 14 6) (w.extractLsb' 8 6) (w.extractLsb' 0 8))

/-- The fields of ISUB from its word. -/
def rowIsub (w : Word) : Option Instr :=
  some (.isub ⟨w.extractLsb' 21 3, w.extractLsb' 20 1⟩ (w.extractLsb' 14 6) (w.extractLsb' 8 6) (w.extractLsb' 2 6) (w.extractLsb' 0 2))

/-- The fields of IADDS from its word. -/
def rowIadds (w : Word) : Option Instr :=
  some (.iadds ⟨w.extractLsb' 21 3, w.extractLsb' 20 1⟩ (w.extractLsb' 14 6) (w.extractLsb' 8 6) (w.extractLsb' 2 6) (w.extractLsb' 0 2))

/-- The fields of IMUL from its word. -/
def rowImul (w : Word) : Option Instr :=
  some (.imul ⟨w.extractLsb' 21 3, w.extractLsb' 20 1⟩ (w.extractLsb' 14 6) (w.extractLsb' 8 6) (w.extractLsb' 2 6) (w.extractLsb' 0 2))

/-- The fields of IMULHS from its word. -/
def rowImulhs (w : Word) : Option Instr :=
  some (.imulhs ⟨w.extractLsb' 21 3, w.extractLsb' 20 1⟩ (w.extractLsb' 14 6) (w.extractLsb' 8 6) (w.extractLsb' 2 6) (w.extractLsb' 0 2))

/-- The fields of IMULHU from its word. -/
def rowImulhu (w : Word) : Option Instr :=
  some (.imulhu ⟨w.extractLsb' 21 3, w.extractLsb' 20 1⟩ (w.extractLsb' 14 6) (w.extractLsb' 8 6) (w.extractLsb' 2 6) (w.extractLsb' 0 2))

/-- The fields of IMAD from its word. -/
def rowImad (w : Word) : Option Instr :=
  some (.imad ⟨w.extractLsb' 21 3, w.extractLsb' 20 1⟩ (w.extractLsb' 14 6) (w.extractLsb' 8 6) (w.extractLsb' 2 6) (w.extractLsb' 0 2))

/-- The fields of IMINS from its word. -/
def rowImins (w : Word) : Option Instr :=
  some (.imins ⟨w.extractLsb' 21 3, w.extractLsb' 20 1⟩ (w.extractLsb' 14 6) (w.extractLsb' 8 6) (w.extractLsb' 2 6) (w.extractLsb' 0 2))

/-- The fields of IMINU from its word. -/
def rowIminu (w : Word) : Option Instr :=
  some (.iminu ⟨w.extractLsb' 21 3, w.extractLsb' 20 1⟩ (w.extractLsb' 14 6) (w.extractLsb' 8 6) (w.extractLsb' 2 6) (w.extractLsb' 0 2))

/-- The fields of IMAXS from its word. -/
def rowImaxs (w : Word) : Option Instr :=
  some (.imaxs ⟨w.extractLsb' 21 3, w.extractLsb' 20 1⟩ (w.extractLsb' 14 6) (w.extractLsb' 8 6) (w.extractLsb' 2 6) (w.extractLsb' 0 2))

/-- The fields of IMAXU from its word. -/
def rowImaxu (w : Word) : Option Instr :=
  some (.imaxu ⟨w.extractLsb' 21 3, w.extractLsb' 20 1⟩ (w.extractLsb' 14 6) (w.extractLsb' 8 6) (w.extractLsb' 2 6) (w.extractLsb' 0 2))

/-- The fields of AND from its word. -/
def rowAnd (w : Word) : Option Instr :=
  some (.and ⟨w.extractLsb' 21 3, w.extractLsb' 20 1⟩ (w.extractLsb' 14 6) (w.extractLsb' 8 6) (w.extractLsb' 2 6) (w.extractLsb' 0 2))

/-- The fields of OR from its word. -/
def rowOr (w : Word) : Option Instr :=
  some (.or ⟨w.extractLsb' 21 3, w.extractLsb' 20 1⟩ (w.extractLsb' 14 6) (w.extractLsb' 8 6) (w.extractLsb' 2 6) (w.extractLsb' 0 2))

/-- The fields of XOR from its word. -/
def rowXor (w : Word) : Option Instr :=
  some (.xor ⟨w.extractLsb' 21 3, w.extractLsb' 20 1⟩ (w.extractLsb' 14 6) (w.extractLsb' 8 6) (w.extractLsb' 2 6) (w.extractLsb' 0 2))

/-- The fields of ANDN from its word. -/
def rowAndn (w : Word) : Option Instr :=
  some (.andn ⟨w.extractLsb' 21 3, w.extractLsb' 20 1⟩ (w.extractLsb' 14 6) (w.extractLsb' 8 6) (w.extractLsb' 2 6) (w.extractLsb' 0 2))

/-- The fields of ANDI from its word. -/
def rowAndi (w : Word) : Option Instr :=
  some (.andi ⟨w.extractLsb' 21 3, w.extractLsb' 20 1⟩ (w.extractLsb' 14 6) (w.extractLsb' 8 6) (w.extractLsb' 0 8))

/-- The fields of ORI from its word. -/
def rowOri (w : Word) : Option Instr :=
  some (.ori ⟨w.extractLsb' 21 3, w.extractLsb' 20 1⟩ (w.extractLsb' 14 6) (w.extractLsb' 8 6) (w.extractLsb' 0 8))

/-- The fields of XORI from its word. -/
def rowXori (w : Word) : Option Instr :=
  some (.xori ⟨w.extractLsb' 21 3, w.extractLsb' 20 1⟩ (w.extractLsb' 14 6) (w.extractLsb' 8 6) (w.extractLsb' 0 8))

/-- The fields of SHL from its word. -/
def rowShl (w : Word) : Option Instr :=
  some (.shl ⟨w.extractLsb' 21 3, w.extractLsb' 20 1⟩ (w.extractLsb' 14 6) (w.extractLsb' 8 6) (w.extractLsb' 2 6) (w.extractLsb' 0 2))

/-- The fields of SHR from its word. -/
def rowShr (w : Word) : Option Instr :=
  some (.shr ⟨w.extractLsb' 21 3, w.extractLsb' 20 1⟩ (w.extractLsb' 14 6) (w.extractLsb' 8 6) (w.extractLsb' 2 6) (w.extractLsb' 0 2))

/-- The fields of SAR from its word. -/
def rowSar (w : Word) : Option Instr :=
  some (.sar ⟨w.extractLsb' 21 3, w.extractLsb' 20 1⟩ (w.extractLsb' 14 6) (w.extractLsb' 8 6) (w.extractLsb' 2 6) (w.extractLsb' 0 2))

/-- The fields of SHLI from its word. -/
def rowShli (w : Word) : Option Instr :=
  if w.extractLsb' 5 3 = 0 then
    some (.shli ⟨w.extractLsb' 21 3, w.extractLsb' 20 1⟩ (w.extractLsb' 14 6) (w.extractLsb' 8 6) (w.extractLsb' 0 5))
  else none

/-- The fields of SHRI from its word. -/
def rowShri (w : Word) : Option Instr :=
  if w.extractLsb' 5 3 = 0 then
    some (.shri ⟨w.extractLsb' 21 3, w.extractLsb' 20 1⟩ (w.extractLsb' 14 6) (w.extractLsb' 8 6) (w.extractLsb' 0 5))
  else none

/-- The fields of SARI from its word. -/
def rowSari (w : Word) : Option Instr :=
  if w.extractLsb' 5 3 = 0 then
    some (.sari ⟨w.extractLsb' 21 3, w.extractLsb' 20 1⟩ (w.extractLsb' 14 6) (w.extractLsb' 8 6) (w.extractLsb' 0 5))
  else none

/-- The fields of BFX from its word. -/
def rowBfx (w : Word) : Option Instr :=
  some (.bfx ⟨w.extractLsb' 21 3, w.extractLsb' 20 1⟩ (w.extractLsb' 14 6) (w.extractLsb' 8 6) (w.extractLsb' 2 6) (w.extractLsb' 0 2))

/-- The fields of BFI from its word. -/
def rowBfi (w : Word) : Option Instr :=
  some (.bfi ⟨w.extractLsb' 21 3, w.extractLsb' 20 1⟩ (w.extractLsb' 14 6) (w.extractLsb' 8 6) (w.extractLsb' 2 6) (w.extractLsb' 0 2))

/-- The fields of POPC from its word. -/
def rowPopc (w : Word) : Option Instr :=
  if w.extractLsb' 1 7 = 0 then
    some (.popc ⟨w.extractLsb' 21 3, w.extractLsb' 20 1⟩ (w.extractLsb' 14 6) (w.extractLsb' 8 6) (w.extractLsb' 0 1))
  else none

/-- The fields of CLZ from its word. -/
def rowClz (w : Word) : Option Instr :=
  if w.extractLsb' 1 7 = 0 then
    some (.clz ⟨w.extractLsb' 21 3, w.extractLsb' 20 1⟩ (w.extractLsb' 14 6) (w.extractLsb' 8 6) (w.extractLsb' 0 1))
  else none

/-- The fields of BREV from its word. -/
def rowBrev (w : Word) : Option Instr :=
  if w.extractLsb' 1 7 = 0 then
    some (.brev ⟨w.extractLsb' 21 3, w.extractLsb' 20 1⟩ (w.extractLsb' 14 6) (w.extractLsb' 8 6) (w.extractLsb' 0 1))
  else none

/-- The fields of ICMPS from its word. -/
def rowIcmps (w : Word) : Option Instr :=
  some (.icmps ⟨w.extractLsb' 21 3, w.extractLsb' 20 1⟩ (w.extractLsb' 17 3) (w.extractLsb' 14 3) (w.extractLsb' 8 6) (w.extractLsb' 2 6) (w.extractLsb' 0 2))

/-- The fields of ICMPU from its word. -/
def rowIcmpu (w : Word) : Option Instr :=
  some (.icmpu ⟨w.extractLsb' 21 3, w.extractLsb' 20 1⟩ (w.extractLsb' 17 3) (w.extractLsb' 14 3) (w.extractLsb' 8 6) (w.extractLsb' 2 6) (w.extractLsb' 0 2))

/-- The fields of ICMPSI from its word. -/
def rowIcmpsi (w : Word) : Option Instr :=
  some (.icmpsi ⟨w.extractLsb' 21 3, w.extractLsb' 20 1⟩ (w.extractLsb' 17 3) (w.extractLsb' 14 3) (w.extractLsb' 8 6) (w.extractLsb' 0 8))

/-- The fields of SEL from its word. -/
def rowSel (w : Word) : Option Instr :=
  some (.sel ⟨w.extractLsb' 21 3, w.extractLsb' 20 1⟩ (w.extractLsb' 14 6) (w.extractLsb' 8 6) (w.extractLsb' 2 6) (w.extractLsb' 0 2))

/-- The fields of MOV from its word. -/
def rowMov (w : Word) : Option Instr :=
  if w.extractLsb' 1 7 = 0 then
    some (.mov ⟨w.extractLsb' 21 3, w.extractLsb' 20 1⟩ (w.extractLsb' 14 6) (w.extractLsb' 8 6) (w.extractLsb' 0 1))
  else none

/-- The fields of MOVI from its word. -/
def rowMovi (w : Word) : Option Instr :=
  some (.movi ⟨w.extractLsb' 21 3, w.extractLsb' 20 1⟩ (w.extractLsb' 14 6) (w.extractLsb' 0 14))

/-- The fields of MOVHI from its word. -/
def rowMovhi (w : Word) : Option Instr :=
  some (.movhi ⟨w.extractLsb' 21 3, w.extractLsb' 20 1⟩ (w.extractLsb' 14 6) (w.extractLsb' 0 14))

/-- The fields of SRD from its word. -/
def rowSrd (w : Word) : Option Instr :=
  some (.srd ⟨w.extractLsb' 21 3, w.extractLsb' 20 1⟩ (w.extractLsb' 14 6) (w.extractLsb' 0 14))

/-- The fields of PLOG from its word. -/
def rowPlog (w : Word) : Option Instr :=
  if w.extractLsb' 0 7 = 0 then
    some (.plog ⟨w.extractLsb' 21 3, w.extractLsb' 20 1⟩ (w.extractLsb' 17 3) (w.extractLsb' 14 3) (w.extractLsb' 11 3) (w.extractLsb' 7 4))
  else none

/-- The fields of PMOV.PACK from its word. -/
def rowPmovPack (w : Word) : Option Instr :=
  if w.extractLsb' 0 14 = 0 then
    some (.pmovPack ⟨w.extractLsb' 21 3, w.extractLsb' 20 1⟩ (w.extractLsb' 14 6))
  else none

/-- The fields of PMOV.UNPACK from its word. -/
def rowPmovUnpack (w : Word) : Option Instr :=
  if w.extractLsb' 14 6 = 0 ∧ w.extractLsb' 1 7 = 2 then
    some (.pmovUnpack ⟨w.extractLsb' 21 3, w.extractLsb' 20 1⟩ (w.extractLsb' 8 6) (w.extractLsb' 0 1))
  else none

/-- The fields of FADD.F32 from its word. -/
def rowFaddF32 (w : Word) : Option Instr :=
  some (.faddF32 ⟨w.extractLsb' 21 3, w.extractLsb' 20 1⟩ (w.extractLsb' 14 6) (w.extractLsb' 8 6) (w.extractLsb' 2 6) (w.extractLsb' 0 2))

/-- The fields of FMUL.F32 from its word. -/
def rowFmulF32 (w : Word) : Option Instr :=
  some (.fmulF32 ⟨w.extractLsb' 21 3, w.extractLsb' 20 1⟩ (w.extractLsb' 14 6) (w.extractLsb' 8 6) (w.extractLsb' 2 6) (w.extractLsb' 0 2))

/-- The fields of FFMA.F32 from its word. -/
def rowFfmaF32 (w : Word) : Option Instr :=
  some (.ffmaF32 ⟨w.extractLsb' 21 3, w.extractLsb' 20 1⟩ (w.extractLsb' 14 6) (w.extractLsb' 8 6) (w.extractLsb' 2 6) (w.extractLsb' 0 2))

/-- The fields of FMIN.F32 from its word. -/
def rowFminF32 (w : Word) : Option Instr :=
  some (.fminF32 ⟨w.extractLsb' 21 3, w.extractLsb' 20 1⟩ (w.extractLsb' 14 6) (w.extractLsb' 8 6) (w.extractLsb' 2 6) (w.extractLsb' 0 2))

/-- The fields of FMAX.F32 from its word. -/
def rowFmaxF32 (w : Word) : Option Instr :=
  some (.fmaxF32 ⟨w.extractLsb' 21 3, w.extractLsb' 20 1⟩ (w.extractLsb' 14 6) (w.extractLsb' 8 6) (w.extractLsb' 2 6) (w.extractLsb' 0 2))

/-- The fields of FCMP.F32 from its word. -/
def rowFcmpF32 (w : Word) : Option Instr :=
  some (.fcmpF32 ⟨w.extractLsb' 21 3, w.extractLsb' 20 1⟩ (w.extractLsb' 17 3) (w.extractLsb' 14 3) (w.extractLsb' 8 6) (w.extractLsb' 2 6) (w.extractLsb' 0 2))

/-- The fields of FRCP.F32 from its word. -/
def rowFrcpF32 (w : Word) : Option Instr :=
  if w.extractLsb' 1 7 = 0 then
    some (.frcpF32 ⟨w.extractLsb' 21 3, w.extractLsb' 20 1⟩ (w.extractLsb' 14 6) (w.extractLsb' 8 6) (w.extractLsb' 0 1))
  else none

/-- The fields of FRSQ.F32 from its word. -/
def rowFrsqF32 (w : Word) : Option Instr :=
  if w.extractLsb' 1 7 = 0 then
    some (.frsqF32 ⟨w.extractLsb' 21 3, w.extractLsb' 20 1⟩ (w.extractLsb' 14 6) (w.extractLsb' 8 6) (w.extractLsb' 0 1))
  else none

/-- The fields of FEX2.F32 from its word. -/
def rowFex2F32 (w : Word) : Option Instr :=
  if w.extractLsb' 1 7 = 0 then
    some (.fex2F32 ⟨w.extractLsb' 21 3, w.extractLsb' 20 1⟩ (w.extractLsb' 14 6) (w.extractLsb' 8 6) (w.extractLsb' 0 1))
  else none

/-- The fields of FLG2.F32 from its word. -/
def rowFlg2F32 (w : Word) : Option Instr :=
  if w.extractLsb' 1 7 = 0 then
    some (.flg2F32 ⟨w.extractLsb' 21 3, w.extractLsb' 20 1⟩ (w.extractLsb' 14 6) (w.extractLsb' 8 6) (w.extractLsb' 0 1))
  else none

/-- The fields of FADD.BF16X2 from its word. -/
def rowFaddBf16x2 (w : Word) : Option Instr :=
  some (.faddBf16x2 ⟨w.extractLsb' 21 3, w.extractLsb' 20 1⟩ (w.extractLsb' 14 6) (w.extractLsb' 8 6) (w.extractLsb' 2 6) (w.extractLsb' 0 2))

/-- The fields of FMUL.BF16X2 from its word. -/
def rowFmulBf16x2 (w : Word) : Option Instr :=
  some (.fmulBf16x2 ⟨w.extractLsb' 21 3, w.extractLsb' 20 1⟩ (w.extractLsb' 14 6) (w.extractLsb' 8 6) (w.extractLsb' 2 6) (w.extractLsb' 0 2))

/-- The fields of FFMA.BF16X2 from its word. -/
def rowFfmaBf16x2 (w : Word) : Option Instr :=
  some (.ffmaBf16x2 ⟨w.extractLsb' 21 3, w.extractLsb' 20 1⟩ (w.extractLsb' 14 6) (w.extractLsb' 8 6) (w.extractLsb' 2 6) (w.extractLsb' 0 2))

/-- The fields of FADD.F16X2 from its word. -/
def rowFaddF16x2 (w : Word) : Option Instr :=
  some (.faddF16x2 ⟨w.extractLsb' 21 3, w.extractLsb' 20 1⟩ (w.extractLsb' 14 6) (w.extractLsb' 8 6) (w.extractLsb' 2 6) (w.extractLsb' 0 2))

/-- The fields of FMUL.F16X2 from its word. -/
def rowFmulF16x2 (w : Word) : Option Instr :=
  some (.fmulF16x2 ⟨w.extractLsb' 21 3, w.extractLsb' 20 1⟩ (w.extractLsb' 14 6) (w.extractLsb' 8 6) (w.extractLsb' 2 6) (w.extractLsb' 0 2))

/-- The fields of FFMA.F16X2 from its word. -/
def rowFfmaF16x2 (w : Word) : Option Instr :=
  some (.ffmaF16x2 ⟨w.extractLsb' 21 3, w.extractLsb' 20 1⟩ (w.extractLsb' 14 6) (w.extractLsb' 8 6) (w.extractLsb' 2 6) (w.extractLsb' 0 2))

/-- The fields of FADD.F64 from its word. -/
def rowFaddF64 (w : Word) : Option Instr :=
  if w.extractLsb' 0 2 = 0 then
    some (.faddF64 ⟨w.extractLsb' 21 3, w.extractLsb' 20 1⟩ (w.extractLsb' 14 6) (w.extractLsb' 8 6) (w.extractLsb' 2 6))
  else none

/-- The fields of FMUL.F64 from its word. -/
def rowFmulF64 (w : Word) : Option Instr :=
  if w.extractLsb' 0 2 = 0 then
    some (.fmulF64 ⟨w.extractLsb' 21 3, w.extractLsb' 20 1⟩ (w.extractLsb' 14 6) (w.extractLsb' 8 6) (w.extractLsb' 2 6))
  else none

/-- The fields of FFMA.F64 from its word. -/
def rowFfmaF64 (w : Word) : Option Instr :=
  if w.extractLsb' 0 2 = 0 then
    some (.ffmaF64 ⟨w.extractLsb' 21 3, w.extractLsb' 20 1⟩ (w.extractLsb' 14 6) (w.extractLsb' 8 6) (w.extractLsb' 2 6))
  else none

/-- The fields of TSUM.F32 from its word. -/
def rowTsumF32 (w : Word) : Option Instr :=
  some (.tsumF32 ⟨w.extractLsb' 21 3, w.extractLsb' 20 1⟩ (w.extractLsb' 14 6) (w.extractLsb' 8 6) (w.extractLsb' 2 6) (w.extractLsb' 0 2))

/-- The fields of CVT from its word. -/
def rowCvt (w : Word) : Option Instr :=
  some (.cvt ⟨w.extractLsb' 21 3, w.extractLsb' 20 1⟩ (w.extractLsb' 14 6) (w.extractLsb' 8 6) (w.extractLsb' 4 4) (w.extractLsb' 0 4))

/-- The fields of F2FX from its word. -/
def rowF2fx (w : Word) : Option Instr :=
  some (.f2fx ⟨w.extractLsb' 21 3, w.extractLsb' 20 1⟩ (w.extractLsb' 14 6) (w.extractLsb' 8 6) (w.extractLsb' 7 1) (w.extractLsb' 6 1) (w.extractLsb' 0 6))

/-- The fields of FX2F from its word. -/
def rowFx2f (w : Word) : Option Instr :=
  some (.fx2f ⟨w.extractLsb' 21 3, w.extractLsb' 20 1⟩ (w.extractLsb' 14 6) (w.extractLsb' 8 6) (w.extractLsb' 7 1) (w.extractLsb' 6 1) (w.extractLsb' 0 6))

/-- The fields of IDP4S from its word. -/
def rowIdp4s (w : Word) : Option Instr :=
  some (.idp4s ⟨w.extractLsb' 21 3, w.extractLsb' 20 1⟩ (w.extractLsb' 14 6) (w.extractLsb' 8 6) (w.extractLsb' 2 6) (w.extractLsb' 0 2))

/-- The fields of IDP4U from its word. -/
def rowIdp4u (w : Word) : Option Instr :=
  some (.idp4u ⟨w.extractLsb' 21 3, w.extractLsb' 20 1⟩ (w.extractLsb' 14 6) (w.extractLsb' 8 6) (w.extractLsb' 2 6) (w.extractLsb' 0 2))

/-- The fields of TDEC from its word. -/
def rowTdec (w : Word) : Option Instr :=
  if w.extractLsb' 2 4 = 0 then
    some (.tdec ⟨w.extractLsb' 21 3, w.extractLsb' 20 1⟩ (w.extractLsb' 14 6) (w.extractLsb' 8 6) (w.extractLsb' 7 1) (w.extractLsb' 6 1) (w.extractLsb' 0 2))
  else none

/-- The fields of TENC from its word. -/
def rowTenc (w : Word) : Option Instr :=
  if w.extractLsb' 2 4 = 0 then
    some (.tenc ⟨w.extractLsb' 21 3, w.extractLsb' 20 1⟩ (w.extractLsb' 14 6) (w.extractLsb' 8 6) (w.extractLsb' 7 1) (w.extractLsb' 6 1) (w.extractLsb' 0 2))
  else none

/-- The fields of TBLO from its word. -/
def rowTblo (w : Word) : Option Instr :=
  some (.tblo ⟨w.extractLsb' 21 3, w.extractLsb' 20 1⟩ (w.extractLsb' 14 6) (w.extractLsb' 8 6) (w.extractLsb' 2 6) (w.extractLsb' 0 2))

/-- The fields of TBHI from its word. -/
def rowTbhi (w : Word) : Option Instr :=
  some (.tbhi ⟨w.extractLsb' 21 3, w.extractLsb' 20 1⟩ (w.extractLsb' 14 6) (w.extractLsb' 8 6) (w.extractLsb' 2 6) (w.extractLsb' 0 2))

/-- The fields of BSEL from its word. -/
def rowBsel (w : Word) : Option Instr :=
  some (.bsel ⟨w.extractLsb' 21 3, w.extractLsb' 20 1⟩ (w.extractLsb' 14 6) (w.extractLsb' 8 6) (w.extractLsb' 2 6) (w.extractLsb' 0 2))

/-- The fields of SHFL from its word. -/
def rowShfl (w : Word) : Option Instr :=
  some (.shfl ⟨w.extractLsb' 21 3, w.extractLsb' 20 1⟩ (w.extractLsb' 14 6) (w.extractLsb' 8 6) (w.extractLsb' 2 6) (w.extractLsb' 0 2))

/-- The fields of SHFLI from its word. -/
def rowShfli (w : Word) : Option Instr :=
  some (.shfli ⟨w.extractLsb' 21 3, w.extractLsb' 20 1⟩ (w.extractLsb' 14 6) (w.extractLsb' 8 6) (w.extractLsb' 0 8))

/-- The fields of VOTE from its word. -/
def rowVote (w : Word) : Option Instr :=
  if w.extractLsb' 11 3 = 0 then
    some (.vote ⟨w.extractLsb' 21 3, w.extractLsb' 20 1⟩ (w.extractLsb' 14 6) (w.extractLsb' 8 3) (w.extractLsb' 0 8))
  else none

/-- The fields of LRED from its word. -/
def rowLred (w : Word) : Option Instr :=
  if w.extractLsb' 4 4 = 0 then
    some (.lred ⟨w.extractLsb' 21 3, w.extractLsb' 20 1⟩ (w.extractLsb' 14 6) (w.extractLsb' 8 6) (w.extractLsb' 0 4))
  else none

/-- The fields of LSCAN from its word. -/
def rowLscan (w : Word) : Option Instr :=
  if w.extractLsb' 5 3 = 0 then
    some (.lscan ⟨w.extractLsb' 21 3, w.extractLsb' 20 1⟩ (w.extractLsb' 14 6) (w.extractLsb' 8 6) (w.extractLsb' 4 1) (w.extractLsb' 0 4))
  else none

/-- The fields of LPREV from its word. -/
def rowLprev (w : Word) : Option Instr :=
  some (.lprev ⟨w.extractLsb' 21 3, w.extractLsb' 20 1⟩ (w.extractLsb' 14 6) (w.extractLsb' 8 6) (w.extractLsb' 2 6) (w.extractLsb' 0 2))

/-- The fields of RDI from its word. -/
def rowRdi (w : Word) : Option Instr :=
  if w.extractLsb' 1 7 = 0 then
    some (.rdi ⟨w.extractLsb' 21 3, w.extractLsb' 20 1⟩ (w.extractLsb' 14 6) (w.extractLsb' 8 6) (w.extractLsb' 0 1))
  else none

/-- The fields of WRI from its word. -/
def rowWri (w : Word) : Option Instr :=
  if w.extractLsb' 14 6 = 0 then
    some (.wri ⟨w.extractLsb' 21 3, w.extractLsb' 20 1⟩ (w.extractLsb' 8 6) (w.extractLsb' 2 6) (w.extractLsb' 0 2))
  else none

/-- The fields of LDL from its word. -/
def rowLdl (w : Word) : Option Instr :=
  if w.extractLsb' 2 2 = 0 then
    some (.ldl ⟨w.extractLsb' 21 3, w.extractLsb' 20 1⟩ (w.extractLsb' 14 6) (w.extractLsb' 8 6) (w.extractLsb' 4 4) (w.extractLsb' 0 2))
  else none

/-- The fields of LDLFE from its word. -/
def rowLdlfe (w : Word) : Option Instr :=
  if w.extractLsb' 3 1 = 0 then
    some (.ldlfe ⟨w.extractLsb' 21 3, w.extractLsb' 20 1⟩ (w.extractLsb' 14 6) (w.extractLsb' 8 6) (w.extractLsb' 4 4) (w.extractLsb' 2 1) (w.extractLsb' 0 2))
  else none

/-- The fields of STL from its word. -/
def rowStl (w : Word) : Option Instr :=
  if w.extractLsb' 2 2 = 0 then
    some (.stl ⟨w.extractLsb' 21 3, w.extractLsb' 20 1⟩ (w.extractLsb' 14 6) (w.extractLsb' 8 6) (w.extractLsb' 4 4) (w.extractLsb' 0 2))
  else none

/-- The fields of STLFE from its word. -/
def rowStlfe (w : Word) : Option Instr :=
  if w.extractLsb' 2 2 = 0 then
    some (.stlfe ⟨w.extractLsb' 21 3, w.extractLsb' 20 1⟩ (w.extractLsb' 14 6) (w.extractLsb' 8 6) (w.extractLsb' 4 4) (w.extractLsb' 0 2))
  else none

/-- The fields of ATOML from its word. -/
def rowAtoml (w : Word) : Option Instr :=
  if w.extractLsb' 2 2 = 0 then
    some (.atoml ⟨w.extractLsb' 21 3, w.extractLsb' 20 1⟩ (w.extractLsb' 14 6) (w.extractLsb' 8 6) (w.extractLsb' 4 4) (w.extractLsb' 0 2))
  else none

/-- The fields of LDG from its word. -/
def rowLdg (w : Word) : Option Instr :=
  some (.ldg ⟨w.extractLsb' 21 3, w.extractLsb' 20 1⟩ (w.extractLsb' 14 6) (w.extractLsb' 8 6) (w.extractLsb' 4 4) (w.extractLsb' 2 2) (w.extractLsb' 0 2))

/-- The fields of LDGC from its word. -/
def rowLdgc (w : Word) : Option Instr :=
  some (.ldgc ⟨w.extractLsb' 21 3, w.extractLsb' 20 1⟩ (w.extractLsb' 14 6) (w.extractLsb' 8 6) (w.extractLsb' 4 4) (w.extractLsb' 2 2) (w.extractLsb' 0 2))

/-- The fields of STG from its word. -/
def rowStg (w : Word) : Option Instr :=
  some (.stg ⟨w.extractLsb' 21 3, w.extractLsb' 20 1⟩ (w.extractLsb' 14 6) (w.extractLsb' 8 6) (w.extractLsb' 4 4) (w.extractLsb' 2 2) (w.extractLsb' 0 2))

/-- The fields of ATOMGA from its word. -/
def rowAtomga (w : Word) : Option Instr :=
  some (.atomga ⟨w.extractLsb' 21 3, w.extractLsb' 20 1⟩ (w.extractLsb' 14 6) (w.extractLsb' 8 6) (w.extractLsb' 4 4) (w.extractLsb' 2 2) (w.extractLsb' 0 2))

/-- The fields of ATOMGB from its word. -/
def rowAtomgb (w : Word) : Option Instr :=
  some (.atomgb ⟨w.extractLsb' 21 3, w.extractLsb' 20 1⟩ (w.extractLsb' 14 6) (w.extractLsb' 8 6) (w.extractLsb' 4 4) (w.extractLsb' 2 2) (w.extractLsb' 0 2))

/-- The fields of ATOMG64 from its word. -/
def rowAtomg64 (w : Word) : Option Instr :=
  some (.atomg64 ⟨w.extractLsb' 21 3, w.extractLsb' 20 1⟩ (w.extractLsb' 14 6) (w.extractLsb' 8 6) (w.extractLsb' 4 4) (w.extractLsb' 2 2) (w.extractLsb' 0 2))

/-- The fields of REDG from its word. -/
def rowRedg (w : Word) : Option Instr :=
  some (.redg ⟨w.extractLsb' 21 3, w.extractLsb' 20 1⟩ (w.extractLsb' 14 6) (w.extractLsb' 8 6) (w.extractLsb' 4 4) (w.extractLsb' 2 2) (w.extractLsb' 0 2))

/-- The fields of XFER from its word. -/
def rowXfer (w : Word) : Option Instr :=
  if w.extractLsb' 1 1 = 0 then
    some (.xfer ⟨w.extractLsb' 21 3, w.extractLsb' 20 1⟩ (w.extractLsb' 14 6) (w.extractLsb' 8 6) (w.extractLsb' 2 6) (w.extractLsb' 0 1))
  else none

/-- The fields of FLD from its word. -/
def rowFld (w : Word) : Option Instr :=
  if w.extractLsb' 2 6 = 0 then
    some (.fld ⟨w.extractLsb' 21 3, w.extractLsb' 20 1⟩ (w.extractLsb' 14 6) (w.extractLsb' 8 6) (w.extractLsb' 0 2))
  else none

/-- The fields of COLL from its word. -/
def rowColl (w : Word) : Option Instr :=
  some (.coll ⟨w.extractLsb' 21 3, w.extractLsb' 20 1⟩ (w.extractLsb' 14 6) (w.extractLsb' 8 6) (w.extractLsb' 2 6) (w.extractLsb' 0 2))

/-- The fields of SYSC from its word. -/
def rowSysc (w : Word) : Option Instr :=
  if w.extractLsb' 8 12 = 0 then
    some (.sysc ⟨w.extractLsb' 21 3, w.extractLsb' 20 1⟩ (w.extractLsb' 0 8))
  else none

/-- The fields of XW from its word. -/
def rowXw (w f : Word) : Option Instr :=
  if w.extractLsb' 0 6 = 0 then
    some (.xw (w.extractLsb' 21 3) (w.extractLsb' 18 3) (w.extractLsb' 17 1) (w.extractLsb' 14 3) (w.extractLsb' 8 6) (w.extractLsb' 6 2) f)
  else none

/-- The fields of NOP from its word. -/
def rowNop (w : Word) : Option Instr :=
  if w.extractLsb' 0 24 = 0 then
    some .nop
  else none

/-- The fields of UADD from its word. -/
def rowUadd (w : Word) : Option Instr :=
  if w.extractLsb' 0 9 = 0 then
    some (.uadd (w.extractLsb' 19 5) (w.extractLsb' 14 5) (w.extractLsb' 9 5))
  else none

/-- The fields of UADDI from its word. -/
def rowUaddi (w : Word) : Option Instr :=
  some (.uaddi (w.extractLsb' 19 5) (w.extractLsb' 14 5) (w.extractLsb' 0 14))

/-- The fields of USUB from its word. -/
def rowUsub (w : Word) : Option Instr :=
  if w.extractLsb' 0 9 = 0 then
    some (.usub (w.extractLsb' 19 5) (w.extractLsb' 14 5) (w.extractLsb' 9 5))
  else none

/-- The fields of UMUL from its word. -/
def rowUmul (w : Word) : Option Instr :=
  if w.extractLsb' 0 9 = 0 then
    some (.umul (w.extractLsb' 19 5) (w.extractLsb' 14 5) (w.extractLsb' 9 5))
  else none

/-- The fields of UAND from its word. -/
def rowUand (w : Word) : Option Instr :=
  if w.extractLsb' 0 9 = 0 then
    some (.uand (w.extractLsb' 19 5) (w.extractLsb' 14 5) (w.extractLsb' 9 5))
  else none

/-- The fields of UOR from its word. -/
def rowUor (w : Word) : Option Instr :=
  if w.extractLsb' 0 9 = 0 then
    some (.uor (w.extractLsb' 19 5) (w.extractLsb' 14 5) (w.extractLsb' 9 5))
  else none

/-- The fields of UXOR from its word. -/
def rowUxor (w : Word) : Option Instr :=
  if w.extractLsb' 0 9 = 0 then
    some (.uxor (w.extractLsb' 19 5) (w.extractLsb' 14 5) (w.extractLsb' 9 5))
  else none

/-- The fields of USHL from its word. -/
def rowUshl (w : Word) : Option Instr :=
  if w.extractLsb' 6 8 = 0 then
    some (.ushl (w.extractLsb' 19 5) (w.extractLsb' 14 5) (w.extractLsb' 0 6))
  else none

/-- The fields of USHR from its word. -/
def rowUshr (w : Word) : Option Instr :=
  if w.extractLsb' 6 8 = 0 then
    some (.ushr (w.extractLsb' 19 5) (w.extractLsb' 14 5) (w.extractLsb' 0 6))
  else none

/-- The fields of USAR from its word. -/
def rowUsar (w : Word) : Option Instr :=
  if w.extractLsb' 6 8 = 0 then
    some (.usar (w.extractLsb' 19 5) (w.extractLsb' 14 5) (w.extractLsb' 0 6))
  else none

/-- The fields of UMIN from its word. -/
def rowUmin (w : Word) : Option Instr :=
  if w.extractLsb' 1 8 = 0 then
    some (.umin (w.extractLsb' 19 5) (w.extractLsb' 14 5) (w.extractLsb' 9 5) (w.extractLsb' 0 1))
  else none

/-- The fields of UMAX from its word. -/
def rowUmax (w : Word) : Option Instr :=
  if w.extractLsb' 1 8 = 0 then
    some (.umax (w.extractLsb' 19 5) (w.extractLsb' 14 5) (w.extractLsb' 9 5) (w.extractLsb' 0 1))
  else none

/-- The fields of UMOVI from its word. -/
def rowUmovi (w : Word) : Option Instr :=
  if w.extractLsb' 14 5 = 0 then
    some (.umovi (w.extractLsb' 19 5) (w.extractLsb' 0 14))
  else none

/-- The fields of UMOVHI from its word. -/
def rowUmovhi (w : Word) : Option Instr :=
  some (.umovhi (w.extractLsb' 19 5) (w.extractLsb' 14 5) (w.extractLsb' 0 14))

/-- The fields of UMOV from its word. -/
def rowUmov (w : Word) : Option Instr :=
  if w.extractLsb' 0 14 = 0 then
    some (.umov (w.extractLsb' 19 5) (w.extractLsb' 14 5))
  else none

/-- The fields of BR from its word. -/
def rowBr (w : Word) : Option Instr :=
  some (.br (w.extractLsb' 21 3) (w.extractLsb' 19 2) (w.extractLsb' 0 19))

/-- The fields of BRS from its word. -/
def rowBrs (w : Word) : Option Instr :=
  if w.extractLsb' 19 1 = 1 then
    some (.brs (w.extractLsb' 21 3) (w.extractLsb' 20 1) (w.extractLsb' 0 19))
  else none

/-- The fields of JOIN from its word. -/
def rowJoin (w : Word) : Option Instr :=
  if w.extractLsb' 0 24 = 0 then
    some .join
  else none

/-- The fields of BRT from its word. -/
def rowBrt (w : Word) : Option Instr :=
  some (.brt (w.extractLsb' 18 6) (w.extractLsb' 0 18))

/-- The fields of CALL from its word. -/
def rowCall (w : Word) : Option Instr :=
  some (.call (w.extractLsb' 21 3) (w.extractLsb' 19 2) (w.extractLsb' 0 19))

/-- The fields of RET from its word. -/
def rowRet (w : Word) : Option Instr :=
  if w.extractLsb' 0 24 = 0 then
    some .ret
  else none

/-- The fields of CALLT from its word. -/
def rowCallt (w : Word) : Option Instr :=
  some (.callt (w.extractLsb' 18 6) (w.extractLsb' 0 18))

/-- The fields of UBR from its word. -/
def rowUbr (w : Word) : Option Instr :=
  some (.ubr (w.extractLsb' 19 5) (w.extractLsb' 14 5) (w.extractLsb' 11 3) (w.extractLsb' 0 11))

/-- The fields of TWIST from its word. -/
def rowTwist (w : Word) : Option Instr :=
  if w.extractLsb' 0 24 = 0 then
    some .twist
  else none

/-- The fields of EXIT from its word. -/
def rowExit (w : Word) : Option Instr :=
  if w.extractLsb' 0 24 = 0 then
    some .exit
  else none

/-- The fields of WAIT from its word. -/
def rowWait (w : Word) : Option Instr :=
  if w.extractLsb' 0 6 = 0 then
    some (.wait (w.extractLsb' 20 4) (w.extractLsb' 16 4) (w.extractLsb' 12 4) (w.extractLsb' 9 3) (w.extractLsb' 6 3))
  else none

/-- The fields of YIELD from its word. -/
def rowYield (w : Word) : Option Instr :=
  if w.extractLsb' 0 24 = 0 then
    some .yield
  else none

/-- The fields of BAR from its word. -/
def rowBar (w : Word) : Option Instr :=
  if w.extractLsb' 0 10 = 0 then
    some (.bar (w.extractLsb' 20 4) (w.extractLsb' 10 10))
  else none

/-- The fields of BARA from its word. -/
def rowBara (w : Word) : Option Instr :=
  if w.extractLsb' 0 10 = 0 then
    some (.bara (w.extractLsb' 20 4) (w.extractLsb' 10 10))
  else none

/-- The fields of BARW from its word. -/
def rowBarw (w : Word) : Option Instr :=
  if w.extractLsb' 0 20 = 0 then
    some (.barw (w.extractLsb' 20 4))
  else none

/-- The fields of SBAR from its word. -/
def rowSbar (w : Word) : Option Instr :=
  if w.extractLsb' 0 21 = 0 then
    some (.sbar (w.extractLsb' 21 3))
  else none

/-- The fields of FENCE from its word. -/
def rowFence (w : Word) : Option Instr :=
  if w.extractLsb' 0 17 = 0 then
    some (.fence (w.extractLsb' 21 3) (w.extractLsb' 19 2) (w.extractLsb' 18 1) (w.extractLsb' 17 1))
  else none

/-- The fields of ULD from its word. -/
def rowUld (w : Word) : Option Instr :=
  some (.uld (w.extractLsb' 19 5) (w.extractLsb' 14 5) (w.extractLsb' 0 14))

/-- The fields of UST from its word. -/
def rowUst (w : Word) : Option Instr :=
  some (.ust (w.extractLsb' 19 5) (w.extractLsb' 14 5) (w.extractLsb' 0 14))

/-- The fields of UOWN from its word. -/
def rowUown (w : Word) : Option Instr :=
  if w.extractLsb' 19 5 = 0 ∧ w.extractLsb' 4 10 = 0 then
    some (.uown (w.extractLsb' 14 5) (w.extractLsb' 0 4))
  else none

/-- The fields of SRDU from its word. -/
def rowSrdu (w : Word) : Option Instr :=
  if w.extractLsb' 14 5 = 0 then
    some (.srdu (w.extractLsb' 19 5) (w.extractLsb' 0 14))
  else none

/-- The fields of SWR from its word. -/
def rowSwr (w : Word) : Option Instr :=
  if w.extractLsb' 19 5 = 0 then
    some (.swr (w.extractLsb' 14 5) (w.extractLsb' 0 14))
  else none

/-- The fields of SWR from its word. -/
def rowSwrLsmode (w : Word) : Option Instr :=
  if w.extractLsb' 19 5 = 0 ∧ w.extractLsb' 0 14 = 272 then
    some (.swrLsmode (w.extractLsb' 14 5))
  else none

/-- The fields of SWR from its word. -/
def rowSwrPcap (w : Word) : Option Instr :=
  if w.extractLsb' 19 5 = 0 ∧ w.extractLsb' 0 14 = 515 then
    some (.swrPcap (w.extractLsb' 14 5))
  else none

/-- The fields of RGROW from its word. -/
def rowRgrow (w : Word) : Option Instr :=
  if w.extractLsb' 19 5 = 0 ∧ w.extractLsb' 0 14 = 0 then
    some (.rgrow (w.extractLsb' 14 5))
  else none

/-- The fields of RGTRY from its word. -/
def rowRgtry (w : Word) : Option Instr :=
  if w.extractLsb' 0 14 = 0 then
    some (.rgtry (w.extractLsb' 19 5) (w.extractLsb' 14 5))
  else none

/-- The fields of RSHRK from its word. -/
def rowRshrk (w : Word) : Option Instr :=
  if w.extractLsb' 19 5 = 0 ∧ w.extractLsb' 0 14 = 0 then
    some (.rshrk (w.extractLsb' 14 5))
  else none

/-- The fields of VWBS from its word. -/
def rowVwbs (w : Word) : Option Instr :=
  if w.extractLsb' 19 5 = 0 ∧ w.extractLsb' 0 14 = 0 then
    some (.vwbs (w.extractLsb' 14 5))
  else none

/-- The fields of COPY from its word. -/
def rowCopy (w : Word) : Option Instr :=
  some (.copy (w.extractLsb' 19 5) (w.extractLsb' 14 5) (w.extractLsb' 9 5) (w.extractLsb' 7 2) (w.extractLsb' 6 1) (w.extractLsb' 0 6))

/-- The fields of COPY2D from its word. -/
def rowCopy2d (w : Word) : Option Instr :=
  some (.copy2d (w.extractLsb' 19 5) (w.extractLsb' 14 5) (w.extractLsb' 9 5) (w.extractLsb' 7 2) (w.extractLsb' 6 1) (w.extractLsb' 0 6))

/-- The fields of COPYP from its word. -/
def rowCopyp (w : Word) : Option Instr :=
  some (.copyp (w.extractLsb' 19 5) (w.extractLsb' 14 5) (w.extractLsb' 9 5) (w.extractLsb' 7 2) (w.extractLsb' 6 1) (w.extractLsb' 0 6))

/-- The fields of TRIG from its word. -/
def rowTrig (w : Word) : Option Instr :=
  if w.extractLsb' 0 14 = 0 then
    some (.trig (w.extractLsb' 19 5) (w.extractLsb' 14 5))
  else none

/-- The fields of TRIG.CANCEL from its word. -/
def rowTrigCancel (w : Word) : Option Instr :=
  if w.extractLsb' 0 14 = 1 then
    some (.trigCancel (w.extractLsb' 19 5) (w.extractLsb' 14 5))
  else none

/-- The fields of CNTR.ADD from its word. -/
def rowCntrAdd (w : Word) : Option Instr :=
  if w.extractLsb' 19 5 = 0 ∧ w.extractLsb' 6 8 = 0 then
    some (.cntrAdd (w.extractLsb' 14 5) (w.extractLsb' 0 6))
  else none

/-- The fields of CNTR.SET from its word. -/
def rowCntrSet (w : Word) : Option Instr :=
  if w.extractLsb' 19 5 = 0 ∧ w.extractLsb' 6 8 = 1 then
    some (.cntrSet (w.extractLsb' 14 5) (w.extractLsb' 0 6))
  else none

/-- The fields of CNTR.READ from its word. -/
def rowCntrRead (w : Word) : Option Instr :=
  if w.extractLsb' 6 13 = 2 then
    some (.cntrRead (w.extractLsb' 19 5) (w.extractLsb' 0 6))
  else none

/-- The fields of COLLH from its word. -/
def rowCollh (w : Word) : Option Instr :=
  if w.extractLsb' 19 5 = 0 ∧ w.extractLsb' 0 14 = 0 then
    some (.collh (w.extractLsb' 14 5))
  else none

/-- The fields of COLLH.ABORT from its word. -/
def rowCollhAbort (w : Word) : Option Instr :=
  if w.extractLsb' 0 19 = 1 then
    some (.collhAbort (w.extractLsb' 19 5))
  else none

/-- The fields of COLLH.TREE from its word. -/
def rowCollhTree (w : Word) : Option Instr :=
  if w.extractLsb' 0 2 = 2 then
    some (.collhTree (w.extractLsb' 19 5) (w.extractLsb' 14 5) (w.extractLsb' 9 5) (w.extractLsb' 3 6) (w.extractLsb' 2 1))
  else none

/-- The fields of LEND from its word. -/
def rowLend (w : Word) : Option Instr :=
  if w.extractLsb' 0 14 = 0 then
    some (.lend (w.extractLsb' 19 5) (w.extractLsb' 14 5))
  else none

/-- The fields of LEND.SHARE from its word. -/
def rowLendShare (w : Word) : Option Instr :=
  if w.extractLsb' 0 14 = 1 then
    some (.lendShare (w.extractLsb' 19 5) (w.extractLsb' 14 5))
  else none

/-- The fields of RETN from its word. -/
def rowRetn (w : Word) : Option Instr :=
  if w.extractLsb' 0 19 = 0 then
    some (.retn (w.extractLsb' 19 5))
  else none

/-- The fields of RETN.RECALL from its word. -/
def rowRetnRecall (w : Word) : Option Instr :=
  if w.extractLsb' 0 19 = 1 then
    some (.retnRecall (w.extractLsb' 19 5))
  else none

/-- The fields of RETN.RECLAIM from its word. -/
def rowRetnReclaim (w : Word) : Option Instr :=
  if w.extractLsb' 0 19 = 2 then
    some (.retnReclaim (w.extractLsb' 19 5))
  else none

/-- The fields of SPLIT from its word. -/
def rowSplit (w : Word) : Option Instr :=
  if w.extractLsb' 0 19 = 0 then
    some (.split (w.extractLsb' 19 5))
  else none

/-- The fields of MEND from its word. -/
def rowMend (w : Word) : Option Instr :=
  if w.extractLsb' 0 19 = 0 then
    some (.mend (w.extractLsb' 19 5))
  else none

/-- The fields of TQRY from its word. -/
def rowTqry (w : Word) : Option Instr :=
  if w.extractLsb' 9 5 = 0 then
    some (.tqry (w.extractLsb' 19 5) (w.extractLsb' 14 5) (w.extractLsb' 0 9))
  else none

/-- The fields of FDOM from its word. -/
def rowFdom (w : Word) : Option Instr :=
  if w.extractLsb' 19 5 = 0 ∧ w.extractLsb' 0 14 = 0 then
    some (.fdom (w.extractLsb' 14 5))
  else none

/-- The fields of FTOT from its word. -/
def rowFtot (w : Word) : Option Instr :=
  if w.extractLsb' 2 12 = 0 then
    some (.ftot (w.extractLsb' 19 5) (w.extractLsb' 14 5) (w.extractLsb' 0 2))
  else none

/-- The fields of FDECL from its word. -/
def rowFdecl (w : Word) : Option Instr :=
  if w.extractLsb' 0 14 = 0 then
    some (.fdecl (w.extractLsb' 19 5) (w.extractLsb' 14 5))
  else none

/-- The fields of FDECL.RETIRE from its word. -/
def rowFdeclRetire (w : Word) : Option Instr :=
  if w.extractLsb' 0 14 = 1 then
    some (.fdeclRetire (w.extractLsb' 19 5) (w.extractLsb' 14 5))
  else none

/-- The fields of TCFG from its word. -/
def rowTcfg (w : Word) : Option Instr :=
  if w.extractLsb' 22 2 = 0 ∧ w.extractLsb' 14 5 = 0 then
    some (.tcfg (w.extractLsb' 19 3) (w.extractLsb' 11 3) (w.extractLsb' 5 6) (w.extractLsb' 0 5))
  else none

/-- The fields of TLD from its word. -/
def rowTld (w : Word) : Option Instr :=
  if w.extractLsb' 22 2 = 0 ∧ w.extractLsb' 0 14 = 0 then
    some (.tld (w.extractLsb' 19 3) (w.extractLsb' 14 5))
  else none

/-- The fields of TST from its word. -/
def rowTst (w : Word) : Option Instr :=
  if w.extractLsb' 22 2 = 0 ∧ w.extractLsb' 0 14 = 0 then
    some (.tst (w.extractLsb' 19 3) (w.extractLsb' 14 5))
  else none

/-- The fields of MACQ from its word. -/
def rowMacq (w : Word) : Option Instr :=
  if w.extractLsb' 22 2 = 0 ∧ w.extractLsb' 0 19 = 0 then
    some (.macq (w.extractLsb' 19 3))
  else none

/-- The fields of MREL from its word. -/
def rowMrel (w : Word) : Option Instr :=
  if w.extractLsb' 22 2 = 0 ∧ w.extractLsb' 0 19 = 0 then
    some (.mrel (w.extractLsb' 19 3))
  else none

/-- The fields of MMA from its word. -/
def rowMma (w : Word) : Option Instr :=
  if w.extractLsb' 22 2 = 0 ∧ w.extractLsb' 17 2 = 0 ∧ w.extractLsb' 12 2 = 0 ∧ w.extractLsb' 5 4 = 0 then
    some (.mma (w.extractLsb' 19 3) (w.extractLsb' 14 3) (w.extractLsb' 9 3) (w.extractLsb' 0 5))
  else none

/-- The fields of MLOOP from its word. -/
def rowMloop (w : Word) : Option Instr :=
  if w.extractLsb' 22 2 = 0 ∧ w.extractLsb' 17 2 = 0 ∧ w.extractLsb' 12 3 = 0 ∧ w.extractLsb' 5 5 = 0 then
    some (.mloop (w.extractLsb' 19 3) (w.extractLsb' 15 2) (w.extractLsb' 10 2) (w.extractLsb' 0 5))
  else none

/-- The fields of AMOV from its word. -/
def rowAmov (w : Word) : Option Instr :=
  if w.extractLsb' 22 2 = 0 ∧ w.extractLsb' 9 5 = 0 then
    some (.amov (w.extractLsb' 19 3) (w.extractLsb' 14 5) (w.extractLsb' 6 3) (w.extractLsb' 0 6))
  else none

/-- The fields of AQNT from its word. -/
def rowAqnt (w : Word) : Option Instr :=
  if w.extractLsb' 22 2 = 0 ∧ w.extractLsb' 5 4 = 0 then
    some (.aqnt (w.extractLsb' 19 3) (w.extractLsb' 14 5) (w.extractLsb' 9 5) (w.extractLsb' 4 1) (w.extractLsb' 3 1) (w.extractLsb' 1 2) (w.extractLsb' 0 1))
  else none

/-- The fields of ACLR from its word. -/
def rowAclr (w : Word) : Option Instr :=
  if w.extractLsb' 22 2 = 0 ∧ w.extractLsb' 0 19 = 0 then
    some (.aclr (w.extractLsb' 19 3))
  else none

/-- The fields of PHASE from its word. -/
def rowPhase (w : Word) : Option Instr :=
  if w.extractLsb' 0 24 = 0 then
    some .phase
  else none

/-- The fields of DGST.READ from its word. -/
def rowDgstRead (w : Word) : Option Instr :=
  if w.extractLsb' 0 19 = 0 then
    some (.dgstRead (w.extractLsb' 19 5))
  else none

/-- The fields of DGST.ON from its word. -/
def rowDgstOn (w : Word) : Option Instr :=
  if w.extractLsb' 0 24 = 1 then
    some .dgstOn
  else none

/-- The fields of DGST.OFF from its word. -/
def rowDgstOff (w : Word) : Option Instr :=
  if w.extractLsb' 0 24 = 2 then
    some .dgstOff
  else none

/-- The fields of DGST.CLR from its word. -/
def rowDgstClr (w : Word) : Option Instr :=
  if w.extractLsb' 0 24 = 3 then
    some .dgstClr
  else none

/-- The fields of DGST.FOLD from its word. -/
def rowDgstFold (w : Word) : Option Instr :=
  if w.extractLsb' 19 5 = 0 ∧ w.extractLsb' 0 9 = 4 then
    some (.dgstFold (w.extractLsb' 14 5) (w.extractLsb' 9 5))
  else none

/-- The fields of ORDR.OFF from its word. -/
def rowOrdrOff (w : Word) : Option Instr :=
  if w.extractLsb' 0 14 = 0 then
    some (.ordrOff (w.extractLsb' 19 5) (w.extractLsb' 14 5))
  else none

/-- The fields of ORDR.REC from its word. -/
def rowOrdrRec (w : Word) : Option Instr :=
  if w.extractLsb' 0 14 = 1 then
    some (.ordrRec (w.extractLsb' 19 5) (w.extractLsb' 14 5))
  else none

/-- The fields of ORDR.PLAY from its word. -/
def rowOrdrPlay (w : Word) : Option Instr :=
  if w.extractLsb' 0 14 = 2 then
    some (.ordrPlay (w.extractLsb' 19 5) (w.extractLsb' 14 5))
  else none

/-- The fields of TRET from its word. -/
def rowTret (w : Word) : Option Instr :=
  if w.extractLsb' 0 24 = 0 then
    some .tret
  else none

/-- The fields of HCALL from its word. -/
def rowHcall (w : Word) : Option Instr :=
  if w.extractLsb' 8 16 = 0 then
    some (.hcall (w.extractLsb' 0 8))
  else none

/-- The fields of HRET from its word. -/
def rowHret (w : Word) : Option Instr :=
  if w.extractLsb' 0 24 = 0 then
    some .hret
  else none

/-- The fields of LNCH from its word. -/
def rowLnch (w : Word) : Option Instr :=
  if w.extractLsb' 0 9 = 0 then
    some (.lnch (w.extractLsb' 19 5) (w.extractLsb' 14 5) (w.extractLsb' 9 5))
  else none

/-- The fields of SKSV from its word. -/
def rowSksv (w : Word) : Option Instr :=
  if w.extractLsb' 0 9 = 0 then
    some (.sksv (w.extractLsb' 19 5) (w.extractLsb' 14 5) (w.extractLsb' 9 5))
  else none

/-- The fields of SKRS from its word. -/
def rowSkrs (w : Word) : Option Instr :=
  if w.extractLsb' 0 9 = 0 then
    some (.skrs (w.extractLsb' 19 5) (w.extractLsb' 14 5) (w.extractLsb' 9 5))
  else none

/-- The fields of TLBI from its word. -/
def rowTlbi (w : Word) : Option Instr :=
  if w.extractLsb' 19 5 = 0 ∧ w.extractLsb' 0 9 = 0 then
    some (.tlbi (w.extractLsb' 14 5) (w.extractLsb' 9 5))
  else none

/-- The fields of TLBI.CTX from its word. -/
def rowTlbiCtx (w : Word) : Option Instr :=
  if w.extractLsb' 14 10 = 0 ∧ w.extractLsb' 0 9 = 1 then
    some (.tlbiCtx (w.extractLsb' 9 5))
  else none

/-- The fields of TLBI.ALL from its word. -/
def rowTlbiAll (w : Word) : Option Instr :=
  if w.extractLsb' 0 24 = 2 then
    some .tlbiAll
  else none

/-- The fields of BRK from its word. -/
def rowBrk (w : Word) : Option Instr :=
  if w.extractLsb' 9 15 = 0 then
    some (.brk (w.extractLsb' 0 9))
  else none

/-- The fields of HALT from its word. -/
def rowHalt (w : Word) : Option Instr :=
  if w.extractLsb' 0 24 = 0 then
    some .halt
  else none

/-- The fields of CFLU from its word. -/
def rowCflu (w : Word) : Option Instr :=
  if w.extractLsb' 19 5 = 0 ∧ w.extractLsb' 0 14 = 0 then
    some (.cflu (w.extractLsb' 14 5))
  else none

/-- The fields of CFLU.INV from its word. -/
def rowCfluInv (w : Word) : Option Instr :=
  if w.extractLsb' 19 5 = 0 ∧ w.extractLsb' 0 14 = 1 then
    some (.cfluInv (w.extractLsb' 14 5))
  else none

/-- The fields of CFLU.I from its word. -/
def rowCfluI (w : Word) : Option Instr :=
  if w.extractLsb' 19 5 = 0 ∧ w.extractLsb' 0 14 = 2 then
    some (.cfluI (w.extractLsb' 14 5))
  else none

/-- The fields of MSGS from its word. -/
def rowMsgs (w : Word) : Option Instr :=
  if w.extractLsb' 5 4 = 0 then
    some (.msgs (w.extractLsb' 19 5) (w.extractLsb' 14 5) (w.extractLsb' 9 5) (w.extractLsb' 0 5))
  else none

/-- The fields of MSGR from its word. -/
def rowMsgr (w : Word) : Option Instr :=
  if w.extractLsb' 0 9 = 0 then
    some (.msgr (w.extractLsb' 19 5) (w.extractLsb' 14 5) (w.extractLsb' 9 5))
  else none

/-- The fields of MSGR.TRY from its word. -/
def rowMsgrTry (w : Word) : Option Instr :=
  if w.extractLsb' 0 9 = 1 then
    some (.msgrTry (w.extractLsb' 19 5) (w.extractLsb' 14 5) (w.extractLsb' 9 5))
  else none

/-- The rows of opcode bytes 0x00 to 0x0F (08 R151, R153). -/
def decodeOps00 (op : Nat) (w : Word) : Option Instr :=
  match op with
  | 0x00 => rowIadd w
  | 0x01 => rowIaddi w
  | 0x02 => rowIsub w
  | 0x03 => rowIadds w
  | 0x04 => rowImul w
  | 0x05 => rowImulhs w
  | 0x06 => rowImulhu w
  | 0x07 => rowImad w
  | 0x08 => rowImins w
  | 0x09 => rowIminu w
  | 0x0A => rowImaxs w
  | 0x0B => rowImaxu w
  | 0x0C => rowAnd w
  | 0x0D => rowOr w
  | 0x0E => rowXor w
  | 0x0F => rowAndn w
  | _ => none

/-- The rows of opcode bytes 0x10 to 0x1F (08 R151, R153). -/
def decodeOps10 (op : Nat) (w : Word) : Option Instr :=
  match op with
  | 0x10 => rowAndi w
  | 0x11 => rowOri w
  | 0x12 => rowXori w
  | 0x13 => rowShl w
  | 0x14 => rowShr w
  | 0x15 => rowSar w
  | 0x16 => rowShli w
  | 0x17 => rowShri w
  | 0x18 => rowSari w
  | 0x19 => rowBfx w
  | 0x1A => rowBfi w
  | 0x1B => rowPopc w
  | 0x1C => rowClz w
  | 0x1D => rowBrev w
  | 0x1E => rowIcmps w
  | 0x1F => rowIcmpu w
  | _ => none

/-- The rows of opcode bytes 0x20 to 0x2F (08 R151, R153). -/
def decodeOps20 (op : Nat) (w : Word) : Option Instr :=
  match op with
  | 0x20 => rowIcmpsi w
  | 0x21 => rowSel w
  | 0x22 => rowMov w
  | 0x23 => rowMovi w
  | 0x24 => rowMovhi w
  | 0x25 => rowSrd w
  | 0x26 => rowPlog w
  | 0x27 => (rowPmovPack w).orElse fun _ => (rowPmovUnpack w)
  | 0x28 => rowFaddF32 w
  | 0x29 => rowFmulF32 w
  | 0x2A => rowFfmaF32 w
  | 0x2B => rowFminF32 w
  | 0x2C => rowFmaxF32 w
  | 0x2D => rowFcmpF32 w
  | 0x2E => rowFrcpF32 w
  | 0x2F => rowFrsqF32 w
  | _ => none

/-- The rows of opcode bytes 0x30 to 0x3F (08 R151, R153). -/
def decodeOps30 (op : Nat) (w : Word) : Option Instr :=
  match op with
  | 0x30 => rowFex2F32 w
  | 0x31 => rowFlg2F32 w
  | 0x32 => rowFaddBf16x2 w
  | 0x33 => rowFmulBf16x2 w
  | 0x34 => rowFfmaBf16x2 w
  | 0x35 => rowFaddF16x2 w
  | 0x36 => rowFmulF16x2 w
  | 0x37 => rowFfmaF16x2 w
  | 0x38 => rowFaddF64 w
  | 0x39 => rowFmulF64 w
  | 0x3A => rowFfmaF64 w
  | 0x3B => rowTsumF32 w
  | 0x3C => rowCvt w
  | 0x3D => rowF2fx w
  | 0x3E => rowFx2f w
  | 0x3F => rowIdp4s w
  | _ => none

/-- The rows of opcode bytes 0x40 to 0x4F (08 R151, R153). -/
def decodeOps40 (op : Nat) (w : Word) : Option Instr :=
  match op with
  | 0x40 => rowIdp4u w
  | 0x41 => rowTdec w
  | 0x42 => rowTenc w
  | 0x43 => rowTblo w
  | 0x44 => rowTbhi w
  | 0x45 => rowBsel w
  | 0x46 => rowShfl w
  | 0x47 => rowShfli w
  | 0x48 => rowVote w
  | 0x49 => rowLred w
  | 0x4A => rowLscan w
  | 0x4B => rowLprev w
  | 0x4C => rowRdi w
  | 0x4D => rowWri w
  | 0x4E => rowLdl w
  | 0x4F => rowLdlfe w
  | _ => none

/-- The rows of opcode bytes 0x50 to 0x5F (08 R151, R153). -/
def decodeOps50 (op : Nat) (w : Word) : Option Instr :=
  match op with
  | 0x50 => rowStl w
  | 0x51 => rowStlfe w
  | 0x52 => rowAtoml w
  | 0x53 => rowLdg w
  | 0x54 => rowLdgc w
  | 0x55 => rowStg w
  | 0x56 => rowAtomga w
  | 0x57 => rowAtomgb w
  | 0x58 => rowAtomg64 w
  | 0x59 => rowRedg w
  | 0x5A => rowXfer w
  | 0x5B => rowFld w
  | 0x5C => rowColl w
  | 0x5D => rowSysc w
  | _ => none

/-- The rows of opcode bytes 0x80 to 0x8F (08 R151, R153). -/
def decodeOps80 (op : Nat) (w : Word) : Option Instr :=
  match op with
  | 0x80 => rowNop w
  | 0x81 => rowUadd w
  | 0x82 => rowUaddi w
  | 0x83 => rowUsub w
  | 0x84 => rowUmul w
  | 0x85 => rowUand w
  | 0x86 => rowUor w
  | 0x87 => rowUxor w
  | 0x88 => rowUshl w
  | 0x89 => rowUshr w
  | 0x8A => rowUsar w
  | 0x8B => rowUmin w
  | 0x8C => rowUmax w
  | 0x8D => rowUmovi w
  | 0x8E => rowUmovhi w
  | 0x8F => rowUmov w
  | _ => none

/-- The rows of opcode bytes 0x90 to 0x9F (08 R151, R153). -/
def decodeOps90 (op : Nat) (w : Word) : Option Instr :=
  match op with
  | 0x90 => rowBr w
  | 0x91 => rowBrs w
  | 0x92 => rowJoin w
  | 0x93 => rowBrt w
  | 0x94 => rowCall w
  | 0x95 => rowRet w
  | 0x96 => rowCallt w
  | 0x97 => rowUbr w
  | 0x98 => rowTwist w
  | 0x99 => rowExit w
  | 0x9A => rowWait w
  | 0x9B => rowYield w
  | 0x9C => rowBar w
  | 0x9D => rowBara w
  | 0x9E => rowBarw w
  | 0x9F => rowSbar w
  | _ => none

/-- The rows of opcode bytes 0xA0 to 0xAF (08 R151, R153). -/
def decodeOpsA0 (op : Nat) (w : Word) : Option Instr :=
  match op with
  | 0xA0 => rowFence w
  | 0xA1 => rowUld w
  | 0xA2 => rowUst w
  | 0xA3 => rowUown w
  | 0xA4 => rowSrdu w
  | 0xA5 => ((rowSwrLsmode w).orElse fun _ => (rowSwrPcap w)).orElse fun _ => (rowSwr w)
  | 0xA6 => rowRgrow w
  | 0xA7 => rowRgtry w
  | 0xA8 => rowRshrk w
  | 0xA9 => rowVwbs w
  | 0xAA => rowCopy w
  | 0xAB => rowCopy2d w
  | 0xAC => rowCopyp w
  | 0xAD => (rowTrig w).orElse fun _ => (rowTrigCancel w)
  | 0xAE => ((rowCntrAdd w).orElse fun _ => (rowCntrSet w)).orElse fun _ => (rowCntrRead w)
  | 0xAF => ((rowCollh w).orElse fun _ => (rowCollhAbort w)).orElse fun _ => (rowCollhTree w)
  | _ => none

/-- The rows of opcode bytes 0xB0 to 0xBF (08 R151, R153). -/
def decodeOpsB0 (op : Nat) (w : Word) : Option Instr :=
  match op with
  | 0xB0 => (rowLend w).orElse fun _ => (rowLendShare w)
  | 0xB1 => ((rowRetn w).orElse fun _ => (rowRetnRecall w)).orElse fun _ => (rowRetnReclaim w)
  | 0xB2 => rowSplit w
  | 0xB3 => rowMend w
  | 0xB4 => rowTqry w
  | 0xB5 => rowFdom w
  | 0xB6 => rowFtot w
  | 0xB7 => (rowFdecl w).orElse fun _ => (rowFdeclRetire w)
  | 0xB8 => rowTcfg w
  | 0xB9 => rowTld w
  | 0xBA => rowTst w
  | 0xBB => rowMacq w
  | 0xBC => rowMrel w
  | 0xBD => rowMma w
  | 0xBE => rowMloop w
  | 0xBF => rowAmov w
  | _ => none

/-- The rows of opcode bytes 0xC0 to 0xCF (08 R151, R153). -/
def decodeOpsC0 (op : Nat) (w : Word) : Option Instr :=
  match op with
  | 0xC0 => rowAqnt w
  | 0xC1 => rowAclr w
  | 0xC2 => rowPhase w
  | 0xC3 => ((((rowDgstRead w).orElse fun _ => (rowDgstOn w)).orElse fun _ => (rowDgstOff w)).orElse fun _ => (rowDgstClr w)).orElse fun _ => (rowDgstFold w)
  | 0xC4 => ((rowOrdrOff w).orElse fun _ => (rowOrdrRec w)).orElse fun _ => (rowOrdrPlay w)
  | 0xC5 => rowTret w
  | 0xC6 => rowHcall w
  | 0xC7 => rowHret w
  | 0xC8 => rowLnch w
  | 0xC9 => rowSksv w
  | 0xCA => rowSkrs w
  | 0xCB => ((rowTlbi w).orElse fun _ => (rowTlbiCtx w)).orElse fun _ => (rowTlbiAll w)
  | 0xCC => rowBrk w
  | 0xCD => rowHalt w
  | 0xCE => ((rowCflu w).orElse fun _ => (rowCfluInv w)).orElse fun _ => (rowCfluI w)
  | 0xCF => rowMsgs w
  | _ => none

/-- The rows of opcode bytes 0xD0 to 0xDF (08 R151, R153). -/
def decodeOpsD0 (op : Nat) (w : Word) : Option Instr :=
  match op with
  | 0xD0 => (rowMsgr w).orElse fun _ => (rowMsgrTry w)
  | _ => none

/-- The row of a word that is no XW, by its opcode byte. -/
def decodeRow (w : Word) : Option Instr :=
  let op := opByte w
  if op < 0x10 then decodeOps00 op w
  else if op < 0x20 then decodeOps10 op w
  else if op < 0x30 then decodeOps20 op w
  else if op < 0x40 then decodeOps30 op w
  else if op < 0x50 then decodeOps40 op w
  else if op < 0x60 then decodeOps50 op w
  else if op < 0x80 then none
  else if op < 0x90 then decodeOps80 op w
  else if op < 0xA0 then decodeOps90 op w
  else if op < 0xB0 then decodeOpsA0 op w
  else if op < 0xC0 then decodeOpsB0 op w
  else if op < 0xD0 then decodeOpsC0 op w
  else decodeOpsD0 op w

/-- Whether the opcode byte is assigned in its set (08 R151, R153). -/
def opAssigned (op : Nat) : Bool :=
  decide (op ≤ 0x5D) || op == 0x7F || (decide (0x80 ≤ op) && decide (op ≤ 0xD0))

/-- Decodes a word and the word that follows it; only an XW uses the second (08 R136, R144). (DEDUCED, log entry 48.) -/
def decodeWords (w f : Word) : Except DecodeError Instr :=
  if opByte w = 0x7F then
    if (xwAccept (opByte f)).isNone then .error (.refusedFollower w f)
    else match rowXw w f with
      | some i => if i.wf then .ok i else .error (.badField w f)
      | none => .error (.badField w f)
  else if opAssigned (opByte w) then
    match decodeRow w with
    | some i => if i.wf then .ok i else .error (.badField w 0)
    | none => .error (.badField w 0)
  else .error (.unassigned w)

/-- The little-endian word of four bytes (08 R135). -/
def wordOfBytes (b0 b1 b2 b3 : Byte) : Word := b3 ++ b2 ++ b1 ++ b0

/-- Decodes the instruction at the head of a list of bytes and gives the bytes after it. -/
def decode : List Byte → Except DecodeError (Instr × List Byte)
  | b0 :: b1 :: b2 :: b3 :: rest =>
    let w := wordOfBytes b0 b1 b2 b3
    if opByte w = 0x7F then
      match rest with
      | c0 :: c1 :: c2 :: c3 :: rest' =>
        match decodeWords w (wordOfBytes c0 c1 c2 c3) with
        | .ok i => .ok (i, rest')
        | .error e => .error e
      | _ => .error .truncated
    else
      match decodeWords w 0 with
      | .ok i => .ok (i, rest)
      | .error e => .error e
  | _ => .error .truncated

/-- The bytes of `n` bytes of a number, lowest first. -/
def bytesOfNat : Nat → Nat → List Byte
  | 0, _ => []
  | n + 1, v => BitVec.ofNat 8 v :: bytesOfNat n (v / 256)

/-- The instruction the decoder reads from the low `nbits` bits of `w`, every bit above them zero; eight bytes hold
the longest instruction, an XW with its follower. -/
def decodeTableWord (nbits w : Nat) : Option Instr :=
  match decode (bytesOfNat 8 (w % 2 ^ nbits)) with
  | .ok (i, _) => some i
  | .error _ => none

/-- The words of an instruction, lowest address first; an event has none. (DEDUCED, log entry 48; DESIGN CHOICE, log entry 52.) -/
def encode : Instr → List Word
  | .iadd g d a b h => [0#8 ++ g.pr ++ g.pn ++ d ++ a ++ b ++ h]
  | .iaddi g d a i => [1#8 ++ g.pr ++ g.pn ++ d ++ a ++ i]
  | .isub g d a b h => [2#8 ++ g.pr ++ g.pn ++ d ++ a ++ b ++ h]
  | .iadds g d a b h => [3#8 ++ g.pr ++ g.pn ++ d ++ a ++ b ++ h]
  | .imul g d a b h => [4#8 ++ g.pr ++ g.pn ++ d ++ a ++ b ++ h]
  | .imulhs g d a b h => [5#8 ++ g.pr ++ g.pn ++ d ++ a ++ b ++ h]
  | .imulhu g d a b h => [6#8 ++ g.pr ++ g.pn ++ d ++ a ++ b ++ h]
  | .imad g d a b h => [7#8 ++ g.pr ++ g.pn ++ d ++ a ++ b ++ h]
  | .imins g d a b h => [8#8 ++ g.pr ++ g.pn ++ d ++ a ++ b ++ h]
  | .iminu g d a b h => [9#8 ++ g.pr ++ g.pn ++ d ++ a ++ b ++ h]
  | .imaxs g d a b h => [0xA#8 ++ g.pr ++ g.pn ++ d ++ a ++ b ++ h]
  | .imaxu g d a b h => [0xB#8 ++ g.pr ++ g.pn ++ d ++ a ++ b ++ h]
  | .and g d a b h => [0xC#8 ++ g.pr ++ g.pn ++ d ++ a ++ b ++ h]
  | .or g d a b h => [0xD#8 ++ g.pr ++ g.pn ++ d ++ a ++ b ++ h]
  | .xor g d a b h => [0xE#8 ++ g.pr ++ g.pn ++ d ++ a ++ b ++ h]
  | .andn g d a b h => [0xF#8 ++ g.pr ++ g.pn ++ d ++ a ++ b ++ h]
  | .andi g d a i => [0x10#8 ++ g.pr ++ g.pn ++ d ++ a ++ i]
  | .ori g d a i => [0x11#8 ++ g.pr ++ g.pn ++ d ++ a ++ i]
  | .xori g d a i => [0x12#8 ++ g.pr ++ g.pn ++ d ++ a ++ i]
  | .shl g d a b h => [0x13#8 ++ g.pr ++ g.pn ++ d ++ a ++ b ++ h]
  | .shr g d a b h => [0x14#8 ++ g.pr ++ g.pn ++ d ++ a ++ b ++ h]
  | .sar g d a b h => [0x15#8 ++ g.pr ++ g.pn ++ d ++ a ++ b ++ h]
  | .shli g d a i => [0x16#8 ++ g.pr ++ g.pn ++ d ++ a ++ 0#3 ++ i]
  | .shri g d a i => [0x17#8 ++ g.pr ++ g.pn ++ d ++ a ++ 0#3 ++ i]
  | .sari g d a i => [0x18#8 ++ g.pr ++ g.pn ++ d ++ a ++ 0#3 ++ i]
  | .bfx g d a b h => [0x19#8 ++ g.pr ++ g.pn ++ d ++ a ++ b ++ h]
  | .bfi g d a b h => [0x1A#8 ++ g.pr ++ g.pn ++ d ++ a ++ b ++ h]
  | .popc g d a h => [0x1B#8 ++ g.pr ++ g.pn ++ d ++ a ++ 0#7 ++ h]
  | .clz g d a h => [0x1C#8 ++ g.pr ++ g.pn ++ d ++ a ++ 0#7 ++ h]
  | .brev g d a h => [0x1D#8 ++ g.pr ++ g.pn ++ d ++ a ++ 0#7 ++ h]
  | .icmps g q c a b h => [0x1E#8 ++ g.pr ++ g.pn ++ q ++ c ++ a ++ b ++ h]
  | .icmpu g q c a b h => [0x1F#8 ++ g.pr ++ g.pn ++ q ++ c ++ a ++ b ++ h]
  | .icmpsi g q c a i => [0x20#8 ++ g.pr ++ g.pn ++ q ++ c ++ a ++ i]
  | .sel g d a b s => [0x21#8 ++ g.pr ++ g.pn ++ d ++ a ++ b ++ s]
  | .mov g d a h => [0x22#8 ++ g.pr ++ g.pn ++ d ++ a ++ 0#7 ++ h]
  | .movi g d i => [0x23#8 ++ g.pr ++ g.pn ++ d ++ i]
  | .movhi g d i => [0x24#8 ++ g.pr ++ g.pn ++ d ++ i]
  | .srd g d i => [0x25#8 ++ g.pr ++ g.pn ++ d ++ i]
  | .plog g q x y t => [0x26#8 ++ g.pr ++ g.pn ++ q ++ x ++ y ++ t ++ 0#7]
  | .pmovPack g d => [0x27#8 ++ g.pr ++ g.pn ++ d ++ 0#14]
  | .pmovUnpack g a h => [0x27#8 ++ g.pr ++ g.pn ++ 0#6 ++ a ++ 2#7 ++ h]
  | .faddF32 g d a b h => [0x28#8 ++ g.pr ++ g.pn ++ d ++ a ++ b ++ h]
  | .fmulF32 g d a b h => [0x29#8 ++ g.pr ++ g.pn ++ d ++ a ++ b ++ h]
  | .ffmaF32 g d a b h => [0x2A#8 ++ g.pr ++ g.pn ++ d ++ a ++ b ++ h]
  | .fminF32 g d a b h => [0x2B#8 ++ g.pr ++ g.pn ++ d ++ a ++ b ++ h]
  | .fmaxF32 g d a b h => [0x2C#8 ++ g.pr ++ g.pn ++ d ++ a ++ b ++ h]
  | .fcmpF32 g q c a b h => [0x2D#8 ++ g.pr ++ g.pn ++ q ++ c ++ a ++ b ++ h]
  | .frcpF32 g d a h => [0x2E#8 ++ g.pr ++ g.pn ++ d ++ a ++ 0#7 ++ h]
  | .frsqF32 g d a h => [0x2F#8 ++ g.pr ++ g.pn ++ d ++ a ++ 0#7 ++ h]
  | .fex2F32 g d a h => [0x30#8 ++ g.pr ++ g.pn ++ d ++ a ++ 0#7 ++ h]
  | .flg2F32 g d a h => [0x31#8 ++ g.pr ++ g.pn ++ d ++ a ++ 0#7 ++ h]
  | .faddBf16x2 g d a b h => [0x32#8 ++ g.pr ++ g.pn ++ d ++ a ++ b ++ h]
  | .fmulBf16x2 g d a b h => [0x33#8 ++ g.pr ++ g.pn ++ d ++ a ++ b ++ h]
  | .ffmaBf16x2 g d a b h => [0x34#8 ++ g.pr ++ g.pn ++ d ++ a ++ b ++ h]
  | .faddF16x2 g d a b h => [0x35#8 ++ g.pr ++ g.pn ++ d ++ a ++ b ++ h]
  | .fmulF16x2 g d a b h => [0x36#8 ++ g.pr ++ g.pn ++ d ++ a ++ b ++ h]
  | .ffmaF16x2 g d a b h => [0x37#8 ++ g.pr ++ g.pn ++ d ++ a ++ b ++ h]
  | .faddF64 g d a b => [0x38#8 ++ g.pr ++ g.pn ++ d ++ a ++ b ++ 0#2]
  | .fmulF64 g d a b => [0x39#8 ++ g.pr ++ g.pn ++ d ++ a ++ b ++ 0#2]
  | .ffmaF64 g d a b => [0x3A#8 ++ g.pr ++ g.pn ++ d ++ a ++ b ++ 0#2]
  | .tsumF32 g d a b h => [0x3B#8 ++ g.pr ++ g.pn ++ d ++ a ++ b ++ h]
  | .cvt g d a f t => [0x3C#8 ++ g.pr ++ g.pn ++ d ++ a ++ f ++ t]
  | .f2fx g d a q x k => [0x3D#8 ++ g.pr ++ g.pn ++ d ++ a ++ q ++ x ++ k]
  | .fx2f g d a q x k => [0x3E#8 ++ g.pr ++ g.pn ++ d ++ a ++ q ++ x ++ k]
  | .idp4s g d a b h => [0x3F#8 ++ g.pr ++ g.pn ++ d ++ a ++ b ++ h]
  | .idp4u g d a b h => [0x40#8 ++ g.pr ++ g.pn ++ d ++ a ++ b ++ h]
  | .tdec g d a f x s => [0x41#8 ++ g.pr ++ g.pn ++ d ++ a ++ f ++ x ++ 0#4 ++ s]
  | .tenc g d a f x s => [0x42#8 ++ g.pr ++ g.pn ++ d ++ a ++ f ++ x ++ 0#4 ++ s]
  | .tblo g d a b h => [0x43#8 ++ g.pr ++ g.pn ++ d ++ a ++ b ++ h]
  | .tbhi g d a b h => [0x44#8 ++ g.pr ++ g.pn ++ d ++ a ++ b ++ h]
  | .bsel g d a b h => [0x45#8 ++ g.pr ++ g.pn ++ d ++ a ++ b ++ h]
  | .shfl g d a b h => [0x46#8 ++ g.pr ++ g.pn ++ d ++ a ++ b ++ h]
  | .shfli g d a i => [0x47#8 ++ g.pr ++ g.pn ++ d ++ a ++ i]
  | .vote g d s o => [0x48#8 ++ g.pr ++ g.pn ++ d ++ 0#3 ++ s ++ o]
  | .lred g d a o => [0x49#8 ++ g.pr ++ g.pn ++ d ++ a ++ 0#4 ++ o]
  | .lscan g d a e o => [0x4A#8 ++ g.pr ++ g.pn ++ d ++ a ++ 0#3 ++ e ++ o]
  | .lprev g d a b h => [0x4B#8 ++ g.pr ++ g.pn ++ d ++ a ++ b ++ h]
  | .rdi g d a h => [0x4C#8 ++ g.pr ++ g.pn ++ d ++ a ++ 0#7 ++ h]
  | .wri g a b h => [0x4D#8 ++ g.pr ++ g.pn ++ 0#6 ++ a ++ b ++ h]
  | .ldl g d a w s => [0x4E#8 ++ g.pr ++ g.pn ++ d ++ a ++ w ++ 0#2 ++ s]
  | .ldlfe g d a w c s => [0x4F#8 ++ g.pr ++ g.pn ++ d ++ a ++ w ++ 0#1 ++ c ++ s]
  | .stl g d a w s => [0x50#8 ++ g.pr ++ g.pn ++ d ++ a ++ w ++ 0#2 ++ s]
  | .stlfe g d a w s => [0x51#8 ++ g.pr ++ g.pn ++ d ++ a ++ w ++ 0#2 ++ s]
  | .atoml g d a w s => [0x52#8 ++ g.pr ++ g.pn ++ d ++ a ++ w ++ 0#2 ++ s]
  | .ldg g d a w o s => [0x53#8 ++ g.pr ++ g.pn ++ d ++ a ++ w ++ o ++ s]
  | .ldgc g d a w o s => [0x54#8 ++ g.pr ++ g.pn ++ d ++ a ++ w ++ o ++ s]
  | .stg g d a w o s => [0x55#8 ++ g.pr ++ g.pn ++ d ++ a ++ w ++ o ++ s]
  | .atomga g d a w o s => [0x56#8 ++ g.pr ++ g.pn ++ d ++ a ++ w ++ o ++ s]
  | .atomgb g d a w o s => [0x57#8 ++ g.pr ++ g.pn ++ d ++ a ++ w ++ o ++ s]
  | .atomg64 g d a w o s => [0x58#8 ++ g.pr ++ g.pn ++ d ++ a ++ w ++ o ++ s]
  | .redg g d a w o s => [0x59#8 ++ g.pr ++ g.pn ++ d ++ a ++ w ++ o ++ s]
  | .xfer g d a b m => [0x5A#8 ++ g.pr ++ g.pn ++ d ++ a ++ b ++ 0#1 ++ m]
  | .fld g d a h => [0x5B#8 ++ g.pr ++ g.pn ++ d ++ a ++ 0#6 ++ h]
  | .coll g d a b o => [0x5C#8 ++ g.pr ++ g.pn ++ d ++ a ++ b ++ o]
  | .sysc g i => [0x5D#8 ++ g.pr ++ g.pn ++ 0#12 ++ i]
  | .xw r c s m t p f => [0x7F#8 ++ r ++ c ++ s ++ m ++ t ++ p ++ 0#6, f]
  | .nop => [0x80#8 ++ 0#24]
  | .uadd d a b => [0x81#8 ++ d ++ a ++ b ++ 0#9]
  | .uaddi d a i => [0x82#8 ++ d ++ a ++ i]
  | .usub d a b => [0x83#8 ++ d ++ a ++ b ++ 0#9]
  | .umul d a b => [0x84#8 ++ d ++ a ++ b ++ 0#9]
  | .uand d a b => [0x85#8 ++ d ++ a ++ b ++ 0#9]
  | .uor d a b => [0x86#8 ++ d ++ a ++ b ++ 0#9]
  | .uxor d a b => [0x87#8 ++ d ++ a ++ b ++ 0#9]
  | .ushl d a n => [0x88#8 ++ d ++ a ++ 0#8 ++ n]
  | .ushr d a n => [0x89#8 ++ d ++ a ++ 0#8 ++ n]
  | .usar d a n => [0x8A#8 ++ d ++ a ++ 0#8 ++ n]
  | .umin d a b u => [0x8B#8 ++ d ++ a ++ b ++ 0#8 ++ u]
  | .umax d a b u => [0x8C#8 ++ d ++ a ++ b ++ 0#8 ++ u]
  | .umovi d i => [0x8D#8 ++ d ++ 0#5 ++ i]
  | .umovhi d p i => [0x8E#8 ++ d ++ p ++ i]
  | .umov d a => [0x8F#8 ++ d ++ a ++ 0#14]
  | .br p c o => [0x90#8 ++ p ++ c ++ o]
  | .brs p c o => [0x91#8 ++ p ++ c ++ 1#1 ++ o]
  | .join => [0x92#8 ++ 0#24]
  | .brt i t => [0x93#8 ++ i ++ t]
  | .call p c o => [0x94#8 ++ p ++ c ++ o]
  | .ret => [0x95#8 ++ 0#24]
  | .callt i t => [0x96#8 ++ i ++ t]
  | .ubr a b c o => [0x97#8 ++ a ++ b ++ c ++ o]
  | .twist => [0x98#8 ++ 0#24]
  | .exit => [0x99#8 ++ 0#24]
  | .wait l s c t x => [0x9A#8 ++ l ++ s ++ c ++ t ++ x ++ 0#6]
  | .yield => [0x9B#8 ++ 0#24]
  | .bar n c => [0x9C#8 ++ n ++ c ++ 0#10]
  | .bara n c => [0x9D#8 ++ n ++ c ++ 0#10]
  | .barw n => [0x9E#8 ++ n ++ 0#20]
  | .sbar l => [0x9F#8 ++ l ++ 0#21]
  | .fence s k c x => [0xA0#8 ++ s ++ k ++ c ++ x ++ 0#17]
  | .uld d a i => [0xA1#8 ++ d ++ a ++ i]
  | .ust d a i => [0xA2#8 ++ d ++ a ++ i]
  | .uown a p => [0xA3#8 ++ 0#5 ++ a ++ 0#10 ++ p]
  | .srdu d i => [0xA4#8 ++ d ++ 0#5 ++ i]
  | .swr a i => [0xA5#8 ++ 0#5 ++ a ++ i]
  | .swrLsmode a => [0xA5#8 ++ 0#5 ++ a ++ 0x110#14]
  | .swrPcap a => [0xA5#8 ++ 0#5 ++ a ++ 0x203#14]
  | .rgrow a => [0xA6#8 ++ 0#5 ++ a ++ 0#14]
  | .rgtry d a => [0xA7#8 ++ d ++ a ++ 0#14]
  | .rshrk a => [0xA8#8 ++ 0#5 ++ a ++ 0#14]
  | .vwbs a => [0xA9#8 ++ 0#5 ++ a ++ 0#14]
  | .copy d a b r e c => [0xAA#8 ++ d ++ a ++ b ++ r ++ e ++ c]
  | .copy2d d a b r e c => [0xAB#8 ++ d ++ a ++ b ++ r ++ e ++ c]
  | .copyp d a b r e c => [0xAC#8 ++ d ++ a ++ b ++ r ++ e ++ c]
  | .trig d a => [0xAD#8 ++ d ++ a ++ 0#14]
  | .trigCancel d a => [0xAD#8 ++ d ++ a ++ 1#14]
  | .cntrAdd a c => [0xAE#8 ++ 0#5 ++ a ++ 0#8 ++ c]
  | .cntrSet a c => [0xAE#8 ++ 0#5 ++ a ++ 1#8 ++ c]
  | .cntrRead d c => [0xAE#8 ++ d ++ 2#13 ++ c]
  | .collh a => [0xAF#8 ++ 0#5 ++ a ++ 0#14]
  | .collhAbort d => [0xAF#8 ++ d ++ 1#19]
  | .collhTree d a b c e => [0xAF#8 ++ d ++ a ++ b ++ c ++ e ++ 2#2]
  | .lend d a => [0xB0#8 ++ d ++ a ++ 0#14]
  | .lendShare d a => [0xB0#8 ++ d ++ a ++ 1#14]
  | .retn d => [0xB1#8 ++ d ++ 0#19]
  | .retnRecall d => [0xB1#8 ++ d ++ 1#19]
  | .retnReclaim d => [0xB1#8 ++ d ++ 2#19]
  | .split d => [0xB2#8 ++ d ++ 0#19]
  | .mend d => [0xB3#8 ++ d ++ 0#19]
  | .tqry d a f => [0xB4#8 ++ d ++ a ++ 0#5 ++ f]
  | .fdom a => [0xB5#8 ++ 0#5 ++ a ++ 0#14]
  | .ftot d a f => [0xB6#8 ++ d ++ a ++ 0#12 ++ f]
  | .fdecl d a => [0xB7#8 ++ d ++ a ++ 0#14]
  | .fdeclRetire d a => [0xB7#8 ++ d ++ a ++ 1#14]
  | .tcfg t f r c => [0xB8#8 ++ 0#2 ++ t ++ 0#5 ++ f ++ r ++ c]
  | .tld t a => [0xB9#8 ++ 0#2 ++ t ++ a ++ 0#14]
  | .tst t a => [0xBA#8 ++ 0#2 ++ t ++ a ++ 0#14]
  | .macq k => [0xBB#8 ++ 0#2 ++ k ++ 0#19]
  | .mrel k => [0xBC#8 ++ 0#2 ++ k ++ 0#19]
  | .mma k a b w => [0xBD#8 ++ 0#2 ++ k ++ 0#2 ++ a ++ 0#2 ++ b ++ 0#4 ++ w]
  | .mloop k a b w => [0xBE#8 ++ 0#2 ++ k ++ 0#2 ++ a ++ 0#3 ++ b ++ 0#5 ++ w]
  | .amov k a r v => [0xBF#8 ++ 0#2 ++ k ++ a ++ 0#5 ++ r ++ v]
  | .aqnt k a b c t l f => [0xC0#8 ++ 0#2 ++ k ++ a ++ b ++ 0#4 ++ c ++ t ++ l ++ f]
  | .aclr k => [0xC1#8 ++ 0#2 ++ k ++ 0#19]
  | .phase => [0xC2#8 ++ 0#24]
  | .dgstRead d => [0xC3#8 ++ d ++ 0#19]
  | .dgstOn => [0xC3#8 ++ 1#24]
  | .dgstOff => [0xC3#8 ++ 2#24]
  | .dgstClr => [0xC3#8 ++ 3#24]
  | .dgstFold a b => [0xC3#8 ++ 0#5 ++ a ++ b ++ 4#9]
  | .ordrOff d a => [0xC4#8 ++ d ++ a ++ 0#14]
  | .ordrRec d a => [0xC4#8 ++ d ++ a ++ 1#14]
  | .ordrPlay d a => [0xC4#8 ++ d ++ a ++ 2#14]
  | .tret => [0xC5#8 ++ 0#24]
  | .hcall n => [0xC6#8 ++ 0#16 ++ n]
  | .hret => [0xC7#8 ++ 0#24]
  | .lnch d a b => [0xC8#8 ++ d ++ a ++ b ++ 0#9]
  | .sksv d a b => [0xC9#8 ++ d ++ a ++ b ++ 0#9]
  | .skrs d a b => [0xCA#8 ++ d ++ a ++ b ++ 0#9]
  | .tlbi a b => [0xCB#8 ++ 0#5 ++ a ++ b ++ 0#9]
  | .tlbiCtx b => [0xCB#8 ++ 0#10 ++ b ++ 1#9]
  | .tlbiAll => [0xCB#8 ++ 2#24]
  | .brk n => [0xCC#8 ++ 0#15 ++ n]
  | .halt => [0xCD#8 ++ 0#24]
  | .cflu a => [0xCE#8 ++ 0#5 ++ a ++ 0#14]
  | .cfluInv a => [0xCE#8 ++ 0#5 ++ a ++ 1#14]
  | .cfluI a => [0xCE#8 ++ 0#5 ++ a ++ 2#14]
  | .msgs d a b q => [0xCF#8 ++ d ++ a ++ b ++ 0#4 ++ q]
  | .msgr d a b => [0xD0#8 ++ d ++ a ++ b ++ 0#9]
  | .msgrTry d a b => [0xD0#8 ++ d ++ a ++ b ++ 1#9]
  | .gatherPacketAtHome _ => []
  | .gatherPacketAtStack _ => []
  | .gatherReply _ => []
  | .atomicAtHome _ => []
  | .atomicReply _ => []
  | .routerCombine _ _ => []
  | .atmEpochEnd => []
  | .homeMoveRelease _ => []
  | .grantRequest _ => []
  | .grantInstall _ => []
  | .grantRevoke _ => []
  | .tokenStateChange _ => []
  | .coreFailure _ => []
  | .xferDebit _ => []
  | .xferCredit _ => []
  | .xferCreditAck _ => []
  | .xferCreditRefusal _ => []
  | .fieldRecordResend _ => []
  | .domainDescriptorCopy _ => []
  | .copyChunk _ => []
  | .copyComplete _ => []
  | .fabricIngressAccess _ => []
  | .fabricRefusal _ _ _ => []
  | .triggerEvaluation _ => []
  | .lsmodeTakesEffect _ => []
  | .ldlfeGranuleFilled _ _ _ => []
  | .rgrowGrant _ => []
  | .rgrowDeadlockBreak _ => []
  | .matrixRequestPost _ => []
  | .matrixPassGrant _ => []
  | .mloopStepRetire _ => []
  | .matrixRequestComplete _ => []
  | .collPacketIngress _ => []
  | .collRetryResend _ _ => []
  | .skeinPlacement _ => []
  | .placementWaitTimeout _ => []
  | .plySwap _ => []
  | .plyAntiStarvation _ => []
  | .powerInterval _ => []
  | .skeinSave _ => []
  | .skeinRestore _ => []
  | .lateReply _ => []
  | .replyLostTimeout _ => []
  | .saveStopTimeout _ => []
  | .poisonTrap _ _ _ => []
  | .prectlReq _ _ => []
  | .prectlResume _ _ => []
  | .preemptDeadline _ => []
  | .sliceExpiry _ => []
  | .dbgctlHalt _ _ => []
  | .dbgctlRelease _ _ => []
  | .haltStopTimeout _ _ => []
  | .phaseAllCommitted _ => []
  | .orderGateTimeout _ => []
  | .shadowLatchRepeat _ => []
  | .migbaseWrite _ _ _ => []
  | .migtailWrite _ _ => []
  | .migrationDescriptorTake _ => []
  | .migrationMoveDone _ => []
  | .chretWrite _ _ _ => []
  | .frmoveWrite _ _ => []
  | .movingHoldTimeout _ => []
  | .retrycntRead _ => []
  | .atmctlWrite _ => []
  | .atmcntRead => []
  | .homebaseWrite _ => []
  | .tokbaseWrite _ _ => []
  | .colldropRead _ => []
  | .evlostRead _ => []
  | .replaysRead _ => []
  | .mqpushWord0 _ _ _ => []
  | .mqpushWord1 _ _ _ => []
  | .prstReset _ _ => []
  | .partitionResetDone _ => []
  | .pbootWrite _ _ => []
  | .evctlWrite _ _ => []
  | .evheadWrite _ _ => []
  | .eventInterruptTimer _ => []
  | .hostWindowAccess _ _ _ => []
  | .channelEvent _ _ _ => []
  | .keyRelease => []
  | .spdmMeasurementRequest _ => []
  | .powerOn _ => []
  | .portDownTimeout _ => []
  | .packageLost _ => []
  | .flitCrcReplay _ => []
  | .registerWrite _ _ => []
  | .copyResendOnRetry _ => []
  | .collPacketAck _ _ _ => []
  | .powerLoss => []

/-- The instruction word zero-extended; for an extended pair the XW in the low half and its follower in the high
half: the EADDR of the causes that name the word (14 R247). -/
def wordsValue : List Word → DWord
  | [] => 0
  | [w] => w.setWidth 64
  | w :: f :: _ => f ++ w

/-- The length of an instruction in bytes. -/
def Instr.bytes (i : Instr) : Nat := 4 * (encode i).length

end Sys2Proof
end

