-- ==== Sys2Proof/Machine/State.lean ====
section
/-! DEFINITION. The state of one package, as plain data: its strands, skeins, launches, cores, homes, engines, I/O dies,
partitions and host link, and the work in flight between them. Tables are sparse (Tbl): an unlisted key holds the
record that the matching `reset` value gives. -/

namespace Sys2Proof.Machine

/-- The mode of a strand (14 R242). -/
inductive Mode where
  | user
  | supervisor
  | hypervisor
  deriving DecidableEq, Repr

/-- The causes of 14 R247. -/
inductive Cause where
  | illegal
  | priv
  | sysc
  | brk
  | regwin
  | lsbound
  | misalign
  | page
  | prot
  | token
  | fstore
  | fneg
  | fovf
  | acctok
  | brtab
  | uwrite
  | poison
  | digest
  | isolate
  | collabort
  | lostreply
  | nest
  | straddle
  | calldepth
  deriving DecidableEq, Repr

/-- The ordering kind of a page (02 R35). -/
inductive PageKind where
  | unordered
  | release
  | sequential
  deriving DecidableEq, Repr

/-- What keeps a strand from going on (12 R223): nothing, a condition that is looked at again when the group issues (with `home`
that of a token instruction, TQRY or LNCH in progress at its home, 22 R372; with `gate` that the order gate of a word admits a
store, 15 R282), or an event that a later step brings; with `half` one half of a 16-byte access is still to be performed (20 R336). -/
inductive Wait where
  | none
  | poll
  | home
  | gate (pa : Nat)
  | half
  | twist
  | barrier (name : Nat)
  | sbar (level place : Nat)
  | fullEmpty
  | grow (n : Nat)
  | accToken (k : Nat)
  | engine (acc : Nat)
  | grant
  | token
  | debit
  | phase
  | acks
  | save
  | yielded
  | drain (since : Nat)
  deriving DecidableEq, Repr

/-- One trap-state set of a strand (14 R244): ECAUSE of lane j in bits [8j+7:8j]. -/
structure TrapSet where
  epc : DWord
  eaddr : DWord
  ecause : Word
  emask : BitVec 4
  prev : Mode
  deriving DecidableEq, Repr

/-- The trap state at reset. -/
def TrapSet.reset : TrapSet := { epc := 0, eaddr := 0, ecause := 0, emask := 0, prev := .user }

/-- A load, atomic or gather whose reply is outstanding (07 R134, 14 R257): its tag, the first register it writes
(supervisor register, or allocation register), how many, the lanes still to be answered, and the lanes declared
lost. -/
structure Reply where
  tag : Nat
  sup : Bool
  reg : Nat
  count : Nat
  lanes : BitVec 4
  lost : Bool
  deriving DecidableEq, Repr

/-- A store or reduction that counts in ST: its tag and the lanes not yet performed (17 R298). -/
structure Outstanding where
  tag : Nat
  lanes : BitVec 4
  deriving DecidableEq, Repr

/-- A transfer of the strand (07 R134): the XFER's address, the lanes awaiting their debit, the lanes awaiting
acknowledgement, the lanes with an asynchronous fault and their causes, one byte each, and in `sync` and `syncCauses` the
lanes that failed at the debit, until every debit is decided. -/
structure XferEntry where
  tag : Nat
  addr : DWord
  undecided : BitVec 4
  awaiting : BitVec 4
  failed : BitVec 4
  causes : Word
  sync : BitVec 4
  syncCauses : Word
  deriving DecidableEq, Repr

/-- A copy, COLL or trigger fault that waits for its delivery at WAIT or EXIT (05 R102, 11 R210); a COLL's with the binding of its
handle and the attempt it was sent under, and a copy's with its record as it stopped (05 R103). -/
structure PendFault where
  seq : Nat
  cause : Cause
  addr : DWord
  mask : BitVec 4
  att : Option (Nat × BitVec 16)
  record : List Nat
  deriving DecidableEq, Repr

/-- One access folded, or to be folded, into a strand digest (15 R275): the a and d of Fold; the tag of the atomic whose old
value is awaited; or the words of a DGST.FOLD by their addresses, each with its poison once it has returned, and whether they
are to be folded (15 R276). -/
inductive FoldItem where
  | ready (a d : DWord)
  | awaiting (tag lane : Nat) (a : DWord)
  | block (tag : Nat) (on : Bool) (words : List (Nat × Option (DWord × Bool)))
  deriving DecidableEq, Repr

/-- A strand: four lanes, one PC (12 R213, 07 R134). Stacks are listed top first. LD is the number of `replies`, ST that
of `stores` and XF that of `xfers` (17 R298); `lost` holds the lanes of registers whose reply was lost (14 R258):
supervisor or user, register, lane. -/
structure Strand where
  live : Bool
  pc : DWord
  masks : List (BitVec 8)
  calls : List DWord
  mode : Mode
  edepth : Nat
  set1 : TrapSet
  set2 : TrapSet
  evec : DWord
  hcause : DWord
  hepc : DWord
  hvec : DWord
  escr : Tbl DWord
  vwb : Nat
  dom : DWord
  preds : Word
  fstat : BitVec 6
  digest : DWord
  digestOn : Bool
  folds : List FoldItem
  foldBad : Option DWord
  cp : Nat
  tl : Nat
  dead : BitVec 4
  newDead : BitVec 4
  poisonAddr : DWord
  energySel : BitVec 8
  wait : Wait
  replies : List Reply
  stores : List Outstanding
  xfers : List XferEntry
  faults : List PendFault
  lost : List (Bool × Nat × Nat)
  user : Tbl Word
  sup : Tbl Word
  deriving DecidableEq, Repr

/-- A strand that does not exist, or has exited: the value of an unlisted key. Predicates hold P0 true in each lane. (DESIGN CHOICE, log entry 2.) -/
def Strand.reset : Strand :=
  { live := false, pc := 0, masks := [], calls := [], mode := .user, edepth := 0, set1 := TrapSet.reset,
    set2 := TrapSet.reset, evec := 0, hcause := 0, hepc := 0, hvec := 0, escr := [], vwb := 0, dom := 0,
    preds := 0x01010101, fstat := 0, digest := 0, digestOn := false, folds := [], foldBad := none, cp := 0, tl := 0, dead := 0, newDead := 0, poisonAddr := 0, energySel := 0, wait := .none, replies := [], stores := [],
    xfers := [], faults := [], lost := [], user := [], sup := [] }

/-- A named barrier (07 R133): strands arrived, expected count, in use; `who` names the strands that have arrived in
the current generation, as ply * 8 + strand. -/
structure Barrier where
  arrived : Nat
  expected : Nat
  inUse : Bool
  who : List Nat
  deriving DecidableEq, Repr

/-- A barrier not in use. -/
def Barrier.reset : Barrier := { arrived := 0, expected := 0, inUse := false, who := [] }

/-- A scale operand of a matrix step (10 R185): base, row stride, block length code, and whether there are scales. -/
structure ScaleWord where
  base : Nat
  stride : Nat
  blk : Nat
  on : Bool
  deriving DecidableEq, Repr

/-- No scales. -/
def ScaleWord.reset : ScaleWord := { base := 0, stride := 0, blk := 0, on := false }

/-- The MLOOP chain of a skein (10 R187, R193): `fresh` until a step has fetched both tiles, the scales fetched for the step under
way, and those of the next step when it has been fetched already (10 R188). -/
structure Chain where
  active : Bool
  n : Nat
  done : Nat
  abase : Nat
  ainc : Int
  bbase : Nat
  binc : Int
  a : Nat
  b : Nat
  acc : Nat
  cnt : Nat
  ce : Bool
  wf : Bool
  fbv : Bool
  sa : ScaleWord
  sb : ScaleWord
  ply : Nat
  strands : List Nat
  fresh : Bool
  sca : List PByte
  scb : List PByte
  ahead : Option (List PByte × List PByte)
  deriving DecidableEq, Repr

/-- No chain in flight. -/
def Chain.reset : Chain :=
  { active := false, n := 0, done := 0, abase := 0, ainc := 0, bbase := 0, binc := 0, a := 0, b := 0, acc := 0, cnt := 0,
    ce := false, wf := false, fbv := false, sa := ScaleWord.reset, sb := ScaleWord.reset, ply := 0, strands := [],
    fresh := false, sca := [], scb := [], ahead := none }

/-- A matrix operation in the engine queue (10 R181). A TCFG or AMOV takes its place and is performed by its group, which waits for
it; an MREL stands there until the token is free (10 R182, R184). -/
inductive MatOp where
  | load (t addr : Nat)
  | store (t addr : Nat)
  | mma (acc a b : Nat) (sa sb : ScaleWord) (scales : List PByte × List PByte)
  | loop
  | quant (acc elem scale : Nat) (clear transpose : Bool) (blk fmt : Nat)
  | clear (acc : Nat)
  | config (t : Nat) (cfg : BitVec 14)
  | move (acc : Nat)
  | release (acc : Nat)
  deriving DecidableEq, Repr

/-- How far a request of the engine queue has come (10 R182, R183). -/
inductive MatStage where
  | queued
  | posted
  | granted
  deriving DecidableEq, Repr

/-- A request of a skein's engine queue: operation, issuing ply and strands, stage and age. -/
structure MatReq where
  op : MatOp
  ply : Nat
  strands : List Nat
  stage : MatStage
  age : Nat
  deriving DecidableEq, Repr

/-- Where a skein stands: not placed, resident on its core, or saved in its image (12 R216, 14 R256). -/
inductive Place where
  | unplaced
  | resident
  | saved
  deriving DecidableEq, Repr

/-- Why a skein is being saved (14 R256, R253, R263; 07 R125; 15 R273). -/
inductive SaveReason where
  | fault
  | deadlock
  | preempt
  | named
  | debug
  | phase
  deriving DecidableEq, Repr

/-- An older value of a W register that a ply may still read, with the plies that have written the register since (07 R128).
(DESIGN CHOICE, log entry 13.) -/
structure LateW where
  ply : Nat
  reg : Nat
  old : DWord
  writers : List Nat
  deriving DecidableEq, Repr

/-- A skein: what its plies share (12 R216) and where it stands. `lagging` names the plies that do not see others' writes of W
registers at once, and `late` what they still read (07 R128); `turn` is, of each ply in parts, the strand from which the next part
is taken (12 R214); `pend` says since when a ply has been without a slot, and `kept` until when a promoted one keeps its slot (12
R223). -/
structure Skein where
  place : Place
  core : Nat
  launch : Nat
  index : Nat
  ctx : Nat
  part : Nat
  plies : Nat
  strands : Nat
  nreg : Nat
  lsSize : Nat
  ls : Tbl Byte
  full : Tbl Bool
  lsBad : Tbl Bool
  w : Tbl DWord
  writer : Tbl Nat
  wBad : Tbl Bool
  lagging : List Nat
  late : List LateW
  bars : Tbl Barrier
  parts : Tbl (List (List Nat))
  active : Tbl Bool
  turn : Tbl Nat
  pend : Tbl Nat
  kept : Tbl DWord
  tiles : Nat
  accs : Nat
  tile : Tbl Byte
  tileBad : Tbl Bool
  tileCfg : Tbl (BitVec 14)
  acc : Tbl Word
  accBad : Tbl Bool
  token : Tbl Nat
  queue : List MatReq
  chain : Chain
  digest : DWord
  phase : Nat
  committed : Bool
  firstDigest : DWord
  age : Nat
  saving : Option SaveReason
  faultRec : List DWord
  heldSave : Bool
  heldFault : Bool
  savedCore : Nat
  checkpointed : Bool
  checkNreg : Nat
  checkParts : Tbl (List (List Nat))
  gang : Bool
  accept : Bool
  deriving DecidableEq, Repr

/-- A skein that does not exist: the value of an unlisted key. (DESIGN CHOICE, log entry 2.) -/
def Skein.reset : Skein :=
  { place := .unplaced, core := 0, launch := 0, index := 0, ctx := 0, part := 0, plies := 0, strands := 0, nreg := 0,
    lsSize := 0, ls := [], full := [], lsBad := [], w := [], writer := [], wBad := [], lagging := [], late := [], bars := [],
    parts := [], active := [], turn := [], pend := [], kept := [], tiles := 0, accs := 0, tile := [], tileBad := [], tileCfg := [], acc := [], accBad := [], token := [],
    queue := [], chain := Chain.reset, digest := 0, phase := 0, committed := false, firstDigest := 0,
    age := 0, saving := none, faultRec := [], heldSave := false, heldFault := false, savedCore := 0, checkpointed := false, checkNreg := 0, checkParts := [], gang := false,
    accept := false }

/-- An accepted launch (12 R218, R219): its record's eight doublewords, its initial W values and how far it has come;
`block` is the determinism block of a deterministic launch (15 R270). -/
structure Launch where
  num : Nat
  part : Nat
  ctx : Nat
  tag : BitVec 48
  words : List DWord
  winit : List DWord
  evec : DWord
  hvec : DWord
  met : Bool
  placed : Nat
  exited : Nat
  starved : Bool
  dispatcher : Bool
  bound : Option Nat
  handle : DWord
  phase : Nat
  run : Nat
  block : List DWord
  reset : Bool
  deriving DecidableEq, Repr

/-- A core (06 R114, 07 R124, 14 R257): its banking mode, a mode write that waits, and whether it has failed. -/
structure Core where
  mode : Bool
  pend : Option Bool
  failed : Bool
  deriving DecidableEq, Repr

/-- A core at reset: conflict-replay mode, no pending write (06 R114). (DESIGN CHOICE, log entry 2.) -/
def Core.reset : Core := { mode := false, pend := none, failed := false }

/-- Who holds a region, besides package and context (02 R43). -/
inductive Agent where
  | context
  | skein (launch8 index : Nat)
  | copies
  | matrix (quad : Nat)
  | home (die : Nat)
  deriving DecidableEq, Repr

/-- A holder word with its issuing forms resolved (02 R43, R54). -/
structure Holder where
  package : Nat
  ctx : Nat
  agent : Agent
  deriving DecidableEq, Repr

/-- A region with its token state (02 R45): the chain lists chain[0] first; a sharer slot with count 0 is empty. -/
structure Region where
  part : Nat
  ctx : Nat
  base : Nat
  k : Nat
  chain : List Holder
  sharers : List (Holder × Nat)
  lost : Bool
  deriving DecidableEq, Repr

/-- A grant in a cache of its own of a core, of a core's copy engines, or of an ingress port (02 R48): the cache's number, the
partition, the package and the agent it was given to, its region, whether it allows writes, and whether the region is held
write-back (02 R55). -/
structure Grant where
  core : Nat
  part : Nat
  package : Nat
  agent : Agent
  ctx : Nat
  base : Nat
  k : Nat
  write : Bool
  back : Bool
  deriving DecidableEq, Repr

/-- A cached translation (02 R38): the leaf entry of a page, with the home die of each of its 64 KiB frames that has been
reached, by the frame's number (04 R82). -/
structure TlbEntry where
  core : Nat
  part : Nat
  ctx : Nat
  base : Nat
  k : Nat
  leaf : DWord
  dies : List (Nat × Nat)
  deriving DecidableEq, Repr

/-- A line of a core's L1 data cache (02 R55): bytes it holds, bytes that are dirty, and the skein whose stores they
are. (DESIGN CHOICE, log entry 15.) -/
structure L1Line where
  core : Nat
  ctx : Nat
  va : Nat
  pa : Nat
  kind : PageKind
  owner : Nat
  valid : Tbl Bool
  dirty : Tbl Bool
  bytes : Tbl Byte
  bad : Tbl Bool
  deriving DecidableEq, Repr

/-- A word of a core's L1 instruction cache (08 R135). -/
structure ILine where
  core : Nat
  ctx : Nat
  va : Nat
  word : Word
  deriving DecidableEq, Repr

/-- Who issued an access and how it is ordered (13 R236): skein, ply, tag, context,
the instruction's address, ORD. -/
structure Origin where
  core : Nat
  die : Nat
  sid : Nat
  ply : Nat
  tag : Nat
  ctx : Nat
  pc : DWord
  acq : Bool
  rel : Bool
  deriving DecidableEq, Repr

/-- One lane of a packet: ply lane, physical and virtual address, size, page kind, whether the L1 may keep it, the
page is a field page, its tile width code, the data of a write or a reply, how many of its bytes have been performed, and whether
those are the upper half (20 R336). -/
structure LaneAcc where
  lane : Nat
  pa : Nat
  va : Nat
  size : Nat
  kind : PageKind
  cache : Bool
  fld : Bool
  cnv : Nat
  data : List PByte
  done : Nat
  up : Bool := false
  deriving DecidableEq, Repr

/-- A gather, scatter or converted-read packet (01 R12, R13): its base address, and the home slice of its die that it
reaches next (01 R16). A ULD, UST or DGST.FOLD makes one access for a group: `uni` lists its strands, and the W register that
the reply is for. -/
structure Packet where
  org : Origin
  write : Bool
  conv : BitVec 2
  stack : Nat
  die : Nat
  base : Nat
  slice : Nat
  uni : Option (List Nat × Option Nat)
  lanes : List LaneAcc
  deriving DecidableEq, Repr

/-- What a home does to a word (20 R343, R345). -/
inductive AtomOp where
  | add
  | mins
  | maxs
  | maxu
  | exch
  | and
  | or
  | xor
  | cas
  | pair
  deriving DecidableEq, Repr

/-- One contribution of an atomic or reduction: the ply lane it is for and the address that it named, its operand, the new
value of a CAS, and whether it takes the old value back. -/
structure AtomLane where
  org : Origin
  lane : Nat
  va : Nat
  operand : DWord
  repl : DWord
  reply : Bool
  deriving DecidableEq, Repr

/-- An atomic or reduction request on one word, its contributions in order (04 R83, R86): the home die it was
translated to, whether it is qualified or of a deterministic launch, how many combinings made it, each of which holds an
entry of the split table of its home die's router, and the merged pair of combined pair requests. (DESIGN CHOICE, log entry 28.) -/
structure AtomReq where
  op : AtomOp
  width : Nat
  pa : Nat
  va : Nat
  kind : PageKind
  die : Nat
  ordered : Bool
  det : Bool
  merged : Nat
  pair : Option DWord
  lanes : List AtomLane
  deriving DecidableEq, Repr

/-- One lane of a transfer on its way (03 R71, R74): domain, issuing strand, cells, amount, mode, and for a debit on
another package how far it is: 0 to be sent, 1 sent, 2 decided. -/
structure XferLane where
  org : Origin
  dom : Nat
  lane : Nat
  fromCell : Nat
  toCell : Nat
  mag : Nat
  neg : Bool
  clip : Bool
  dest : Nat
  destSup : Bool
  stage : Nat
  deriving DecidableEq, Repr

/-- A transit record held at a debit home (03 R75), and whether its words and their copies in the mirror slice can still be read
(04 R80, R81). -/
structure Transit where
  home : Nat
  dom : Nat
  record : FieldRec
  org : Origin
  sent : Bool
  own : Bool
  mirror : Bool
  deriving DecidableEq, Repr

/-- A token instruction that waits for its hand-off (02 R50 to R52). -/
inductive TokenOp where
  | lend (h : Holder)
  | share (h : Holder)
  | retn
  | unshare
  | recall
  deriving DecidableEq, Repr

/-- A piece of a read of field cells: the package of the cell, its index, the first byte of it and how many (03 R78). -/
structure CellRead where
  package : Nat
  cell : Nat
  off : Nat
  len : Nat
  deriving DecidableEq, Repr

/-- One lane of a 16-byte access of which one half is still to be performed (20 R336): its registers for that half, the bytes to be
stored, and where: the offset in the local store, or the address. -/
structure HalfLane where
  lane : Nat
  at_ : Nat
  va : Nat
  kind : PageKind
  die : Nat
  regs : List (Bool × Nat)
  data : List PByte
  deriving DecidableEq, Repr

/-- The half of a group's 16-byte access that is still to be performed (20 R336): in the local store where `near` says so, in the
core's L1 otherwise. -/
structure Half where
  org : Origin
  strands : List Nat
  near : Bool
  write : Bool
  lanes : List HalfLane
  deriving DecidableEq, Repr

/-- A FENCE that has issued and whose order does not hold yet (13 R237 to R239): the group's core, skein, ply and strands, its
kind (ACQ, REL), whether its scope is wider than CORE, whether it is FENCE.SYS.FULL, its CP and XF bits, and its place. -/
structure Fence where
  core : Nat
  sid : Nat
  ply : Nat
  strands : List Nat
  acq : Bool
  rel : Bool
  wide : Bool
  all : Bool
  cp : Bool
  xf : Bool
  tag : Nat
  deriving DecidableEq, Repr

/-- What the package has sent to another package (11 R196, R209). (DESIGN CHOICE, log entry 31.) -/
inductive FabricOut where
  | packet (dst : Nat) (pkt : FabPkt)
  | coll (dst : Nat) (pkt : CollPkt)
  | answer (dst tag : Nat) (ok : Bool) (cause addr : Nat) (data : List Byte)
  | collAnswer (dst tag : Nat) (ans : CollAnswer)
  | domain (dst : Nat) (msg : DomainMsg)
  | credited (dst home : Nat) (r : FieldRec) (ok : Bool) (cause : Nat)
  deriving DecidableEq, Repr

/-- Work in flight between agents: the step that takes an item is the event of the same name. -/
inductive Item where
  | gatherHome (p : Packet)
  | gatherStack (p : Packet)
  | gatherReply (fill : Bool) (p : Packet)
  | atomic (r : AtomReq)
  | atomReply (r : AtomReq) (olds : List (DWord × Bool))
  | grantAsk (core sid : Nat) (agent : Agent) (ctx part va : Nat) (write : Bool) (strands : List Nat)
  | grantGive (g : Grant) (strands : List Nat)
  | revoke (die part ctx base k : Nat)
  | tokenOp (op : TokenOp) (part ctx base k : Nat) (sid ply : Nat) (strands : List Nat) (since : Nat)
  | debit (x : XferLane)
  | credit (dom home : Nat) (r : FieldRec) (org : Origin)
  | creditAck (dom home : Nat) (r : FieldRec) (org : Origin)
  | creditRefuse (dom home : Nat) (r : FieldRec) (org : Origin) (cause : Nat)
  | fieldAsk (org : Origin) (acc : LaneAcc) (uni : Option (List Nat × Option Nat)) (part slot : Nat) (cells : List CellRead) (sent : Bool)
  | totalAsk (tag sid ply : Nat) (strands : List Nat) (d sel : Nat) (handle : DWord)
  | fence (f : Fence)
  | half (h : Half)
  deriving DecidableEq, Repr

/-- How a copy stands. -/
inductive CopyState where
  | running
  | paused
  | sent
  | asked
  deriving DecidableEq, Repr

/-- What a copy is (05 R93, 11 R211). -/
inductive CopyKind where
  | copy
  | copy2d
  | copyp
  | tree
  deriving DecidableEq, Repr

/-- A copy in flight (05 R92, R103): its operands as issued, the strands it counts on and their lanes, the bytes
performed, what it has overwritten of its own source (05 R98), and what it has read of the chunk under way while field cells on
other packages are asked for (03 R78), the last under the tag `ask`. A tree reduce keeps its slot count in `w1`, and in `bind` the
binding of its handle. `pin` is where a write goes that is held at a moving frame, with the leaf entry of its arrival (01 R28). -/
structure Copy where
  seq : Nat
  core : Nat
  sid : Nat
  ply : Nat
  lanes : List (Nat × BitVec 4)
  kind : CopyKind
  fired : Bool
  dst : DWord
  src : DWord
  w0 : DWord
  w1 : DWord
  fn : BitVec 9
  mode : Mode
  progress : Nat
  state : CopyState
  fenced : List Nat
  snap : List (Nat × PByte)
  got : List PByte
  bind : Nat := 0
  ask : Nat := 0
  pin : Option (Nat × Nat) := none
  deriving DecidableEq, Repr

/-- An armed trigger record (05 R105, R106). -/
structure Trigger where
  core : Nat
  slot : Nat
  sid : Nat
  ply : Nat
  lanes : List (Nat × BitVec 4)
  addr : Nat
  seq : Nat
  mode : Mode
  words : List DWord
  deriving DecidableEq, Repr

/-- How far a domain is (03 R61, R64): the listed packages are asked; this package, a listed one, has agreed and waits for the
declarer's word; the total home is told INITIAL; declared; a declaration that was refused is undone; a retirement waits for transit
records; the copies are released. -/
inductive DomStage where
  | asking
  | agreed
  | telling
  | declared
  | undoing
  | draining
  | releasing
  deriving DecidableEq, Repr

/-- A domain (03 R60, R62): descriptor fields, package of each block (none listed: the declarer), source and sink cells, totals; the
frames here, each with the number of its 64 KiB page; `awaiting` are packages that still have to acknowledge, `agreed` those that
hold a copy, `refusal` whether one has refused, and whether it did for want of the slot; and `waiter` the group that waits:
skein, ply, strands, and the W register that takes the slot. -/
structure Domain where
  part : Nat
  slot : Nat
  ctx : Nat
  handle : DWord
  base : Nat
  count : Nat
  blk : Nat
  wide : Bool
  signed : Bool
  q : Nat
  owners : List Nat
  sources : List Nat
  sinks : List Nat
  lostBlocks : List Nat
  frames : List (Nat × Nat)
  initial : BitVec 128
  injected : BitVec 128
  removed : BitVec 128
  declarer : Nat
  stage : DomStage
  awaiting : List Nat
  agreed : List Nat
  refusal : Option Bool
  waiter : Option (Nat × Nat × List Nat × Nat)
  deriving DecidableEq, Repr

/-- An armed order-log entry of a home slice (15 R280 to R282). -/
structure OrderEntry where
  home : Nat
  part : Nat
  ctx : Nat
  launch : Nat
  sid : Nat
  desc : Nat
  pa : Nat
  log : Nat
  cap : Nat
  used : Nat
  div : Bool
  full : Bool
  play : Bool
  runAgent : Nat
  runLen : Nat
  stopped : Bool
  deriving DecidableEq, Repr

/-- A COLL that awaits the answers of its destinations (11 R210): the binding and the attempt it was sent under. -/
structure CollWait where
  tag : Nat
  sid : Nat
  ply : Nat
  bind : Nat
  attempt : Nat
  lanes : List (Nat × BitVec 4)
  peers : List Nat
  seq : Nat
  deriving DecidableEq, Repr

/-- A collective-table entry (11 R201): the launch that bound it, the handle's words, the current attempt, and the number of this
binding. -/
structure CollEntry where
  launch : Nat
  words : List DWord
  attempt : BitVec 16
  bind : Nat
  deriving DecidableEq, Repr

/-- An event record of the completion ring (16 R287): type and words 1 to 3, with the partition it is meant for. -/
structure Event where
  part : Nat
  type : Nat
  w1 : DWord
  w2 : DWord
  w3 : DWord
  deriving DecidableEq, Repr

/-- What the package has written into host memory or sent on the link (16 R287, R288). -/
inductive HostOut where
  | record (addr : DWord) (words : List DWord)
  | interrupt (part : Nat)
  | answer (bytes : List Byte)
  | refused
  | measurement (block : Nat) (words : List DWord)
  deriving DecidableEq, Repr

/-- An access from outside, as it is held at a moving frame (01 R28) or before the gate of a watched word (15 R282): a packet, or a
host's write at an offset of a partition's load/store window. -/
inductive HeldBody where
  | put (pkt : FabPkt)
  | coll (pkt : CollPkt)
  | host (part off : Nat) (bytes : List Byte)
  deriving DecidableEq, Repr

/-- A held access, which has passed its checks, with the translation that was in force on its arrival: its partition, context and
sender; and for its bytes, or each of its elements, the virtual and the physical address, the size, and whether the physical
address still names the frame that moves (01 R28). -/
structure Held where
  body : HeldBody
  part : Nat
  ctx : Nat
  src : Nat
  spots : List (Nat × Nat × Nat × Bool)
  deriving DecidableEq, Repr

/-- What the health monitors report (16 R293): each die's path delay and days to the end of its life, the spare rows used, the
eye margins, and the days that the repairs and the ports leave. -/
structure Health where
  delay : Tbl (BitVec 16)
  days : Tbl Word
  repair : DWord
  margin : DWord
  repairDays : Word
  portDays : Word
  deriving DecidableEq, Repr

/-- The health registers at reset (16 R293). -/
def Health.reset : Health := { delay := [], days := [], repair := 0, margin := 0, repairDays := 0xFFFFFFFF, portDays := 0xFFFFFFFF }

/-- The memory-control registers of an I/O die that are its own (01 R22, R29). -/
structure IoDie where
  migBase : DWord
  migSize : DWord
  migHead : Nat
  migTail : Nat
  migErr : Bool
  migBusy : Bool
  migPend : Option (DWord × DWord)
  migPa : Nat
  migDesc : List DWord
  chret0 : DWord
  chret1 : DWord
  frMark : Option Nat
  retryCnt : Nat
  deriving DecidableEq, Repr

/-- An I/O die at reset (01 R22, R29). (DESIGN CHOICE, log entry 2.) -/
def IoDie.reset : IoDie :=
  { migBase := 0, migSize := 0, migHead := 0, migTail := 0, migErr := false, migBusy := false, migPend := none, migPa := 0, migDesc := [],
    chret0 := 0, chret1 := 0, frMark := none, retryCnt := 0 }

/-- A message of a queue (12 R217, 14 R254): its bytes as four doublewords. -/
abbrev Msg := DWord × DWord × DWord × DWord

/-- A partition's share of the package: the registers of its block, of its fabric window and of its pre-emption
block, its queues and its event ring (16 R285, 11 R198, 14 R259, 04 R91); `energyFrac` is what each queue's energy count has beyond
whole microjoules (12 R228), and `running` lists the contexts in the order in which they came to run (14 R262). -/
structure Partition where
  present : Bool
  spid : BitVec 32
  ports : BitVec 16
  gran : BitVec 8
  chans : Nat
  members : List Nat
  ctxBase : DWord
  lswBase : DWord
  lswCtx : BitVec 16
  lostQ : Word
  busy : Bool
  pbootRec : DWord
  pbootWait : Bool
  pushWord : Tbl DWord
  queues : Tbl (List Msg)
  evBase : DWord
  evTime : BitVec 16
  evCount : BitVec 16
  evLog2n : BitVec 5
  evHead : BitVec 16
  evTail : BitVec 16
  evLost : Nat
  evSeq : Word
  evUncovered : Nat
  esel : BitVec 8
  energy : Tbl DWord
  energyFrac : Tbl Nat
  fwBase : DWord
  fwCtx : BitVec 16
  fwLog2 : BitVec 6
  collDrop : Nat
  preCtx : BitVec 16
  preDeadline : BitVec 24
  preReq : Bool
  preState : BitVec 8
  preSaved : Word
  preHeld : List Nat
  preTarget : Nat
  preSlice : Bool
  running : List Nat
  sliced : Option Nat
  sliceLen : Word
  dbgHalt : Bool
  dbgLaunch : BitVec 24
  stopBase : DWord
  tokBase : DWord
  pcap : Nat
  pcapNext : Nat
  permit : Nat
  keyGen : Nat
  halted : Bool
  raiser : Option (Nat × Bool)
  stopWritten : List Nat
  deriving DecidableEq, Repr

/-- A partition's registers at reset (16 R285, R292; 11 R198; 14 R259; 04 R91): EVCTL's TIMEUS 50 and COUNT 1, LSWCTX
0xFFFF, FWCTL's LOG2SIZE 16, PRECTL's DEADLINE 1000, ISSUE 64. (DESIGN CHOICE, log entry 2.) -/
def Partition.reset : Partition :=
  { present := false, spid := 0, ports := 0, gran := 0, chans := 0, members := [], ctxBase := 0, lswBase := 0, lswCtx := 0xFFFF,
    lostQ := 0, busy := false, pbootRec := 0, pbootWait := false, pushWord := [], queues := [], evBase := 0, evTime := 50, evCount := 1,
    evLog2n := 0, evHead := 0, evTail := 0, evLost := 0, evSeq := 0, evUncovered := 0, esel := 0, energy := [], energyFrac := [],
    fwBase := 0, fwCtx := 0, fwLog2 := 16, collDrop := 0, preCtx := 0, preDeadline := 1000, preReq := false,
    preState := 0, preSaved := 0, preHeld := [], preTarget := 0, preSlice := false, running := [], sliced := none, sliceLen := 0, dbgHalt := false, dbgLaunch := 0, stopBase := 0,
    tokBase := 0, pcap := 2000, pcapNext := 2000, permit := 64, keyGen := 0, halted := false, raiser := none, stopWritten := [] }

/-- Whether a wait ends only by an event: re-issuing the instruction would start it afresh. -/
def Wait.driven : Wait → Bool
  | .grow _ => true
  | .token => true
  | .debit => true
  | .phase => true
  | .acks => true
  | _ => false

/-- An SBAR at level 1 or 2 under way: its launch, level and place, and the skeins that it joins (12 R225). (DESIGN CHOICE, log entry
30.) -/
structure SbarGen where
  launch : Nat
  level : Nat
  place : Nat
  members : List Nat
  deriving DecidableEq, Repr

/-- The issuing group whose turn it is: a skein, a ply and the strands of one of its parts (12 R214). -/
structure Group where
  sid : Nat
  ply : Nat
  strands : List Nat
  deriving DecidableEq, Repr

/-- Where an uncorrectable error is found: a 32-byte half of HBM or the tier (01 R11), a word of a line held at its home, a copy of a
transit record, which the slice repairs from the other, or a word of a slice's control area (04 R81), a register of a lane, a W register, a word of a local store, a tile
file or an accumulator, the caches of a core (15 R283), or a word of a save image as it is written (14 R261). -/
inductive ErrorAt where
  | half (pa : Nat)
  | word (pa : Nat)
  | transit (n : Nat) (mirror : Bool)
  | repair (n : Nat)
  | control (home : Nat)
  | laneReg (sid ply strand lane : Nat)
  | uniReg (sid w : Nat)
  | localWord (sid word : Nat)
  | tileWord (sid word : Nat)
  | accWord (sid word : Nat)
  | l1 (core pa : Nat)
  | image (sid : Nat)
  deriving DecidableEq, Repr

/-- One entry of the schedule, which the spec leaves open (12 R223, 15 R270): a group issues, an event of the part
happens, a cache gives up a line, a strand whose lanes are all dead settles (14 R266), an agent of a halted
partition stops and writes its record (14 R267), an error is found (15 R283), the health monitors report (16 R293), the Ozona
controller sets partitions that are held in reset (16 R290, R291), the other half of a 16-byte access is performed or the upper halves begin to go first or cease to (20 R336), or a
ply begins or ceases to see late what others write into W registers, or sees one of them as it is (07 R128). -/
inductive Turn where
  | issue (g : Group)
  | event (i : Instr)
  | evictL1 (core pa : Nat)
  | evictTlb (core ctx base : Nat)
  | evictI (core va : Nat)
  | evictHome (line : Nat)
  | settle (sid ply strand : Nat)
  | stopAgent (part agent : Nat)
  | error (e : ErrorAt)
  | monitor (h : Health)
  | configure (cs : List PartCfg)
  | half (n : Nat)
  | upper (on : Bool)
  | lag (sid ply : Nat) (on : Bool)
  | see (sid ply reg : Nat)
  deriving DecidableEq, Repr

/-- Memory: (address, byte) pairs, addresses rising, none that holds what an unlisted address reads as. (DESIGN CHOICE, log entry 1.) -/
abbrev Memory : Type := List Host.Cell

/-- The canonical form of memory: an unlisted address reads 0. (DESIGN CHOICE, log entry 1.) -/
def Memory.wf (m : Memory) : Bool := Tbl.wf 0 m

/-- The state of one package. `launchQueue` keeps the queue of each launch number, for the energy that is charged to it (12 R228); `upper` says that
of a 16-byte access to a page of kind U or RC, or to a local store, the upper half now goes first (20 R336). -/
structure State where
  powered : Bool
  keys : Bool
  measured : List Nat
  package : BitVec 21
  tierMiB : Nat
  mem : Memory
  bad : Tbl Bool
  mere : Tbl Bool
  strands : Tbl Strand
  skeins : Tbl Skein
  launches : List Launch
  nextLaunch : BitVec 24
  launchQueue : Tbl Nat
  sbars : List SbarGen
  cores : Tbl Core
  counters : Tbl Word
  regions : List Region
  grants : List Grant
  refused : List (Nat × Nat × Nat)
  tlb : List TlbEntry
  l1 : List L1Line
  icache : List ILine
  flight : List Item
  copies : List Copy
  triggers : List Trigger
  parked : List Trigger
  domains : List Domain
  transits : List Transit
  applied : Tbl Nat
  seqs : Tbl Nat
  heldCredits : List (Nat × Nat × FieldRec)
  refusedCredits : List (Nat × Nat × Nat)
  debitsDone : List (Nat × Nat × List FabBody)
  slotsAway : List (Nat × DWord × Nat)
  orders : List OrderEntry
  colls : Tbl CollEntry
  collWaits : List CollWait
  fabTags : List (Nat × Nat)
  heldPkts : List Held
  fieldFrames : Tbl Nat
  moving : List Nat
  atomCount : Tbl Nat
  movedAgo : Tbl Nat
  homeMoves : List (Nat × Nat × Nat)
  atmEpoch : BitVec 4
  atmThresh : BitVec 16
  atmEn : Bool
  atmCnt : Nat
  homeBase : DWord
  io0 : IoDie
  io1 : IoDie
  parts : Tbl Partition
  evalPending : List Nat
  replays : Tbl Nat
  health : Health
  evHeld : List Event
  portsGone : List Nat
  lostPkgs : List Nat
  hostOut : List HostOut
  fabricOut : List FabricOut
  badPa : Option Nat
  bus : DWord
  cycle : DWord
  ticks : Nat
  seq : Nat
  upper : Bool
  cur : Group
  agenda : List Turn
  deriving DecidableEq, Repr

/-- Why the machine stops. (DEDUCED, log entry 9.) -/
inductive Fault where
  /-- A walker, the migration engine or a stop record reads or writes a physical address that 01 R8 calls unpopulated,
  because a register (CTXBASE, MIGBASE, STOPBASE) names one. Safe: the run ends where the spec gives no behaviour. -/
  | unpopulated (pa : Nat)
  deriving DecidableEq, Repr

/-- Why an instruction has no meaning here. -/
inductive Refusal where
  /-- Raised by an arm of exec whose instruction is not modelled. Safe: nothing is claimed of it. -/
  | notModelled (mnemonic : String)
  deriving DecidableEq, Repr

/-- The package right after reset, before bring-up (16 R294): no key released, no launch, every register at its
reset value. (DESIGN CHOICE, log entries 1 and 2.) -/
def State.reset : State :=
  { powered := false, keys := false, measured := [], package := 0, tierMiB := 0, mem := [], bad := [], mere := [], strands := [],
    skeins := [], launches := [], nextLaunch := 0, launchQueue := [], sbars := [], cores := [], counters := [], regions := [], grants := [],
    refused := [], tlb := [], l1 := [], icache := [], flight := [], copies := [], triggers := [], parked := [], domains := [],
    transits := [], applied := [], seqs := [], heldCredits := [], refusedCredits := [], debitsDone := [], slotsAway := [], orders := [], colls := [], collWaits := [],
    fabTags := [], heldPkts := [], fieldFrames := [], moving := [], atomCount := [], movedAgo := [], homeMoves := [], atmEpoch := 4,
    atmThresh := 0x1000, atmEn := true, atmCnt := 0, homeBase := 0, io0 := IoDie.reset, io1 := IoDie.reset, parts := [],
    evalPending := [], replays := [], health := Health.reset, evHeld := [], portsGone := [], lostPkgs := [], hostOut := [],
    fabricOut := [], badPa := none, bus := 0, cycle := 0, ticks := 0, seq := 0, upper := false, cur := { sid := 0, ply := 0, strands := [] },
    agenda := [] }

end Sys2Proof.Machine
end

