-- ==== Sys2Proof/Machine/Ops.lean ====
section
/-! DEFINITION. The operations every meaning is written over: strands and their registers, bytes of physical memory
with their poison, parts of a ply, taking a trap, entering H mode, raising the halt line and returning, events, and
the end of a skein. -/

namespace Sys2Proof.Machine

/-! ## Tables of the state -/

/-- The key of strand `n` of ply `ply` of skein `sid`. -/
def strandKey (sid ply n : Nat) : Nat := sid * 128 + ply * 8 + n

/-- The strand with a key. -/
def getStrand (s : State) (key : Nat) : Strand := Tbl.get Strand.reset s.strands key

/-- Replaces the strand with a key. -/
def setStrand (s : State) (key : Nat) (t : Strand) : State :=
  { s with strands := Tbl.set Strand.reset s.strands key t }

/-- Whether DBGCTL halts a skein's launch (14 R263). -/
def dbgHeld (s : State) (k : Skein) : Bool :=
  let p := Tbl.get Partition.reset s.parts k.part
  p.dbgHalt && p.dbgLaunch.toNat == k.launch

/-- The skein with an identifier. -/
def getSkein (s : State) (sid : Nat) : Skein := Tbl.get Skein.reset s.skeins sid

/-- Replaces a skein. -/
def setSkein (s : State) (sid : Nat) (k : Skein) : State :=
  { s with skeins := Tbl.set Skein.reset s.skeins sid k }

/-- Partition `p`. -/
def getPart (s : State) (p : Nat) : Partition := Tbl.get Partition.reset s.parts p

/-- Replaces a partition. -/
def setPart (s : State) (p : Nat) (x : Partition) : State :=
  { s with parts := Tbl.set Partition.reset s.parts p x }

/-- Core `c`. -/
def getCore (s : State) (c : Nat) : Core := Tbl.get Core.reset s.cores c

/-- Replaces a core. -/
def setCore (s : State) (c : Nat) (x : Core) : State := { s with cores := Tbl.set Core.reset s.cores c x }

/-- Die `d`'s memory-control registers. -/
def getIo (s : State) (d : Nat) : IoDie := if d = 0 then s.io0 else s.io1

/-- Replaces an I/O die's registers. -/
def setIo (s : State) (d : Nat) (x : IoDie) : State := if d = 0 then { s with io0 := x } else { s with io1 := x }

/-- The launch of a number, if it is live. -/
def findLaunch (s : State) (num : Nat) : Option Launch := s.launches.find? (fun l => l.num == num)

/-- Replaces the launch of the same number. -/
def setLaunch (s : State) (l : Launch) : State :=
  { s with launches := s.launches.map (fun x => if x.num = l.num then l else x) }

/-- Doubleword `i` of a launch record (12 R219). -/
def Launch.word (l : Launch) (i : Nat) : Nat := (l.words.getD i 0).toNat

/-- DET of the record. -/
def Launch.det (l : Launch) : Bool := bitOf (l.word 4) 16
/-- EARLY of the record. -/
def Launch.early (l : Launch) : Bool := bitOf (l.word 4) 17
/-- CORES of the record: co-resident. -/
def Launch.cores (l : Launch) : Bool := bitOf (l.word 4) 18
/-- SLOT of the record. -/
def Launch.slot (l : Launch) : Bool := bitOf (l.word 4) 19
/-- S of the record: supervisor. -/
def Launch.super (l : Launch) : Bool := bitOf (l.word 4) 20
/-- PRIO of the record. -/
def Launch.prio (l : Launch) : Nat := fieldOf (l.word 4) 0 5
/-- The number of skeins. -/
def Launch.total (l : Launch) : Nat := fieldOf (l.word 1) 0 16 * fieldOf (l.word 1) 16 16 * fieldOf (l.word 1) 32 16

/-- Whether a skein's launch is deterministic. -/
def skeinDet (s : State) (sid : Nat) : Bool := ((findLaunch s (getSkein s sid).launch).map Launch.det).getD false

/-- The numbers of a skein's strands within a ply. -/
def skeinStrands (k : Skein) : List Nat := List.range k.strands

/-- The ply and strand numbers of a skein, ply-major. -/
def skeinAll (k : Skein) : List (Nat × Nat) :=
  (List.range k.plies).flatMap (fun p => (List.range k.strands).map (fun n => (p, n)))

/-- Applies a change to each named strand of a ply. -/
def mapStrands (s : State) (sid ply : Nat) (ns : List Nat) (f : Nat → Strand → Strand) : State :=
  ns.foldl (fun a n => setStrand a (strandKey sid ply n) (f n (getStrand a (strandKey sid ply n)))) s

/-! ## Lanes, predicates and lane registers -/

/-- A mask of the four lanes from a test of each. -/
def laneMask (f : Nat → Bool) : BitVec 4 :=
  BitVec.ofBool (f 3) ++ BitVec.ofBool (f 2) ++ BitVec.ofBool (f 1) ++ BitVec.ofBool (f 0)

/-- The lane numbers of a mask, ascending. -/
def lanesOf (m : BitVec 4) : List Nat := [0, 1, 2, 3].filter (fun j => m.getLsbD j)

/-- The top mask entry's lanes (12 R213). -/
def Strand.top (t : Strand) : BitVec 4 :=
  match t.masks with
  | [] => 0
  | m :: _ => m.extractLsb' 0 4

/-- The lanes of the top mask that are not dead (08 R136). -/
def Strand.liveLanes (t : Strand) : BitVec 4 := t.top &&& ~~~ t.dead

/-- Predicate `p` of a lane; P0 reads true (07 R119). -/
def Strand.pred (t : Strand) (lane p : Nat) : Bool := p == 0 || t.preds.getLsbD (8 * lane + p)

/-- Writes predicate `p` of a lane; a write of P0 is discarded. -/
def Strand.setPred (t : Strand) (lane p : Nat) (b : Bool) : Strand :=
  if p = 0 then t
  else
    let m : Word := 1#32 <<< (8 * lane + p)
    { t with preds := if b then t.preds ||| m else t.preds &&& ~~~ m }

/-- The lanes active under a guard (08 R139). -/
def Strand.active (t : Strand) (g : Guard) : BitVec 4 :=
  laneMask (fun j => t.liveLanes.getLsbD j && (t.pred j g.pr.toNat != (g.pn == 1)))

/-- A strand that still runs: it has not exited and not all its lanes are dead (12 R215). -/
def Strand.alive (t : Strand) : Bool := t.live && t.dead != 0xF

/-- What V`v` names: a supervisor register, or a register of the allocation (07 R120, R121). -/
def Strand.place (t : Strand) (v : Nat) : Bool × Nat :=
  match t.mode with
  | .user => (false, t.vwb + v)
  | _ => if v < 16 then (true, v) else (false, t.vwb + v - 16)

/-- A register's value in a lane. -/
def Strand.reg (t : Strand) (p : Bool × Nat) (lane : Nat) : Word :=
  if p.1 then Tbl.get 0 t.sup (4 * p.2 + lane) else Tbl.get 0 t.user (4 * p.2 + lane)

/-- Writes a register in a lane; the write clears a lost mark (14 R258). -/
def Strand.setReg (t : Strand) (p : Bool × Nat) (lane : Nat) (w : Word) : Strand :=
  let lost := t.lost.filter (fun e => !(e.1 == p.1 && e.2.1 == p.2 && e.2.2 == lane))
  if p.1 then { t with sup := Tbl.set 0 t.sup (4 * p.2 + lane) w, lost := lost }
  else { t with user := Tbl.set 0 t.user (4 * p.2 + lane) w, lost := lost }

/-- V`v` in a lane. -/
def Strand.v (t : Strand) (v lane : Nat) : Word := t.reg (t.place v) lane

/-- Writes V`v` in a lane. -/
def Strand.setV (t : Strand) (v lane : Nat) (w : Word) : Strand := t.setReg (t.place v) lane w

/-- Whether an operand's registers, of one element or of a block, are in range (07 R120). -/
def Strand.allowed (t : Strand) (nreg : Nat) (vs : List Nat) : Bool :=
  vs.all (fun v => decide (v < 64) && ((t.place v).1 || decide ((t.place v).2 < nreg)))

/-- Whether the block of an XW operand stays on one side of V15 and V16, as S and H mode ask (07 R120). -/
def Strand.unsplit (t : Strand) (vs : List Nat) : Bool :=
  t.mode == .user || vs.all (fun v => decide (v < 16)) || vs.all (fun v => decide (16 ≤ v))

/-- Whether a reply still has to write one of the named registers in one of the lanes (18 R299). (DEDUCED, log entry 13.) -/
def Strand.awaits (t : Strand) (vs : List Nat) (m : BitVec 4) : Bool :=
  t.replies.any (fun r => (r.lanes &&& m) != 0 &&
    vs.any (fun v => (t.place v).1 == r.sup && decide (r.reg ≤ (t.place v).2) && decide ((t.place v).2 < r.reg + r.count)))

/-- The lanes of a mask in which one of the named registers is marked lost (14 R258). -/
def Strand.lostLanes (t : Strand) (vs : List Nat) (m : BitVec 4) : BitVec 4 :=
  laneMask (fun j => m.getLsbD j && vs.any (fun v => t.lost.contains ((t.place v).1, (t.place v).2, j)))

/-- The number of an allocation register as EADDR reports it: a supervisor register stands at NREG + n (07 R121). -/
def allocNumber (nreg : Nat) (p : Bool × Nat) : Nat := if p.1 then nreg + p.2 else p.2

/-- Marks lanes as dead, noting the first instruction that delivered the poison (14 R265). (DESIGN CHOICE, log entry 10.) -/
def Strand.kill (t : Strand) (m : BitVec 4) (at_ : DWord) : Strand :=
  let fresh := m &&& ~~~ t.dead
  if fresh = 0 then t
  else
    { t with dead := t.dead ||| fresh, newDead := t.newDead ||| fresh,
             poisonAddr := if t.newDead = 0 then at_ else t.poisonAddr }

/-! ## Uniform registers -/

/-- W`k`: W0 reads zero (07 R119). -/
def Skein.wr (k : Skein) (n : Nat) : DWord := if n = 0 then 0 else Tbl.get 0 k.w n

/-- W`n` as a ply reads it: an older value while it has not seen the last writes (07 R128). (DESIGN CHOICE, log entry 13.) -/
def Skein.wrFor (k : Skein) (ply n : Nat) : DWord :=
  match k.late.find? (fun e => e.ply == ply && e.reg == n) with
  | some e => e.old
  | none => k.wr n

/-- What the plies still read late once ply `ply` writes W`n`: it sees its own write, the plies that lag keep what they read before it,
and another that sees the last value sees this one (07 R128). -/
def Skein.lateAfter (k : Skein) (ply n : Nat) : List LateW :=
  let kept := (k.late.filter (fun e => !(e.ply == ply && e.reg == n))).map (fun e =>
    if e.reg = n then { e with writers := (ply :: e.writers).eraseDups } else e)
  kept ++ (k.lagging.filter (fun q => q != ply && !(kept.any (fun e => e.ply == q && e.reg == n)))).map
    (fun q => ({ ply := q, reg := n, old := k.wr n, writers := [ply] } : LateW))

/-- Ply `ply` writes W`n`; clean data clears a poison mark, and W0 discards (07 R119, R128, 14 R265). -/
def Skein.setW (k : Skein) (ply n : Nat) (x : DWord) : Skein :=
  if n = 0 then k else { k with w := Tbl.set 0 k.w n x, wBad := Tbl.set false k.wBad n false, late := k.lateAfter ply n }

/-- A barrier that some plies share completes: each of them sees what the others have written (07 R128). -/
def Skein.meetPlies (k : Skein) (ps : List Nat) : Skein :=
  { k with late := k.late.filter (fun e => !(ps.contains e.ply && e.writers.any ps.contains)) }

/-- Whether a ply may write W`n` (07 R127). -/
def Skein.mayWrite (k : Skein) (ply n : Nat) : Bool := n == 0 || Tbl.get 0 k.writer n == ply

/-- W`n` of the issuing skein, as the issuing ply reads it (07 R128). -/
def wReg (s : State) (n : Nat) : DWord := (getSkein s s.cur.sid).wrFor s.cur.ply n

/-- Writes W`n` of the issuing skein. -/
def setWReg (s : State) (n : Nat) (x : DWord) : State := setSkein s s.cur.sid ((getSkein s s.cur.sid).setW s.cur.ply n x)

/-- A ply begins to see late what others write into W registers, or ceases to and sees every register as it is (07 R128). (DESIGN
CHOICE, log entry 13.) -/
def lagPly (s : State) (sid ply : Nat) (on : Bool) : State :=
  let k := getSkein s sid
  if ply < k.plies then
    setSkein s sid { k with lagging := k.lagging.filter (fun p => p != ply) ++ (if on then [ply] else []),
                            late := if on then k.late else k.late.filter (fun e => e.ply != ply) }
  else s

/-- A ply sees a W register as it is (07 R128). -/
def seeW (s : State) (sid ply reg : Nat) : State :=
  let k := getSkein s sid
  setSkein s sid { k with late := k.late.filter (fun e => !(e.ply == ply && e.reg == reg)) }

/-! ## Bytes, words and physical memory -/

/-- The little-endian value of a list of bytes. -/
def bytesToNat : List Byte → Nat
  | [] => 0
  | b :: t => b.toNat + 256 * bytesToNat t

/-- The `n` low bytes of a value, little-endian. -/
def natToBytes (x : Nat) : Nat → List Byte
  | 0 => []
  | n + 1 => BitVec.ofNat 8 x :: natToBytes (x / 256) n

/-- A number as a doubleword. -/
def dw (n : Nat) : DWord := BitVec.ofNat 64 n

/-- Bytes with no poison. -/
def clean (bs : List Byte) : List PByte := bs.map (fun b => { val := b, bad := false })

/-- The bytes of doublewords. -/
def dwordBytes (ws : List DWord) : List Byte := ws.flatMap (fun w => natToBytes w.toNat 8)

/-- The doublewords of bytes. -/
def bytesDwords : Nat → List Byte → List DWord
  | 0, _ => []
  | n + 1, bs => BitVec.ofNat 64 (bytesToNat (bs.take 8)) :: bytesDwords n (bs.drop 8)

/-- The top of HBM (01 R8). -/
def hbmTop : Nat := 0x8000000000
/-- The base of the capacity tier (01 R8). -/
def tierBase : Nat := 0x10000000000
/-- The memory-control frame of I/O die 0 (01 R8). -/
def ctlBase : Nat := 0xFFF0000000000

/-- Whether an address lies in HBM. -/
def inHbm (pa : Nat) : Bool := decide (pa < hbmTop)
/-- Whether an address lies in the populated part of the tier (01 R20). (DEDUCED, log entry 49.) -/
def inTier (s : State) (pa : Nat) : Bool := decide (tierBase ≤ pa) && decide (pa < tierBase + s.tierMiB * 0x100000)
/-- Whether an address lies in the memory-control frames of the I/O dies (01 R8). -/
def inCtl (pa : Nat) : Bool := decide (ctlBase ≤ pa) && decide (pa < ctlBase + 0x20000)
/-- Whether memory exists at an address (01 R8). -/
def populated (s : State) (pa : Nat) : Bool := inHbm pa || inTier s pa

/-- One byte of physical memory; a byte that nothing has written reads 0. (DESIGN CHOICE, log entry 1.) -/
def readByte (s : State) (pa : Nat) : Byte := Tbl.get 0 s.mem pa

/-- `n` bytes of physical memory. -/
def readBytes (s : State) (pa n : Nat) : List Byte := (List.range n).map (fun i => readByte s (pa + i))

/-- The little-endian value of `n` bytes of physical memory. -/
def readMem (s : State) (pa n : Nat) : Nat := bytesToNat (readBytes s pa n)

/-- Whether a line of 64 bytes is held at its home. -/
def lineHeld (s : State) (pa : Nat) : Bool := Tbl.get false s.mere (pa / 64)

/-- The poison unit that holds an 8-byte word: the word itself in a line held at its home, as those of a field frame are (03 R61), the
32-byte half in HBM and the tier (01 R402). -/
def poisonUnit (s : State) (w : Nat) : Nat × Nat :=
  if lineHeld s (8 * w) || Tbl.get 0 s.fieldFrames (8 * w / 0x10000) != 0 then (8 * w, 8 * w + 8) else (w / 4 * 32, w / 4 * 32 + 32)

/-- Whether a byte is delivered poisoned. (DESIGN CHOICE, log entry 10.) -/
def isBad (s : State) (pa : Nat) : Bool := Tbl.get false s.bad (pa / 8)

/-- `n` bytes with their poison. -/
def readPBytes (s : State) (pa n : Nat) : List PByte :=
  (List.range n).map (fun i => { val := readByte s (pa + i), bad := isBad s (pa + i) })

/-- The poison of word `w` after a write of `data` at `pa`: a poisoned byte marks its unit, clean data that covers
the unit clears it, and a partial write leaves it (01 R402). (DESIGN CHOICE, log entry 10.) -/
def poisonAfter (s : State) (pa : Nat) (data : List PByte) (w : Nat) : Bool :=
  let u := poisonUnit s w
  let lo := max u.1 pa
  let hi := min u.2 (pa + data.length)
  if lo < hi ∧ ((data.drop (lo - pa)).take (hi - lo)).any (fun b => b.bad) then true
  else if pa ≤ u.1 ∧ u.2 ≤ pa + data.length then false
  else Tbl.get false s.bad w

/-- Writes the values of bytes, leaving the poison as it stands. (DESIGN CHOICE, log entry 1.) -/
def putBytes (s : State) (pa : Nat) (bs : List Byte) : State :=
  { s with mem := (bs.zipIdx).foldl (fun m e => Tbl.set 0 m (pa + e.2) e.1) s.mem }

/-- One write at the home or the stack, values and poison; an address where nothing is populated stops the machine. (DEDUCED, log entry 9.) -/
def writeMem (s : State) (pa : Nat) (data : List PByte) : State :=
  if data.isEmpty then s
  else if !(populated s pa && populated s (pa + data.length - 1)) then { s with badPa := some pa }
  else
    let ws := rangeFrom (pa / 32 * 4) (((pa + data.length - 1) / 32 * 4 + 4) - pa / 32 * 4)
    let bad := ws.foldl (fun m w => Tbl.set false m w (poisonAfter s pa data w)) s.bad
    { putBytes s pa (data.map (fun b => b.val)) with bad := bad }

/-- The home writes back and drops a line: a half that holds a poisoned word is marked whole (01 R402). (DESIGN CHOICE, log entry 10.) -/
def dropLine (s : State) (line : Nat) : State :=
  let half (h : Nat) : List (Nat × Bool) :=
    let ws := rangeFrom (8 * line + 4 * h) 4
    let b := ws.any (fun w => Tbl.get false s.bad w)
    ws.map (fun w => (w, b))
  if Tbl.get false s.mere line then
    { s with mere := Tbl.set false s.mere line false,
             bad := (half 0 ++ half 1).foldl (fun m e => Tbl.set false m e.1 e.2) s.bad }
  else s

/-! ## Places: quads, dies, granules, channels and homes -/

/-- Whether partition `p` holds granule `g`. -/
def hasGran (s : State) (p g : Nat) : Bool := (getPart s p).gran.getLsbD g

/-- The granule of a core: four cores to a quad, six quads to a granule (16 R290). -/
def granOf (core : Nat) : Nat := core / 24

/-- The die of a core. -/
def dieOf (core : Nat) : Nat := core / 48

/-- The partition of a core; 8 if there is none. -/
def partOf (s : State) (core : Nat) : Nat :=
  ((List.range 8).find? (fun p => (getPart s p).present && hasGran s p (granOf core))).getD 8

/-- The cores of a partition, ascending. (DEDUCED, log entry 50.) -/
def coresOf (s : State) (p : Nat) : List Nat := (List.range 192).filter (fun c => hasGran s p (granOf c))

/-- Folds field `w`-bit pieces of a frame number by XOR, at the given positions. -/
def xorFields (f w : Nat) : List Nat → Nat
  | [] => 0
  | p :: t => fieldOf f p w ^^^ xorFields f w t

/-- The stack of an HBM frame (01 R10). -/
def stackOf (f : Nat) : Nat := xorFields f 3 [0, 8, 11, 14, 17, 20]

/-- The channel of an HBM frame within its stack (01 R10). -/
def channelOf (f : Nat) : Nat := xorFields f 5 [3, 8, 13, 18]

/-- The bit of HBMCH for a frame's channel (16 R285). -/
def channelBit (f : Nat) : Nat := 32 * stackOf f + channelOf f

/-- Whether a partition owns the channel of an HBM frame. (DEDUCED, log entry 49.) -/
def ownsFrame (s : State) (p f : Nat) : Bool := bitOf (getPart s p).chans (channelBit f)

/-- The partition that owns a frame's channel; 8 if none does. -/
def frameOwner (s : State) (f : Nat) : Nat :=
  ((List.range 8).find? (fun p => (getPart s p).present && ownsFrame s p f)).getD 8

/-- The slices of die `d` that a partition holds, ascending (16 R290). -/
def slicesOf (s : State) (p d : Nat) : List Nat :=
  (if hasGran s p (2 * d) then rangeFrom 0 24 else []) ++ (if hasGran s p (2 * d + 1) then rangeFrom 24 24 else [])

/-- The home dies of a partition, ascending (04 R82). -/
def homeDies (s : State) (p : Nat) : List Nat := (List.range 4).filter (fun d => !(slicesOf s p d).isEmpty)

/-- The home die of an HBM frame (04 R82, R91). -/
def homeDie (s : State) (f : Nat) : Nat :=
  let ds := homeDies s (frameOwner s f)
  let dflt := if ds.isEmpty then 0 else ds.getD (fieldOf f 0 2 % ds.length) 0
  if s.homeBase.getLsbD 0 then
    let e := fieldOf (readByte s (fieldOf s.homeBase.toNat 21 31 * 0x200000 + f / 4)).toNat (2 * (f % 4)) 2
    if ds.contains e then e else dflt
  else dflt

/-- The home slice of a line on a die: its number within the die (04 R82); a field frame's is that of its first line. -/
def sliceOn (s : State) (d pa : Nat) : Nat :=
  let f := pa / 0x10000
  let sl := slicesOf s (frameOwner s f) d
  let line := if Tbl.get 0 s.fieldFrames f = 0 then fieldOf pa 6 10 else 0
  if sl.isEmpty then 0 else sl.getD ((line ^^^ fieldOf f 0 10) % sl.length) 0

/-- The home slice of a line. -/
def homeSlice (s : State) (pa : Nat) : Nat := sliceOn s (homeDie s (pa / 0x10000)) pa

/-- The home of a line, counted through the package: 48 slices to a die. -/
def homeOf (s : State) (pa : Nat) : Nat := 48 * homeDie s (pa / 0x10000) + homeSlice s pa

/-- The lines that a home holds in the set of a line: a slice holds 13,312 lines, 16 to a set (04 R80); which set a line falls into is
the model's choice. (DESIGN CHOICE, log entry 56.) -/
def setMates (s : State) (pa : Nat) : List Nat :=
  (s.mere.filter (fun e => e.1 % 832 == pa / 64 % 832 && homeOf s (64 * e.1) == homeOf s pa)).map (fun e => e.1)

/-- The line at an address is fetched by its home (01 R402: HBM halves already mark their four words); a full set gives up one
of its sixteen lines (04 R80). (DESIGN CHOICE, log entry 56.) -/
def fetchLine (s : State) (pa : Nat) : State :=
  if lineHeld s pa then s
  else
    let ls := setMates s pa
    let a := if ls.length < 16 then s else dropLine s (ls.getD (Config.victim s.ticks % ls.length) 0)
    { a with mere := Tbl.set false a.mere (pa / 64) true }

/-! ## Events (16 R287, R288) -/

/-- Whether a partition's ring runs: LOG2N from 4 to 16. -/
def Partition.ringOn (p : Partition) : Bool := decide (4 ≤ p.evLog2n.toNat) && decide (p.evLog2n.toNat ≤ 16)

/-- Whether a partition's ring is full (16 R287): HEAD is compared as software wrote it. -/
def Partition.ringFull (p : Partition) : Bool := (p.evTail.toNat + 1) % 2 ^ p.evLog2n.toNat == p.evHead.toNat

/-- Writes an event into a partition's ring, and sends the interrupt when COUNT events stand uncovered. -/
def writeEvent (s : State) (p : Nat) (e : Event) : State :=
  let x := getPart s p
  let w0 : DWord := BitVec.ofNat 64 (e.type + p * 256 + x.evSeq.toNat * 0x100000000)
  let addr : DWord := (x.evBase &&& 0xFFFFFFFFFFFFF000) + BitVec.ofNat 64 (32 * x.evTail.toNat)
  let cover := decide (max 1 x.evCount.toNat ≤ x.evUncovered + 1)
  let x' := { x with evTail := BitVec.ofNat 16 ((x.evTail.toNat + 1) % 2 ^ x.evLog2n.toNat), evSeq := x.evSeq + 1,
                     evUncovered := if cover then 0 else x.evUncovered + 1 }
  { setPart s p x' with
    hostOut := s.hostOut ++ [HostOut.record addr [w0, e.w1, e.w2, e.w3]] ++ (if cover then [HostOut.interrupt p] else []) }

/-- An event for one partition: written, held in the package's 256 entries, or dropped and counted. -/
def postTo (s : State) (p : Nat) (e : Event) : State :=
  let x := getPart s p
  if x.ringOn && !x.ringFull && !(s.evHeld.any (fun h => h.part == p)) then writeEvent s p e
  else if s.evHeld.length < 256 then { s with evHeld := s.evHeld ++ [{ e with part := p }] }
  else setPart s p { x with evLost := min (x.evLost + 1) 0xFFFFFFFF }

/-- Posts an event: types 5 and 12 go to every partition. -/
def postEvent (s : State) (e : Event) : State :=
  if e.type = 5 ∨ e.type = 12 then
    ((List.range 8).filter (fun p => (getPart s p).present)).foldl (fun a p => postTo a p e) s
  else postTo s e.part e

/-- Writes a partition's held events while its ring takes them, oldest first; `n` bounds the walk. -/
def drainHeld (p : Nat) : Nat → State → State
  | 0, s => s
  | n + 1, s =>
    let x := getPart s p
    if x.ringOn && !x.ringFull then
      match s.evHeld.find? (fun h => h.part == p) with
      | none => s
      | some e => drainHeld p n (writeEvent { s with evHeld := s.evHeld.erase e } p e)
    else s

/-! ## Writes at the home -/

/-- Whether a frame is marked as field (03 R61). -/
def isField (s : State) (pa : Nat) : Bool := Tbl.get 0 s.fieldFrames (pa / 0x10000) != 0

/-- A write at the home: on a frame marked as field it is discarded and reported (03 R63). -/
def homePut (s : State) (pa : Nat) (data : List PByte) : State :=
  if isField s pa then
    postEvent s { part := frameOwner s (pa / 0x10000), type := 3, w1 := dw (pa / 0x10000 * 0x10000), w2 := 0, w3 := 0 }
  else writeMem s pa data

/-- Writes doublewords at their home. -/
def writeDwords (s : State) (pa : Nat) (ws : List DWord) : State := homePut s pa (clean (dwordBytes ws))

/-! ## Trigger counters (05 R104, 12 R220) -/

/-- CT`k` of a core. -/
def counter (s : State) (core k : Nat) : Word := Tbl.get 0 s.counters (core * 64 + k)

/-- Whether a launch's dependence on a counter holds (12 R220). -/
def counterMet (s : State) (l : Launch) : Bool :=
  fieldOf (l.word 5) 61 2 == 2 &&
    decide (fieldOf (l.word 5) 16 32 ≤ (counter s (fieldOf (l.word 5) 0 8) (fieldOf (l.word 5) 8 6)).toNat)

/-- Writes a counter: dependences on it are judged, and the core's trigger unit evaluates in this cycle (05 R107). (DEDUCED, log entry 17.) -/
def setCounter (s : State) (core k : Nat) (w : Word) : State :=
  let a := { s with counters := Tbl.set 0 s.counters (core * 64 + k) w }
  { a with launches := a.launches.map (fun l => if counterMet a l then { l with met := true } else l),
           evalPending := if s.triggers.any (fun t => t.core == core) && !(s.evalPending.contains core) then
             s.evalPending ++ [core] else s.evalPending }

/-- Adds to a counter modulo 2^32. -/
def addCounter (s : State) (core k : Nat) (w : Word) : State := setCounter s core k (counter s core k + w)

/-! ## The halt line (14 R267, R268) -/

/-- Resident skeins of a core. -/
def residentOn (s : State) (core : Nat) : List Nat :=
  (s.skeins.filter (fun e => e.2.place == .resident && e.2.core == core)).map (fun e => e.1)

/-- The agents of a partition (14 R268): its cores, the matrix engines of its quads, and the migration engine of each
I/O die that serves a granule of it. (DEDUCED, log entry 18.) -/
def agentsOf (s : State) (p : Nat) : List Nat :=
  coresOf s p ++ ((List.range 48).filter (fun q => hasGran s p (q / 6))).map (fun q => 192 + q) ++
    ((List.range 2).filter (fun d => (rangeFrom (4 * d) 4).any (hasGran s p))).map (fun d => 240 + d)

/-- The state of agent `i` that its stop record reports (14 R268, offset 0x28). -/
def stopDetail (s : State) (i : Nat) : Nat :=
  if i < 192 then (residentOn s i).length % 256 + 256 * ((s.copies.filter (fun c => c.core == i)).length % 256)
  else if i < 240 then
    ((s.skeins.filter (fun e => e.2.place == .resident && e.2.core / 4 == i - 192)).flatMap
      (fun e => e.2.queue.filter (fun r => r.stage != .queued))).length % 256
  else (getIo s (i - 240)).migHead % 65536

/-- The kind of agent `i`. -/
def stopKind (i : Nat) : Nat := if i < 192 then 1 else if i < 240 then 2 else 3

/-- Writes the stop record of agent `i` of a halted partition. (DEDUCED, log entry 18.) -/
def stopRecord (s : State) (p i : Nat) (ok : Bool) : State :=
  let x := getPart s p
  let key := (x.raiser.map (fun r => r.1)).getD 0
  let t := getStrand s key
  let k := getSkein s (key / 128)
  let origin := i < 192 ∧ k.core = i ∧ x.raiser.isSome
  let w0 := stopKind i + 256 * i + (if ok then 0x10000 else 0) + (if origin then 0x20000 else 0)
  let byHalt := ((x.raiser.map (fun r => r.2)).getD false)
  let w2 : DWord := if origin then (if byHalt then 0 else t.hcause) else 0
  let w3 : DWord := if origin then t.hepc else 0
  let w4 := k.launch + (key / 8 % 16) * 0x1000000 + (key % 8) * 0x10000000
  let a := setPart s p { x with stopWritten := x.stopWritten ++ [i] }
  writeDwords a (fieldOf x.stopBase.toNat 14 38 * 0x4000 + 64 * i)
    [BitVec.ofNat 64 w0, s.cycle, w2, w3, BitVec.ofNat 64 w4, BitVec.ofNat 64 (stopDetail s i), 0, 0]

/-- Raises the partition's halt line from a strand, by HALT or by a trap in H mode: the raising core stops at once,
the other agents stop one by one. (DEDUCED, log entry 18.) -/
def raiseHalt (s : State) (key : Nat) (byHalt : Bool) : State :=
  let k := getSkein s (key / 128)
  let x := getPart s k.part
  if x.halted then s
  else stopRecord (setPart s k.part { x with halted := true, raiser := some (key, byHalt), stopWritten := [] }) k.part k.core true

/-! ## Taking a trap and returning (14 R244 to R251) -/

/-- The code of a cause (14 R247). -/
def Cause.code : Cause → Nat
  | .illegal => 0x01 | .priv => 0x02 | .sysc => 0x03 | .brk => 0x04 | .regwin => 0x05 | .lsbound => 0x06
  | .misalign => 0x07 | .page => 0x08 | .prot => 0x09 | .token => 0x0A | .fstore => 0x0B | .fneg => 0x0C
  | .fovf => 0x0D | .acctok => 0x0E | .brtab => 0x0F | .uwrite => 0x10 | .poison => 0x11 | .digest => 0x12
  | .isolate => 0x13 | .collabort => 0x14 | .lostreply => 0x15 | .nest => 0x16 | .straddle => 0x17
  | .calldepth => 0x18

/-- ECAUSE with one cause in each lane of a mask. -/
def causesOf (m : BitVec 4) (c : Cause) : Word :=
  (lanesOf m).foldl (fun w j => w ||| (BitVec.ofNat 32 c.code <<< (8 * j))) 0

/-- ECAUSE from a cause for each lane. -/
def causesFrom (f : Nat → Option Cause) : Word :=
  [0, 1, 2, 3].foldl (fun w j => match f j with
    | some c => w ||| (BitVec.ofNat 32 c.code <<< (8 * j))
    | none => w) 0

/-- The cause of the lowest lane of a mask, from ECAUSE. -/
def lowestCause (m : BitVec 4) (causes : Word) : Nat :=
  match lanesOf m with
  | [] => causes.toNat % 256
  | j :: _ => (causes >>> (8 * j)).toNat % 256

/-- H entry (14 R251): `fn` is the HCALL's number. -/
def hEntry (t : Strand) (cause inner fn : Nat) (hepc : DWord) : Strand :=
  { t with hepc := hepc, hcause := BitVec.ofNat 64 (cause + 256 * inner + 65536 * fn),
           masks := (t.top.setWidth 8 ||| 0x20) :: t.masks, calls := 2 :: t.calls, mode := .hypervisor,
           pc := t.hvec, wait := .none }

/-- What a trap enters with: the lanes, their causes, the handler's top mask, EPC, EADDR, and the cause of a trap that
has no lane. -/
structure TrapInfo where
  mask : BitVec 4
  causes : Word
  top : BitVec 4
  epc : DWord
  eaddr : DWord
  first : Nat
  deriving DecidableEq, Repr

/-- The trap of one cause in the lanes of a mask (14 R247). -/
def trapOf (m : BitVec 4) (c : Cause) (epc eaddr : DWord) : TrapInfo :=
  { mask := m, causes := causesOf m c, top := m, epc := epc, eaddr := eaddr, first := c.code }

/-- The strand after TrapEntry, when it is not in H mode (14 R244). -/
def trapStrand (t : Strand) (i : TrapInfo) : Strand :=
  if t.edepth = 2 then hEntry t 0x16 (if i.mask = 0 then i.first else lowestCause i.mask i.causes) 0 i.epc
  else
    let set : TrapSet := { epc := i.epc &&& ~~~ 3, eaddr := i.eaddr, ecause := i.causes, emask := i.mask, prev := t.mode }
    let u := if t.edepth = 0 then { t with set1 := set } else { t with set2 := set }
    { u with edepth := t.edepth + 1, mode := .supervisor, masks := (i.top.setWidth 8 ||| 0x10) :: t.masks,
             calls := 1 :: t.calls, pc := t.evec, wait := .none }

/-- TrapEntry for the strand with a key: in H mode it raises the halt line (14 R244). -/
def trapEntry (s : State) (key : Nat) (i : TrapInfo) : State :=
  let t := getStrand s key
  match t.mode with
  | .hypervisor => raiseHalt s key false
  | _ => setStrand s key (trapStrand t i)

/-- The masks below the topmost entry with a marker bit. -/
def popMasks (bit : Nat) : List (BitVec 8) → List (BitVec 8)
  | [] => []
  | m :: t => if m.getLsbD bit then t else popMasks bit t

/-- The calls below the topmost entry with a marker bit. -/
def popCalls (bit : Nat) : List DWord → List DWord
  | [] => []
  | c :: t => if c.getLsbD bit then t else popCalls bit t

/-- The strand after TRET, when EDEPTH is not 0 (14 R249). -/
def tretStrand (t : Strand) : Strand :=
  let set := if t.edepth = 1 then t.set1 else t.set2
  { t with masks := popMasks 4 t.masks, calls := popCalls 0 t.calls, mode := set.prev, pc := set.epc,
           edepth := t.edepth - 1, wait := .none }

/-- The strand after HRET, when HCAUSE is not NEST (14 R251). -/
def hretStrand (t : Strand) : Strand :=
  { t with masks := popMasks 5 t.masks, calls := popCalls 1 t.calls, mode := .supervisor, pc := t.hepc, wait := .none }

/-- The trap-state set that EPC, ECAUSE, EMASK and EADDR name (14 R244): at EDEPTH 0, set 1. -/
def Strand.trapSet (t : Strand) : TrapSet := if t.edepth = 2 then t.set2 else t.set1

/-- Replaces that set. -/
def Strand.setTrapSet (t : Strand) (x : TrapSet) : Strand :=
  if t.edepth = 2 then { t with set2 := x } else { t with set1 := x }

/-! ## Issuing groups and parts (12 R214) -/

/-- The parts of a ply. -/
def partsOf (k : Skein) (ply : Nat) : List (List Nat) := Tbl.get [] k.parts ply

/-- A part at its place among others, which come in the order of their lowest strands (12 R214). -/
def insertPart (p : List Nat) : List (List Nat) → List (List Nat)
  | [] => [p]
  | q :: t => if p.headD 0 ≤ q.headD 0 then p :: q :: t else q :: insertPart p t

/-- Replaces the parts of a ply, in the order of their lowest strands (12 R214). -/
def setParts (s : State) (sid ply : Nat) (ps : List (List Nat)) : State :=
  let k := getSkein s sid
  setSkein s sid { k with parts := Tbl.set [] k.parts ply ((ps.filter (fun p => !p.isEmpty)).foldr insertPart []) }

/-- Splits the part that holds the strands `ns` into the given parts, and makes the first the issuing group. -/
def splitPart (s : State) (sid ply : Nat) (ns : List Nat) (ps : List (List Nat)) : State :=
  let old := partsOf (getSkein s sid) ply
  let ps := ps.filter (fun p => !p.isEmpty)
  let a := setParts s sid ply (old.flatMap (fun p => if p == ns then ps else [p]))
  { a with cur := { s.cur with strands := ps.headD [] } }

/-- The strands of the issuing group. -/
def grp (s : State) : List Nat := s.cur.strands

/-- The key of strand `n` of the issuing group. -/
def curKey (s : State) (n : Nat) : Nat := strandKey s.cur.sid s.cur.ply n

/-- Strand `n` of the issuing group. -/
def curStrand (s : State) (n : Nat) : Strand := getStrand s (curKey s n)

/-- The issuing skein. -/
def curSkein (s : State) : Skein := getSkein s s.cur.sid

/-- The issuing core. -/
def curCore (s : State) : Nat := (curSkein s).core

/-- The address the group issues from. -/
def curPc (s : State) : DWord := (curStrand s ((grp s).headD 0)).pc

/-- The mode the group issues in. -/
def curMode (s : State) : Mode := (curStrand s ((grp s).headD 0)).mode

/-- Time passes: the cycle count moves on by an amount that the spec leaves open (12 R223). (DESIGN CHOICE, log entry 4.) -/
def tick (s : State) : State :=
  { s with cycle := s.cycle + 1 + (Config.elapsed s.ticks).setWidth 64, ticks := s.ticks + 1 }

/-- The group has done its instruction of `len` bytes: each strand goes on behind it. (DESIGN CHOICE, log entry 4.) -/
def retire (s : State) (len : Nat) : State :=
  tick (mapStrands s s.cur.sid s.cur.ply (grp s) (fun _ t => { t with pc := t.pc + BitVec.ofNat 64 len, wait := .none }))

/-- The group does not issue until a condition holds; nothing else changes (17 R297). (DESIGN CHOICE, log entries 4 and 14.) -/
def stall (s : State) (w : Wait) : State :=
  tick (mapStrands s s.cur.sid s.cur.ply (grp s) (fun _ t => { t with wait := w }))

/-- Traps in the strands of the group that `f` names: each leaves its group and forms a part of its own, and the
others form one part at the same instruction (14 R245). -/
def trapGroup (s : State) (f : Nat → Option TrapInfo) : State :=
  let fails := (grp s).filter (fun n => (f n).isSome)
  let rest := (grp s).filter (fun n => (f n).isNone)
  let a := splitPart s s.cur.sid s.cur.ply (grp s) (rest :: fails.map (fun n => [n]))
  tick (fails.foldl (fun b n => match f n with
    | some i => trapEntry b (strandKey s.cur.sid s.cur.ply n) i
    | none => b) a)

/-- The trap of a uniform-set instruction: every strand of the group, each with its live lanes (14 R245). (DEDUCED, log entry 53.) -/
def trapAll (s : State) (c : Cause) (eaddr : DWord) : State :=
  trapGroup s (fun n => some (trapOf (curStrand s n).liveLanes c (curStrand s n).pc eaddr))

/-- The instruction word, or the XW and its follower, as EADDR reports it (14 R247). -/
def instrWord (i : Instr) : DWord := wordsValue (encode i)

/-! ## Launches end, skeins end -/

/-- Every strand of a skein, with its ply and number. -/
def allStrands (s : State) (sid : Nat) : List (Nat × Nat × Strand) :=
  (skeinAll (getSkein s sid)).map (fun e => (e.1, e.2, getStrand s (strandKey sid e.1 e.2)))

/-- Whether a live strand of a skein waits so. -/
def anyWaits (s : State) (sid : Nat) (w : Wait) : Bool := (allStrands s sid).any (fun e => e.2.2.alive && e.2.2.wait == w)

/-- The launches that a record's DEP names (12 R219, R220). -/
def Launch.named (l : Launch) : List Nat :=
  if fieldOf (l.word 5) 61 2 = 1 then
    fieldOf (l.word 5) 0 24 :: (if bitOf (l.word 5) 48 then [fieldOf (l.word 5) 24 24] else [])
  else []

/-- Whether a dependence on launches holds (12 R220): a launch that is not live counts as met. -/
def launchesMet (s : State) (l : Launch) : Bool :=
  fieldOf (l.word 5) 61 2 == 1 && l.named.all (fun n => match findLaunch s n with
    | none => true
    | some m => l.early && decide (m.total ≤ m.placed))

/-- Dependences on launches are judged; a met dependence stays met. (DEDUCED, log entry 17.) -/
def judgeLaunches (s : State) : State :=
  { s with launches := s.launches.map (fun l => if launchesMet s l then { l with met := true } else l) }

/-- A launch's completion action (12 R221; 16 R287 type 1). (DEDUCED, log entry 23.) -/
def completeLaunch (s : State) (l : Launch) : State :=
  let a := judgeLaunches { s with launches := s.launches.filter (fun x => x.num != l.num),
                                  sbars := s.sbars.filter (fun b => b.launch != l.num),
                                  colls := s.colls.filter (fun e => e.2.launch != l.num) }
  let kind := fieldOf (l.word 6) 62 2
  let ev : Event := { part := l.part, type := 1, w1 := l.tag.setWidth 64,
                      w2 := if kind = 2 then BitVec.ofNat 64 (fieldOf (l.word 6) 0 48) else 0,
                      w3 := if l.reset then 1 else 0 }
  if l.reset then postEvent a ev
  else if kind = 1 then addCounter a (fieldOf (l.word 6) 0 8) (fieldOf (l.word 6) 8 6) 1
  else if kind = 2 then postEvent a ev
  else a

/-- One more skein of a launch has exited; the last one completes the launch. -/
def launchExit (s : State) (num : Nat) : State :=
  match findLaunch s num with
  | none => s
  | some l =>
    let l' := { l with exited := l.exited + 1 }
    if l'.exited = l'.total then completeLaunch s l' else setLaunch s l'

/-- Rising numbers as runs of consecutive ones: first number and length. -/
def runsOf : List Nat → List (Nat × Nat)
  | [] => []
  | x :: t =>
    match runsOf t with
    | [] => [(x, 1)]
    | r :: rs => if x + 1 = r.1 then (x, r.2 + 1) :: rs else (x, 1) :: r :: rs

/-- The dirty bytes of an L1 line reach their home (02 R55): each run of them is one write, judged at the units that it covers
(01 R402), and discarded on a field frame (03 R63). -/
def writeBackLine (s : State) (l : L1Line) : State :=
  (runsOf (l.dirty.map (fun e => e.1))).foldl (fun a r =>
    homePut a (l.pa + r.1) ((rangeFrom r.1 r.2).map (fun i => { val := Tbl.get 0 l.bytes i, bad := Tbl.get false l.bad i }))) s

/-- Writes back the dirty lines that `f` picks, keeping them clean. (DESIGN CHOICE, log entry 15.) -/
def writeBack (s : State) (f : L1Line → Bool) : State :=
  let ls := s.l1.filter (fun l => f l && !l.dirty.isEmpty)
  let a := ls.foldl writeBackLine s
  { a with l1 := a.l1.map (fun l => if f l then { l with dirty := [] } else l) }

/-- Drops the L1 lines that `f` picks; dirty bytes are not written back. (DESIGN CHOICE, log entry 15.) -/
def dropL1 (s : State) (f : L1Line → Bool) : State := { s with l1 := s.l1.filter (fun l => !f l) }

/-- This package's holder word of a skein (02 R43). (DEDUCED, log entry 33.) -/
def skeinAgent (k : Skein) : Agent := .skein (k.launch % 256) k.index

/-- The regions that a skein of package `pkg` holds become lost, and its shares are dropped (02 R56): the regions, and how many
have become lost. A root region whose last share goes keeps its entry. (DESIGN CHOICE, log entry 64.) -/
def loseRegions (rs : List Region) (pkg part ctx : Nat) (a : Agent) : List Region × Nat :=
  let mine (h : Holder) : Bool := h.package == pkg && h.ctx == ctx && h.agent == a
  let cur (r : Region) : Bool := r.part == part && r.ctx == ctx && r.chain.getLast?.any mine
  (rs.map (fun r =>
    let r := if r.part == part && r.ctx == ctx then { r with sharers := r.sharers.map (fun h => if mine h.1 then (h.1, 0) else h) } else r
    if cur r then { r with lost := true } else r),
   (rs.filter (fun r => cur r && !r.lost)).length)

/-- Cached grants of lost regions are revoked, those on their way included (02 R48, R57). -/
def revokeLost (s : State) : State :=
  let dead (g : Grant) : Bool := s.regions.any (fun r => r.lost && r.part == g.part && r.ctx == g.ctx &&
    decide (g.base < r.base + 2 ^ r.k) && decide (r.base < g.base + 2 ^ g.k))
  { s with grants := s.grants.filter (fun g => !dead g),
           flight := s.flight.filter (fun i => match i with
             | .grantGive g _ => !dead g
             | _ => true) }

/-- Everything a skein leaves behind is freed: strands, copies, triggers, grants and the skein itself (14 R252). -/
def freeSkein (s : State) (sid : Nat) : State :=
  let k := getSkein s sid
  let ag := skeinAgent k
  { s with strands := s.strands.filter (fun e => e.1 / 128 != sid),
           skeins := Tbl.erase s.skeins sid,
           triggers := s.triggers.filter (fun t => t.sid != sid),
           parked := s.parked.filter (fun t => t.sid != sid),
           grants := s.grants.filter (fun g => !(g.agent == ag && g.ctx == k.ctx && g.part == k.part && g.package == s.package.toNat)),
           refused := s.refused.filter (fun r => r.1 != sid),
           flight := s.flight.filter (fun i => match i with
             | .half h => h.org.sid != sid
             | _ => true) }

/-- Kills a skein (14 R252): its dirty lines are written back unless its core has failed, its copies and triggers are
dropped, its regions are lost, and it counts as exited. -/
def killSkein (s : State) (sid : Nat) (inner : Nat) (coreLost : Bool) : State :=
  let k := getSkein s sid
  let a := if coreLost then s else writeBack s (fun l => l.owner == sid && l.core == k.core)
  let a := dropL1 a (fun l => l.owner == sid && l.core == k.core && !l.dirty.isEmpty)
  let rs := loseRegions a.regions a.package.toNat k.part k.ctx (skeinAgent k)
  let a := { a with regions := rs.1, copies := a.copies.filter (fun c => c.sid != sid),
                    collWaits := a.collWaits.filter (fun c => c.sid != sid) }
  let a := freeSkein (revokeLost a) sid
  let a := postEvent a { part := k.part, type := 7, w1 := BitVec.ofNat 64 k.launch, w2 := BitVec.ofNat 64 k.index,
                         w3 := BitVec.ofNat 64 inner }
  launchExit a k.launch

/-- The transfers that XF counts: those with a debit to be decided or a credit to be acknowledged (03 R71). -/
def Strand.xf (t : Strand) : Nat := (t.xfers.filter (fun x => x.undecided != 0 || x.awaiting != 0)).length

/-- Whether a strand's counters are all zero (12 R216). -/
def Strand.idle (t : Strand) : Bool :=
  t.replies.isEmpty && t.stores.isEmpty && t.cp == 0 && t.tl == 0 && t.xf == 0

/-- A skein whose last strand has exited exits, and its resources are freed (12 R216). -/
def exitSkein (s : State) (sid : Nat) : State :=
  let k := getSkein s sid
  if (skeinAll k).any (fun e => (getStrand s (strandKey sid e.1 e.2)).live) then s
  else
    let a := writeBack s (fun l => l.owner == sid && l.core == k.core)
    launchExit (freeSkein a sid) k.launch

/-- The key of a skein: its launch's number and its linear index. -/
def skeinId (launch index : Nat) : Nat := launch * 0x1000000000000 + index

end Sys2Proof.Machine
end

