-- ==== Sys2Proof/Machine/Operands.lean ====
section
/-! DEFINITION. How an instruction reaches its operands: the checks that every lane-set and every uniform-set word
passes (08 R136), blocks of the extension word (08 R140 to R143), and writing a lane's results. -/

namespace Sys2Proof.Machine

/-- A rounding mode (08 R140, 09 R164). -/
inductive Rnd where
  | rne
  | rtz
  | rup
  | rdn
  | rna
  deriving DecidableEq, Repr

/-- The mode of a RND field. -/
def rndOf (m : Nat) : Rnd :=
  match m with
  | 1 => .rtz
  | 2 => .rup
  | 3 => .rdn
  | 4 => .rna
  | _ => .rne

/-- What the extension word gives: rows, columns, SAT, RND, S3 and the row pitch (08 R140). -/
structure Ext where
  rows : Nat
  cols : Nat
  sat : Bool
  rnd : Rnd
  s3 : Option Nat
  pitch : Nat
  deriving DecidableEq, Repr

/-- An instruction with no extension word (08 R140). -/
def Ext.plain : Ext := { rows := 1, cols := 1, sat := false, rnd := .rne, s3 := none, pitch := 8 }

/-- The element offsets r * p + c of a block, in order (08 R143). -/
def Ext.offsets (x : Ext) : List Nat :=
  (List.range x.rows).flatMap (fun r => (List.range x.cols).map (fun c => r * x.pitch + c))

/-- What one lane writes: registers, predicates, and the sticky flags it raises. -/
structure LaneOut where
  regs : List (Nat × Word)
  preds : List (Nat × Bool)
  flags : BitVec 6
  deriving DecidableEq, Repr

/-- A lane that writes registers only. -/
def wr (rs : List (Nat × Word)) : LaneOut := { regs := rs, preds := [], flags := 0 }

/-- A lane that writes one register and raises flags. -/
def wrf (d : Nat) (x : Word) (f : BitVec 6) : LaneOut := { regs := [(d, x)], preds := [], flags := f }

/-- A lane that writes one predicate. -/
def wp (q : Nat) (b : Bool) : LaneOut := { regs := [], preds := [(q, b)], flags := 0 }

/-- Writes a lane's results into the strand. -/
def Strand.write (t : Strand) (lane : Nat) (o : LaneOut) : Strand :=
  let a := o.regs.foldl (fun u e => u.setV e.1 lane e.2) t
  let b := o.preds.foldl (fun u e => u.setPred lane e.1 e.2) a
  { b with fstat := b.fstat ||| o.flags }

/-- Each lane of a mask computes from the strand as it stood and writes (17 R297: every source is read first). -/
def Strand.lanewise (t : Strand) (m : BitVec 4) (op : Nat → LaneOut) : Strand :=
  (lanesOf m).foldl (fun u j => u.write j (op j)) t

/-- The lanes that a permute reads besides its own (19 R329, R333): SHFL by the index in its second source, SHFLI at a
fixed distance, LPREV one lane below and the last lane of its second source. -/
inductive Far where
  | none
  | shfl (a b : Nat)
  | shfli (a : Nat) (i : Int)
  | lprev (a b : Nat)
  deriving DecidableEq, Repr

/-- What a lane-set word names: its guard, its length, the mode it needs, its operands' registers (one list for each
operand), those it reads in its active lanes and those it writes, the uniform register it reads, and the other lanes
that it reads (19 R317). -/
structure LaneForm where
  instr : Instr
  guard : Guard
  len : Nat
  mode : Mode
  blocks : List (List Nat)
  src : List Nat
  dst : List Nat
  base : Option Nat
  far : Far
  deriving DecidableEq, Repr

/-- Whether a mode reaches at least another. -/
def Mode.reaches (m need : Mode) : Bool :=
  match need, m with
  | .user, _ => true
  | .supervisor, .user => false
  | .supervisor, _ => true
  | .hypervisor, .hypervisor => true
  | .hypervisor, _ => false

/-- Whether lane `l` of the ply supplies its register: it is live and its strand is in the group (19 R317). -/
def supplies (s : State) (l : Nat) : Bool :=
  (grp s).contains (l / 4) && !(curStrand s (l / 4)).dead.getLsbD (l % 4)

/-- The active lanes of the group under a guard, by their numbers in the ply. -/
def activeLanes (s : State) (g : Guard) : List Nat :=
  (grp s).flatMap (fun n => (lanesOf ((curStrand s n).active g)).map (fun j => 4 * n + j))

/-- The register that active lane `l` reads in another lane, and that lane. -/
def Far.source (x : Far) (s : State) (l : Nat) : Option (Nat × Nat) :=
  match x with
  | .none => Option.none
  | .shfl a b =>
    let j := ((curStrand s (l / 4)).v b (l % 4)).toNat
    if j < 32 then some (a, j) else Option.none
  | .shfli a i => if 0 ≤ (l : Int) + i ∧ (l : Int) + i < 32 then some (a, ((l : Int) + i).toNat) else Option.none
  | .lprev a b => some (if l = 0 then (b, 4 * (curSkein s).strands - 1) else (a, l - 1))

/-- What a word reads in strand `n`: its sources in the active lanes, and the registers that other lanes read there. -/
def LaneForm.reads (f : LaneForm) (s : State) (n : Nat) : List (List Nat × BitVec 4) :=
  (f.src, (curStrand s n).active f.guard) ::
    (((activeLanes s f.guard).filterMap (f.far.source s)).filter (fun e => supplies s e.2 && e.2 / 4 == n)).map
      (fun e => ([e.1], laneMask (fun j => j == e.2 % 4)))

/-- The trap that steps 2 to 5 of 08 R136 give a strand for a lane-set word; a strand with no live lane passes over. -/
def LaneForm.refuse (f : LaneForm) (nreg : Nat) (t : Strand) : Option TrapInfo :=
  let trap c := some (trapOf t.liveLanes c t.pc (instrWord f.instr))
  if t.liveLanes = 0 then none
  else if !(t.mode.reaches f.mode) then trap .priv
  else if !f.instr.wf then trap .illegal
  else if !(f.blocks.all (t.allowed nreg)) || (f.len == 8 && !(f.blocks.all t.unsplit)) then trap .regwin
  else none

/-- The POISON trap of strand `n` for a poisoned W register: its handler runs with every lane that is not dead (14 R244,
R265). -/
def poisonTrapOf (s : State) (w : Nat) (m : BitVec 4) (n : Nat) : TrapInfo :=
  { trapOf m .poison (curStrand s n).pc (BitVec.ofNat 64 w) with top := ~~~ (curStrand s n).dead }

/-- Whether an item is a ULD of a skein on its way to W`w`. -/
def Item.bringsW (i : Item) (sid w : Nat) : Bool :=
  let hit (o : Origin) (uni : Option (List Nat × Option Nat)) : Bool := o.sid == sid && (uni.bind (fun u => u.2)) == some w
  match i with
  | .gatherHome p => hit p.org p.uni
  | .gatherStack p => hit p.org p.uni
  | .gatherReply _ p => hit p.org p.uni
  | .fieldAsk o _ uni _ _ _ _ => hit o uni
  | _ => false

/-- Whether a ULD has still to write W`w` of the issuing skein (20 R346). -/
def wAwaited (s : State) (w : Nat) : Bool := w != 0 && s.flight.any (fun i => i.bringsW s.cur.sid w)

/-- A lane-set word up to its own effect: steps 2 to 5, the wait for registers still to be written, lost replies and
a poisoned base register; `k` does the rest. (DEDUCED, log entries 13 and 22 and 53.) -/
def laneEnter (f : LaneForm) (s : State) (k : State → State) : State :=
  let nreg := (curSkein s).nreg
  let act n := (curStrand s n).active f.guard
  let refused n := f.refuse nreg (curStrand s n)
  if (grp s).any (fun n => (refused n).isSome) then trapGroup s refused
  else if (grp s).any (fun n => (f.reads s n).any (fun e => (curStrand s n).awaits e.1 e.2) || (curStrand s n).awaits f.dst (act n)) then
    stall s .poll
  else
    let lost n := (f.reads s n).foldl (fun m e => m ||| (curStrand s n).lostLanes e.1 e.2) 0
    if (grp s).any (fun n => lost n != 0) then
      trapGroup s (fun n =>
        let t := curStrand s n
        if lost n = 0 then none
        else
          let r := (((f.reads s n).flatMap (fun e => e.1.filter (fun v => t.lostLanes [v] e.2 != 0))).head?).getD 0
          some (trapOf (lost n) .lostreply t.pc (BitVec.ofNat 64 (allocNumber nreg (t.place r)))))
    else
      match f.base with
      | some w =>
        if wAwaited s w && (grp s).any (fun n => act n != 0) then stall s .poll
        else if Tbl.get false (curSkein s).wBad w && (grp s).any (fun n => act n != 0) then
          trapGroup s (fun n => some (poisonTrapOf s w (act n) n))
        else k s
      | none => k s

/-- How many registers of each operand one element names: destination, S1, S2 and third source. -/
structure Shape where
  d : Nat
  a : Nat
  b : Nat
  c : Nat
  deriving DecidableEq, Repr

/-- An element's operation: SAT, RND, the registers D, S1, S2 and S3, and the lane's registers and predicates. -/
abbrev Alu := Bool → Rnd → Nat → Nat → Nat → Nat → (Nat → Word) → (Nat → Bool) → LaneOut

/-- The registers an operand names over a block. -/
def blockRegs (x : Ext) (r n : Nat) : List Nat := x.offsets.flatMap (fun e => rangeFrom (r + e) n)

/-- What one lane writes over a whole block (08 R143). -/
def blockOut (x : Ext) (op : Alu) (d a b c : Nat) (v : Nat → Word) (p : Nat → Bool) : LaneOut :=
  x.offsets.foldl (fun o e =>
    let q := op x.sat x.rnd (d + e) (a + e) (b + e) (c + e) v p
    { regs := o.regs ++ q.regs, preds := o.preds ++ q.preds, flags := o.flags ||| q.flags }) (wr [])

/-- The form of an arithmetic word over its block. -/
def aluForm (i : Instr) (g : Guard) (len : Nat) (x : Ext) (sh : Shape) (d a b : Nat) : LaneForm :=
  let c := x.s3.getD d
  { instr := i, guard := g, len := len, mode := .user,
    blocks := [blockRegs x d sh.d, blockRegs x a sh.a, blockRegs x b sh.b, blockRegs x c sh.c],
    src := blockRegs x a sh.a ++ blockRegs x b sh.b ++ blockRegs x c sh.c, dst := blockRegs x d sh.d, base := none, far := .none }

/-- An arithmetic word: every active lane computes its block. -/
def alu (i : Instr) (g : Guard) (len : Nat) (x : Ext) (sh : Shape) (d a b : Nat) (op : Alu) (s : State) : State :=
  laneEnter (aluForm i g len x sh d a b) s (fun s =>
    retire (mapStrands s s.cur.sid s.cur.ply (grp s) (fun _ t =>
      t.lanewise (t.active g) (fun j => blockOut x op d a b (x.s3.getD d) (fun r => t.v r j) (fun q => t.pred j q)))) len)

/-- A uniform-set word up to its own effect (08 R136 steps 3 to 6): the mode, the fields, the tiles and accumulators,
the writer of each W register it writes (07 R127), the wait for those that a ULD has still to write (20 R346), and poison in
those it reads (14 R265). (DEDUCED, log entries 13 and 22.) -/
def uniEnter (i : Instr) (need : Mode) (tiles accs reads writes : List Nat) (s : State) (k : State → State) : State :=
  let sk := curSkein s
  let bad := (reads.filter (fun w => w != 0 && Tbl.get false sk.wBad w)).head?
  let denied := (writes.filter (fun w => !(sk.mayWrite s.cur.ply w))).head?
  if (grp s).any (fun n => !((curStrand s n).mode.reaches need)) then trapAll s .priv (instrWord i)
  else if !i.wf then trapAll s .illegal (instrWord i)
  else if tiles.any (fun t => decide (sk.tiles ≤ t)) || accs.any (fun a => decide (sk.accs ≤ a)) then
    trapAll s .regwin (instrWord i)
  else
    match denied with
    | some w => trapAll s .uwrite (BitVec.ofNat 64 w)
    | none =>
      if (reads ++ writes).any (wAwaited s) then stall s .poll
      else
        match bad with
        | some w => trapGroup s (fun n => some (poisonTrapOf s w (curStrand s n).liveLanes n))
        | none => k s

/-- A uniform arithmetic word that writes W`d` from W registers. -/
def uniAlu (i : Instr) (d : Nat) (reads : List Nat) (f : (Nat → DWord) → DWord) (s : State) : State :=
  uniEnter i .user [] [] reads [d] s (fun s => retire (setWReg s d (f (wReg s))) 4)

/-- The strands of the group that have an active lane under a guard. -/
def acting (s : State) (g : Guard) : List Nat := (grp s).filter (fun n => (curStrand s n).active g != 0)

end Sys2Proof.Machine
end

