-- ==== Sys2Proof/Machine/Flags.lean ====
section
/-! DEFINITION. Number formats, rounding and the sticky flags (09 R161 to R174): exact values, one rounding into a
format with the flags it raises, the exact sums and products, comparison, the four functions, and the tapered codes. -/

namespace Sys2Proof.Machine

/-- FSTAT NX (07 R130). -/
def fNX : BitVec 6 := 1
/-- FSTAT UF. -/
def fUF : BitVec 6 := 2
/-- FSTAT OF. -/
def fOF : BitVec 6 := 4
/-- FSTAT DZ. -/
def fDZ : BitVec 6 := 8
/-- FSTAT NV. -/
def fNV : BitVec 6 := 16
/-- FSTAT MSAT. -/
def fMSAT : BitVec 6 := 32

/-- A flag raised when a condition holds. -/
def flagIf (b : Bool) (f : BitVec 6) : BitVec 6 := if b then f else 0

/-- An IEEE format: exponent bits and fraction bits (09 R161). -/
structure Fmt where
  ebits : Nat
  fbits : Nat
  deriving DecidableEq, Repr

/-- FP64. -/
def f64 : Fmt := { ebits := 11, fbits := 52 }
/-- FP32. -/
def f32 : Fmt := { ebits := 8, fbits := 23 }
/-- BF16. -/
def bf16 : Fmt := { ebits := 8, fbits := 7 }
/-- FP16. -/
def f16 : Fmt := { ebits := 5, fbits := 10 }

/-- The exponent bias, which is also the largest exponent. -/
def Fmt.bias (f : Fmt) : Nat := 2 ^ (f.ebits - 1) - 1

/-- The exponent field of infinities and NaNs. -/
def Fmt.top (f : Fmt) : Nat := 2 ^ f.ebits - 1

/-- The canonical NaN (09 R161). -/
def Fmt.nan (f : Fmt) : Nat := f.top * 2 ^ f.fbits + 2 ^ (f.fbits - 1)

/-- A sign and a magnitude as bits of a format. -/
def Fmt.pack (f : Fmt) (neg : Bool) (mag : Nat) : Nat := (if neg then 2 ^ (f.ebits + f.fbits) else 0) + mag

/-- An infinity. -/
def Fmt.inf (f : Fmt) (neg : Bool) : Nat := f.pack neg (f.top * 2 ^ f.fbits)

/-- The largest finite value with a sign. -/
def Fmt.maxFin (f : Fmt) (neg : Bool) : Nat := f.pack neg (f.top * 2 ^ f.fbits - 1)

/-- The value of a float: a NaN (signaling or quiet), an infinity, or (-1)^neg * m * 2^e exactly. -/
inductive FNum where
  | nan (signaling : Bool)
  | inf (neg : Bool)
  | fin (neg : Bool) (m : Nat) (e : Int)
  deriving DecidableEq, Repr

/-- Reads bits of a format. -/
def Fmt.read (f : Fmt) (x : Nat) : FNum :=
  let neg := x.testBit (f.ebits + f.fbits)
  let ex := fieldOf x f.fbits f.ebits
  let fr := x % 2 ^ f.fbits
  if ex = f.top then
    if fr = 0 then .inf neg else .nan (!(fr.testBit (f.fbits - 1)))
  else if ex = 0 then .fin neg fr (1 - (f.bias : Int) - f.fbits)
  else .fin neg (2 ^ f.fbits + fr) ((ex : Int) - f.bias - f.fbits)

/-- The number of bits of a natural number. -/
def bitLen (n : Nat) : Nat := if n = 0 then 0 else Nat.log2 n + 1

/-- Whether a rounding goes up in magnitude, from the sign, the parity of the quotient, and how the remainder stands to
the half: below, at or above it, or none (09 R164). -/
def roundsUp (r : Rnd) (neg odd : Bool) (inexact : Bool) (atHalf aboveHalf : Bool) : Bool :=
  match r with
  | .rne => aboveHalf || (atHalf && odd)
  | .rna => aboveHalf || atHalf
  | .rtz => false
  | .rup => inexact && !neg
  | .rdn => inexact && neg

/-- m * 2^e, with `sticky` for a value strictly between m and m + 1 of these units, rounded to a multiple of 2^q: the
multiple, and whether it differs. -/
def roundAt (r : Rnd) (neg : Bool) (m : Nat) (e : Int) (sticky : Bool) (q : Int) : Nat × Bool :=
  if q ≤ e then (m * 2 ^ (e - q).toNat, sticky)
  else
    let k := (q - e).toNat
    let n := m / 2 ^ k
    let rem := m % 2 ^ k
    let half := 2 ^ (k - 1)
    let inexact := rem != 0 || sticky
    let up := roundsUp r neg (n % 2 == 1) inexact (rem == half && !sticky) (decide (half < rem) || (rem == half && sticky))
    (if up then n + 1 else n, inexact)

/-- Rounds (-1)^neg * m * 2^e (and a sticky part below) once into a format, with overflow by 09 R164 and SAT by
08 R141: the bits and the flags of 09 R163. -/
def roundFin (f : Fmt) (r : Rnd) (sat : Bool) (neg : Bool) (m : Nat) (e : Int) (sticky : Bool) : Nat × BitVec 6 :=
  if m = 0 ∧ !sticky then (f.pack neg 0, 0)
  else
    let emin : Int := 1 - f.bias
    let ex : Int := e + bitLen m - 1
    let q := max ex emin - f.fbits
    let n := roundAt r neg m e sticky q
    let u := roundAt r neg m e sticky (ex - f.fbits)
    let tiny := decide (ex < emin) && !(decide (ex = emin - 1) && u.1 == 2 ^ (f.fbits + 1))
    if (f.bias : Int) < q + bitLen n.1 - 1 then
      let toInf := match r with
        | .rne => true
        | .rna => true
        | .rtz => false
        | .rup => !neg
        | .rdn => neg
      (if toInf && !sat then f.inf neg else f.maxFin neg, fOF ||| fNX)
    else
      let bits := if n.1 < 2 ^ f.fbits then n.1
        else if n.1 < 2 ^ (f.fbits + 1) then ((q + f.fbits + f.bias).toNat - 1) * 2 ^ f.fbits + n.1
        else (q + f.fbits + f.bias).toNat * 2 ^ f.fbits + n.1 / 2
      (f.pack neg bits, flagIf n.2 fNX ||| flagIf (tiny && n.2) fUF)

/-- Rounds an exact value once into a format. -/
def Fmt.round (f : Fmt) (r : Rnd) (sat : Bool) (x : FNum) : Nat × BitVec 6 :=
  match x with
  | .nan _ => (f.nan, 0)
  | .inf neg => (f.inf neg, 0)
  | .fin neg m e => roundFin f r sat neg m e false

/-- Whether a value is a signaling NaN. -/
def FNum.signals : FNum → Bool
  | .nan s => s
  | _ => false

/-- Whether a value is a NaN. -/
def FNum.isNan : FNum → Bool
  | .nan _ => true
  | _ => false

/-- The negated value. -/
def FNum.neg : FNum → FNum
  | .nan s => .nan s
  | .inf n => .inf (!n)
  | .fin n m e => .fin (!n) m e

/-- A signed magnitude as an integer. -/
def signed (neg : Bool) (m : Nat) : Int := if neg then -(m : Int) else m

/-- The exact sum, and whether the operation is invalid (09 R162, R163); an exact zero is -0 only when both are, or by
RDN when the signs differ. -/
def addExact (r : Rnd) (a b : FNum) : FNum × Bool :=
  match a, b with
  | .nan s, y => (.nan false, s || y.signals)
  | x, .nan s => (.nan false, s || x.signals)
  | .inf n, .inf k => if n = k then (.inf n, false) else (.nan false, true)
  | .inf n, .fin _ _ _ => (.inf n, false)
  | .fin _ _ _, .inf n => (.inf n, false)
  | .fin n m e, .fin k l f =>
    let g := min e f
    let t := signed n (m * 2 ^ (e - g).toNat) + signed k (l * 2 ^ (f - g).toNat)
    if t = 0 then (.fin (if n = k then n else r == .rdn) 0 0, false) else (.fin (decide (t < 0)) t.natAbs g, false)

/-- The exact product, and whether the operation is invalid. -/
def mulExact (a b : FNum) : FNum × Bool :=
  match a, b with
  | .nan s, y => (.nan false, s || y.signals)
  | x, .nan s => (.nan false, s || x.signals)
  | .inf n, .inf k => (.inf (n != k), false)
  | .inf n, .fin k m _ => if m = 0 then (.nan false, true) else (.inf (n != k), false)
  | .fin k m _, .inf n => if m = 0 then (.nan false, true) else (.inf (n != k), false)
  | .fin n m e, .fin k l f => (.fin (n != k) (m * l) (e + f), false)

/-- a + b rounded once. -/
def fadd (f : Fmt) (r : Rnd) (sat : Bool) (a b : Nat) : Nat × BitVec 6 :=
  let x := addExact r (f.read a) (f.read b)
  let y := f.round r sat x.1
  (y.1, y.2 ||| flagIf x.2 fNV)

/-- a * b rounded once. -/
def fmul (f : Fmt) (r : Rnd) (sat : Bool) (a b : Nat) : Nat × BitVec 6 :=
  let x := mulExact (f.read a) (f.read b)
  let y := f.round r sat x.1
  (y.1, y.2 ||| flagIf x.2 fNV)

/-- a * b + c rounded once; 0 times infinity is invalid whatever c is. (DEDUCED, log entry 21.) -/
def ffma (f : Fmt) (r : Rnd) (sat : Bool) (a b c : Nat) : Nat × BitVec 6 :=
  let p := mulExact (f.read a) (f.read b)
  let x := addExact r p.1 (f.read c)
  let y := f.round r sat x.1
  (y.1, y.2 ||| flagIf (p.2 || x.2) fNV)

/-- Whether a < b, for values that are not NaN. -/
def FNum.lt (a b : FNum) : Bool :=
  match a, b with
  | .fin n m e, .fin k l f =>
    let g := min e f
    decide (signed n (m * 2 ^ (e - g).toNat) < signed k (l * 2 ^ (f - g).toNat))
  | .inf n, .inf k => n && !k
  | .inf n, _ => n
  | _, .inf k => !k
  | _, _ => false

/-- Whether a value is zero. -/
def FNum.isZero : FNum → Bool
  | .fin _ m _ => m == 0
  | _ => false

/-- The sign of a value. -/
def FNum.sign : FNum → Bool
  | .fin n _ _ => n
  | .inf n => n
  | .nan _ => false

/-- FMIN and FMAX (19 R319): -0 counts as less than +0, and a NaN yields to a number. -/
def fminmax (f : Fmt) (isMax : Bool) (a b : Nat) : Nat × BitVec 6 :=
  let x := f.read a
  let y := f.read b
  let fl := flagIf (x.signals || y.signals) fNV
  if x.isNan && y.isNan then (f.nan, fl)
  else if x.isNan then (b, fl)
  else if y.isNan then (a, fl)
  else
    let less := x.lt y || (x.isZero && y.isZero && x.sign && !y.sign)
    (if less == isMax then b else a, fl)

/-- FCMP (19 R320): the truth of a condition and the flag. -/
def fcmp (f : Fmt) (c : Nat) (a b : Nat) : Bool × BitVec 6 :=
  let x := f.read a
  let y := f.read b
  let un := x.isNan || y.isNan
  let lt := x.lt y
  let gt := y.lt x
  let eq := !lt && !gt
  let res := match c with
    | 0 => !un && eq
    | 1 => un || !eq
    | 2 => !un && lt
    | 3 => !un && (lt || eq)
    | 4 => !un && gt
    | 5 => !un && (gt || eq)
    | 6 => !un
    | _ => un
  (res, flagIf (x.signals || y.signals || (un && decide (2 ≤ c) && decide (c ≤ 5))) fNV)

/-! ## Functions (19 R321) -/

/-- The integer square root of `x` below 2^(2n), bit by bit from bit `n - 1` down, `r` being the root so far. -/
def isqrtFrom (x : Nat) : Nat → Nat → Nat
  | 0, r => r
  | n + 1, r => let t := r + 2 ^ n; isqrtFrom x n (if t * t ≤ x then t else r)

/-- The integer square root. -/
def isqrt (x : Nat) : Nat := isqrtFrom x (bitLen x / 2 + 1) 0

/-- ln 2 in units of 2^-w, from the series of 1 / (k 2^k), `n` terms. -/
def ln2 (w : Nat) : Nat → Nat
  | 0 => 0
  | n + 1 => ln2 w n + 2 ^ w / ((n + 1) * 2 ^ (n + 1))

/-- The Taylor sum of exp(y / 2^w) in units of 2^-w: `n` further terms, `k` the index and `t` the current term. -/
def expSum (w y : Nat) : Nat → Nat → Nat → Nat
  | 0, _, _ => 0
  | n + 1, k, t => t + expSum w y n (k + 1) (t * y / 2 ^ w / (k + 1))

/-- 2^(g / 2^w) in units of 2^-w, for g below 2^w. (DEDUCED, log entry 11.) -/
def exp2Frac (w g : Nat) : Nat := expSum w (g * ln2 w w / 2 ^ w) 80 0 (2 ^ w)

/-- `n` bits of log2(y / 2^w) for y / 2^w in [1, 2), by repeated squaring, appended below `acc`. (DEDUCED, log entry 11.) -/
def log2Bits (w : Nat) : Nat → Nat → Nat → Nat
  | 0, _, acc => acc
  | n + 1, y, acc =>
    let z := y * y / 2 ^ w
    if 2 ^ (w + 1) ≤ z then log2Bits w n (z / 2) (2 * acc + 1) else log2Bits w n z (2 * acc)

/-- FRCP. -/
def frcp (a : Nat) : Nat × BitVec 6 :=
  match f32.read a with
  | .nan s => (f32.nan, flagIf s fNV)
  | .inf n => (f32.pack n 0, 0)
  | .fin n m e =>
    if m = 0 then (f32.inf n, fDZ)
    else
      let k := bitLen m + 64
      roundFin f32 .rne false n (2 ^ k / m) (-(k : Int) - e) (2 ^ k % m != 0)

/-- FRSQ. -/
def frsq (a : Nat) : Nat × BitVec 6 :=
  match f32.read a with
  | .nan s => (f32.nan, flagIf s fNV)
  | .inf n => if n then (f32.nan, fNV) else (f32.pack false 0, 0)
  | .fin n m e =>
    if m = 0 then (f32.inf n, fDZ)
    else if n then (f32.nan, fNV)
    else
      let m := if e % 2 = 0 then m else 2 * m
      let h := e / 2
      let k := bitLen m + 64
      let r := isqrt (2 ^ (2 * k) / m)
      roundFin f32 .rne false false r (-(k : Int) - h) (r * r * m != 2 ^ (2 * k))

/-- FEX2: exact for an integer, else the correctly rounded value from 256 fraction bits. (DEDUCED, log entry 11.) -/
def fex2 (a : Nat) : Nat × BitVec 6 :=
  match f32.read a with
  | .nan s => (f32.nan, flagIf s fNV)
  | .inf n => if n then (f32.pack false 0, 0) else (f32.inf false, 0)
  | .fin n m e =>
    if m = 0 then (f32.pack false (f32.bias * 2 ^ 23), 0)
    else
      let x : Int := signed n (if 0 ≤ e then m * 2 ^ (e.toNat + 256) else m * 2 ^ 256 / 2 ^ (-e).toNat)
      let i := x / 2 ^ 256
      let g := (x % 2 ^ 256).toNat
      if 1000 < i then roundFin f32 .rne false false 1 1000 false
      else if i < -1000 then roundFin f32 .rne false false 1 (-1000) true
      else if g = 0 then roundFin f32 .rne false false 1 i false
      else roundFin f32 .rne false false (exp2Frac 256 g) (i - 256) true

/-- FLG2: exact for a power of two, else the correctly rounded value from 160 fraction bits. (DEDUCED, log entry 11.) -/
def flg2 (a : Nat) : Nat × BitVec 6 :=
  match f32.read a with
  | .nan s => (f32.nan, flagIf s fNV)
  | .inf n => if n then (f32.nan, fNV) else (f32.inf false, 0)
  | .fin n m e =>
    if m = 0 then (f32.inf true, fDZ)
    else if n then (f32.nan, fNV)
    else
      let l := bitLen m
      let ex : Int := e + l - 1
      if m = 2 ^ (l - 1) then roundFin f32 .rne false (decide (ex < 0)) ex.natAbs 0 false
      else
        let t : Int := ex * 2 ^ 160 + log2Bits 512 160 (m * 2 ^ 512 / 2 ^ (l - 1)) 0
        if 0 ≤ t then roundFin f32 .rne false false t.toNat (-160) true
        else roundFin f32 .rne false true ((-t).toNat - 1) (-160) true

/-! ## Integers and tapered codes -/

/-- A value rounded to an integer and whether it differs; `none` for a NaN or an infinity. -/
def roundInt (r : Rnd) (x : FNum) : Option (Int × Bool) :=
  match x with
  | .fin n m e => let y := roundAt r n m e false 0; some (signed n y.1, y.2)
  | _ => none

/-- A float as an integer in [lo, hi], with the flags of 09 R165. -/
def floatToInt (r : Rnd) (lo hi : Int) (x : FNum) : Int × BitVec 6 :=
  match x with
  | .nan _ => (0, fNV)
  | .inf n => (if n then lo else hi, fNV)
  | .fin n m e =>
    let y := roundAt r n m e false 0
    let v := signed n y.1
    if v < lo then (lo, fNV) else if hi < v then (hi, fNV) else (v, flagIf y.2 fNX)

/-- The bits of a tapered magnitude: 7 for T8, 5 for T6 (09 R166). -/
def taperedBits (t6 : Bool) : Nat := if t6 then 5 else 7

/-- The number of consecutive bits equal to `b` from bit `n - 1` of `m` down. -/
def runLen (m : Nat) (b : Bool) : Nat → Nat
  | 0 => 0
  | n + 1 => if m.testBit n = b then runLen m b n + 1 else 0

/-- The value of a magnitude code times 2^12 (09 R166). -/
def taperedMag (t6 : Bool) (m : Nat) : Nat :=
  if m = 0 then 0
  else
    let n := taperedBits t6
    let b := m.testBit (n - 1)
    let k := runLen m b n
    let rg : Int := if b then k - 1 else -k
    let rest := if k = n then 0 else n - k - 1
    let hasE := !t6 && decide (1 ≤ rest)
    let e := if hasE then fieldOf m (rest - 1) 1 else 0
    let fb := if hasE then rest - 1 else rest
    let sig := 2 ^ fb + m % 2 ^ fb
    let ex : Int := (if t6 then rg else 2 * rg + e) + 12 - fb
    if 0 ≤ ex then sig * 2 ^ ex.toNat else sig / 2 ^ (-ex).toNat

/-- Decodes a tapered code: zero, NaR as a quiet NaN, or its exact value (09 R169). -/
def taperedRead (t6 : Bool) (c : Nat) : FNum :=
  let n := taperedBits t6
  let m := c % 2 ^ n
  let s := c.testBit n
  if m = 0 then (if s then .nan false else .fin false 0 0) else .fin s (taperedMag t6 m) (-12)

/-- The largest magnitude code whose value is at most x / den, looking down from code `c`. -/
def taperedFloor (t6 : Bool) (x den : Nat) : Nat → Nat
  | 0 => 0
  | c + 1 => if taperedMag t6 (c + 1) * den ≤ x then c + 1 else taperedFloor t6 x den c

/-- TaperedEncode (09 R170): the code and the flags OF, UF and NX. -/
def taperedWrite (t6 : Bool) (x : FNum) : Nat × BitVec 6 :=
  let n := taperedBits t6
  let top := 2 ^ n - 1
  match x with
  | .nan _ => (2 ^ n, 0)
  | .inf s => ((if s then 2 ^ n else 0) + top, fOF ||| fNX)
  | .fin s m e =>
    if m = 0 then (0, 0)
    else
      let num := if -12 ≤ e then m * 2 ^ (e + 12).toNat else m
      let den := if -12 ≤ e then 1 else 2 ^ (-(e + 12)).toNat
      let sg := if s then 2 ^ n else 0
      if taperedMag t6 top * den ≤ num then
        (sg + top, flagIf (taperedMag t6 top * den != num) (fOF ||| fNX))
      else if num ≤ taperedMag t6 1 * den then
        (sg + 1, flagIf (taperedMag t6 1 * den != num) (fUF ||| fNX))
      else
        let lo := taperedFloor t6 num den top
        let dl := num - taperedMag t6 lo * den
        let dh := taperedMag t6 (lo + 1) * den - num
        let c := if dl < dh then lo else if dh < dl then lo + 1 else if lo % 2 = 0 then lo else lo + 1
        (sg + c, flagIf (dl != 0) fNX)

/-- The FP32 value of an E8M0 scale byte (09 R171); `none` for 0xFF. -/
def scaleExp (e : Byte) : Option Int := if e = 0xFF then none else some ((e.toNat : Int) - 127)

/-- TwoSum (04 R85, 19 R324): the rounded sum with its flags, and the exact error, +0 when the sum is not finite. -/
def twoSum (a b : Nat) : Nat × BitVec 6 × FNum :=
  let s := fadd f32 .rne false a b
  match f32.read s.1 with
  | .fin n m e =>
    let t := addExact .rne (addExact .rne (f32.read a) (f32.read b)).1 (.fin (!n) m e)
    (s.1, s.2, if t.1.isZero then .fin false 0 0 else t.1)
  | _ => (s.1, s.2, .fin false 0 0)

/-- The compensated pair after a contribution (y, ey), 04 R85: a NaN in ey reaches S too; no flag is raised. -/
def pairAdd (sw ew y ey : Nat) : Nat × Nat :=
  let t := twoSum sw y
  let u := addExact .rne (f32.read ew) t.2.2
  let v := addExact .rne u.1 (f32.read ey)
  (if (f32.read ey).isNan then f32.nan else t.1, (f32.round .rne false v.1).1)

end Sys2Proof.Machine
end

