-- ==== Sys2Proof/Machine/Access.lean ====
section
/-! DEFINITION. What a global access passes before it is performed: translation (02 R32 to R37), the token check (02
R40 to R48), and the L1 data cache (02 R55, 13 R232); and the order among accesses in flight (13 R229 to R236). -/

namespace Sys2Proof.Machine

/-! ## Page-table entries and the walk -/

/-- What an access does (14 R254 gives the kinds of the fault record). -/
inductive Acc where
  | fetch
  | load
  | store
  | atomic
  | conv
  | copyRead
  | copyWrite
  deriving DecidableEq, Repr

/-- Whether an access stores (02 R37 step 6). -/
def Acc.writes : Acc → Bool
  | .store => true
  | .atomic => true
  | .copyWrite => true
  | _ => false

/-- The access kind of a fault record (14 R254). -/
def Acc.kind : Acc → Nat
  | .fetch => 0
  | .load => 1
  | .conv => 1
  | .store => 2
  | .atomic => 2
  | .copyRead => 3
  | .copyWrite => 4

/-- A translation: the physical address, the leaf entry, the page's base and size, and the home die of the frame. -/
structure Xl where
  pa : Nat
  leaf : Nat
  base : Nat
  k : Nat
  die : Nat
  deriving DecidableEq, Repr

/-- RW of a leaf (02 R35). -/
def Xl.rw (x : Xl) : Bool := bitOf x.leaf 2
/-- X of a leaf. -/
def Xl.ex (x : Xl) : Bool := bitOf x.leaf 3
/-- USER of a leaf. -/
def Xl.user (x : Xl) : Bool := bitOf x.leaf 4
/-- FLD of a leaf. -/
def Xl.fld (x : Xl) : Bool := bitOf x.leaf 7
/-- TIER of a leaf. -/
def Xl.tier (x : Xl) : Bool := bitOf x.leaf 8
/-- CNV of a leaf. -/
def Xl.cnv (x : Xl) : Nat := fieldOf x.leaf 9 2
/-- The ordering kind of a leaf. -/
def Xl.kind (x : Xl) : PageKind :=
  match fieldOf x.leaf 5 2 with
  | 0 => .unordered
  | 1 => .release
  | _ => .sequential
/-- Whether the page is a memory-control frame (01 R9). -/
def Xl.ctl (x : Xl) : Bool := inCtl x.pa

/-- The outcome of a check: a translation, or a cause with the entry that gave it. -/
inductive Chk where
  | ok (x : Xl)
  | bad (c : Cause) (entry : Nat)
  deriving DecidableEq, Repr

/-- The index bits of a level: lowest bit and width (02 R34). -/
def levelBits (l : Nat) : Nat × Nat := if l = 0 then (16, 5) else (12 + 9 * l, 9)

/-- The page size of a leaf at a level, as a power of two. -/
def pageBits (l : Nat) : Nat := if l = 0 then 16 else 12 + 9 * l

/-- Whether a partition owns the channels of every HBM frame of a page (02 R36). -/
def ownsPage (s : State) (p base k : Nat) : Bool :=
  if k = 30 then (getPart s p).chans == 2 ^ 256 - 1
  else (rangeFrom (base / 0x10000) (2 ^ (k - 16))).all (ownsFrame s p)

/-- Whether a valid leaf at a level is malformed (02 R36, 01 R9). -/
def leafBad (s : State) (p l e : Nat) : Bool :=
  let k := pageBits l
  let base := fieldOf e 16 36 * 0x10000
  let place :=
    if inCtl base then
      decide (k = 16) && !bitOf e 4 && fieldOf e 5 2 == 2 && !bitOf e 7 && !bitOf e 8 && fieldOf e 9 2 == 0
    else if base + 2 ^ k ≤ hbmTop then ownsPage s p base k
    else inTier s base && inTier s (base + 2 ^ k - 1)
  fieldOf e 52 12 != 0 || fieldOf e 11 5 != 0 || decide (3 ≤ l) || base % 2 ^ k != 0 || fieldOf e 5 2 == 3 ||
    (bitOf e 7 && fieldOf e 9 2 != 0) || !place

/-- Whether a valid non-leaf entry at a level is malformed (02 R36). -/
def nodeBad (s : State) (p l e : Nat) : Bool :=
  let next := fieldOf e 8 44 * 0x100
  fieldOf e 52 12 != 0 || fieldOf e 2 6 != 0 || l == 0 || (decide (2 ≤ l) && fieldOf e 8 4 != 0) ||
    !(inHbm next) || !(ownsFrame s p (next / 0x10000))

/-- The walk from a node at level `l - 1` down: the first entry that is not valid, or is malformed, ends it (02 R37 steps 3 and
4). (DESIGN CHOICE, log entry 55.) -/
def walkFrom (s : State) (p va : Nat) : Nat → Nat → Chk
  | 0, _ => .bad .prot 0
  | l + 1, node =>
    let ix := levelBits l
    let e := readMem s (node + 8 * fieldOf va ix.1 ix.2) 8
    if !bitOf e 0 then .bad .page e
    else if bitOf e 1 then
      if leafBad s p l e then .bad .prot e
      else
        let k := pageBits l
        let base := fieldOf e 16 36 * 0x10000
        .ok { pa := base + va % 2 ^ k, leaf := e, base := va / 2 ^ k * 2 ^ k, k := k, die := homeDie s ((base + va % 2 ^ k) / 0x10000) }
    else if nodeBad s p l e then .bad .prot e
    else walkFrom s p va l (fieldOf e 8 44 * 0x100)

/-- The physical address of a context's descriptor (02 R33). -/
def ctxDesc (s : State) (p ctx : Nat) : Nat := fieldOf (getPart s p).ctxBase.toNat 6 46 * 64 + 64 * ctx

/-- Whether a context's descriptor is valid (02 R33). -/
def ctxValid (s : State) (p ctx : Nat) : Bool :=
  let d := ctxDesc s p ctx
  let w := readMem s d 8
  ctx != 0xFFFF && populated s d && bitOf w 0 && fieldOf w 52 12 == 0 && fieldOf w 1 11 == 0 && readMem s (d + 8) 56 == 0

/-- A walk of the page tables of a context (02 R34), from ROOT. -/
def walk (s : State) (p ctx va : Nat) : Chk :=
  let root := fieldOf (readMem s (ctxDesc s p ctx) 8) 12 40 * 0x1000
  if !(ctxValid s p ctx) || !(inHbm root) then .bad .prot 0 else walkFrom s p va 5 root

/-- The level of the entry that ends the walk of an address, from a node at level `l - 1` down. -/
def walkEnd (s : State) (va : Nat) : Nat → Nat → Nat
  | 0, _ => 0
  | l + 1, node =>
    let e := readMem s (node + 8 * fieldOf va (levelBits l).1 (levelBits l).2) 8
    if !bitOf e 0 || bitOf e 1 then l else walkEnd s va l (fieldOf e 8 44 * 0x100)

/-- The address that a leaf entry which marks a moving frame names, at the level where the walk of a context's address ends: its FRAME
stands as it was (01 R27). -/
def movedPa (s : State) (p ctx va e : Nat) : Nat :=
  fieldOf e 16 36 * 0x10000 + va % 2 ^ pageBits (walkEnd s va 5 (fieldOf (readMem s (ctxDesc s p ctx) 8) 12 40 * 0x1000))

/-- The home die that a cached translation names for a frame. -/
def dieIn (ds : List (Nat × Nat)) (f : Nat) : Option Nat := (ds.find? (fun e => e.1 == f)).map (fun e => e.2)

/-- The cached translation of an address on a core. -/
def tlbFind (s : State) (core p ctx va : Nat) : Option TlbEntry :=
  s.tlb.find? (fun e => e.core == core && e.part == p && e.ctx == ctx && decide (e.base ≤ va) && decide (va < e.base + 2 ^ e.k))

/-- Steps 2 to 5 of 02 R37, and the translation; a page on a tier frame gives PAGE whatever its TIER bit holds, as no access
reaches the tier (01 R21). A cached page whose frame has not been reached yet takes the home die that the home table names.
(DEDUCED, log entry 49.) -/
def translate (s : State) (core p ctx va : Nat) : Chk :=
  if 2 ^ 57 ≤ va ∨ !(ctxValid s p ctx) then .bad .prot 0
  else
    let r := match tlbFind s core p ctx va with
      | some e =>
        let pa := fieldOf e.leaf.toNat 16 36 * 0x10000 + va % 2 ^ e.k
        Chk.ok { pa := pa, leaf := e.leaf.toNat, base := e.base, k := e.k,
                 die := (dieIn e.dies (pa / 0x10000)).getD (homeDie s (pa / 0x10000)) }
      | none => walk s p ctx va
    match r with
    | .ok x => if x.tier || inTier s x.pa then .bad .page x.leaf else .ok x
    | b => b

/-- Steps 6 and 7 of 02 R37, with the rules of a memory-control page (01 R9): a fetch from one gives PROT, and any read of 8 bytes
that is no lane's, as of a DGST.FOLD or a descriptor, counts as a load. (DESIGN CHOICE, log entry 70.) -/
def permit (m : Mode) (a : Acc) (size : Nat) (x : Xl) : Chk :=
  if x.ctl then
    if m != .hypervisor then .bad .prot x.leaf
    else if a != .load && a != .store then .bad .prot x.leaf
    else if size != 8 then .bad .misalign x.leaf
    else if a == .store && !x.rw then .bad .prot x.leaf
    else .ok x
  else if m == .user && !x.user then .bad .prot x.leaf
  else if a == .fetch && !x.ex then .bad .prot x.leaf
  else if a.writes && !x.rw && !x.fld then .bad .prot x.leaf
  else if a.writes && x.fld then .bad .fstore x.leaf
  else .ok x

/-- Steps 1 to 7 of 02 R37 for one access of `size` bytes aligned to `al`; an aligned access that crosses a frame is
STRADDLE (04 R84). (DEDUCED, log entries 9 and 49.) -/
def checkVa (s : State) (core p ctx : Nat) (m : Mode) (a : Acc) (va size al : Nat) : Chk :=
  if va % al != 0 then .bad .misalign 0
  else if va / 0x10000 != (va + size - 1) / 0x10000 then .bad .straddle 0
  else
    match translate s core p ctx va with
    | .ok x => permit m a size x
    | b => b

/-- A core keeps a translation it has used: the page's leaf entry, and the home die of the frame. -/
def fillTlb (s : State) (core p ctx : Nat) (x : Xl) : State :=
  let f := x.pa / 0x10000
  let same (e : TlbEntry) : Bool :=
    e.core == core && e.part == p && e.ctx == ctx && e.base == x.base && e.k == x.k && e.leaf == BitVec.ofNat 64 x.leaf
  if s.tlb.any (fun e => same e && (dieIn e.dies f).isSome) then s
  else if s.tlb.any same then { s with tlb := s.tlb.map (fun e => if same e then { e with dies := (f, x.die) :: e.dies } else e) }
  else
    { s with tlb := { core := core, part := p, ctx := ctx, base := x.base, k := x.k, leaf := BitVec.ofNat 64 x.leaf,
                      dies := [(f, x.die)] } :: s.tlb }

/-! ## Regions and the token check -/

/-- The region that an address lies in, as the table lists it. -/
def regionAt (s : State) (p ctx va : Nat) : Option Region :=
  s.regions.find? (fun r => r.part == p && r.ctx == ctx && decide (r.base ≤ va) && decide (va < r.base + 2 ^ r.k))

/-- This package's identifier. -/
def here (s : State) : Nat := s.package.toNat

/-- A context on this package as a holder: the owner of a root region (02 R42). -/
def ctxHolder (s : State) (ctx : Nat) : Holder := { package := here s, ctx := ctx, agent := .context }

/-- The region of an address: listed, or the root region that its context still holds whole (02 R42, 04 R91); a context whose descriptor
has lost V and got it again keeps what is listed. (DESIGN CHOICE, log entry 77.) -/
def regionOf (s : State) (p ctx va : Nat) : Region :=
  (regionAt s p ctx va).getD
    { part := p, ctx := ctx, base := va / 2 ^ 40 * 2 ^ 40, k := 40, chain := [ctxHolder s ctx], sharers := [], lost := false }

/-- The current holder, chain[DEPTH]. -/
def Region.holder (r : Region) : Holder := r.chain.getLastD { package := 0, ctx := 0, agent := .context }

/-- DEPTH. -/
def Region.depth (r : Region) : Nat := r.chain.length - 1

/-- The total share count. -/
def Region.shares (r : Region) : Nat := r.sharers.foldl (fun n h => n + h.2) 0

/-- STATE: 0 OWNED, 1 LENT, 2 SHARED, 3 LOST (02 R45). -/
def Region.state (r : Region) : Nat :=
  if r.lost then 3 else if r.shares != 0 then 2 else if r.depth != 0 then 1 else 0

/-- Who asks for an access: a skein, with the context match or without it (15 R272), the copy agent of a context (16
R284), or fabric ingress for a package (02 R47). -/
inductive Asker where
  | skein (a : Agent) (viaCtx : Bool)
  | copyAgent
  | ingress (package : Nat)
  | context
  deriving DecidableEq, Repr

/-- Whether an agent matches a holder word of its context (02 R47). -/
def matchesHolder (s : State) (x : Asker) (ctx : Nat) (h : Holder) : Bool :=
  h.ctx == ctx &&
    match x with
    | .skein a viaCtx => (h.agent == a && h.package == here s) || (viaCtx && h.agent == .context && h.package == here s)
    | .copyAgent => (h.agent == .copies || h.agent == .context) && h.package == here s
    | .ingress q => (h.agent == .copies || h.agent == .context) && h.package == q
    | .context => h.agent == .context && h.package == here s

/-- Whether the region's state allows an access (02 R47). -/
def tokenAllows (s : State) (x : Asker) (ctx : Nat) (r : Region) (write : Bool) : Bool :=
  match r.state with
  | 3 => false
  | 2 => !write && (matchesHolder s x ctx r.holder || r.sharers.any (fun h => h.2 != 0 && matchesHolder s x ctx h.1))
  | _ => matchesHolder s x ctx r.holder

/-- Whether a token instruction's hand-off on a region overlapping a range is under way (02 R48). -/
def handOff (s : State) (p ctx base len : Nat) : Bool :=
  s.flight.any (fun i => match i with
    | .tokenOp _ p' ctx' b k _ _ _ _ => p' == p && ctx' == ctx && decide (b < base + len) && decide (base < b + 2 ^ k)
    | _ => false)

/-- Whether an access to a page carries a token check (02 R40). -/
def Xl.tokened (x : Xl) : Bool := x.rw && !x.fld && !x.ctl

/-- Whether a skein's launch commits no further phase: its accesses are then all refused (15 R272). -/
def phasesDone (s : State) (sid : Nat) : Bool := skeinDet s sid && (getSkein s sid).committed

/-- A skein as it asks for an access. -/
def skeinAsker (s : State) (sid : Nat) : Asker := .skein (skeinAgent (getSkein s sid)) (!(skeinDet s sid))

/-- A grant in cache `c` that allows an access of an agent of a package (02 R48). -/
def grantFor (s : State) (c p pkg : Nat) (a : Agent) (ctx va : Nat) (write : Bool) : Option Grant :=
  s.grants.find? (fun g => g.core == c && g.part == p && g.package == pkg && g.agent == a && g.ctx == ctx && decide (g.base ≤ va) &&
    decide (va < g.base + 2 ^ g.k) && (g.write || !write))

/-- The cause of a refused token check (15 R272). -/
def tokenCause (s : State) (sid : Nat) : Cause := if skeinDet s sid then .isolate else .token

/-- Whether a refusal of a request has reached the core and not yet been taken. -/
def wasRefused (s : State) (sid va : Nat) (write : Bool) : Bool := s.refused.contains (sid, va, if write then 1 else 0)

/-- What step 8 gives a lane access on a core: allowed, refused, or a grant to be asked for (02 R48). -/
inductive TokenAnswer where
  | allowed (back : Bool)
  | refused
  | ask
  deriving DecidableEq, Repr

/-- The token check of a lane access by a skein (02 R48); after the last commit every access is refused (15 R272). -/
def tokenCheck (s : State) (sid va : Nat) (write : Bool) (x : Xl) : TokenAnswer :=
  let k := getSkein s sid
  if phasesDone s sid then .refused
  else if !x.tokened then .allowed false
  else
    match grantFor s k.core k.part (here s) (skeinAgent k) k.ctx va write with
    | some g => .allowed g.back
    | none => if wasRefused s sid va write then .refused else .ask

/-! ## The L1 data cache -/

/-- The line of a core that holds an address under its virtual name: the L1 is looked up by name, and a line that was filled
under another name of its frame gives no hit. (DESIGN CHOICE, log entry 15.) -/
def l1Line (s : State) (core ctx va pa : Nat) : Option L1Line :=
  s.l1.find? (fun l => l.core == core && l.pa == pa / 64 * 64 && l.ctx == ctx && l.va == va / 64 * 64)

/-- Whether the core's L1 holds every byte of an access. -/
def l1Holds (s : State) (core ctx va pa size : Nat) : Bool :=
  match l1Line s core ctx va pa with
  | none => false
  | some l => (List.range size).all (fun i => Tbl.get false l.valid (pa % 64 + i))

/-- The bytes of an access in the core's L1. -/
def l1Read (s : State) (core ctx va pa size : Nat) : List PByte :=
  match l1Line s core ctx va pa with
  | none => []
  | some l => (List.range size).map (fun i =>
      { val := Tbl.get 0 l.bytes (pa % 64 + i), bad := Tbl.get false l.bad (pa % 64 + i) })

/-- A line with no byte. -/
def emptyLine (core ctx va pa owner : Nat) (kind : PageKind) : L1Line :=
  { core := core, ctx := ctx, va := va / 64 * 64, pa := pa / 64 * 64, kind := kind, owner := owner, valid := [],
    dirty := [], bytes := [], bad := [] }

/-- Places bytes in a line: `back` marks them dirty, and `over` lets them replace bytes that the line holds. -/
def L1Line.put (l : L1Line) (off : Nat) (bs : List PByte) (back force : Bool) : L1Line :=
  bs.zipIdx.foldl (fun l e =>
    let i := off + e.2
    if Tbl.get false l.valid i && !force then l
    else
      { l with valid := Tbl.set false l.valid i true, bytes := Tbl.set 0 l.bytes i e.1.val,
               bad := Tbl.set false l.bad i e.1.bad,
               dirty := if back then Tbl.set false l.dirty i true else l.dirty }) l

/-- A line that the core holds under another name of its frame is written back and dropped. -/
def claimLine (s : State) (core ctx va pa : Nat) : State :=
  let f (l : L1Line) : Bool := l.core == core && l.pa == pa / 64 * 64 && !(l.ctx == ctx && l.va == va / 64 * 64)
  dropL1 (writeBack s f) f

/-- Writes an access's bytes into the core's L1, one line. -/
def l1Put (s : State) (core ctx owner : Nat) (kind : PageKind) (va pa : Nat) (bs : List PByte) (back force : Bool) : State :=
  let s := claimLine s core ctx va pa
  let l := (l1Line s core ctx va pa).getD (emptyLine core ctx va pa owner kind)
  let l := { l with owner := if back then owner else l.owner }
  { s with l1 := l.put (pa % 64) bs back force :: s.l1.filter (fun x => !(x.core == core && x.pa == pa / 64 * 64)) }

/-- Whether a line lies in a region that a skein resident on the core holds exclusively (13 R236). -/
def heldExclusively (s : State) (l : L1Line) : Bool :=
  let p := partOf s l.core
  let r := regionOf s p l.ctx l.va
  (r.state == 0 || r.state == 1) &&
    (residentOn s l.core).any (fun sid => let k := getSkein s sid
      k.ctx == l.ctx && r.holder.agent == skeinAgent k && r.holder.package == here s)

/-- Replies on their way to a core no longer fill its L1 where `f` says so: what they carry may be older than what
the core has since acquired. -/
def stopFills (s : State) (core : Nat) (f : LaneAcc → Nat → Bool) : State :=
  { s with flight := s.flight.map (fun i => match i with
      | .gatherReply fill p => .gatherReply (fill && !(p.org.core == core && p.lanes.any (fun l => f l p.org.ctx))) p
      | i => i) }

/-- The invalidation of an acquire (13 R236, R238): the core's RC lines, and with `u` its U lines, that lie in no
region held exclusively by one of its skeins; dirty lines lie only in such regions. (DESIGN CHOICE, log entry 15.) -/
def acquire (s : State) (core : Nat) (u : Bool) : State :=
  let a := dropL1 s (fun l => l.core == core && (l.kind == .release || (u && l.kind == .unordered)) &&
    !heldExclusively s l && l.dirty.isEmpty)
  stopFills a core (fun l _ => l.kind == .release || u)

/-- Invalidates a core's lines in a region (13 R241). -/
def dropRegion (s : State) (core ctx base k : Nat) : State :=
  let a := dropL1 s (fun l => l.core == core && l.ctx == ctx && decide (base ≤ l.va) && decide (l.va < base + 2 ^ k) && l.dirty.isEmpty)
  stopFills a core (fun l c => c == ctx && decide (base ≤ l.va) && decide (l.va < base + 2 ^ k))

/-! ## Accesses in flight and their order -/

/-- The stored element that image element `k` of a converted tile comes from (01 R18): transpose, re-block or both. -/
def imageSource (conv k : Nat) : Nat :=
  let r := k / 256 * 8 + k % 64 / 8
  let c := k / 64 % 4 * 8 + k % 8
  match conv with
  | 1 => 32 * (k % 32) + k / 32
  | 2 => 32 * r + c
  | _ => 32 * c + r

/-- The bytes that a lane of a packet touches, as accesses: a converted read touches the stored bytes that its four image
bytes come from (01 R17, R18). -/
def laneParts (conv : BitVec 2) (l : LaneAcc) : List LaneAcc :=
  if conv = 0 then [l]
  else
    let w := 2 ^ (l.cnv - 1)
    (List.range 4).map (fun i =>
      let o := l.pa % (1024 * w) + i
      { l with pa := l.pa / (1024 * w) * (1024 * w) + imageSource conv.toNat (o / w) * w + o % w, size := 1 })

/-- The accesses of a packet, each with its issuer; an access that a group makes counts for each of its strands (20 R346). -/
def Packet.accesses (p : Packet) : List (Origin × LaneAcc) :=
  let one (l : LaneAcc) : List (Origin × LaneAcc) := (laneParts p.conv l).map (fun x => (p.org, x))
  match p.uni with
  | none => p.lanes.flatMap one
  | some (ns, _) => ns.flatMap (fun n => p.lanes.flatMap (fun l => one { l with lane := 4 * n }))

/-- A read of cells elsewhere as a packet, which no home here performs. -/
def askPacket (o : Origin) (uni : Option (List Nat × Option Nat)) (ls : List LaneAcc) : Packet :=
  { org := o, write := false, conv := 0, stack := 0, die := 0, base := 0, slice := 0, uni := uni, lanes := ls }

/-- The accesses of an item that are still to be performed; a reply is performed already. A read of a cell elsewhere touches
no byte here. -/
def Item.pending : Item → List (Origin × LaneAcc)
  | .gatherHome p => p.accesses
  | .gatherStack p => p.accesses
  | .atomic r => r.lanes.map (fun x =>
      (x.org, { lane := x.lane, pa := r.pa, va := x.va, size := r.width, kind := r.kind, cache := false, fld := false, cnv := 0, data := [], done := 0 }))
  | .fieldAsk o l uni _ _ _ _ => (askPacket o uni [{ l with pa := 0, va := 0, size := 0 }]).accesses
  | .half h => if h.near then [] else h.lanes.map (fun x =>
      (h.org, { lane := x.lane, pa := x.at_, va := x.va, size := 8, kind := x.kind, cache := true, fld := false, cnv := 0, data := [], done := 0 }))
  | _ => []

/-- Whether the accesses of an item are stores, atomics or reductions. -/
def Item.stores : Item → Bool
  | .gatherHome p => p.write
  | .gatherStack p => p.write
  | .atomic _ => true
  | .half h => h.write
  | _ => false

/-- Whether an access was made by strand `n` of a ply. -/
def byStrand (e : Origin × LaneAcc) (sid ply n : Nat) : Bool :=
  e.1.sid == sid && e.1.ply == ply && e.2.lane / 4 == n

/-- Whether a strand of the group still has an access to be performed. (DESIGN CHOICE, log entry 14.) -/
def unperformed (s : State) (sid ply : Nat) (ns : List Nat) : Bool :=
  s.flight.any (fun i => i.pending.any (fun e => ns.any (byStrand e sid ply)))

/-- Whether two ranges of bytes overlap. -/
def overlap (a n b m : Nat) : Bool := decide (a < b + m) && decide (b < a + n)

/-- Whether an access touches a word that an order log or gate watches (15 R280). -/
def watched (s : State) (pa n : Nat) : Bool := s.orders.any (fun e => overlap e.pa 8 pa n)

/-- Whether an access of the group to a word that an order log or gate watches is still on its way: a release at CORE scope waits
for it, as such words keep no order among the strands of a core (13 R240, 15 R282, 22 R375). -/
def watchedAway (s : State) : Bool :=
  s.flight.any (fun i => i.pending.any (fun e => watched s e.2.pa e.2.size && (grp s).any (byStrand e s.cur.sid s.cur.ply)))

/-- Whether an earlier access must be performed before a later one (13 R230, R231, R236): accesses of one core, or of one skein
wherever it was placed, to one byte, unless the word is watched (`w`: its gate orders the strands, 15 R282), S accesses of one
strand, and the orders of ACQ and REL, which U pages ignore. -/
def accPrecedes (w : Bool) (e f : Origin × LaneAcc) : Bool :=
  let share := e.1.sid == f.1.sid && e.1.ply == f.1.ply && e.2.lane / 4 == f.2.lane / 4
  ((e.1.core == f.1.core || e.1.sid == f.1.sid) && (share || !w) && overlap e.2.pa e.2.size f.2.pa f.2.size) ||
    (share && e.1.tag != f.1.tag && ((e.2.kind == .sequential && f.2.kind == .sequential) ||
      (e.1.acq && e.2.kind != .unordered) || (f.1.rel && f.2.kind != .unordered)))

/-- Whether a FENCE holds an access of its group (13 R237): a later one, to a page that it orders; a REL alone holds only
stores. -/
def Fence.holds (f : Fence) (store : Bool) (e : Origin × LaneAcc) : Bool :=
  e.1.sid == f.sid && e.1.ply == f.ply && f.strands.contains (e.2.lane / 4) && decide (f.tag < e.1.tag) &&
    (f.all || e.2.kind != .unordered) && (f.acq || store)

/-- Whether a FENCE that `pick` picks holds what some strands of a ply issued after it, under a tag (13 R239). -/
def heldByFence (s : State) (pick : Fence → Bool) (sid ply tag : Nat) (ns : List Nat) : Bool :=
  s.flight.any (fun i => match i with
    | .fence f => pick f && f.sid == sid && f.ply == ply && decide (f.tag < tag) && ns.any f.strands.contains
    | _ => false)

/-- Whether a FENCE with CP holds what the group is to issue now, a store or not: it issues once the order of that FENCE holds, so that
nothing waits in flight behind a copy that pauses for a save (13 R239). (DESIGN CHOICE, log entry 14.) -/
def cpHolds (s : State) (store unordered : Bool) : Bool :=
  heldByFence s (fun f => f.cp && (f.acq || store) && (f.all || !unordered)) s.cur.sid s.cur.ply s.seq (grp s)

/-- Whether an item that left before must be performed, or a FENCE hold, before some accesses are. -/
def precedes (s : State) (i : Item) (store : Bool) (es : List (Origin × LaneAcc)) : Bool :=
  match i with
  | .fence f => es.any (f.holds store)
  | i => i.pending.any (fun e => es.any (fun f => accPrecedes (watched s f.2.pa f.2.size) e f))

/-- Whether an earlier item must be performed before a later one. -/
def mustPrecede (s : State) (i j : Item) : Bool := precedes s i j.stores j.pending

/-- Whether an S access of one instruction comes before another by its lane (13 R231). -/
def laneFirst (e f : Origin × LaneAcc) : Bool :=
  e.1.sid == f.1.sid && e.1.ply == f.1.ply && e.1.tag == f.1.tag && e.2.kind == .sequential && f.2.kind == .sequential &&
    decide (e.2.lane < f.2.lane)

/-- The pending accesses of an item that the lanes of one instruction are ordered by: an access that a group makes is one, whatever
strands it counts for. -/
def Item.byLane (i : Item) : List (Origin × LaneAcc) :=
  match i with
  | .gatherHome p => if p.uni.isNone then p.accesses else []
  | .gatherStack p => if p.uni.isNone then p.accesses else []
  | .fieldAsk _ _ uni _ _ _ _ => if uni.isNone then i.pending else []
  | i => i.pending

/-- Whether some accesses of item `n` in flight may be performed now, as far as order goes. -/
def mayGo (s : State) (n : Nat) (store : Bool) (es : List (Origin × LaneAcc)) : Bool :=
  (s.flight.take n).all (fun i => !precedes s i store es) &&
    s.flight.all (fun i => i.byLane.all (fun e => es.all (fun f => !laneFirst e f)))

/-- Whether item `n` in flight may be performed now, as far as order goes. -/
def mayPerform (s : State) (n : Nat) : Bool :=
  match s.flight[n]? with
  | none => false
  | some j => mayGo s n j.stores j.pending

/-- Whether an acquire of a strand is still on its way, its reply included, or a FENCE holds its loads. -/
def acquiring (s : State) (sid ply n : Nat) : Bool :=
  s.flight.any (fun i => match i with
    | .gatherReply _ p => p.org.acq && p.accesses.any (fun e => byStrand e sid ply n)
    | .atomReply r _ => r.lanes.any (fun l => l.org.acq && l.org.sid == sid && l.org.ply == ply && l.lane / 4 == n)
    | .fence f => f.acq && f.sid == sid && f.ply == ply && f.strands.contains n
    | i => i.pending.any (fun e => e.1.acq && byStrand e sid ply n))

/-- Whether a FENCE of a strand is still to hold (13 R237). -/
def fencing (s : State) (sid ply n : Nat) : Bool :=
  s.flight.any (fun i => match i with
    | .fence f => f.sid == sid && f.ply == ply && f.strands.contains n
    | _ => false)

/-- Whether an access of the core, or of the issuing skein from where it was before, to these bytes is still to be performed. -/
def touching (s : State) (core pa size : Nat) : Bool :=
  s.flight.any (fun i => i.pending.any (fun e => (e.1.core == core || e.1.sid == s.cur.sid) && overlap e.2.pa e.2.size pa size))

/-- Replaces item `n` of the flight list by some items. -/
def replaceItem (s : State) (n : Nat) (is : List Item) : State :=
  { s with flight := s.flight.take n ++ is ++ s.flight.drop (n + 1) }

/-- The lanes of strand `n` among the lanes of a packet. -/
def strandLanes (ls : List LaneAcc) (n : Nat) : BitVec 4 := laneMask (fun j => ls.any (fun l => l.lane == 4 * n + j))

/-- A store entry without the lanes of strand `n` that `ls` names. -/
def Outstanding.without (o : Outstanding) (n : Nat) (ls : List Nat) : Outstanding :=
  { o with lanes := o.lanes &&& ~~~ (laneMask (fun j => ls.contains (4 * n + j))) }

/-- Lanes of a store or reduction have been performed: the strands' entries lose them (17 R298). -/
def ackStores (s : State) (sid ply tag : Nat) (ls : List Nat) : State :=
  mapStrands s sid ply (List.range 8) (fun n t =>
    let os := t.stores.map (fun o => if o.tag = tag then o.without n ls else o)
    { t with stores := os.filter (fun o => o.lanes != 0) })

/-! ## A group's lane accesses -/

/-- One active lane's access: its number in the ply, its address and its check. -/
structure LaneChk where
  lane : Nat
  va : Nat
  chk : Chk
  deriving DecidableEq, Repr

/-- The checks of every active lane of the group (20 R335): `va` gives each lane's address. -/
def laneChecks (s : State) (g : Guard) (a : Acc) (size al : Nat) (va : Nat → Nat → Nat) : List LaneChk :=
  let k := curSkein s
  (grp s).flatMap (fun n =>
    let t := curStrand s n
    (lanesOf (t.active g)).map (fun j =>
      let v := va n j
      { lane := 4 * n + j, va := v, chk := checkVa s k.core k.part k.ctx t.mode a v size al }))

/-- A lane's token answer, for a lane whose translation holds; the last byte counts as well as the first. -/
def laneToken (s : State) (write : Bool) (size : Nat) (c : LaneChk) : TokenAnswer :=
  match c.chk with
  | .bad _ _ => .refused
  | .ok x =>
    match tokenCheck s s.cur.sid c.va write x, tokenCheck s s.cur.sid (c.va + size - 1) write x with
    | .allowed b, .allowed _ => .allowed b
    | .ask, _ => .ask
    | _, .ask => .ask
    | _, _ => .refused

/-- The failing cause of a lane, once no answer is outstanding. -/
def laneCause (s : State) (write : Bool) (size : Nat) (c : LaneChk) : Option Cause :=
  match c.chk with
  | .bad e _ => some e
  | .ok _ => match laneToken s write size c with
    | .refused => some (tokenCause s s.cur.sid)
    | _ => none

/-- Asks the home for the grants that the lanes lack (02 R48); a request already on its way is not repeated. -/
def askGrants (s : State) (write : Bool) (size : Nat) (cs : List LaneChk) : State :=
  let k := curSkein s
  let need := (cs.filter (fun c => laneToken s write size c == .ask)).flatMap (fun c =>
    match c.chk with
    | .ok x => [c.va, c.va + size - 1].filter (fun a => tokenCheck s s.cur.sid a write x == .ask)
    | _ => [])
  need.foldl (fun a va =>
    let i := Item.grantAsk k.core a.cur.sid (skeinAgent k) k.ctx k.part va write []
    if a.flight.contains i then a else { a with flight := a.flight ++ [i] }) s

/-- Refusals taken by a trap of the group are forgotten, so that a later access asks anew. -/
def forgetRefusals (s : State) : State := { s with refused := s.refused.filter (fun r => r.1 != s.cur.sid) }

/-- The skein that must be saved for a page fault (14 R253): the strand's pc stands at the instruction, and the fault
record waits for the save. -/
def pageSave (s : State) (n : Nat) (pc va : DWord) (entry kind : Nat) : State :=
  let k := curSkein s
  let w1 := k.launch + k.ctx * 2 ^ 24 + s.cur.ply * 2 ^ 40 + n * 2 ^ 44 + kind * 2 ^ 48 +
    (if bitOf entry 0 && bitOf entry 8 then 2 ^ 51 else 0) +
    (if !bitOf entry 0 && bitOf entry 1 && bitOf entry 11 then 2 ^ 52 else 0)
  let k' := { k with saving := some .fault, faultRec := [va, BitVec.ofNat 64 w1, BitVec.ofNat 64 k.index, 0] }
  tick (mapStrands (setSkein s s.cur.sid k') s.cur.sid s.cur.ply (grp s) (fun _ t => { t with pc := pc, wait := .none }))

/-- The trap of a group whose lanes failed, or the save of its skein when a lane of a U-mode strand failed with PAGE
(02 R37, 14 R245, R253). -/
def failLanes (s : State) (a : Acc) (cs : List (LaneChk × Option Cause)) : State :=
  let page := cs.find? (fun c => c.2 == some .page && (curStrand s (c.1.lane / 4)).mode == .user)
  match page with
  | some c =>
    let e := match c.1.chk with
      | .bad _ e => e
      | .ok _ => 0
    pageSave s (c.1.lane / 4) (curPc s) (BitVec.ofNat 64 c.1.va) e a.kind
  | none =>
    let b := trapGroup s (fun n =>
      let mine := cs.filter (fun c => c.1.lane / 4 == n && c.2.isSome)
      match mine with
      | [] => none
      | c :: _ =>
        let m := laneMask (fun j => mine.any (fun x => x.1.lane % 4 == j))
        some { mask := m, causes := causesFrom (fun j => (mine.find? (fun x => x.1.lane % 4 == j)).bind (fun x => x.2)), top := m,
               epc := (curStrand s n).pc, eaddr := BitVec.ofNat 64 c.1.va, first := ((c.2.map Cause.code).getD 0) })
    forgetRefusals b

/-- The checks of R37 over a group: grants are asked for first, then any failing lane traps; `k` gets the state and
the lanes that passed, each with its translation and whether its region is held write-back. -/
def accessLanes (s : State) (a : Acc) (size : Nat) (cs : List LaneChk) (extra : LaneChk → Option Cause)
    (k : State → List (LaneChk × Xl × Bool) → State) : State :=
  let w := a.writes
  if cs.any (fun c => (extra c).isNone && laneToken s w size c == .ask) then stall (askGrants s w size cs) .grant
  else
    let judged := cs.map (fun c => (c, match extra c with
      | some e => some e
      | none => laneCause s w size c))
    if judged.any (fun c => c.2.isSome) then failLanes s a judged
    else
      let ok := cs.filterMap (fun c => match c.chk, laneToken s w size c with
        | .ok x, .allowed b => some (c, x, b)
        | _, _ => none)
      let sk := curSkein s
      if ok.any (fun c => cpHolds s w (c.2.1.kind == .unordered)) then stall s .poll
      else k (ok.foldl (fun b c => fillTlb b sk.core sk.part sk.ctx c.2.1) s) ok

/-- The checks of R37 over a range that a uniform instruction reads or writes as its group (20 R346, 15 R276, 15 R281):
pieces of at most 8 bytes, each with its address. A failure traps every strand of the group, or saves the skein. -/
def accessRange (s : State) (a : Acc) (pieces : List Nat) (size al : Nat) (k : State → List Xl → State) : State :=
  let sk := curSkein s
  let w := a.writes
  let cs : List LaneChk := pieces.map (fun va =>
    { lane := 4 * (grp s).headD 0, va := va, chk := checkVa s sk.core sk.part sk.ctx (curMode s) a va size al })
  match cs.find? (fun c => (laneCause s w size c).isSome || laneToken s w size c == .ask) with
  | some c =>
    match laneCause s w size c with
    | none => stall (askGrants s w size [c]) .grant
    | some .page =>
      if curMode s == .user then
        pageSave s ((grp s).headD 0) (curPc s) (BitVec.ofNat 64 c.va) (match c.chk with | .bad _ e => e | .ok _ => 0) a.kind
      else trapAll s .page (BitVec.ofNat 64 c.va)
    | some e => forgetRefusals (trapAll s e (BitVec.ofNat 64 c.va))
  | none =>
    let xs := cs.filterMap (fun c => match c.chk with
      | .ok x => some x
      | _ => none)
    if xs.any (fun x => cpHolds s w (x.kind == .unordered)) then stall s .poll
    else k (xs.foldl (fun b x => fillTlb b sk.core sk.part sk.ctx x) s) xs

end Sys2Proof.Machine
end

