-- ==== Sys2Proof/Machine/Local.lean ====
section
/-! DEFINITION. The local store (06 R109 to R118): the check of an offset, its bytes with their poison and full/empty
bits, and LDL, LDLFE, STL, STLFE and ATOML (20 R335 to R340). -/

namespace Sys2Proof.Machine

/-- The bytes of a width code (20 R335). -/
def sizeOf (sz : BitVec 2) : Nat :=
  match sz.toNat with
  | 0 => 4
  | 1 => 8
  | 2 => 16
  | _ => 1

/-- The registers of a width code. -/
def regsOf (sz : BitVec 2) : Nat :=
  match sz.toNat with
  | 1 => 2
  | 2 => 4
  | _ => 1

/-- One byte of a skein's local store, with the poison of its 4-byte word (01 R402). -/
def lsByte (k : Skein) (a : Nat) : PByte := { val := Tbl.get 0 k.ls a, bad := Tbl.get false k.lsBad (a / 4) }

/-- `n` bytes of a skein's local store. -/
def lsRead (k : Skein) (a n : Nat) : List PByte := (List.range n).map (fun i => lsByte k (a + i))

/-- Poison of 4-byte word `w` after a write of `data` at `a` (01 R402). -/
def lsPoison (k : Skein) (a : Nat) (data : List PByte) (w : Nat) : Bool :=
  let lo := max (4 * w) a
  let hi := min (4 * w + 4) (a + data.length)
  if lo < hi ∧ ((data.drop (lo - a)).take (hi - lo)).any (fun b => b.bad) then true
  else if a ≤ 4 * w ∧ 4 * w + 4 ≤ a + data.length then false
  else Tbl.get false k.lsBad w

/-- One write to a skein's local store. -/
def lsWrite (k : Skein) (a : Nat) (data : List PByte) : Skein :=
  if data.isEmpty then k
  else
    let ws := rangeFrom (a / 4) ((a + data.length - 1) / 4 + 1 - a / 4)
    { k with ls := data.zipIdx.foldl (fun m e => Tbl.set 0 m (a + e.2) e.1.val) k.ls,
             lsBad := ws.foldl (fun m w => Tbl.set false m w (lsPoison k a data w)) k.lsBad }

/-- Marks the granules of a range full (06 R117). -/
def setFull (k : Skein) (a n : Nat) : Skein :=
  if n = 0 then k
  else
    { k with full := (rangeFrom (a / 16) ((a + n - 1) / 16 + 1 - a / 16)).foldl (fun m g => Tbl.set false m g true) k.full }

/-- Marks a granule empty. -/
def setEmpty (k : Skein) (g : Nat) : Skein := { k with full := Tbl.set false k.full g false }

/-- The full 64-bit sum that a lane forms (06 R110). -/
def lsSum (s : State) (wb : BitVec 4) (a : BitVec 6) (n j : Nat) : DWord :=
  wReg s wb.toNat + ((curStrand s n).v a.toNat j).setWidth 64

/-- The offset that a sum names: bits 59 to 0. -/
def lsOffset (x : DWord) : Nat := fieldOf x.toNat 0 60

/-- Whether a core's banks take no new access, as a change of their mode waits (06 R114). -/
def banksShut (s : State) (core : Nat) : Bool := (getCore s core).pend.isSome

/-- The cause of a lane's local-store access, if it fails (06 R111): with no local store at all, a misaligned one still gives
MISALIGN. (DESIGN CHOICE, log entry 68.) -/
def lsCheck (k : Skein) (size : Nat) (x : DWord) : Option Cause :=
  if lsOffset x % size != 0 then some .misalign
  else if k.lsSize < lsOffset x + size then some .lsbound
  else none

/-- The form of a local-store word. -/
def localForm (i : Instr) (g : Guard) (d a : BitVec 6) (wb : BitVec 4) (nd : Nat) (store reads : Bool) : LaneForm :=
  let ds := rangeFrom d.toNat nd
  { instr := i, guard := g, len := 4, mode := .user, blocks := [[a.toNat], ds],
    src := a.toNat :: (if reads then ds else []), dst := if store then [] else ds, base := some wb.toNat, far := .none }

/-- The active lanes of the group with the sum that each forms, ascending. -/
def lsLanes (s : State) (g : Guard) (wb : BitVec 4) (a : BitVec 6) : List (Nat × DWord) :=
  (grp s).flatMap (fun n => (lanesOf ((curStrand s n).active g)).map (fun j => (4 * n + j, lsSum s wb a n j)))

/-- A local-store word up to its effect: it waits for a change of banking mode (06 R114) and at the counter limit,
then makes every active lane's check before any is performed (06 R111). `k` gets the active lanes with their offsets. -/
def localEnter (f : LaneForm) (wb : BitVec 4) (a : BitVec 6) (size : Nat) (loads : Bool) (s : State)
    (k : State → List (Nat × Nat) → State) : State :=
  laneEnter f s (fun s =>
    if banksShut s (curCore s) then stall s .poll
    else if (acting s f.guard).any (fun n => decide (63 ≤ (if loads then (curStrand s n).replies.length else (curStrand s n).stores.length))) then
      stall s .poll
    else
      let ls := lsLanes s f.guard wb a
      let sk := curSkein s
      if ls.any (fun l => (lsCheck sk size l.2).isSome) then
        trapGroup s (fun n =>
          let bad := ls.filter (fun l => l.1 / 4 == n && (lsCheck sk size l.2).isSome)
          match bad with
          | [] => none
          | l :: _ =>
            let m := laneMask (fun j => bad.any (fun x => x.1 % 4 == j))
            some { mask := m, top := m, epc := (curStrand s n).pc, eaddr := l.2, first := 0,
                   causes := causesFrom (fun j => (bad.find? (fun x => x.1 % 4 == j)).bind (fun x => lsCheck sk size x.2)) })
      else k s (ls.map (fun l => (l.1, lsOffset l.2))))

/-- The words that bytes fill in registers from `d` on: a byte alone is zero-extended (20 R335). -/
def bytesWords : Nat → List PByte → List Word
  | 0, _ => []
  | n + 1, bs => BitVec.ofNat 32 (bytesToNat ((bs.take 4).map (fun b => b.val))) :: bytesWords n (bs.drop 4)

/-- Delivers bytes into registers of a lane; poisoned bytes kill the lane (14 R265). -/
def Strand.deliver (t : Strand) (regs : List (Bool × Nat)) (j : Nat) (bs : List PByte) (at_ : DWord) : Strand :=
  let u := (regs.zip (bytesWords regs.length bs)).foldl (fun u e => u.setReg e.1 j e.2) t
  if bs.any (fun b => b.bad) then u.kill (laneMask (fun i => i == j)) at_ else u

/-- Delivers to the lane `l` of the ply. -/
def deliverLane (s : State) (d : Nat) (nd l : Nat) (bs : List PByte) : State :=
  let key := curKey s (l / 4)
  let t := getStrand s key
  setStrand s key (t.deliver ((rangeFrom d nd).map t.place) (l % 4) bs t.pc)

/-- The bytes that a lane stores, from registers `d` on. -/
def storeBytes (s : State) (d size l : Nat) : List PByte :=
  let t := curStrand s (l / 4)
  clean (((rangeFrom d ((size + 3) / 4)).flatMap (fun r => natToBytes (t.v r (l % 4)).toNat 4)).take size)

/-- The issuer of an access by the group, with its tag and ORD (20 R337). -/
def origin (s : State) (ord : BitVec 2) : Origin :=
  { core := curCore s, die := dieOf (curCore s), sid := s.cur.sid, ply := s.cur.ply, tag := s.seq, ctx := (curSkein s).ctx,
    pc := curPc s, acq := ord.getLsbD 0, rel := ord.getLsbD 1 }

/-! ## Two halves of 16 bytes (20 R336) -/

/-- The offsets of the half of a 16-byte access that goes first now, and of the other. (DESIGN CHOICE, log entry 58.) -/
def halfOrder (s : State) : Nat × Nat := if s.upper then (8, 0) else (0, 8)

/-- The group waits for the other half of its access. -/
def beginHalf (s : State) (h : Half) : State := stall { s with flight := s.flight ++ [.half h], seq := s.seq + 1 } .half

/-- The group's access of which one half is left. -/
def halfOf (s : State) (near write : Bool) (ls : List HalfLane) : Half :=
  { org := origin s 0, strands := grp s, near := near, write := write, lanes := ls }

/-- The registers of one half of 16 bytes from V`d` on, in the strand of a lane of the ply. -/
def halfRegs (s : State) (d off l : Nat) : List (Bool × Nat) := (rangeFrom (d + off / 4) 2).map (curStrand s (l / 4)).place

/-- A lane of the local store with the half at an offset left. -/
def localHalf (s : State) (d off : Nat) (data : List PByte) (l : Nat × Nat) : HalfLane :=
  { lane := l.1, at_ := l.2 + off, va := 0, kind := .unordered, die := 0, regs := halfRegs s d off l.1, data := data }

/-- Delivers bytes to one lane of a half. -/
def deliverHalf (s : State) (o : Origin) (l : HalfLane) (bs : List PByte) : State :=
  let key := strandKey o.sid o.ply (l.lane / 4)
  setStrand s key ((getStrand s key).deliver l.regs (l.lane % 4) bs o.pc)

/-- The half that is left of an access to the local store. -/
def finishLocal (s : State) (h : Half) : State :=
  if h.write then setSkein s h.org.sid (h.lanes.foldl (fun k l => lsWrite k l.at_ l.data) (getSkein s h.org.sid))
  else h.lanes.foldl (fun a l => deliverHalf a h.org l (lsRead (getSkein s h.org.sid) l.at_ 8)) s

/-- A 16-byte LDL: one half of every lane is read now. -/
def loadHalves (d : Nat) (s : State) (ls : List (Nat × Nat)) : State :=
  let f := halfOrder s
  let h := halfOf s true false (ls.map (localHalf s d f.2 []))
  beginHalf (ls.foldl (fun a l => deliverHalf a h.org (localHalf s d f.1 [] l) (lsRead (curSkein s) (l.2 + f.1) 8)) s) h

/-- A 16-byte STL: one half of every lane is written now. -/
def storeHalves (d : Nat) (s : State) (ls : List (Nat × Nat)) : State :=
  let f := halfOrder s
  let part (off : Nat) (l : Nat × Nat) : List PByte := ((storeBytes s d 16 l.1).drop off).take 8
  beginHalf (setSkein s s.cur.sid (ls.foldl (fun k l => lsWrite k (l.2 + f.1) (part f.1 l)) (curSkein s)))
    (halfOf s true true (ls.map (fun l => localHalf s d f.2 (part f.2 l) l)))

/-- LDL (20 R338). -/
def execLdl (g : Guard) (d a : BitVec 6) (wb : BitVec 4) (sz : BitVec 2) (s : State) :
    Host.Outcome State Fault Refusal :=
  .next (localEnter (localForm (.ldl g d a wb sz) g d a wb (regsOf sz) false false) wb a (sizeOf sz) true s (fun s ls =>
    let sk := curSkein s
    if sizeOf sz = 16 && !ls.isEmpty then loadHalves d.toNat s ls
    else retire (ls.foldl (fun b l => deliverLane b d.toNat (regsOf sz) l.1 (lsRead sk l.2 (sizeOf sz))) s) 4))

/-- Whether every lane's granule is full (06 R118). -/
def allFull (k : Skein) (ls : List (Nat × Nat)) : Bool := ls.all (fun l => Tbl.get false k.full (l.2 / 16))

/-- LDLFE (20 R339): it waits while a granule is empty; with the clear, each granule is emptied once. -/
def execLdlfe (g : Guard) (d a : BitVec 6) (wb : BitVec 4) (c : BitVec 1) (sz : BitVec 2) (s : State) :
    Host.Outcome State Fault Refusal :=
  .next (localEnter (localForm (.ldlfe g d a wb c sz) g d a wb (regsOf sz) false false) wb a (sizeOf sz) true s (fun s ls =>
    let sk := curSkein s
    if !(allFull sk ls) then stall s .fullEmpty
    else
      let b := ls.foldl (fun b l => deliverLane b d.toNat (regsOf sz) l.1 (lsRead sk l.2 (sizeOf sz))) s
      let b := if c = 1 then setSkein b b.cur.sid (ls.foldl (fun k l => setEmpty k (l.2 / 16)) (curSkein b)) else b
      retire b 4))

/-- Stores every lane's bytes in ascending lane order, so that the highest lane remains (06 R113). -/
def storeLanes (s : State) (d size : Nat) (fill : Bool) (ls : List (Nat × Nat)) : State :=
  setSkein s s.cur.sid (ls.foldl (fun k l =>
    let k := lsWrite k l.2 (storeBytes s d size l.1)
    if fill then setFull k l.2 size else k) (curSkein s))

/-- STL (20 R338). -/
def execStl (g : Guard) (d a : BitVec 6) (wb : BitVec 4) (sz : BitVec 2) (s : State) :
    Host.Outcome State Fault Refusal :=
  .next (localEnter (localForm (.stl g d a wb sz) g d a wb (regsOf sz) true true) wb a (sizeOf sz) false s (fun s ls =>
    if sizeOf sz = 16 && !ls.isEmpty then storeHalves d.toNat s ls else retire (storeLanes s d.toNat (sizeOf sz) false ls) 4))

/-- STLFE (20 R339): the granule becomes full with the data. -/
def execStlfe (g : Guard) (d a : BitVec 6) (wb : BitVec 4) (sz : BitVec 2) (s : State) :
    Host.Outcome State Fault Refusal :=
  .next (localEnter (localForm (.stlfe g d a wb sz) g d a wb (regsOf sz) true true) wb a (sizeOf sz) false s (fun s ls =>
    retire (storeLanes s d.toNat (sizeOf sz) true ls) 4))

/-- The new word of ATOML (20 R340): `v` is V[D] and `n` V[D + 1]. -/
def atomlNew (op : Nat) (old v n : Word) : Word :=
  match op with
  | 0 => old + v
  | 1 => old ||| v
  | 2 => v
  | _ => if old = v then n else old

/-- One lane of ATOML: the word is read, then written unless it is poisoned; the old value goes to V[D]. -/
def atomlLane (op d : Nat) (s : State) (l : Nat × Nat) : State :=
  let sk := curSkein s
  let t := curStrand s (l.1 / 4)
  let old := lsRead sk l.2 4
  let oldW : Word := BitVec.ofNat 32 (bytesToNat (old.map (fun b => b.val)))
  let new := atomlNew op oldW (t.v d (l.1 % 4)) (t.v (d + 1) (l.1 % 4))
  let a := if old.any (fun b => b.bad) then s
    else setSkein s s.cur.sid (lsWrite sk l.2 (clean (natToBytes new.toNat 4)))
  deliverLane a d 1 l.1 old

/-- ATOML (20 R340): lanes on one word are applied in ascending order. -/
def execAtoml (g : Guard) (d a : BitVec 6) (wb : BitVec 4) (sz : BitVec 2) (s : State) :
    Host.Outcome State Fault Refusal :=
  let nd := if sz = 3 then 2 else 1
  let f := localForm (.atoml g d a wb sz) g d a wb nd false true
  .next (localEnter { f with dst := [d.toNat] } wb a 4 true s (fun s ls =>
    retire (ls.foldl (atomlLane sz.toNat d.toNat) s) 4))

end Sys2Proof.Machine
end

