-- ==== Sys2Proof/Machine/Regs.lean ====
section
/-! DEFINITION. The registers of the I/O dies and of the configuration window: what a read answers, and what a write
does to the fields that it may write (01 R22, R29; 04 R90, R91; 11 R198; 14 R259; 16 R284 to R293). -/

namespace Sys2Proof.Machine

/-- Keeps the bits of a word from `lo` to `hi`. -/
def keep (w : DWord) (lo hi : Nat) : DWord := BitVec.ofNat 64 (fieldOf w.toNat lo (hi + 1 - lo) * 2 ^ lo)

/-! ## The migration engine and retirement (01 R22 to R29) -/

/-- LOG2N of a die's ring. -/
def IoDie.log2n (d : IoDie) : Nat := fieldOf d.migSize.toNat 0 5

/-- Whether the engine runs: LOG2N from 1 to 16. (DEDUCED, log entry 19.) -/
def IoDie.runs (d : IoDie) : Bool := decide (1 ≤ d.log2n) && decide (d.log2n ≤ 16)

/-- MIGBASE and MIGSIZE take new values, with HEAD and TAIL at 0 (01 R24). -/
def IoDie.rebase (d : IoDie) (base size : DWord) : IoDie :=
  { d with migBase := base, migSize := size, migHead := 0, migTail := 0, migPend := none }

/-- A write of MIGBASE (offset 0) or MIGSIZE (offset 8): at once, or when the move in progress has ended. (DEDUCED, log entry 19.) -/
def migWrite (s : State) (die off : Nat) (w : DWord) : State :=
  let d := getIo s die
  let old := d.migPend.getD (d.migBase, d.migSize)
  let new := if off = 0 then (keep w 12 51, old.2) else (old.1, keep w 0 4)
  setIo s die (if d.migBusy then { d with migPend := some new } else d.rebase new.1 new.2)

/-- A write of TAIL, modulo the ring (01 R24). (DEDUCED, log entry 19.) -/
def migTail (s : State) (die : Nat) (w : DWord) : State :=
  let d := getIo s die
  setIo s die { d with migTail := fieldOf w.toNat 0 16 % 2 ^ d.log2n }

/-- A write of a CHRET word: bits are set only; a change updates measurement block 3 and posts an event (01 R29, R31). -/
def chretSet (s : State) (die word : Nat) (w : DWord) : State :=
  let d := getIo s die
  let old := if word = 0 then d.chret0 else d.chret1
  let new := old ||| w
  let a := setIo s die (if word = 0 then { d with chret0 := new } else { d with chret1 := new })
  if new = old then a else postEvent a { part := 0, type := 5, w1 := 3, w2 := 0, w3 := 0 }

/-- An address moved from one frame to another. -/
def reframe (old new pa : Nat) : Nat := if pa / 0x10000 = old then new * 0x10000 + pa % 0x10000 else pa

/-- Accesses held at a moving frame go on to the new frame (01 R28). -/
def retarget (s : State) (old new : Nat) : State :=
  let lane (l : LaneAcc) : LaneAcc := { l with pa := reframe old new l.pa }
  let pkt (p : Packet) : Packet := { p with base := reframe old new p.base, lanes := p.lanes.map lane }
  { s with flight := s.flight.map (fun i => match i with
      | .gatherHome p => .gatherHome (pkt p)
      | .gatherStack p => .gatherStack (pkt p)
      | .atomic r => .atomic { r with pa := reframe old new r.pa }
      | .fieldAsk o l uni p slot cs sent => .fieldAsk o (lane l) uni p slot cs sent
      | .half h => if h.near then .half h else .half { h with lanes := h.lanes.map (fun l => { l with at_ := reframe old new l.at_ }) }
      | i => i),
           copies := s.copies.map (fun c => { c with pin := c.pin.map (fun x => (reframe old new x.1, x.2)) }),
           heldPkts := s.heldPkts.map (fun h => { h with spots := h.spots.map (fun x =>
             if x.2.1 / 0x10000 = old then (x.1, reframe old new x.2.1, x.2.2.1, false) else x) }) }

/-- A write of FRMOVE (01 R27, R28): the first marks a frame as moving, the second names its new frame and releases
what was held. -/
def frmoveSet (s : State) (die : Nat) (w : DWord) : State :=
  let f := fieldOf w.toNat 16 36
  let d := getIo s die
  match d.frMark with
  | none => { setIo s die { d with frMark := some f } with moving := f :: s.moving }
  | some old =>
    let a := retarget (setIo s die { d with frMark := none }) old f
    { a with moving := a.moving.filter (fun x => x != old) }

/-- ATMCTL as read (04 R90). -/
def atmctlRead (s : State) : DWord :=
  dw (s.atmEpoch.toNat * 2 ^ 28 + s.atmThresh.toNat * 2 ^ 12 + (if s.atmEn then 1 else 0))

/-- A write of ATMCTL. -/
def atmctlSet (s : State) (w : DWord) : State :=
  { s with atmEpoch := w.extractLsb' 28 4, atmThresh := w.extractLsb' 12 16, atmEn := w.getLsbD 0 }

/-- A write of HOMEBASE (04 R91). -/
def homebaseSet (s : State) (w : DWord) : State := { s with homeBase := keep w 21 51 ||| keep w 0 0 }

/-- A write of TOKBASE: ignored unless the partition is held in reset or has no region with an entry (04 R91). -/
def tokbaseSet (s : State) (p : Nat) (w : DWord) : State :=
  let x := getPart s p
  let l := fieldOf w.toNat 0 6
  let lg := if 16 ≤ l ∧ l ≤ 34 then l else 0
  if x.busy || !(s.regions.any (fun r => r.part == p)) then
    setPart s p { x with tokBase := keep w 16 51 ||| dw lg }
  else s

/-- How many entries a partition's token-table area holds, 128 bytes each (04 R91). -/
def tokCapacity (s : State) (p : Nat) : Nat :=
  let l := fieldOf (getPart s p).tokBase.toNat 0 6
  if l = 0 then 0 else 2 ^ l / 128

/-! ## The fabric window and pre-emption registers (11 R198, 14 R259) -/

/-- A write of FWBASE. -/
def fwbaseSet (s : State) (p : Nat) (w : DWord) : State :=
  setPart s p { getPart s p with fwBase := keep w 16 56 ||| keep w 0 0 }

/-- A write of FWCTL: a size outside 16 to 39 reads back as 16. -/
def fwctlSet (s : State) (p : Nat) (w : DWord) : State :=
  let l := fieldOf w.toNat 0 6
  setPart s p { getPart s p with fwCtx := w.extractLsb' 24 16, fwLog2 := if 16 ≤ l ∧ l ≤ 39 then w.extractLsb' 0 6 else 16 }

/-- PRECTL as read. -/
def prectlRead (x : Partition) : DWord :=
  dw ((if x.preReq then 1 else 0) + x.preDeadline.toNat * 2 ^ 8 + x.preCtx.toNat * 2 ^ 32)

/-- A write of PRECTL (14 R259, R260): RESUME releases the held contexts; REQ holds CTX and starts the drain, and is
ignored while one is under way. (DEDUCED, log entry 23.) -/
def prectlSet (s : State) (p : Nat) (w : DWord) : State :=
  let x := getPart s p
  if w.getLsbD 0 && x.preReq then s
  else
    let dl := w.extractLsb' 8 24
    let x := { x with preCtx := w.extractLsb' 32 16, preDeadline := if dl = 0 then 1 else dl,
                      preHeld := if w.getLsbD 1 then [] else x.preHeld }
    let x := if w.getLsbD 0 then
        { x with preReq := true, preState := 1, preSaved := 0, preHeld := x.preHeld ++ [(w.extractLsb' 32 16).toNat],
                 preTarget := (w.extractLsb' 32 16).toNat, preSlice := false }
      else x
    setPart s p x

/-- Whether a context is held by a pre-emption (14 R260). -/
def preHolds (x : Partition) (ctx : Nat) : Bool := x.preHeld.contains ctx || x.preHeld.contains 0xFFFF

/-- PRESTAT as read. -/
def prestatRead (x : Partition) : DWord := dw (x.preSaved.toNat + x.preState.toNat * 2 ^ 32)

/-- Skeins are told to stop for a save; one that is being saved already is not saved twice (14 R264). -/
def stopSkeins (s : State) (sids : List Nat) (r : SaveReason) : State :=
  sids.foldl (fun a sid =>
    let k := getSkein a sid
    if k.place = .resident ∧ k.saving = none then setSkein a sid { k with saving := some r } else a) s

/-- A write of DBGCTL (14 R263): while HALT is 1, every resident skein of LAUNCH is saved and held. -/
def dbgctlSet (s : State) (p : Nat) (w : DWord) : State :=
  let a := setPart s p { getPart s p with dbgHalt := w.getLsbD 24, dbgLaunch := w.extractLsb' 0 24 }
  if w.getLsbD 24 then
    stopSkeins a ((a.skeins.filter (fun e => e.2.part == p && e.2.launch == (w.extractLsb' 0 24).toNat)).map (fun e => e.1)) .debug
  else a

/-- DBGCTL as read. -/
def dbgctlRead_ (x : Partition) : DWord := dw (x.dbgLaunch.toNat + (if x.dbgHalt then 2 ^ 24 else 0))

/-! ## Memory-control registers by offset (01 R8, R9) -/

/-- The partition of an offset in a block of the given base and stride, with the offset within it. -/
def blockOf (off base stride : Nat) : Option (Nat × Nat) :=
  if base ≤ off ∧ off < base + 8 * stride then some ((off - base) / stride, (off - base) % stride) else none

/-- What a read of a die's memory-control register answers, and the state after it: RC registers are cleared by a
read on die 0; an offset that names no register reads zero. (DEDUCED, log entry 19.) -/
def ctlRead (s : State) (die off : Nat) : DWord × State :=
  let d := getIo s die
  match off with
  | 0x000 => (d.migBase, s)
  | 0x008 => (d.migSize, s)
  | 0x010 => (dw d.migHead, s)
  | 0x018 => (dw d.migTail, s)
  | 0x020 => (dw ((if d.migErr then 2 else 0) + (if d.migBusy then 1 else 0)), s)
  | 0x040 => (d.chret0, s)
  | 0x050 => (dw d.retryCnt, setIo s die { d with retryCnt := 0 })
  | 0x058 => (d.chret1, s)
  | 0x080 => (atmctlRead s, s)
  | 0x088 => (dw s.atmCnt, if die = 0 then { s with atmCnt := 0 } else s)
  | 0x090 => (s.homeBase, s)
  | _ =>
    match blockOf off 0x100 0x20, blockOf off 0x200 0x40, blockOf off 0x400 0x10 with
    | some (p, 0x00), _, _ => ((getPart s p).fwBase, s)
    | some (p, 0x08), _, _ => (dw ((getPart s p).fwLog2.toNat + (getPart s p).fwCtx.toNat * 2 ^ 24), s)
    | some (p, 0x10), _, _ =>
      (dw (getPart s p).collDrop, if die = 0 then setPart s p { getPart s p with collDrop := 0 } else s)
    | _, some (p, 0x00), _ => (prectlRead (getPart s p), s)
    | _, some (p, 0x08), _ => (prestatRead (getPart s p), s)
    | _, some (p, 0x10), _ => (dw (getPart s p).sliceLen.toNat, s)
    | _, some (p, 0x18), _ => (dbgctlRead_ (getPart s p), s)
    | _, some (p, 0x20), _ => ((getPart s p).stopBase, s)
    | _, _, some (p, 0x00) => ((getPart s p).tokBase, s)
    | _, _, _ => (0, s)

/-- A write of a memory-control register; die 1 ignores writes of the registers that it only copies, and an offset
that names no writable register ignores the write. -/
def ctlWrite (s : State) (die off : Nat) (w : DWord) : State :=
  match off with
  | 0x000 => migWrite s die 0 w
  | 0x008 => migWrite s die 8 w
  | 0x018 => migTail s die w
  | 0x020 => if w.getLsbD 1 then setIo s die { getIo s die with migErr := false } else s
  | 0x040 => chretSet s die 0 w
  | 0x048 => frmoveSet s die w
  | 0x058 => chretSet s die 1 w
  | _ =>
    if die != 0 then s
    else
      match off with
      | 0x080 => atmctlSet s w
      | 0x090 => homebaseSet s w
      | _ =>
        match blockOf off 0x100 0x20, blockOf off 0x200 0x40, blockOf off 0x400 0x10 with
        | some (p, 0x00), _, _ => fwbaseSet s p w
        | some (p, 0x08), _, _ => fwctlSet s p w
        | _, some (p, 0x00), _ => prectlSet s p w
        | _, some (p, 0x10), _ => setPart s p { getPart s p with sliceLen := w.setWidth 32 }
        | _, some (p, 0x18), _ => dbgctlSet s p w
        | _, some (p, 0x20), _ => setPart s p { getPart s p with stopBase := keep w 14 51 }
        | _, _, some (p, 0x00) => tokbaseSet s p w
        | _, _, _ => s

/-! ## The configuration window (16 R284 to R289, R293) -/

/-- The interrupt that is due once COUNT events stand written that none has covered (16 R288). -/
def coverEvents (s : State) (p : Nat) : State :=
  let x := getPart s p
  if max 1 x.evCount.toNat ≤ x.evUncovered then
    { setPart s p { x with evUncovered := 0 } with hostOut := s.hostOut ++ [HostOut.interrupt p] }
  else s

/-- A write of EVCTL (16 R285, R287, R288): a ring that starts takes the held events, and a lower COUNT may be reached already. -/
def evctlSet (s : State) (p : Nat) (w : DWord) : State :=
  drainHeld p 256 (coverEvents (setPart s p { getPart s p with
    evTime := w.extractLsb' 32 16, evCount := w.extractLsb' 16 16, evLog2n := w.extractLsb' 0 5 }) p)

/-- A write of EVHEAD: freed slots take held events. -/
def evheadSet (s : State) (p : Nat) (w : DWord) : State :=
  drainHeld p 256 (setPart s p { getPart s p with evHead := w.setWidth 16 })

/-- The first word of a push is latched (16 R286). -/
def pushWord0 (s : State) (p q : Nat) (w : DWord) : State :=
  let x := getPart s p
  setPart s p { x with pushWord := Tbl.set 0 x.pushWord q w }

/-- The messages of queue `q`. -/
def queueOf (x : Partition) (q : Nat) : List Msg := Tbl.get [] x.queues q

/-- Appends a message to queue `q`. -/
def enqueue (x : Partition) (q : Nat) (m : Msg) : Partition := { x with queues := Tbl.set [] x.queues q (queueOf x q ++ [m]) }

/-- The second word appends the message, or discards it and sets LOSTQ when the queue is full or BUSY is 1. -/
def pushWord1 (s : State) (p q : Nat) (w : DWord) : State :=
  let x := getPart s p
  if x.busy || decide (64 ≤ (queueOf x q).length) then setPart s p { x with lostQ := x.lostQ ||| (1#32 <<< q) }
  else setPart s p (enqueue x q (Tbl.get 0 x.pushWord q, w, 0, 0))

/-- Whether the dispatcher skein of a partition is resident: PBOOT.LIVE. -/
def dispatcherLive (s : State) (p : Nat) : Bool :=
  s.launches.any (fun l => l.part == p && l.dispatcher &&
    s.skeins.any (fun e => e.2.launch == l.num && e.2.place == .resident))

/-- The capability list as words from 0x0040: five entries of two words (16 R289). (DEDUCED, log entry 20.) -/
def capWord (s : State) (off : Nat) : Nat :=
  let i := (off - 0x40) / 8
  if (off - 0x40) % 8 = 0 then
    (i + 1) + (Config.capVersion (i + 1)).toNat * 2 ^ 16 + (if i < 4 then (0x48 + 8 * i) / 4 else 0) * 2 ^ 24
  else
    match i with
    | 0 => 4096
    | 1 => 15
    | 2 => 0
    | 3 => s.tierMiB * 16
    | _ => 16 + (2 ^ 16 - 1) * 2 ^ 16

/-- A register of a partition block, as read (16 R285). -/
def partReg (s : State) (p off : Nat) : DWord :=
  let x := getPart s p
  match off with
  | 0x000 => dw (x.gran.toNat + x.ports.toNat * 2 ^ 16 + x.spid.toNat * 2 ^ 32)
  | 0x008 => x.ctxBase
  | 0x010 => x.lswBase
  | 0x018 => dw x.lswCtx.toNat
  | 0x020 => dw x.lostQ.toNat
  | 0x028 => if x.busy then 2 else 0
  | 0x030 => x.pbootRec ||| (if dispatcherLive s p then 1 else 0)
  | 0x240 => x.evBase
  | 0x248 => dw (x.evLog2n.toNat + x.evCount.toNat * 2 ^ 16 + x.evTime.toNat * 2 ^ 32)
  | 0x250 => dw x.evHead.toNat
  | 0x258 => dw x.evTail.toNat
  | 0x260 => dw x.evLost
  | 0x270 => dw x.esel.toNat
  | 0x278 => Tbl.get 0 x.energy x.esel.toNat
  | 0x280 => dw (x.chans % 2 ^ 64)
  | 0x288 => dw (x.chans / 2 ^ 64 % 2 ^ 64)
  | 0x290 => dw (x.chans / 2 ^ 128 % 2 ^ 64)
  | 0x298 => dw (x.chans / 2 ^ 192 % 2 ^ 64)
  | _ => 0

/-- The health registers of compute die `d` (16 R293). -/
def dieHealth (s : State) (d off : Nat) : DWord :=
  match off with
  | 0x00 => (Tbl.get 0 s.health.delay d).setWidth 64
  | 0x08 => dw (Tbl.get 0 s.replays d)
  | 0x10 => (Tbl.get 0xFFFFFFFF s.health.days d).setWidth 64
  | _ => 0

/-- PEOL (16 R293): the smallest number of days over the dies, the repairs and the ports. -/
def Health.peol (h : Health) : Nat :=
  (List.range 4).foldl (fun m d => min m (Tbl.get 0xFFFFFFFF h.days d).toNat) (min h.repairDays.toNat h.portDays.toNat)

/-- What the host reads at an offset of the configuration window. (DEDUCED, log entry 20.) -/
def cfgRead (s : State) (off : Nat) : DWord :=
  if off < 0x40 then (Config.identity off).setWidth 64
  else if off < 0x68 then dw (capWord s (off / 4 * 4))
  else if 0x800 ≤ off ∧ off < 0x900 then dieHealth s ((off - 0x800) / 0x40) (off % 0x40)
  else if off = 0x900 then s.health.repair
  else if off = 0x908 then s.health.margin
  else if off = 0x910 then dw s.health.peol
  else if 0x1000 ≤ off ∧ off < 0x3000 then partReg s ((off - 0x1000) / 0x400) (off % 0x400)
  else 0

/-- A write at an offset of the configuration window to a register with no row of its own. -/
def cfgWrite (s : State) (off : Nat) (w : DWord) : State :=
  if 0x1000 ≤ off ∧ off < 0x3000 then
    let p := (off - 0x1000) / 0x400
    let x := getPart s p
    match off % 0x400 with
    | 0x008 => setPart s p { x with ctxBase := keep w 6 51 }
    | 0x010 => setPart s p { x with lswBase := keep w 16 56 ||| keep w 0 0 }
    | 0x018 => setPart s p { x with lswCtx := w.setWidth 16 }
    | 0x020 => setPart s p { x with lostQ := x.lostQ &&& ~~~ (w.setWidth 32) }
    | 0x240 => setPart s p { x with evBase := keep w 12 63 }
    | 0x270 => setPart s p { x with esel := w.setWidth 8 }
    | _ => s
  else s

end Sys2Proof.Machine
end

