-- ==== Sys2Proof/Machine/Home.lean ====
section
/-! DEFINITION. What a home does with an access that reaches it (01 R15 to R19, 03 R63, R66, 04 R83 to R85, 15 R282):
reads with field cells masked and tiles converted, writes kept off field frames, the order log and gate of a watched
word, atomics and reductions; and the strand digest (15 R274, R275). -/

namespace Sys2Proof.Machine

/-! ## Digests -/

/-- Fold (15 R274). -/
def foldDigest (h a d : DWord) : DWord :=
  let K : DWord := 0x9E3779B97F4A7C15
  (((((h ^^^ a) * K).rotateLeft 23) ^^^ d) * K).rotateLeft 23

/-- The words of a DGST.FOLD that have all returned: none while one is outstanding. -/
def blockWords : List (Nat × Option (DWord × Bool)) → Option (List (Nat × DWord × Bool))
  | [] => some []
  | (va, some w) :: t => (blockWords t).map (fun r => (va, w) :: r)
  | (_, none) :: _ => none

/-- The lowest poisoned word of a DGST.FOLD whose words have all returned. -/
def FoldItem.poisoned : FoldItem → Option Nat
  | .block _ _ ws => (blockWords ws).bind (fun vs => (vs.find? (fun v => v.2.2)).map (fun v => v.1))
  | _ => none

/-- Applies the folds at the head of a strand's list that wait for nothing: the digest, and the folds left (15 R275). -/
def drainFolds : DWord → List FoldItem → DWord × List FoldItem
  | h, .ready a d :: t => drainFolds (foldDigest h a d) t
  | h, .block g on ws :: t =>
    match blockWords ws with
    | none => (h, .block g on ws :: t)
    | some vs => drainFolds (if on then vs.foldl (fun h v => foldDigest h (dw v.1 ^^^ 0xFF00000000000000) v.2.1) h else h) t
  | h, is => (h, is)

/-- The strand with some folds to come, those at their head that wait for nothing applied; a DGST.FOLD that has read poison is judged
once its last word has returned, whatever waits before it, and folds nothing (15 R276). (DEDUCED, log entry 37.) -/
def Strand.drain (t : Strand) (is : List FoldItem) : Strand :=
  let r := drainFolds t.digest (is.filter (fun i => i.poisoned.isNone))
  { t with digest := r.1, foldBad := t.foldBad <|> (is.findSome? FoldItem.poisoned).map dw, folds := r.2 }

/-- Folds items into a strand's digest, behind those that still wait, if its enable bit is set (15 R275). (DEDUCED, log entry 37.) -/
def Strand.fold (t : Strand) (is : List FoldItem) : Strand := if t.digestOn then t.drain (t.folds ++ is) else t

/-- The aligned 8-byte words that an access covers, ascending, with a and d of 15 R275. -/
def accessFolds (va : Nat) (bs : List Byte) : List (DWord × DWord) :=
  (rangeFrom (va / 8) ((va + bs.length - 1) / 8 + 1 - va / 8)).map (fun w =>
    let at_ (i : Nat) : Option Byte := if va ≤ 8 * w + i then bs[8 * w + i - va]? else none
    let m := (List.range 8).foldl (fun m i => if (at_ i).isSome then m + 2 ^ i else m) 0
    (BitVec.ofNat 64 (8 * w) ^^^ BitVec.ofNat 64 (m * 2 ^ 56),
     BitVec.ofNat 64 (bytesToNat ((List.range 8).map (fun i => (at_ i).getD 0)))))

/-- The folds of a store. -/
def storeFolds (va : Nat) (bs : List Byte) : List FoldItem := (accessFolds va bs).map (fun e => .ready e.1 e.2)

/-- The folds of an atomic, which wait for the old value. -/
def awaitFolds (tag lane va width : Nat) : List FoldItem :=
  (accessFolds va (List.replicate width 0)).map (fun e => .awaiting tag lane e.1)

/-- The old value of an atomic reaches the folds that wait for it: `va` is the address that its lane named. -/
def Strand.settleFolds (t : Strand) (tag lane va : Nat) (old : List Byte) : Strand :=
  let ds := accessFolds va old
  t.drain (t.folds.map (fun i => match i with
    | .awaiting g l a =>
      if g == tag && l == lane then .ready a (((ds.find? (fun e => e.1 == a)).map (fun e => e.2)).getD 0) else .awaiting g l a
    | i => i))

/-- A word of a DGST.FOLD has returned (15 R276). -/
def Strand.settleWord (t : Strand) (tag va : Nat) (bs : List PByte) : Strand :=
  let w := (dw (bytesToNat (bs.map (fun b => b.val))), bs.any (fun b => b.bad))
  t.drain (t.folds.map (fun i => match i with
    | .block g on ws => if g = tag then .block g on (ws.map (fun e => if e.1 = va then (e.1, some w) else e)) else .block g on ws
    | i => i))

/-! ## The order log and gate of a watched word (15 R282) -/

/-- The entry that watches the 8-byte word with number `w`. -/
def watchOf (s : State) (w : Nat) : Option OrderEntry := s.orders.find? (fun e => e.pa == 8 * w)

/-- Replaces an entry. -/
def setOrder (s : State) (e : OrderEntry) : State :=
  { s with orders := s.orders.map (fun x => if x.pa = e.pa then e else x) }

/-- The agent of a chunk: a strand of the arming launch, or an outside agent (15 R280). -/
def laneAgent (o : Origin) (lane : Nat) (e : OrderEntry) : Nat :=
  if o.sid / 0x1000000000000 = e.launch then o.sid % 0x1000000000000 * 128 + o.ply * 8 + lane / 4 else 0xFFFFFF

/-- An agent outside every launch, such as a copy. -/
def outsideAgent : OrderEntry → Nat := fun _ => 0xFFFFFF

/-- Writes the open chunk to the log. -/
def closeChunk (s : State) (e : OrderEntry) : State :=
  homePut s (e.log + 4 * e.used) (clean (natToBytes (e.runAgent * 256 + e.runLen) 4))

/-- Recording one request. -/
def orderRecord (s : State) (e : OrderEntry) (agent : Nat) : State :=
  if e.stopped then s
  else if e.runLen = 0 then
    if e.cap ≤ e.used then setOrder s { e with full := true, stopped := true }
    else setOrder s { e with runAgent := agent, runLen := 1 }
  else if e.runAgent = agent ∧ e.runLen < 255 then setOrder s { e with runLen := e.runLen + 1 }
  else
    let a := closeChunk s e
    if e.used + 1 = e.cap then setOrder a { e with used := e.cap, runLen := 0, full := true, stopped := true }
    else setOrder a { e with used := e.used + 1, runAgent := agent, runLen := 1 }

/-- The head chunk of a gate, chunks whose run is 0 passed over: the entry at it, its agent and its run. -/
def headChunk (s : State) : Nat → OrderEntry → Option (OrderEntry × Nat × Nat)
  | 0, _ => none
  | n + 1, e =>
    if e.cap ≤ e.used then none
    else
      let c := readMem s (e.log + 4 * e.used) 4
      if c % 256 = 0 then headChunk s n { e with used := e.used + 1, runLen := 0 } else some (e, c / 256, c % 256)

/-- A gate at its head chunk: chunks whose run is 0 are passed over at once, and a log with none left is used up. -/
def OrderEntry.atHead (e : OrderEntry) (s : State) : OrderEntry :=
  match headChunk s (e.cap + 1) e with
  | some (h, _, _) => h
  | none => { e with used := e.cap, runLen := 0 }

/-- One request of an agent at word `w`: recorded, or admitted by the gate, or held (none). -/
def gateWord (agent : OrderEntry → Nat) (w : Nat) (s : State) : Option State :=
  match watchOf s w with
  | none => some s
  | some e =>
    if !e.play then some (orderRecord s e (agent e))
    else if e.div then some s
    else
      match headChunk s (e.cap + 1) e with
      | none => some (setOrder s { e with used := e.cap, runLen := 0 })
      | some (h, a, run) =>
        if a = agent e then
          some (setOrder s (if h.runLen + 1 = run then OrderEntry.atHead { h with used := h.used + 1, runLen := 0 } s
            else { h with runLen := h.runLen + 1 }))
        else none

/-- One request at the words of a range. -/
def passGate (s : State) (agent : OrderEntry → Nat) (pa n : Nat) : Option State :=
  (rangeFrom (pa / 8) ((pa + n - 1) / 8 + 1 - pa / 8)).foldl (fun o w => o.bind (gateWord agent w)) (some s)

/-! ## Reads and writes at the home -/

/-- The bytes of a cell. -/
def Domain.cellBytes (d : Domain) : Nat := if d.wide then 8 else 4

/-- The key of a domain: partition and slot. -/
def Domain.key (d : Domain) : Nat := d.part * 4096 + d.slot

/-- The virtual address of a cell (03 R58). -/
def Domain.cellVa (d : Domain) (c : Nat) : Nat := d.base + c * d.cellBytes

/-- The domain with a key. -/
def findDomain (s : State) (key : Nat) : Option Domain := s.domains.find? (fun d => d.key == key)

/-- Replaces a domain. -/
def setDomain (s : State) (d : Domain) : State := { s with domains := s.domains.map (fun x => if x.key = d.key then d else x) }

/-- Whether a domain is declared, a retirement that has not ended included (03 R61, R64). -/
def Domain.declared (d : Domain) : Bool := d.stage == .declared || d.stage == .draining || d.stage == .releasing

/-- Whether a retirement of a domain has begun. -/
def Domain.retiring (d : Domain) : Bool := d.stage == .draining || d.stage == .releasing

/-- The declared domain of a handle in a context (03 R65). -/
def domainOf (s : State) (k : Skein) (handle : DWord) : Option Domain :=
  s.domains.find? (fun d => d.part == k.part && d.ctx == k.ctx && d.handle == handle && d.declared)

/-- The package of a cell (03 R60). -/
def Domain.owner (d : Domain) (c : Nat) : Nat := (d.owners[c / 2 ^ d.blk]?).getD d.declarer

/-- A read of field cells that are not all here: the domain's slot, and the read's pieces, one for each cell that it touches
(03 R78); what lies behind the last cell is here. -/
def cellsAway (s : State) (p ctx va n : Nat) : Option (Nat × List CellRead) :=
  (s.domains.find? (fun d => d.part == p && d.ctx == ctx && decide (d.base ≤ va) && decide (va < d.cellVa d.count))).bind (fun d =>
    let c := (va - d.base) / d.cellBytes
    let ps := (rangeFrom c ((va + n - 1 - d.base) / d.cellBytes + 1 - c)).map (fun c =>
      ({ package := if c < d.count then d.owner c else here s, cell := c, off := max va (d.cellVa c) - d.cellVa c,
         len := min (va + n) (d.cellVa (c + 1)) - max va (d.cellVa c) } : CellRead))
    if ps.all (fun x => x.package == here s) then none else some (d.slot, ps))

/-- The cell of a declared domain that a byte of a field frame belongs to, with the domain (03 R58, R61). -/
def cellAt (s : State) (pa : Nat) : Option (Domain × Nat) :=
  s.domains.findSome? (fun d => (d.frames.filter (fun e => e.2 == pa / 0x10000)).findSome? (fun e =>
    let va := e.1 * 0x10000 + pa % 0x10000
    let w := if d.wide then 8 else 4
    if d.base ≤ va ∧ va < d.base + d.count * w then some (d, (va - d.base) / w) else none))

/-- Whether a byte of a field frame lies in a source or sink cell, which reads as zero (03 R66). -/
def tapAt (s : State) (pa : Nat) : Bool :=
  match cellAt s pa with
  | none => false
  | some (d, c) => d.sources.contains c || d.sinks.contains c

/-- `n` bytes read at their home (03 R78: a field page's taps and drains read as zero). -/
def homeRead (s : State) (pa n : Nat) : List PByte :=
  if isField s pa then
    (readPBytes s pa n).zipIdx.map (fun e => if tapAt s (pa + e.2) then { val := 0, bad := false } else e.1)
  else readPBytes s pa n

/-- One ordinary write as a request of an agent: none while the gate of a watched word holds it. -/
def homeWrite (s : State) (agent : OrderEntry → Nat) (pa : Nat) (data : List PByte) : Option State :=
  (passGate s agent pa data.length).map (fun a => homePut a pa data)

/-- A memory-control register as the home of its frame (01 R9). -/
def ctlPlace (pa : Nat) : Nat × Nat := ((pa - ctlBase) / 0x10000, pa % 0x10000)

/-- One lane of a gather or converted read, performed (01 R15 to R19). -/
def readLane (s : State) (conv : BitVec 2) (l : LaneAcc) : List PByte × State :=
  if inCtl l.pa then
    let r := ctlRead s (ctlPlace l.pa).1 (ctlPlace l.pa).2
    (clean (natToBytes r.1.toNat 8), r.2)
  else if conv = 0 then (homeRead s l.pa l.size, s)
  else ((laneParts conv l).flatMap (fun x => readPBytes s x.pa 1), s)

/-- One lane of a scatter, performed or held. -/
def writeLane (s : State) (o : Origin) (l : LaneAcc) : Option State :=
  if inCtl l.pa then
    some (ctlWrite s (ctlPlace l.pa).1 (ctlPlace l.pa).2 (dw (bytesToNat (l.data.map (fun b => b.val)))))
  else homeWrite s (laneAgent o l.lane) l.pa l.data

/-! ## Atomics and reductions (04 R83, R85; 20 R343 to R345) -/

/-- The new word of an atomic of `w` bytes: `v` is the operand, and the replacement of a CAS is `n`. -/
def atomNew (op : AtomOp) (w : Nat) (old v n : DWord) : DWord :=
  let sg (x : DWord) : Int := if w = 4 then (x.setWidth 32).toInt else x.toInt
  let un (x : DWord) : DWord := if w = 4 then (x.setWidth 32).setWidth 64 else x
  match op with
  | .add => un (old + v)
  | .mins => if sg v < sg old then un v else old
  | .maxs => if sg old < sg v then un v else old
  | .maxu => if un old < un v then un v else old
  | .exch => un v
  | .and => old &&& un v
  | .or => old ||| un v
  | .xor => old ^^^ un v
  | .cas => if old = un v then un n else old
  | .pair => old

/-- The pair S, E as one doubleword, S low. -/
def pairWord (p : Nat × Nat) : DWord := dw (p.1 + p.2 * 2 ^ 32)

/-- A contribution pair applied to a pair (04 R85). -/
def pairStep (old c : DWord) : DWord :=
  pairWord (pairAdd (old.toNat % 2 ^ 32) (old.toNat / 2 ^ 32) (c.toNat % 2 ^ 32) (c.toNat / 2 ^ 32))

/-- The contribution of one lane: (x, +0). -/
def pairOne (x : DWord) : DWord := (x.setWidth 32).setWidth 64

/-- The pair that a request carries: merged already, or its lanes' contributions merged in order (04 R86). -/
def AtomReq.carried (r : AtomReq) : DWord :=
  r.pair.getD (match r.lanes with
    | [] => 0
    | l :: t => t.foldl (fun p x => pairStep p (pairOne x.operand)) (pairOne l.operand))

/-- One contribution performed at its word: the old value with its poison, and the state after it. A poisoned word
stays as it is. -/
def atomStep (s : State) (r : AtomReq) (new : DWord → DWord) : (DWord × Bool) × State :=
  let old := readPBytes s r.pa r.width
  let v := dw (bytesToNat (old.map (fun b => b.val)))
  let bad := old.any (fun b => b.bad)
  ((v, bad), if bad then s else homePut s r.pa (clean (natToBytes (new v).toNat r.width)))

/-- One more atomic lane from a die at a frame (04 R88). -/
def countAtomic (s : State) (pa die n : Nat) : State :=
  let k := pa / 0x10000 * 4 + die
  { s with atomCount := Tbl.set 0 s.atomCount k (min (Tbl.get 0 s.atomCount k + n) 0xFFFF) }

/-- What a request at its home leaves: the lanes performed, each with its old value and poison, and those held. -/
structure AtomDone where
  done : List (AtomLane × DWord × Bool)
  left : List AtomLane
  state : State

/-- The lanes of a request performed one after another; a lane that the gate of a watched word holds is passed over. -/
def atomLanes (r : AtomReq) : State → List AtomLane → AtomDone
  | s, [] => { done := [], left := [], state := s }
  | s, l :: t =>
    match passGate s (laneAgent l.org l.lane) r.pa r.width with
    | none =>
      let y := atomLanes r s t
      { y with left := l :: y.left }
    | some a =>
      let x := atomStep a r (fun old =>
        if r.op = .pair then pairStep old (pairOne l.operand) else atomNew r.op r.width old l.operand l.repl)
      let y := atomLanes r (countAtomic x.2 r.pa l.org.die 1) t
      { y with done := (l, x.1) :: y.done }

/-- A request performed at its home: combined pairs apply the merged pair once (04 R87), when the gate of a watched word admits
every contribution. -/
def performAtomic (s : State) (r : AtomReq) : AtomDone :=
  let s := if isField s r.pa then s else fetchLine (fetchLine s r.pa) (r.pa + r.width - 1)
  match r.pair with
  | none => atomLanes r s r.lanes
  | some p =>
    match r.lanes.foldl (fun o l => o.bind (fun a => passGate a (laneAgent l.org l.lane) r.pa r.width)) (some s) with
    | none => { done := [], left := r.lanes, state := s }
    | some a =>
      let x := atomStep a r (fun old => pairStep old p)
      { done := r.lanes.map (fun l => (l, x.1)), left := [], state := r.lanes.foldl (fun a l => countAtomic a r.pa l.org.die 1) x.2 }

/-! ## Where a request may be performed -/

/-- Whether a frame's requests are held: it moves (01 R28), or its home moves and the request names the new home
(04 R89). -/
def heldAt (s : State) (die pa : Nat) : Bool :=
  s.moving.contains (pa / 0x10000) || s.homeMoves.any (fun m => m.1 == pa / 0x10000 && m.2.1 != die)

/-- Replaces what a strand's reply still awaits: lane `j` of the reply with a tag is answered (14 R257). -/
def Strand.answered (t : Strand) (tag j : Nat) : Strand :=
  { t with replies := (t.replies.map (fun r =>
      if r.tag = tag then { r with lanes := r.lanes &&& ~~~ (laneMask (fun i => i == j)) } else r)).filter (fun r => r.lanes != 0) }

/-- The registers that the reply with a tag writes. -/
def Strand.replyRegs (t : Strand) (tag : Nat) : List (Bool × Nat) :=
  match t.replies.find? (fun r => r.tag == tag) with
  | none => []
  | some r => (rangeFrom r.reg r.count).map (fun x => (r.sup, x))

/-- One lane's answer reaches its strand: registers, death on poison, and LD (14 R257, R265). -/
def replyLane (s : State) (o : Origin) (lane : Nat) (bs : List PByte) : State :=
  let key := strandKey o.sid o.ply (lane / 4)
  let t := getStrand s key
  setStrand s key ((t.deliver (t.replyRegs o.tag) (lane % 4) bs o.pc).answered o.tag (lane % 4))

/-- Lines on their way to a core for the line of an address are not kept: what they carry may be older than what a
later access sees. -/
def noFill (s : State) (core pa : Nat) : State :=
  let off (p : Packet) : Packet :=
    if p.org.core = core then { p with lanes := p.lanes.map (fun l => if l.pa / 64 = pa / 64 then { l with cache := false } else l) } else p
  { s with flight := s.flight.map (fun i => match i with
      | .gatherHome p => .gatherHome (off p)
      | .gatherStack p => .gatherStack (off p)
      | .gatherReply f p => .gatherReply f (off p)
      | i => i) }

/-- The line of an address leaves the core's L1 before an access goes to its home: dirty bytes are written back first. (DESIGN
CHOICE, log entry 15.) -/
def leaveL1 (s : State) (core pa : Nat) : State :=
  let f (l : L1Line) : Bool := l.core == core && l.pa == pa / 64 * 64
  dropL1 (writeBack (noFill s core pa) f) f

/-- The lines of some bytes leave the core's L1. -/
def leaveRange (s : State) (core pa n : Nat) : State :=
  (rangeFrom (pa / 64) ((pa + n - 1) / 64 + 1 - pa / 64)).foldl (fun a l => leaveL1 a core (64 * l)) s

end Sys2Proof.Machine
end

