-- ==== Sys2Proof/Machine/Tokens.lean ====
section
/-! DEFINITION. Owner tokens (02 R40 to R57): LEND, RETN, SPLIT, MEND and TQRY, the requests for grants and their
revocation, the state change that ends a hand-off, and the failure of a core. -/

namespace Sys2Proof.Machine

/-! ## Region and holder words -/

/-- The base and size of a region word, if it is well formed (02 R41). -/
def regionWord (w : DWord) : Option (Nat × Nat) :=
  let k := fieldOf w.toNat 0 6
  let base := fieldOf w.toNat 12 52 * 0x1000
  if 12 ≤ k ∧ k ≤ 40 ∧ fieldOf w.toNat 6 6 = 0 ∧ base % 2 ^ k = 0 ∧ base < 2 ^ 57 then some (base, k) else none

/-- The base that a region word's TOKEN trap reports (22 R376). -/
def regionBase (w : DWord) : DWord := w &&& ~~~ 0xFFF

/-- The holder that a holder word names, its issuing forms resolved (02 R43, R44). -/
def holderWord (s : State) (k : Skein) (w : DWord) : Option Holder :=
  let pkg := fieldOf w.toNat 43 21
  let c := fieldOf w.toNat 24 16
  let ctx := if c = 0xFFFF then k.ctx else c
  let ix := fieldOf w.toNat 0 24
  let low := fieldOf w.toNat 0 23
  let q := if pkg = 0x1FFFFF && !bitOf w.toNat 23 then here s else pkg
  if ctx != k.ctx then none
  else
    match fieldOf w.toNat 40 3 with
    | 0 => if low = 0 then some { package := q, ctx := ctx, agent := .context } else none
    | 1 =>
      if ix = 0xFFFFFF then some { package := here s, ctx := ctx, agent := skeinAgent k }
      else some { package := if pkg = 0x1FFFFF then here s else pkg, ctx := ctx, agent := .skein (ix / 0x10000) (ix % 0x10000) }
    | 2 => if low = 0 then some { package := q, ctx := ctx, agent := .copies } else none
    | 3 => if low ≤ 47 then some { package := q, ctx := ctx, agent := .matrix low } else none
    | 4 => if low ≤ 3 then some { package := q, ctx := ctx, agent := .home low } else none
    | _ => none

/-- KIND and INDEX of a holder word in literal form (02 R54). -/
def Agent.word (a : Agent) : Nat :=
  match a with
  | .context => 0
  | .skein l i => 2 ^ 40 + (if 0xFFFF < i then 0xFFFFFF else l * 0x10000 + i)
  | .copies => 2 * 2 ^ 40
  | .matrix q => 3 * 2 ^ 40 + q
  | .home d => 4 * 2 ^ 40 + d

/-- A holder word in literal form (02 R54). -/
def Holder.word (h : Holder) : DWord :=
  let lit := match h.agent with
    | .skein _ _ => 0
    | _ => if h.package = 0x1FFFFF then 2 ^ 23 else 0
  dw (h.agent.word + h.ctx * 2 ^ 24 + h.package * 2 ^ 43 + lit)

/-! ## The token table -/

/-- Whether two regions are the same entry. -/
def Region.same (a b : Region) : Bool := a.part == b.part && a.ctx == b.ctx && a.base == b.base && a.k == b.k

/-- Whether a region has an entry in the table. -/
def listedRegion (s : State) (r : Region) : Bool := s.regions.any (fun x => x.same r)

/-- Whether a region needs no entry: a root that its context holds whole, with no lend, share or lost flag (04 R91). -/
def Region.plain (s : State) (r : Region) : Bool :=
  r.k == 40 && r.chain == [ctxHolder s r.ctx] && r.shares == 0 && !r.lost

/-- Writes a region's entry, or removes it when none is needed. -/
def putRegion (s : State) (r : Region) : State :=
  let rest := s.regions.filter (fun x => !x.same r)
  { s with regions := if r.plain s then rest else rest ++ [r] }

/-- The whole region that a region word names, if it exists. -/
def wholeRegion (s : State) (p ctx base k : Nat) : Option Region :=
  let r := regionOf s p ctx base
  if r.base = base ∧ r.k = k then some r else none

/-- Halves a region until the part at `base` of size `k` exists: that part, and the others (02 R49, R53). (DEDUCED, log entry 33.) -/
def halve (base k : Nat) : Nat → Region → Region × List Region
  | 0, r => (r, [])
  | n + 1, r =>
    if r.k ≤ k then (r, [])
    else
      let lo := { r with k := r.k - 1 }
      let hi := { r with k := r.k - 1, base := r.base + 2 ^ (r.k - 1) }
      let x := if base < hi.base then halve base k n lo else halve base k n hi
      (x.1, (if base < hi.base then hi else lo) :: x.2)

/-- Whether the partition's area has room for some new entries (04 R91). -/
def tokenRoom (s : State) (p new : Nat) : Bool :=
  new == 0 || decide ((s.regions.filter (fun r => r.part == p)).length + new ≤ tokCapacity s p)

/-- Replaces a region by the parts it is cut into. (DEDUCED, log entry 33.) -/
def cutRegion (s : State) (r : Region) (rs : List Region) : State :=
  { s with regions := s.regions.filter (fun x => !x.same r) ++ rs }

/-- Adds one share of a holder: its own slot, or the first free one (02 R51). -/
def addShare (h : Holder) : List (Holder × Nat) → List (Holder × Nat)
  | [] => [(h, 1)]
  | x :: t => if x.2 = 0 then (h, 1) :: t else x :: addShare h t

/-- The share slots after one more share of a holder. -/
def Region.share (r : Region) (h : Holder) : Region :=
  { r with sharers := if r.sharers.any (fun x => x.1 == h && x.2 != 0) then
      r.sharers.map (fun x => if x.1 == h && x.2 != 0 then (x.1, x.2 + 1) else x)
    else addShare h r.sharers }

/-- Whether a share of a holder can be added (02 R51). -/
def Region.mayShare (r : Region) (h : Holder) : Bool :=
  match r.sharers.find? (fun x => x.1 == h && x.2 != 0) with
  | some x => decide (x.2 < 65535)
  | none => decide ((r.sharers.filter (fun x => x.2 != 0)).length < 8)

/-- The slot of a share that an issuer holds: the first that it matches. (DESIGN CHOICE, log entry 61.) -/
def shareOf (s : State) (x : Asker) (r : Region) : Option Nat :=
  (r.sharers.zipIdx.find? (fun e => e.1.2 != 0 && matchesHolder s x r.ctx e.1.1)).map (fun e => e.2)

/-- One share fewer in a slot. -/
def Region.unshare (r : Region) (n : Nat) : Region :=
  { r with sharers := r.sharers.zipIdx.map (fun e => if e.2 = n then (e.1.1, e.1.2 - 1) else e.1) }

/-- The chain without its last holder; DEPTH 0 stays. -/
def Region.back (r : Region) : Region := { r with chain := if r.chain.length ≤ 1 then r.chain else r.chain.dropLast }

/-! ## Hand-offs -/

/-- The grant cache of a core's copy engines (02 R48). (DESIGN CHOICE, log entry 34.) -/
def engineCache (core : Nat) : Nat := 256 + core

/-- The grant cache of the ingress port that a partition's packets come through: its lowest. (DESIGN CHOICE, log entry 34.) -/
def portCache (s : State) (p : Nat) : Nat := 192 + ((List.range 16).find? (fun i => (getPart s p).ports.getLsbD i)).getD 0

/-- The die of a grant cache: port `p` belongs to granule p / 2 (16 R290). -/
def cacheDie (c : Nat) : Nat := if c < 192 then dieOf c else if c < 256 then (c - 192) / 4 else dieOf (c - 256)

/-- Whether a grant overlaps a region. -/
def Grant.on (g : Grant) (p ctx base k : Nat) : Bool := g.part == p && g.ctx == ctx && overlap g.base (2 ^ g.k) base (2 ^ k)

/-- A grant cache holds 256 entries: the oldest makes room (02 R48). -/
def keepGrants (c : Nat) (gs : List Grant) : List Grant :=
  let mine := (gs.filter (fun g => g.core == c)).take 256
  gs.filter (fun g => g.core != c) ++ mine

/-- An engine or ingress port keeps the grant that an access of an agent was given, unless it has it already or a hand-off is under
way (02 R48). -/
def keepGrant (s : State) (c p pkg : Nat) (a : Agent) (x : Asker) (ctx va : Nat) : State :=
  let r := regionOf s p ctx va
  let g : Grant := { core := c, part := p, package := pkg, agent := a, ctx := ctx, base := r.base, k := r.k, write := tokenAllows s x ctx r true, back := false }
  if s.grants.contains g || handOff s p ctx va 1 then s else { s with grants := keepGrants c (g :: s.grants) }

/-- The dies with a cache that holds a grant overlapping a region, or to which one is on its way (02 R48). -/
def grantDies (s : State) (p ctx base k : Nat) : List Nat :=
  let held := (s.grants.filter (fun g => g.on p ctx base k)).map (fun g => cacheDie g.core)
  let sent := s.flight.filterMap (fun i => match i with
    | .grantGive g _ => if g.on p ctx base k then some (cacheDie g.core) else none
    | _ => none)
  (held ++ sent).eraseDups

/-- The hand-off point: the home revokes the region's grants, and the group waits for the state change (02 R48, R50). -/
def startHandOff (s : State) (op : TokenOp) (r : Region) : State :=
  let rs := (grantDies s r.part r.ctx r.base r.k).map (fun d => Item.revoke d r.part r.ctx r.base r.k)
  let i := Item.tokenOp op r.part r.ctx r.base r.k s.cur.sid s.cur.ply (grp s) s.seq
  stall { s with flight := s.flight ++ rs ++ [i], seq := s.seq + 1 } .token

/-- A token instruction on a region: its word is checked, and it waits while a hand-off is under way there (02 R48);
`k` gets base and size. -/
def onRegion (s : State) (w : DWord) (wide : Nat) (k : State → Nat → Nat → State) : State :=
  match regionWord w with
  | none => trapAll s .token (regionBase w)
  | some (base, n) =>
    if handOff s (curSkein s).part (curSkein s).ctx base (wide * 2 ^ n) then stall s .home else k s base n

/-- LEND in both forms: the checks of 02 R50 and R51, the halving of R49, and the hand-off point. -/
def lendRegion (w h : DWord) (share : Bool) (s : State) : State :=
  onRegion s w 1 (fun s base n =>
    let k := curSkein s
    let r := regionOf s k.part k.ctx base
    let no := trapAll s .token (regionBase w)
    match holderWord s k h with
    | none => no
    | some x =>
      let ok := matchesHolder s (skeinAsker s s.cur.sid) k.ctx r.holder && !r.lost && decide (n ≤ r.k) &&
        (if share then r.mayShare x else r.shares == 0 && decide (r.depth < 3) && r.holder != x)
      let new := r.k - n + (if listedRegion s r then 0 else 1)
      if !ok || !(tokenRoom s k.part new) then no
      else
        let c := halve base n (r.k - n) r
        let a := cutRegion s r (c.1 :: c.2)
        startHandOff a (if share then .share x else .lend x) c.1)

/-- LEND (02 R50). -/
def execLend (d a : BitVec 5) (s : State) : Host.Outcome State Fault Refusal :=
  .next (uniEnter (.lend d a) .user [] [] [d.toNat, a.toNat] [] s (fun s => lendRegion (wReg s d.toNat) (wReg s a.toNat) false s))

/-- LEND.SHARE (02 R51). -/
def execLendShare (d a : BitVec 5) (s : State) : Host.Outcome State Fault Refusal :=
  .next (uniEnter (.lendShare d a) .user [] [] [d.toNat, a.toNat] [] s (fun s => lendRegion (wReg s d.toNat) (wReg s a.toNat) true s))

/-- A RETN on a whole region that exists; a lost region and a region that does not exist trap TOKEN. -/
def onWhole (s : State) (w : DWord) (k : State → Region → State) : State :=
  onRegion s w 1 (fun s base n =>
    match wholeRegion s (curSkein s).part (curSkein s).ctx base n with
    | none => trapAll s .token (regionBase w)
    | some r => if r.lost then trapAll s .token (regionBase w) else k s r)

/-- RETN (02 R52, FN 0). -/
def execRetn (d : BitVec 5) (s : State) : Host.Outcome State Fault Refusal :=
  .next (uniEnter (.retn d) .user [] [] [d.toNat] [] s (fun s =>
    let w := wReg s d.toNat
    onWhole s w (fun s r =>
      let x := skeinAsker s s.cur.sid
      if (shareOf s x r).isSome then startHandOff s .unshare r
      else if matchesHolder s x r.ctx r.holder && r.depth != 0 && r.shares == 0 then startHandOff s .retn r
      else trapAll s .token (regionBase w))))

/-- RETN.RECALL (02 R52, FN 1). -/
def execRetnRecall (d : BitVec 5) (s : State) : Host.Outcome State Fault Refusal :=
  .next (uniEnter (.retnRecall d) .user [] [] [d.toNat] [] s (fun s =>
    let w := wReg s d.toNat
    onWhole s w (fun s r =>
      let by_ := (r.chain[r.depth - 1]?).getD r.holder
      if matchesHolder s (skeinAsker s s.cur.sid) r.ctx by_ && (r.depth != 0 || r.shares != 0) then startHandOff s .recall r
      else trapAll s .token (regionBase w))))

/-- RETN.RECLAIM (02 R52, FN 2): in H mode, on a lost region. -/
def execRetnReclaim (d : BitVec 5) (s : State) : Host.Outcome State Fault Refusal :=
  .next (uniEnter (.retnReclaim d) .hypervisor [] [] [d.toNat] [] s (fun s =>
    let w := wReg s d.toNat
    onRegion s w 1 (fun s base n =>
      match wholeRegion s (curSkein s).part (curSkein s).ctx base n with
      | none => trapAll s .token (regionBase w)
      | some r => if r.lost then retire (putRegion s { r.back with lost := false }) 4 else trapAll s .token (regionBase w))))

/-- SPLIT (02 R53). -/
def execSplit (d : BitVec 5) (s : State) : Host.Outcome State Fault Refusal :=
  .next (uniEnter (.split d) .user [] [] [d.toNat] [] s (fun s =>
    let w := wReg s d.toNat
    onWhole s w (fun s r =>
      if !(matchesHolder s (skeinAsker s s.cur.sid) r.ctx r.holder) || r.shares != 0 || r.k == 12 ||
          !(tokenRoom s r.part (if listedRegion s r then 1 else 2)) then trapAll s .token (regionBase w)
      else
        let c := halve r.base (r.k - 1) 1 r
        retire (cutRegion s r (c.1 :: c.2)) 4)))

/-- MEND (02 R53): it waits while a hand-off is under way on either half. -/
def execMend (d : BitVec 5) (s : State) : Host.Outcome State Fault Refusal :=
  .next (uniEnter (.mend d) .user [] [] [d.toNat] [] s (fun s =>
    let w := wReg s d.toNat
    onRegion s w 2 (fun s base n =>
      let k := curSkein s
      match wholeRegion s k.part k.ctx base n, wholeRegion s k.part k.ctx (base + 2 ^ n) n with
      | some lo, some hi =>
        if n = 40 ∨ base / 2 ^ n % 2 = 1 ∨ !(matchesHolder s (skeinAsker s s.cur.sid) k.ctx lo.holder) ∨ lo.lost ∨ hi.lost ∨
            lo.shares ≠ 0 ∨ hi.shares ≠ 0 ∨ lo.chain ≠ hi.chain then trapAll s .token (regionBase w)
        else
          let a := { s with regions := s.regions.filter (fun x => !x.same lo && !x.same hi) }
          retire (putRegion a { lo with k := n + 1, sharers := [] }) 4
      | _, _ => trapAll s .token (regionBase w))))

/-- The state word of TQRY (02 R54). -/
def Region.stateWord (r : Region) : DWord :=
  dw (r.shares + (r.sharers.filter (fun x => x.2 != 0)).length * 2 ^ 56 + r.depth * 2 ^ 60 + r.state * 2 ^ 62)

/-- The two words that TQRY writes (02 R54). -/
def tqryWords (r : Region) (f : Nat) : DWord × DWord :=
  if f = 0 then (dw (r.base + r.k), r.stateWord)
  else if f = 1 then (r.holder.word, (r.chain.headD r.holder).word)
  else
    match r.sharers[f - 8]? with
    | some x => if x.2 = 0 then (0, 0) else (x.1.word, dw x.2)
    | none => (0, 0)

/-- TQRY (02 R54): while a hand-off is under way on the region it waits, and reads the state after it (22 R377). (DEDUCED, log
entry 33.) -/
def execTqry (d a : BitVec 5) (f : BitVec 9) (s : State) : Host.Outcome State Fault Refusal :=
  .next (uniEnter (.tqry d a f) .user [] [] [a.toNat] [d.toNat, d.toNat + 1] s (fun s =>
    let va := (wReg s a.toNat).toNat
    if 2 ^ 57 ≤ va then trapAll s .prot (wReg s a.toNat)
    else
      let k := curSkein s
      if handOff s k.part k.ctx va 1 then stall s .home
      else
      let x := tqryWords (regionOf s k.part k.ctx va) f.toNat
      retire (setSkein s s.cur.sid ((k.setW s.cur.ply d.toNat x.1).setW s.cur.ply (d.toNat + 1) x.2)) 4))

/-! ## Grants (02 R48, 13 R241) -/

/-- GRANT_REQUEST (02 R48): the home grants, refuses, or holds the request while a hand-off is under way. -/
def execGrantRequest (n : Nat) (s : State) : Host.Outcome State Fault Refusal :=
  .next (match s.flight[n]? with
    | some (.grantAsk core sid ag ctx part va write strands) =>
      let r := regionOf s part ctx va
      let x := skeinAsker s sid
      if handOff s part ctx va 1 then s
      else if tokenAllows s x ctx r write then
        let mine := r.holder.agent == ag && r.holder.package == here s
        let g : Grant := { core := core, part := part, package := here s, agent := ag, ctx := ctx, base := r.base, k := r.k, write := tokenAllows s x ctx r true,
                           back := mine && decide (r.state ≤ 1) }
        replaceItem s n [.grantGive g strands]
      else { replaceItem s n [] with refused := s.refused ++ [(sid, va, if write then 1 else 0)] }
    | _ => s)

/-- GRANT_INSTALL (13 R241): the core's lines in the region are invalidated first. -/
def execGrantInstall (n : Nat) (s : State) : Host.Outcome State Fault Refusal :=
  .next (match s.flight[n]? with
    | some (.grantGive g _) =>
      let a := dropRegion (replaceItem s n []) g.core g.ctx g.base g.k
      { a with grants := keepGrants g.core (g :: a.grants) }
    | _ => s)

/-- GRANT_REVOKE (02 R48): a die drops the grants in its caches that overlap the region, those on their way included. -/
def execGrantRevoke (n : Nat) (s : State) : Host.Outcome State Fault Refusal :=
  .next (match s.flight[n]? with
    | some (.revoke die part ctx base k) =>
      let hit (g : Grant) : Bool := cacheDie g.core == die && g.on part ctx base k
      let a := replaceItem s n []
      { a with grants := a.grants.filter (fun g => !hit g),
               flight := a.flight.filter (fun i => match i with
                 | .grantGive g _ => !hit g
                 | _ => true) }
    | _ => s)

/-! ## State changes -/

/-- The skeins of this package that a holder names. -/
def holderSkeins (s : State) (p : Nat) (h : Holder) : List Nat :=
  if h.package != here s then []
  else (s.skeins.filter (fun e => e.2.part == p && e.2.ctx == h.ctx && skeinAgent e.2 == h.agent)).map (fun e => e.1)

/-- Whether an access of an origin in flight matched a holder when it passed its check. -/
def originMatches (s : State) (p : Nat) (h : Holder) (o : Origin) : Bool :=
  o.ctx == h.ctx && (getSkein s o.sid).part == p && matchesHolder s (skeinAsker s o.sid) h.ctx h

/-- Whether a copy, or a tree reduce, touches a range of its context. -/
def Copy.near (c : Copy) (base len : Nat) (ext : Copy → Nat × Nat) : Bool :=
  let x := ext c
  overlap c.src.toNat x.1 base len || overlap c.dst.toNat x.2 base len

/-- How many bytes from its first to its last a copy's source and destination cover (05 R97); 0 where it moves none. -/
def Copy.spans (c : Copy) : Nat × Nat :=
  let len := fieldOf c.w0.toNat 0 32
  match c.kind with
  | .copy2d =>
    let rows := fieldOf c.w0.toNat 32 16
    if rows = 0 ∨ len = 0 then (0, 0)
    else ((rows - 1) * fieldOf c.w1.toNat 0 32 + len, (rows - 1) * fieldOf c.w1.toNat 32 32 + len)
  | .tree => (if len = 0 then 0 else c.w1.toNat * ((len + 63) / 64 * 64), len)
  | _ => (len, len)

/-- Whether a hand-off that skein `sid` has asked for waits for the copies of a skein: those of the holder, and unless it is a recall
those of the issuer (02 R50, R52). -/
def TokenOp.waitsFor (op : TokenOp) (s : State) (r : Region) (issuer sid : Nat) : Bool :=
  (op != .recall && sid == issuer) || (holderSkeins s r.part r.holder).contains sid

/-- Whether an access from outside that is held at a moving frame, its check passed, matched a region's holder (02 R52). -/
def Held.matched (h : Held) (s : State) (r : Region) : Bool :=
  h.part == r.part && h.ctx == r.ctx && matchesHolder s (.ingress h.src) r.ctx r.holder &&
    h.spots.any (fun x => overlap x.1 x.2.2.1 r.base (2 ^ r.k))

/-- Whether an access that a hand-off waits for is still to be performed (02 R50, R52): lane accesses and accesses from outside that
matched the holder, and running copies issued before the hand-off point. (DEDUCED, log entry 33.) -/
def holderBusy (s : State) (op : TokenOp) (r : Region) (issuer since : Nat) : Bool :=
  s.flight.any (fun i => i.pending.any (fun e => originMatches s r.part r.holder e.1 && overlap e.2.va e.2.size r.base (2 ^ r.k))) ||
    s.copies.any (fun c => decide (c.seq < since) && c.state != .paused && op.waitsFor s r issuer c.sid &&
      c.near r.base (2 ^ r.k) Copy.spans) ||
    s.heldPkts.any (fun h => h.matched s r)

/-- The dirty lines of a region's holder reach their homes (02 R50). -/
def handBack (s : State) (r : Region) : State :=
  let sids := holderSkeins s r.part r.holder
  writeBack s (fun l => sids.contains l.owner && l.ctx == r.ctx && decide (r.base ≤ l.va) && decide (l.va < r.base + 2 ^ r.k))

/-- A sharer's lines in a region are invalidated (02 R52): on its skein's core, or on every core of the partition. -/
def dropSharer (s : State) (r : Region) (h : Holder) : State :=
  if h.package != here s then s
  else
    match h.agent with
    | .skein _ _ => (holderSkeins s r.part h).foldl (fun a sid => dropRegion a (getSkein a sid).core r.ctx r.base r.k) s
    | _ => (coresOf s r.part).foldl (fun a c => dropRegion a c r.ctx r.base r.k) s

/-- The state change of a token instruction, made at the home (02 R50 step 3, R51, R52). (DEDUCED, log entry 33.) -/
def changeState (s : State) (op : TokenOp) (r : Region) (sid : Nat) : State :=
  match op with
  | .lend h => putRegion s { r with chain := r.chain ++ [h] }
  | .share h => putRegion s (r.share h)
  | .retn => putRegion s r.back
  | .unshare =>
    match shareOf s (skeinAsker s sid) r with
    | none => s
    | some n =>
      let r' := r.unshare n
      let a := if ((r'.sharers[n]?).map (fun e => e.2)).getD 0 = 0 then
        dropSharer s r (((r.sharers[n]?).map (fun e => e.1)).getD r.holder) else s
      putRegion a r'
  | .recall =>
    let a := (r.sharers.filter (fun x => x.2 != 0)).foldl (fun b x => dropSharer b r x.1) s
    putRegion a { r.back with sharers := [] }

/-- Strands that wait at a token instruction go on behind it. -/
def wakeToken (s : State) (sid ply : Nat) (ns : List Nat) : State :=
  mapStrands s sid ply ns (fun _ t => if t.wait = .token then { t with wait := .none, pc := t.pc + 4 } else t)

/-- TOKEN_STATE_CHANGE (02 R50 to R52): once no revocation and no access that it waits for is left. A region lost
meanwhile, and an instruction whose skein was killed, change nothing. -/
def execTokenStateChange (n : Nat) (s : State) : Host.Outcome State Fault Refusal :=
  .next (match s.flight[n]? with
    | some (.tokenOp op p ctx base k sid ply strands since) =>
      let r := regionOf s p ctx base
      let revoking := s.flight.any (fun i => match i with
        | .revoke _ p' c b j => p' == p && c == ctx && b == base && j == k
        | _ => false)
      let waits := match op with
        | .unshare => false
        | _ => holderBusy s op r sid since
      if revoking || waits then s
      else
        let a := replaceItem s n []
        let a := match op with
          | .unshare => a
          | _ => handBack a r
        let a := if r.lost || (getSkein s sid).plies = 0 then a else changeState a op r sid
        wakeToken a sid ply strands
    | _ => s)

/-! ## The failure of a core (02 R56) -/

/-- Marks the regions lost that a skein of a failed core holds, and posts one event for each context with a region lost so; none where
no region is lost. (DESIGN CHOICE, log entry 76.) -/
def tokenLoss (s : State) (p : Nat) (sids : List Nat) : State :=
  let ctxs := (sids.map (fun sid => (getSkein s sid).ctx)).eraseDups
  ctxs.foldl (fun a c =>
    let x := (sids.filter (fun sid => (getSkein s sid).ctx == c)).foldl
      (fun (x : List Region × Nat) sid =>
        let y := loseRegions x.1 (here s) p c (skeinAgent (getSkein s sid))
        (y.1, x.2 + y.2)) (a.regions, 0)
    if x.2 = 0 then { a with regions := x.1 }
    else postEvent (revokeLost { a with regions := x.1 }) { part := p, type := 2, w1 := dw c, w2 := dw x.2, w3 := 0 }) s

/-- CORE_FAILURE (02 R56): its regions are lost, its skeins killed with their unwritten bytes, and its caches, triggers
and translations go with it. -/
def execCoreFailure (core : Nat) (s : State) : Host.Outcome State Fault Refusal :=
  .next (
    let sids := residentOn s core
    let a := setCore s core { getCore s core with failed := true }
    let a := tokenLoss a (partOf s core) sids
    let a := sids.foldl (fun b sid => killSkein b sid 0 true) a
    { a with l1 := a.l1.filter (fun l => l.core != core), tlb := a.tlb.filter (fun e => e.core != core),
             icache := a.icache.filter (fun l => l.core != core), grants := a.grants.filter (fun g => g.core != core && g.core != engineCache core),
             triggers := a.triggers.filter (fun t => t.core != core) })

end Sys2Proof.Machine
end

