-- ==== Sys2Proof/Machine/Global.lean ====
section
/-! DEFINITION. Global lane memory instructions (20 R335 to R345): LDG, LDGC, STG, the atomics and REDG; and the events
of their packets: at the home, at the stack, the replies, and combining in the routers (01 R12 to R19, 04 R83 to R87). -/

namespace Sys2Proof.Machine

/-- The address that a lane forms (20 R335). -/
def vaOf (s : State) (wb : BitVec 4) (a : BitVec 6) (n j : Nat) : Nat :=
  (wReg s wb.toNat + ((curStrand s n).v a.toNat j).setWidth 64).toNat

/-- The form of a global word: `use` are the registers of D that it names, `src` those it reads, `dst` those it writes. -/
def globalForm (i : Instr) (g : Guard) (a : BitVec 6) (wb : BitVec 4) (use src dst : List Nat) : LaneForm :=
  { instr := i, guard := g, len := 4, mode := .user, blocks := [[a.toNat], use], src := a.toNat :: src, dst := dst,
    base := some wb.toNat, far := .none }

/-- A lane that passed its checks, as an access. -/
def laneAcc (size : Nat) (c : LaneChk × Xl × Bool) (data : List PByte) : LaneAcc :=
  { lane := c.1.lane, pa := c.2.1.pa, va := c.1.va, size := size, kind := c.2.1.kind,
    cache := !c.2.1.fld && !c.2.1.ctl && c.2.1.kind != .sequential, fld := c.2.1.fld, cnv := c.2.1.cnv, data := data, done := 0 }

/-- Lanes of one pair of stack and die, cut where an offset from the lowest address passes 0xFFFF_FFFF (01 R12). -/
def splitFar : Nat → List LaneAcc → List (List LaneAcc)
  | 0, _ => []
  | n + 1, ls =>
    match ls with
    | [] => []
    | l :: t =>
      let base := t.foldl (fun b x => min b x.pa) l.pa
      let near (x : LaneAcc) : Bool := decide (x.pa - base ≤ 0xFFFFFFFF)
      ls.filter near :: splitFar n (ls.filter (fun x => !near x))

/-- The packets of an instruction (01 R12): one for each pair of stack and home die, with the lowest address as its base. -/
def packetsOf (o : Origin) (write : Bool) (conv : BitVec 2) (uni : Option (List Nat × Option Nat)) (ls : List (LaneAcc × Nat)) : List Item :=
  let place (l : LaneAcc × Nat) : Nat × Nat := (stackOf (l.1.pa / 0x10000), l.2)
  (ls.map place).eraseDups.flatMap (fun p =>
    (splitFar ls.length ((ls.filter (fun l => place l == p)).map (fun l => l.1))).map (fun xs =>
      .gatherHome { org := o, write := write, conv := conv, stack := p.1, die := p.2, uni := uni, slice := 0, lanes := xs,
                    base := xs.foldl (fun b x => min b x.pa) ((xs.head?.map (fun x => x.pa)).getD 0) }))

/-! ## The wire form of packets (01 R13, R14) -/

/-- The SZ code of an access of `n` bytes. -/
def sizeCode (n : Nat) : Nat := if n = 8 then 1 else if n = 16 then 2 else if n = 1 then 3 else 0

/-- The mask of some lanes of the ply. -/
def maskOf (ls : List LaneAcc) : Nat := ls.foldl (fun m l => m ||| 2 ^ l.lane) 0

/-- KIND of a packet: gather, scatter or converted read. -/
def Packet.kindCode (p : Packet) : Nat := if p.write then 2 else if p.conv = 0 then 1 else 3

/-- The header words H0 and H1. Which tag the core picks is open: here it is the low byte of the model's own. (DESIGN CHOICE, log entry 57.) -/
def Packet.header (p : Packet) : List DWord :=
  [dw p.base,
   dw (p.stack * 2 ^ 48 + p.kindCode * 2 ^ 44 + p.conv.toNat * 2 ^ 42 + sizeCode ((p.lanes.head?.map (fun l => l.size)).getD 4) * 2 ^ 40 +
     p.org.tag % 256 * 2 ^ 32 + maskOf p.lanes)]

/-- A request packet as it travels: the header, each lane's offset from the base, and the data of a scatter. -/
def Packet.wire (p : Packet) : List Byte :=
  dwordBytes p.header ++ p.lanes.flatMap (fun l => natToBytes (l.pa - p.base) 4) ++
    (if p.write then p.lanes.flatMap (fun l => l.data.map (fun b => b.val)) else [])

/-- The data of a reply: the lanes' bytes in ascending order, padded with zeros to a multiple of 32 bytes. -/
def replyData (ls : List LaneAcc) : List Byte :=
  let bs := ls.flatMap (fun l => l.data.map (fun b => b.val))
  bs ++ List.replicate ((32 - bs.length % 32) % 32) 0

/-- Items leave the core under the next tag. -/
def send (s : State) (is : List Item) : State := { s with flight := s.flight ++ is, seq := s.seq + 1 }

/-- The release of a qualified access (13 R236): the skein's dirty lines of RC pages are written back. -/
def releaseLines (s : State) : State :=
  let sid := s.cur.sid
  let core := curCore s
  writeBack s (fun l => l.owner == sid && l.core == core && l.kind == .release)

/-- Whether a lane's access is qualified: U pages ignore ORD (13 R233). -/
def qualified (o : Origin) (l : LaneAcc) : Bool := l.kind != .unordered && (o.acq || o.rel)

/-- Whether a strand's class counter stands at its limit (17 R298). -/
def fullLd (s : State) (n : Nat) : Bool := decide (63 ≤ (curStrand s n).replies.length)
/-- The same for ST. -/
def fullSt (s : State) (n : Nat) : Bool := decide (63 ≤ (curStrand s n).stores.length)

/-- Adds a reply entry for the lanes `ls` of the ply, on each strand that has one: `count` registers from V`d`. -/
def expectReplies (s : State) (tag d : Nat) (count : Nat → Nat) (ls : List LaneAcc) : State :=
  mapStrands s s.cur.sid s.cur.ply (grp s) (fun n t =>
    let m := strandLanes ls n
    if m = 0 then t
    else
      let p := t.place d
      { t with replies := t.replies ++ [{ tag := tag, sup := p.1, reg := p.2, count := count n, lanes := m, lost := false }] })

/-- Adds a store entry for the lanes `ls` of the ply. -/
def expectStores (s : State) (tag : Nat) (ls : List LaneAcc) : State :=
  mapStrands s s.cur.sid s.cur.ply (grp s) (fun n t =>
    let m := strandLanes ls n
    if m = 0 then t else { t with stores := t.stores ++ [{ tag := tag, lanes := m }] })

/-- Lanes go to their homes: the lines of the bytes that they touch leave the L1, and a release writes back first. -/
def toHomes (s : State) (o : Origin) (conv : BitVec 2) (ls : List LaneAcc) : State :=
  let a := if o.rel && ls.any (fun l => l.kind != .unordered) then releaseLines s else s
  (ls.flatMap (laneParts conv)).foldl (fun b l => leaveRange b o.core l.pa l.size) a

/-- Whether the L1 serves a plain load of strand `n` (13 R232). -/
def loadHits (s : State) (o : Origin) (n : Nat) (l : LaneAcc) : Bool :=
  l.cache && !qualified o l && !(acquiring s s.cur.sid s.cur.ply n) && !(touching s o.core l.pa l.size) &&
    l1Holds s o.core o.ctx l.va l.pa l.size

/-- The reads of lanes that go to their homes: in packets, or cell by cell where cells of a field page are not all here. -/
def readItems (s : State) (o : Origin) (conv : BitVec 2) (uni : Option (List Nat × Option Nat)) (ls : List (LaneAcc × Nat)) : List Item :=
  let p := (curSkein s).part
  let away (l : LaneAcc) : Option (Nat × List CellRead) := if l.fld then cellsAway s p o.ctx l.va l.size else none
  packetsOf o false conv uni (ls.filter (fun l => (away l.1).isNone)) ++
    ls.filterMap (fun l => (away l.1).map (fun c => .fieldAsk o l.1 uni p c.1 c.2 false))

/-- A lane of a 16-byte access in the core's L1 with the half at an offset left (20 R336). -/
def globalHalf (s : State) (d off : Nat) (data : List PByte) (l : LaneAcc × Nat) : HalfLane :=
  { lane := l.1.lane, at_ := l.1.pa + off, va := l.1.va + off, kind := l.1.kind, die := l.2, regs := halfRegs s d off l.1.lane, data := data }

/-- The loads of lanes that passed their checks: hits of the L1 are delivered at once, the others leave in packets; lanes that name
the same bytes take the same way (01 R15). -/
def issueLoads (d nd size : Nat) (ord conv : BitVec 2) (s : State) (ok : List (LaneChk × Xl × Bool)) : State :=
  let o := origin s ord
  let ls := ok.map (fun c => (laneAcc size c [], c.2.1.die))
  let hit (l : LaneAcc × Nat) : Bool := conv == 0 && ls.all (fun x => x.1.pa != l.1.pa || loadHits s o (x.1.lane / 4) x.1)
  let far := ls.filter (fun l => !hit l)
  let near := ls.filter hit
  let go (a : State) : State :=
    let a := toHomes a o conv (far.map (fun l => l.1))
    send (expectReplies a o.tag d (fun _ => nd) (far.map (fun l => l.1))) (readItems s o conv none far)
  if size = 16 && !near.isEmpty then
    let f := halfOrder s
    let read (off : Nat) (b : State) (l : LaneAcc × Nat) : State :=
      deliverHalf b o (globalHalf s d off [] l) (l1Read s o.core o.ctx (l.1.va + off) (l.1.pa + off) 8)
    beginHalf (go (near.foldl (read f.1) s)) (halfOf s false false (near.map (globalHalf s d f.2 [])))
  else
    retire (go (near.foldl (fun b l => deliverLane b d nd l.1.lane (l1Read b o.core o.ctx l.1.va l.1.pa size)) s)) 4

/-- A gather (20 R341, R342): the counter's limit, the checks, and the loads. -/
def gather (i : Instr) (g : Guard) (d a : BitVec 6) (wb : BitVec 4) (ord conv : BitVec 2) (size nd : Nat) (acc : Acc)
    (s : State) : State :=
  let ds := rangeFrom d.toNat nd
  laneEnter (globalForm i g a wb ds [] ds) s (fun s =>
    if (acting s g).any (fullLd s) then stall s .poll
    else
      accessLanes s acc size (laneChecks s g acc size size (vaOf s wb a)) (fun c =>
        match c.chk with
        | .ok x => if conv != 0 && x.cnv == 0 then some .prot else none
        | _ => none) (issueLoads d.toNat nd size ord conv))

/-- LDG (20 R341). -/
def execLdg (g : Guard) (d a : BitVec 6) (wb : BitVec 4) (ord sz : BitVec 2) (s : State) :
    Host.Outcome State Fault Refusal :=
  .next (gather (.ldg g d a wb ord sz) g d a wb ord 0 (sizeOf sz) (regsOf sz) .load s)

/-- LDGC (20 R342): SZ is the conversion code. -/
def execLdgc (g : Guard) (d a : BitVec 6) (wb : BitVec 4) (ord sz : BitVec 2) (s : State) :
    Host.Outcome State Fault Refusal :=
  .next (gather (.ldgc g d a wb ord sz) g d a wb ord sz 4 1 .conv s)

/-- The bytes of a lane's operand at V`d` onwards. -/
def laneBytes (s : State) (d size l : Nat) : List PByte := storeBytes s d size l

/-- Folds items into the digest of each strand of the group, `f` giving those of a lane of the ply (15 R275). -/
def foldLanes (s : State) (ls : List LaneAcc) (f : LaneAcc → List FoldItem) : State :=
  mapStrands s s.cur.sid s.cur.ply (grp s) (fun n t => t.fold ((ls.filter (fun l => l.lane / 4 == n)).flatMap f))

/-- Whether a plain store of strand `n` stays in the L1: its region is held write-back (`b`, 02 R55), and nothing orders it
behind an access in flight. -/
def storeStays (s : State) (o : Origin) (b : Bool) (n : Nat) (l : LaneAcc) : Bool :=
  b && l.cache && !qualified o l && !(acquiring s s.cur.sid s.cur.ply n) && !(fencing s s.cur.sid s.cur.ply n) &&
    !(touching s o.core l.pa l.size) && !(watched s l.pa l.size)

/-- Bytes stored in the core's L1. -/
def keepStore (s : State) (o : Origin) (l : LaneAcc) : State :=
  l1Put (noFill s o.core l.pa) o.core o.ctx o.sid l.kind l.va l.pa l.data true true

/-- The stores of lanes that passed their checks (20 R341): in the L1 where the region is held write-back (02 R55), at
their homes otherwise; lanes that name the same bytes take the same way (01 R15). -/
def issueStores (d size : Nat) (ord : BitVec 2) (s : State) (ok : List (LaneChk × Xl × Bool)) : State :=
  let o := origin s ord
  let ls := ok.map (fun c => (laneAcc size c (laneBytes s d size c.1.lane), c.2.1.die, c.2.2))
  let back (l : LaneAcc × Nat × Bool) : Bool := ls.all (fun x => x.1.pa != l.1.pa || storeStays s o x.2.2 (x.1.lane / 4) x.1)
  let far := ls.filter (fun l => !back l)
  let near := ls.filter back
  let a := foldLanes s (ls.map (fun l => l.1)) (fun l => storeFolds l.va (l.data.map (fun b => b.val)))
  let a := toHomes a o 0 (far.map (fun l => l.1))
  let go (a : State) : State := send (expectStores a o.tag (far.map (fun l => l.1))) (packetsOf o true 0 none (far.map (fun l => (l.1, l.2.1))))
  if size = 16 && !near.isEmpty then
    let f := halfOrder s
    let part (off : Nat) (l : LaneAcc) : List PByte := (l.data.drop off).take 8
    beginHalf (go (near.foldl (fun b l => keepStore b o { l.1 with pa := l.1.pa + f.1, va := l.1.va + f.1, data := part f.1 l.1 }) a))
      (halfOf s false true (near.map (fun l => globalHalf s d f.2 (part f.2 l.1) (l.1, l.2.1))))
  else retire (go (near.foldl (fun b l => keepStore b o l.1) a)) 4

/-- A lane of a half as an access of 8 bytes. -/
def HalfLane.acc (l : HalfLane) : LaneAcc :=
  { lane := l.lane, pa := l.at_, va := l.va, size := 8, kind := l.kind, cache := true, fld := false, cnv := 0, data := l.data, done := 0 }

/-- Adds a reply entry for lanes of a half on their way to their homes. -/
def expectHalves (s : State) (tag : Nat) (ls : List HalfLane) : State :=
  mapStrands s s.cur.sid s.cur.ply (grp s) (fun n t =>
    match ls.filter (fun l => l.lane / 4 == n) with
    | [] => t
    | l :: rest =>
      let p := l.regs.headD (false, 0)
      { t with replies := t.replies ++ [{ tag := tag, sup := p.1, reg := p.2, count := 2, lanes := strandLanes ((l :: rest).map HalfLane.acc) n, lost := false }] })

/-- The half that is left of an access in the core's L1: there while it is held there, at its home otherwise, where it counts as an
access of its own (20 R336). (DESIGN CHOICE, log entry 58.) -/
def finishNear (s : State) (h : Half) : State :=
  let o := { h.org with tag := s.seq }
  let k := curSkein s
  let back (l : HalfLane) : Bool := ((grantFor s k.core k.part (here s) (skeinAgent k) k.ctx l.va true).map (fun g => g.back)).getD false
  let here_ (l : HalfLane) : Bool :=
    if h.write then storeStays s o (back l) (l.lane / 4) l.acc else loadHits s o (l.lane / 4) l.acc
  let near := h.lanes.filter here_
  let far := h.lanes.filter (fun l => !here_ l)
  let a := near.foldl (fun b l => if h.write then keepStore b o l.acc else deliverHalf b h.org l (l1Read s o.core o.ctx l.va l.at_ 8)) s
  let as := far.map (fun l => (l.acc, l.die))
  if far.isEmpty then a
  else
    let a := toHomes a o 0 (far.map HalfLane.acc)
    if h.write then send (expectStores a o.tag (far.map HalfLane.acc)) (packetsOf o true 0 none as)
    else send (expectHalves a o.tag far) (readItems s o 0 none as)

/-- The other half of a group's 16-byte access is performed, and the group goes on (20 R336); the core of a halted partition that has
stopped performs nothing (14 R267). -/
def finishHalf (s : State) (n : Nat) : State :=
  match s.flight[n]? with
  | some (.half h) =>
    let k := getSkein s h.org.sid
    let x := getPart s k.part
    if x.halted && x.stopWritten.contains k.core then s
    else
      let g : Group := { sid := h.org.sid, ply := h.org.ply, strands := h.strands }
      let a := { replaceItem s n [] with cur := g }
      let a := if h.near then finishLocal a h else finishNear a h
      { mapStrands a g.sid g.ply g.strands (fun _ t => if t.live && t.wait == .half then { t with wait := .none, pc := t.pc + 4 } else t) with cur := s.cur }
  | _ => s

/-- STG (20 R341). -/
def execStg (g : Guard) (d a : BitVec 6) (wb : BitVec 4) (ord sz : BitVec 2) (s : State) :
    Host.Outcome State Fault Refusal :=
  let ds := rangeFrom d.toNat (regsOf sz)
  .next (laneEnter (globalForm (.stg g d a wb ord sz) g a wb ds ds []) s (fun s =>
    if (acting s g).any (fullSt s) then stall s .poll
    else
      accessLanes s .store (sizeOf sz) (laneChecks s g .store (sizeOf sz) (sizeOf sz) (vaOf s wb a)) (fun _ => none)
        (issueStores d.toNat (sizeOf sz) ord)))

/-- What an atomic or reduction word does: operation, bytes, alignment, how many registers hold the operand, whether
registers behind them hold a replacement, and whether the old value returns. -/
structure AtomForm where
  op : AtomOp
  width : Nat
  align : Nat
  regs : Nat
  repl : Bool
  reply : Bool
  deriving DecidableEq, Repr

/-- A value of `n` registers from V`d` in a lane of the ply. -/
def laneValue (s : State) (d n l : Nat) : DWord :=
  let t := curStrand s (l / 4)
  (if n = 2 then t.v (d + 1) (l % 4) else 0) ++ t.v d (l % 4)

/-- The requests of lanes that passed their checks: lanes that name one word travel together, in ascending order (20
R336); on S pages each lane is a request of its own, as the lanes are performed in ascending order (13 R231). -/
def issueAtomics (f : AtomForm) (d : Nat) (ord : BitVec 2) (s : State) (ok : List (LaneChk × Xl × Bool)) : State :=
  let o := origin s ord
  let det := skeinDet s s.cur.sid
  let ls := ok.map (fun c => laneAcc f.width c [])
  let word (c : LaneChk × Xl × Bool) : Nat × Nat := (c.2.1.pa, if c.2.1.kind = .sequential then c.1.lane + 1 else 0)
  let reqs := (ok.map word).eraseDups.filterMap (fun w =>
    let mine := ok.filter (fun c => word c == w)
    mine.head?.map (fun c => Item.atomic
      { op := f.op, width := f.width, pa := w.1, va := c.1.va, kind := c.2.1.kind, die := c.2.1.die, ordered := ord != 0,
        det := det, merged := 0, pair := none,
        lanes := mine.map (fun x => { org := o, lane := x.1.lane, va := x.1.va, operand := laneValue s d f.regs x.1.lane,
                                      repl := if f.repl then laneValue s (d + f.regs) f.regs x.1.lane else 0,
                                      reply := f.reply }) }))
  let folds (l : LaneAcc) : List FoldItem :=
    if f.reply then awaitFolds o.tag (l.lane % 4) l.va f.width
    else storeFolds l.va ((natToBytes (laneValue s d f.regs l.lane).toNat (4 * f.regs) ++ List.replicate 8 0).take f.width)
  let a := toHomes (foldLanes s ls folds) o 0 ls
  let a := if f.reply then expectReplies a o.tag d (fun _ => f.regs) ls else expectStores a o.tag ls
  retire (send a reqs) 4

/-- An atomic or reduction (20 R343, R345), which counts as a store for 02 R37. -/
def atomic (i : Instr) (f : AtomForm) (g : Guard) (d a : BitVec 6) (wb : BitVec 4) (ord : BitVec 2) (s : State) : State :=
  let use := rangeFrom d.toNat (f.regs * (if f.repl then 2 else 1))
  laneEnter (globalForm i g a wb use use (if f.reply then rangeFrom d.toNat f.regs else [])) s (fun s =>
    if (acting s g).any (if f.reply then fullLd s else fullSt s) then stall s .poll
    else
      accessLanes s .atomic f.width (laneChecks s g .atomic f.width f.align (vaOf s wb a)) (fun _ => none)
        (issueAtomics f d.toNat ord))

/-- ATOMGA's operations (20 R343). -/
def atomgaForm (sz : BitVec 2) : AtomForm :=
  { op := match sz.toNat with
      | 0 => .add | 1 => .mins | 2 => .maxs | _ => .exch,
    width := 4, align := 4, regs := 1, repl := false, reply := true }

/-- ATOMGA (20 R343). -/
def execAtomga (g : Guard) (d a : BitVec 6) (wb : BitVec 4) (ord sz : BitVec 2) (s : State) :
    Host.Outcome State Fault Refusal :=
  .next (atomic (.atomga g d a wb ord sz) (atomgaForm sz) g d a wb ord s)

/-- ATOMGB's operations (20 R343). -/
def atomgbForm (sz : BitVec 2) : AtomForm :=
  { op := match sz.toNat with
      | 0 => .and | 1 => .or | 2 => .xor | _ => .cas,
    width := 4, align := 4, regs := 1, repl := sz == 3, reply := true }

/-- ATOMGB (20 R343). -/
def execAtomgb (g : Guard) (d a : BitVec 6) (wb : BitVec 4) (ord sz : BitVec 2) (s : State) :
    Host.Outcome State Fault Refusal :=
  .next (atomic (.atomgb g d a wb ord sz) (atomgbForm sz) g d a wb ord s)

/-- ATOMG64's operations (20 R343). -/
def atomg64Form (sz : BitVec 2) : AtomForm :=
  { op := match sz.toNat with
      | 0 => .add | 1 => .exch | 2 => .cas | _ => .maxu,
    width := 8, align := 8, regs := 2, repl := sz == 2, reply := true }

/-- ATOMG64 (20 R343). -/
def execAtomg64 (g : Guard) (d a : BitVec 6) (wb : BitVec 4) (ord sz : BitVec 2) (s : State) :
    Host.Outcome State Fault Refusal :=
  .next (atomic (.atomg64 g d a wb ord sz) (atomg64Form sz) g d a wb ord s)

/-- REDG's operations (20 R345): the pair is 8 bytes at a multiple of 4. -/
def redgForm (sz : BitVec 2) : AtomForm :=
  { op := match sz.toNat with
      | 0 => .add | 1 => .pair | 2 => .mins | _ => .maxs,
    width := if sz = 1 then 8 else 4, align := 4, regs := 1, repl := false, reply := false }

/-- REDG (20 R345). -/
def execRedg (g : Guard) (d a : BitVec 6) (wb : BitVec 4) (ord sz : BitVec 2) (s : State) :
    Host.Outcome State Fault Refusal :=
  .next (atomic (.redg g d a wb ord sz) (redgForm sz) g d a wb ord s)

/-! ## Packets at the home and at the stack -/

/-- Whether a home slice answers a lane itself: its line is held there, the frame is a field frame or a register
frame, or the word is watched. A converted read goes on to the tile buffer of the base die (01 R19). -/
def answersHere (s : State) (p : Packet) (l : LaneAcc) : Bool :=
  p.conv == 0 && (lineHeld s l.pa || isField s l.pa || inCtl l.pa || (p.write && watched s l.pa l.size))

/-- Whether one step performs the upper half of a lane: a 16-byte access to an S page takes the lower half first, and another the one
that the schedule lets go first (20 R336). (DESIGN CHOICE, log entry 58.) -/
def upperNow (s : State) (l : LaneAcc) : Bool :=
  l.size == 16 && (if l.done = 0 then s.upper && l.kind != .sequential else !l.up)

/-- One lane of a packet as far as one step takes it: 8 bytes at most, half of a 16-byte access (20 R336); none while a gate holds
it. (DESIGN CHOICE, log entry 58.) -/
def stepLane (s : State) (p : Packet) (l : LaneAcc) : Option (LaneAcc × State) :=
  let n := min 8 (l.size - l.done)
  let up := upperNow s l
  let o := if up then 8 else 0
  let x := { l with pa := l.pa + o, va := l.va + o, size := n, data := (l.data.drop o).take n }
  let l := { l with done := l.done + n, up := up }
  if p.write then (writeLane s p.org x).map (fun a => (l, a))
  else
    let r := readLane s p.conv x
    some ({ l with data := if up || l.done = n then l.data ++ r.1 else r.1 ++ l.data }, r.2)

/-- Whether two entries of a packet are one access: the words that a group reads count all for one lane. -/
def LaneAcc.same (l x : LaneAcc) : Bool := x.lane == l.lane && x.va == l.va

/-- Whether two lanes of a packet are performed together: they name the same bytes (01 R15). On S pages each lane has its turn. -/
def LaneAcc.mates (l x : LaneAcc) : Bool := l.same x || (x.pa == l.pa && l.kind != .sequential && x.kind != .sequential)

/-- Lanes that name the same bytes, as far as one step takes them: a gather reads the bytes once for all of them, in a scatter the
highest lane remains, and where a gate holds one, none is performed (01 R15). -/
def stepMates (p : Packet) : List LaneAcc → State → Option (List LaneAcc × State)
  | [], s => some ([], s)
  | l :: t, s => (stepLane s p l).bind (fun r => (stepMates p t r.2).map (fun q => (r.1 :: q.1, q.2)))

/-- The lanes of a packet, those that `go` picks performed in ascending order as far as one step takes them, each with the lanes
that name the same bytes (01 R15). -/
def packetLanes (p : Packet) (go : LaneAcc → Bool) (s : State) (ls : List LaneAcc) : List LaneAcc × State :=
  let r := ls.foldl (fun (a : List LaneAcc × State) l =>
    if a.1.any l.same then a
    else
      let ms := ls.filter l.mates
      match if ms.all go then stepMates p ms a.2 else none with
      | some x => (a.1 ++ x.1, x.2)
      | none => (a.1 ++ ms, a.2)) ([], s)
  (ls.map (fun l => (r.1.find? l.same).getD l), r.2)

/-- Whether a lane of item `n`, a packet, may be performed now: nothing must come before it, and neither its frame nor the
frame's home moves (01 R28, 04 R89). -/
def laneMay (s : State) (n : Nat) (p : Packet) (l : LaneAcc) : Bool :=
  mayGo s n p.write { p with lanes := [l] }.accesses && !(heldAt s p.die l.pa)

/-- Whether a lane has been performed whole. -/
def LaneAcc.finished (l : LaneAcc) : Bool := decide (l.size ≤ l.done)

/-- The head of a list of lanes, each with what it names, that one step performs: as long as a later lane names what a lane before it
does, as nothing may fall between two such lanes (01 R15, 20 R336). -/
def closedRun (seen : List Nat) : List (Nat × Nat) → List Nat
  | [] => []
  | x :: t => if t.any (fun y => (x.2 :: seen).contains y.2) then x.1 :: closedRun (x.2 :: seen) t else [x.1]

/-- The packet of an item. -/
def Item.packet : Item → Option Packet
  | .gatherHome p => some p
  | .gatherStack p => some p
  | _ => none

/-- An item with other lanes in its packet, or none with no lane left. -/
def Item.withLanes (i : Item) (ls : List LaneAcc) : List Item :=
  if ls.isEmpty then []
  else match i with
    | .gatherHome p => [.gatherHome { p with lanes := ls }]
    | .gatherStack p => [.gatherStack { p with lanes := ls }]
    | i => [i]

/-- A lane of an issuer's packets in flight: the place of the packet, the packet and the lane. -/
def laneIn (s : State) (o : Origin) (j : Nat) : Option (Nat × Packet × LaneAcc) :=
  s.flight.zipIdx.findSome? (fun e => e.1.packet.bind (fun p =>
    if p.org == o && p.uni.isNone then (p.lanes.find? (fun l => l.lane == j)).map (fun l => (e.2, p, l)) else none))

/-- The lanes of an instruction's packets to S pages that are left, ascending, each with its address. -/
def orderedLanes (s : State) (o : Origin) : List (Nat × Nat) :=
  (List.range 32).filterMap (fun j => (laneIn s o j).bind (fun x => if x.2.2.kind = .sequential then some (j, x.2.2.pa) else none))

/-- The lanes whose entries in their strands' counters a performed lane ends: its own, or each strand's of the group whose access it is. -/
def Packet.counted (p : Packet) (ls : List LaneAcc) : List Nat :=
  match p.uni with
  | none => ls.map (fun l => l.lane)
  | some (ns, _) => if ls.isEmpty then [] else ns.map (fun n => 4 * n)

/-- What the performed lanes of a packet send back: a reply, or the acknowledgement that ST waits for. -/
def answerPacket (s : State) (n : Nat) (p : Packet) (doneLanes : List LaneAcc) (left : List Item) : State :=
  let rep := if p.write || doneLanes.isEmpty then [] else [Item.gatherReply (p.conv == 0) { p with lanes := doneLanes }]
  let a := replaceItem s n (left ++ rep)
  if p.write then ackStores a p.org.sid p.org.ply p.org.tag (p.counted doneLanes) else a

/-- One lane of the packet at `n` performed whole; none if it may not be performed, or a gate holds it. -/
def wholeLane (s : State) (n : Nat) (p : Packet) (l : LaneAcc) : Option State :=
  if laneMay s n p l then
    ((stepLane s p l).bind (fun r => if r.1.finished then some r else stepLane r.2 p r.1)).map (fun r =>
      answerPacket r.2 n p [r.1] (((s.flight[n]?).map (fun i => i.withLanes (p.lanes.filter (fun x => x.lane != l.lane)))).getD []))
  else none

/-- Lanes of one instruction performed whole, one after another, wherever their packets are. -/
def runLanes (o : Origin) : List Nat → State → Option State
  | [], s => some s
  | j :: t, s =>
    match laneIn s o j with
    | some (n, p, l) => (wholeLane s n p l).bind (runLanes o t)
    | none => none

/-- The lanes to S pages that must be performed in one step with the next one of their instruction: those up to a lane that names
the same bytes as one before it, as lanes come in ascending order and such lanes take the same value (01 R15, 13 R231). (DESIGN
CHOICE, log entry 60.) -/
def orderedRun (s : State) (p : Packet) : List Nat :=
  if p.uni.isSome then []
  else match closedRun [] (orderedLanes s p.org) with
    | [_] => []
    | r => r

/-- Whether a lane of item `n`, a packet, is performed by itself now. -/
def laneAlone (s : State) (n : Nat) (p : Packet) (l : LaneAcc) : Bool := laneMay s n p l && !((orderedRun s p).contains l.lane)

/-- The lanes of an instruction to S pages that go together, when the first of them is in this packet. -/
def runTogether (s : State) (p : Packet) : Option State :=
  match orderedRun s p with
  | [] => none
  | j :: t => if p.lanes.any (fun l => l.lane == j) then runLanes p.org (j :: t) s else none

/-- The home slice that a packet reaches next: the lowest, from the one it stands at, that is the home of a line of it. -/
def nextSlice (s : State) (p : Packet) : Option Nat :=
  ((p.lanes.map (fun l => sliceOn s p.die l.pa)).filter (fun k => decide (p.slice ≤ k))).min?

/-- A packet at its next home slice (01 R16): the slice answers the lanes that it holds, and the packet goes on without them; a
lane that order, a gate or a move holds stays at the slice. With no slice left the packet is at the stack. -/
def atSlice (s : State) (n : Nat) (p : Packet) : State :=
  match nextSlice s p with
  | none => replaceItem s n [.gatherStack p]
  | some k =>
    let mine (l : LaneAcc) : Bool := sliceOn s p.die l.pa == k && (answersHere s p l || heldAt s p.die l.pa)
    let r := packetLanes p (fun l => mine l && laneAlone s n p l) s p.lanes
    let rest := r.1.filter (fun l => !l.finished)
    let stay := rest.filter mine
    let on := rest.filter (fun l => !mine l)
    answerPacket r.2 n p (r.1.filter LaneAcc.finished)
      ((if stay.isEmpty then [] else [Item.gatherHome { p with lanes := stay, slice := k }]) ++
        (if on.isEmpty then [] else [Item.gatherHome { p with lanes := on, slice := k + 1 }]))

/-- A read of field cells goes on: pieces here are read at their home, a piece elsewhere is asked for, and one on a lost package reads
zero (03 R78). -/
def askCells (s : State) (o : Origin) (acc : LaneAcc) (uni : Option (List Nat × Option Nat)) (p slot : Nat) :
    List CellRead → Item × List FabricOut
  | [] => (.gatherReply false (askPacket o uni [acc]), [])
  | c :: t =>
    if c.package = here s then
      askCells s o { acc with data := acc.data ++ homeRead s (acc.pa + acc.data.length) c.len } uni p slot t
    else if s.lostPkgs.contains c.package then
      askCells s o { acc with data := acc.data ++ List.replicate c.len { val := 0, bad := false } } uni p slot t
    else
      (.fieldAsk o acc uni p slot (c :: t) true,
       [.packet c.package { src := here s, spid := (getPart s p).spid.toNat, tag := o.tag * 32 + acc.lane, off := acc.va + acc.data.length,
                            body := .fieldRead slot c.cell }])

/-- GATHER_PACKET_AT_HOME (01 R16): a packet at its next home slice, or a read of cells elsewhere that sets out. -/
def execGatherPacketAtHome (n : Nat) (s : State) : Host.Outcome State Fault Refusal :=
  .next (match s.flight[n]? with
    | some (.gatherHome p) => (runTogether s p).getD (atSlice s n p)
    | some (.fieldAsk o acc uni p slot cs false) =>
      if mayPerform s n then
        let r := askCells s o acc uni p slot cs
        { replaceItem s n [r.1] with fabricOut := s.fabricOut ++ r.2 }
      else s
    | _ => s)

/-- GATHER_PACKET_AT_STACK (01 R16, R19): the base die reads, converts or writes the lanes that are left. A converted read takes
its elements at one instant, one of the mixes that 01 R19 allows while another agent writes the tile. (DESIGN CHOICE, log entry 59.) -/
def execGatherPacketAtStack (n : Nat) (s : State) : Host.Outcome State Fault Refusal :=
  .next (match s.flight[n]? with
    | some (.gatherStack p) =>
      (runTogether s p).getD (
        let r := packetLanes p (laneAlone s n p) s p.lanes
        let rest := r.1.filter (fun l => !l.finished)
        answerPacket r.2 n p (r.1.filter LaneAcc.finished) (if rest.isEmpty then [] else [Item.gatherStack { p with lanes := rest }]))
    | _ => s)

/-- Whether a skein is resident. -/
def resident (s : State) (sid : Nat) : Bool := (getSkein s sid).place == .resident

/-- Takes the entry with a tag of each of some strands off its LD counter: a group's access is answered. -/
def answerGroup (s : State) (o : Origin) (ns : List Nat) : State :=
  mapStrands s o.sid o.ply ns (fun _ t => t.answered o.tag 0)

/-- The reply of a ULD: poisoned bytes leave W[D] unchanged and mark it, and W0 discards it (20 R346, 14 R265). -/
def Skein.takeW (k : Skein) (ply w : Nat) (bs : List PByte) : Skein :=
  if w = 0 then k
  else if bs.any (fun b => b.bad) then { k with wBad := Tbl.set false k.wBad w true }
  else k.setW ply w (dw (bytesToNat (bs.map (fun b => b.val))))

/-- The words of a DGST.FOLD that have returned reach the strands' digests; with the last of them it counts no longer. -/
def takeWords (s : State) (o : Origin) (ns : List Nat) (ls : List LaneAcc) : State :=
  let a := ls.foldl (fun a l => mapStrands a o.sid o.ply ns (fun _ t => t.settleWord o.tag l.va l.data)) s
  if a.flight.any (fun i => match i with
    | .gatherReply _ p => p.org == o
    | i => i.pending.any (fun e => e.1 == o)) then a else answerGroup a o ns

/-- The lanes of a reply reach their strands: lane registers, a W register, or digests. -/
def takeLanes (s : State) (p : Packet) : State :=
  match p.uni with
  | none => p.lanes.foldl (fun b l => replyLane b p.org l.lane l.data) s
  | some (ns, some w) =>
    answerGroup (setSkein s p.org.sid ((getSkein s p.org.sid).takeW p.org.ply w ((p.lanes.head?.map (fun l => l.data)).getD []))) p.org ns
  | some (ns, none) => takeWords s p.org ns p.lanes

/-- A reply of a gather reaches its strands (01 R14): L1 lines, registers, and the invalidation of an acquire. -/
def takeReply (s : State) (fill : Bool) (p : Packet) : State :=
  let k := getSkein s p.org.sid
  let a := if p.org.acq && p.lanes.any (fun l => l.kind != .unordered) then acquire s k.core false else s
  let a := p.lanes.foldl (fun b l =>
    if fill && l.cache && k.core == p.org.core && !(watched b l.pa l.size) then l1Put b p.org.core p.org.ctx p.org.sid l.kind l.va l.pa l.data false true else b) a
  takeLanes a p

/-- GATHER_REPLY (01 R14). A reply for a skein that is no longer there is dropped; one for a saved skein waits for the
reply catcher. -/
def execGatherReply (n : Nat) (s : State) : Host.Outcome State Fault Refusal :=
  .next (match s.flight[n]? with
    | some (.gatherReply fill p) =>
      if (getSkein s p.org.sid).place = .saved then s
      else
        let a := replaceItem s n []
        if resident s p.org.sid then takeReply a fill p else a
    | _ => s)

/-- A request at its home: what is performed is answered, and lanes that the gate holds stay behind. -/
def atomAtHome (s : State) (r : AtomReq) : State :=
  let x := performAtomic s r
  let got := x.done.filter (fun e => e.1.reply)
  let a := replaceItem x.state (s.flight.idxOf (.atomic r)) ((if x.left.isEmpty then [] else [Item.atomic { r with lanes := x.left }]) ++
    (if got.isEmpty then [] else [Item.atomReply { r with lanes := got.map (fun e => e.1) } (got.map (fun e => e.2))]))
  (x.done.filter (fun e => !e.1.reply)).foldl (fun b e => ackStores b e.1.org.sid e.1.org.ply e.1.org.tag [e.1.lane]) a

/-- Whether two requests are of one instruction. -/
def sameInstr (x y : AtomReq) : Bool :=
  x.lanes.any (fun l => y.lanes.any (fun m => l.org.sid == m.org.sid && l.org.ply == m.org.ply && l.org.tag == m.org.tag))

/-- Requests of one instruction performed together; none if one of them may not be performed, or a gate holds it. -/
def atomRun : List AtomReq → State → Option State
  | [], s => some s
  | r :: t, s =>
    if mayPerform s (s.flight.idxOf (.atomic r)) && !(heldAt s r.die r.pa) && (performAtomic s r).left.isEmpty then atomRun t (atomAtHome s r)
    else none

/-- ATOMIC_AT_HOME (04 R83): lanes that the gate holds stay behind. Lanes of one instruction to S pages are performed in
ascending order, those between two lanes of one word together with them. (DESIGN CHOICE, log entries 28 and 60.) -/
def execAtomicAtHome (n : Nat) (s : State) : Host.Outcome State Fault Refusal :=
  .next (match s.flight[n]? with
    | some (.atomic r) =>
      if mayPerform s n && !(heldAt s r.die r.pa) then
        let mates := (s.flight.drop (n + 1)).filterMap (fun i => match i with
          | .atomic q => if r.kind = .sequential ∧ q.kind = .sequential ∧ sameInstr r q then some q else none
          | _ => none)
        let rs := r :: mates
        match closedRun [] (rs.zipIdx.map (fun e => (e.2, e.1.pa))) with
        | [_] => atomAtHome s r
        | ns => (atomRun (rs.take ns.length) s).getD s
      else s
    | _ => s)

/-- One lane's old value reaches its strand: registers and digest. -/
def takeOld (s : State) (r : AtomReq) (l : AtomLane) (old : DWord × Bool) : State :=
  let bs := natToBytes old.1.toNat r.width
  let key := strandKey l.org.sid l.org.ply (l.lane / 4)
  let a := replyLane s l.org l.lane (bs.map (fun b => { val := b, bad := old.2 }))
  setStrand a key ((getStrand a key).settleFolds l.org.tag (l.lane % 4) l.va bs)

/-- ATOMIC_REPLY (20 R344): lanes of a saved skein wait for the reply catcher, and those of a skein that is gone are
dropped. (DESIGN CHOICE, log entry 28.) -/
def execAtomicReply (n : Nat) (s : State) : Host.Outcome State Fault Refusal :=
  .next (match s.flight[n]? with
    | some (.atomReply r olds) =>
      let all := r.lanes.zip olds
      let late := all.filter (fun e => (getSkein s e.1.org.sid).place == .saved)
      let now := all.filter (fun e => resident s e.1.org.sid)
      now.foldl (fun b e =>
          let c := if e.1.org.acq && r.kind != .unordered then acquire b (getSkein b e.1.org.sid).core false else b
          takeOld c r e.1 e.2)
        (replaceItem s n (if late.isEmpty then [] else
          [Item.atomReply { r with lanes := late.map (fun e => e.1) } (late.map (fun e => e.2))]))
    | _ => s)

/-! ## Combining (04 R86) -/

/-- Whether an operation combines. -/
def combines : AtomOp → Bool
  | .exch => false
  | .cas => false
  | _ => true

/-- The entries in use of the split table of a die's router: each combining holds one until the reply is split. -/
def splits (s : State) (die : Nat) : Nat :=
  s.flight.foldl (fun n i => match i with
    | .atomic r => if r.die = die then n + r.merged else n
    | .atomReply r _ => if r.die = die then n + r.merged else n
    | _ => n) 0

/-- Whether two requests may combine, once they meet: the router has a free entry (04 R86). (DESIGN CHOICE, log entry 28.) -/
def mayCombine (s : State) (x y : AtomReq) : Bool :=
  x.pa == y.pa && x.width == y.width && x.op == y.op && combines x.op && !x.ordered && !y.ordered &&
    x.kind != .sequential && y.kind != .sequential && !x.det && !y.det && x.die == y.die && !(watched s x.pa x.width) &&
    decide (x.lanes.length + y.lanes.length ≤ 16) && decide (splits s x.die < 32)

/-- The combined request: the older contributions first; pairs are merged (04 R86). -/
def combined (x y : AtomReq) : AtomReq :=
  { x with merged := x.merged + y.merged + 1, lanes := x.lanes ++ y.lanes, pair := if x.op = .pair then some (pairStep x.carried y.carried) else none }

/-- Whether a request at place `m` has left its core, and nothing but the one at `n` must come before it: what its core still holds is
in no router. -/
def meets (s : State) (n m : Nat) (y : AtomReq) : Bool :=
  ((s.flight.take m).zipIdx).all (fun e => e.2 == n || !mustPrecede s e.1 (.atomic y))

/-- ROUTER_COMBINE (04 R86): the requests at `n` and, later, `m` meet, with nothing that must come first. -/
def execRouterCombine (n m : Nat) (s : State) : Host.Outcome State Fault Refusal :=
  .next (match s.flight[n]?, s.flight[m]? with
    | some (.atomic x), some (.atomic y) =>
      if n < m ∧ mayCombine s x y ∧ meets s n n x ∧ meets s n m y then
        replaceItem (replaceItem s m []) n [.atomic (combined x y)]
      else s
    | _, _ => s)

end Sys2Proof.Machine
end

