-- ==== Sys2Proof/Machine/UMem.lean ====
section
/-! DEFINITION. Uniform loads and stores (20 R346, R347): one 8-byte access for the issuing group, which leaves as a packet
of one lane; and reads and writes that a group makes in one step, when nothing that must come before them is still on its way. -/

namespace Sys2Proof.Machine

/-- Whether a group's access must wait: an acquire or a FENCE of one of its strands, an earlier S access, an access of the core
to the same bytes, or a move that holds the frame. -/
def mustWait (s : State) (x : Xl) (n : Nat) : Bool :=
  (grp s).any (fun n => acquiring s s.cur.sid s.cur.ply n || fencing s s.cur.sid s.cur.ply n) || touching s (curCore s) x.pa n || heldAt s x.die x.pa ||
    (x.kind == .sequential && s.flight.any (fun i => i.pending.any (fun e =>
      e.2.kind == .sequential && (grp s).any (byStrand e s.cur.sid s.cur.ply))))

/-- Whether the L1 may serve an access to a page. -/
def Xl.cached (x : Xl) : Bool := !x.fld && !x.ctl && x.kind != .sequential

/-- Reads for the group: from the L1 where it holds the bytes, else at the home. -/
def groupRead (s : State) (x : Xl) (va n : Nat) : List PByte × State :=
  let k := curSkein s
  if x.ctl then
    let r := ctlRead s (ctlPlace x.pa).1 (ctlPlace x.pa).2
    (clean (natToBytes r.1.toNat 8), r.2)
  else if x.cached && l1Holds s k.core k.ctx va x.pa n then (l1Read s k.core k.ctx va x.pa n, s)
  else
    let a := leaveL1 s k.core x.pa
    (homeRead a x.pa n, a)

/-- Reads pieces of `n` bytes for the group, one after another. -/
def groupReads (n : Nat) : List (Nat × Xl) → State → List (List PByte) × State
  | [], s => ([], s)
  | (va, x) :: t, s =>
    let r := groupRead s x va n
    let u := groupReads n t r.2
    (r.1 :: u.1, u.2)

/-- The group reads `n` bytes at each address, checked under R37 as a load; `k` gets the bytes. -/
def readGroup (vas : List Nat) (n : Nat) (s : State) (k : State → List (List PByte) → State) : State :=
  accessRange s .load vas n n (fun s xs =>
    if xs.any (fun x => mustWait s x n) then stall s .poll
    else
      let r := groupReads n (vas.zip xs) s
      k r.2 r.1)

/-- The value of some bytes. -/
def pval (bs : List PByte) : Nat := bytesToNat (bs.map (fun b => b.val))

/-- The addresses of `n` doublewords from `va` on. -/
def dwordsAt (va n : Nat) : List Nat := (List.range n).map (fun i => va + 8 * i)

/-- The group's check of a store of doublewords (03 R61, 15 R281); `k` goes on with nothing stored. -/
def checkStore (vas : List Nat) (s : State) (k : State → State) : State := accessRange s .store vas 8 8 (fun s _ => k s)

/-- The group stores doublewords that were checked already, at their homes. -/
def storeGroup (va : Nat) (ws : List DWord) (s : State) : State :=
  let k := curSkein s
  (ws.zipIdx).foldl (fun a e =>
    match translate a k.core k.part k.ctx (va + 8 * e.2) with
    | .ok x => homePut (leaveL1 a k.core x.pa) x.pa (clean (natToBytes e.1.toNat 8))
    | .bad _ _ => a) s

/-- Whether a package holds a partition of the same system partition (16 R291). -/
def inPartition (s : State) (p q : Nat) : Bool := q == here s || (getPart s p).members.contains q

/-! ## ULD, UST (20 R346, R347) -/

/-- The address of a ULD or UST (20 R346). -/
def uva (s : State) (a : BitVec 5) (i : BitVec 14) : Nat := (wReg s a.toNat + 8 * i.signExtend 64).toNat

/-- A group's access of 8 bytes, as its first strand's. -/
def groupAcc (s : State) (va : Nat) (x : Xl) (data : List PByte) : LaneAcc :=
  { lane := 4 * (grp s).headD 0, pa := x.pa, va := va, size := 8, kind := x.kind, cache := x.cached, fld := x.fld, cnv := 0, data := data, done := 0 }

/-- Each strand of the group counts an access in LD until its reply. -/
def expectGroup (s : State) (tag : Nat) : State :=
  mapStrands s s.cur.sid s.cur.ply (grp s) (fun _ t =>
    { t with replies := t.replies ++ [{ tag := tag, sup := false, reg := 0, count := 0, lanes := 1, lost := false }] })

/-- Each strand of the group counts an access in ST until it has been performed. -/
def expectGroupStore (s : State) (tag : Nat) : State :=
  mapStrands s s.cur.sid s.cur.ply (grp s) (fun _ t => { t with stores := t.stores ++ [{ tag := tag, lanes := 1 }] })

/-- A load of the group that has passed its checks: the L1 serves it, or it leaves for its home. -/
def issueUld (d : Nat) (s : State) (va : Nat) (x : Xl) : State :=
  let o := origin s 0
  let l := groupAcc s va x []
  if (grp s).all (fun n => loadHits s o n l) then
    retire (setSkein s s.cur.sid ((curSkein s).takeW s.cur.ply d (l1Read s o.core o.ctx l.va l.pa 8))) 4
  else retire (send (expectGroup (toHomes s o 0 [l]) o.tag) (readItems s o 0 (some (grp s, some d)) [(l, x.die)])) 4

/-- ULD (20 R346): it counts in LD until W[D] is written; poisoned bytes leave W[D] unchanged and mark it. -/
def execUld (d a : BitVec 5) (i : BitVec 14) (s : State) : Host.Outcome State Fault Refusal :=
  .next (uniEnter (.uld d a i) .user [] [] [a.toNat] [d.toNat] s (fun s =>
    if (grp s).any (fullLd s) then stall s .poll
    else
      accessRange s .load [uva s a i] 8 8 (fun s xs =>
        match xs with
        | [x] => issueUld d.toNat s (uva s a i) x
        | _ => s)))

/-- A store of the group that has passed its checks: in the L1 where the region is held write-back, or at its home. -/
def issueUst (s : State) (va : Nat) (x : Xl) (bs : List Byte) : State :=
  let o := origin s 0
  let l := groupAcc s va x (clean bs)
  let back := match tokenCheck s s.cur.sid va true x with
    | .allowed b => b
    | _ => false
  let a := mapStrands s s.cur.sid s.cur.ply (grp s) (fun _ t => t.fold (storeFolds va bs))
  if (grp s).all (fun n => storeStays s o back n l) then retire (keepStore a o l) 4
  else retire (send (expectGroupStore (toHomes a o 0 [l]) o.tag) (packetsOf o true 0 (some (grp s, none)) [(l, x.die)])) 4

/-- UST (20 R346): it counts in ST, and folds into each strand's digest. -/
def execUst (d a : BitVec 5) (i : BitVec 14) (s : State) : Host.Outcome State Fault Refusal :=
  .next (uniEnter (.ust d a i) .user [] [] [a.toNat, d.toNat] [] s (fun s =>
    if (grp s).any (fullSt s) then stall s .poll
    else
      accessRange s .store [uva s a i] 8 8 (fun s xs =>
        match xs with
        | [x] => issueUst s (uva s a i) x (natToBytes (wReg s d.toNat).toNat 8)
        | _ => s)))

end Sys2Proof.Machine
end

