-- ==== Sys2Proof/Machine/Copy.lean ====
section
/-! DEFINITION. The copy engines (05 R92 to R103): issue and its checks, footprints, the chunks that an engine moves,
inline reduce, completion, faults while a copy runs, and the tree reduce of 11 R211. -/

namespace Sys2Proof.Machine

/-! ## Operands and footprints -/

/-- Rows of a copy (05 R95). -/
def Copy.rows (c : Copy) : Nat := if c.kind = .copy2d then fieldOf c.w0.toNat 32 16 else 1
/-- Bytes of a row: LEN, or ROWB. -/
def Copy.rowb (c : Copy) : Nat := fieldOf c.w0.toNat 0 32
/-- The source pitch. -/
def Copy.spitch (c : Copy) : Nat := if c.kind = .copy2d then fieldOf c.w1.toNat 0 32 else 0
/-- The destination pitch. -/
def Copy.dpitch (c : Copy) : Nat := if c.kind = .copy2d then fieldOf c.w1.toNat 32 32 else 0
/-- All bytes that a copy moves. -/
def Copy.total (c : Copy) : Nat := c.rows * c.rowb
/-- RED. -/
def Copy.red (c : Copy) : Nat := if c.kind = .tree then 0 else fieldOf c.fn.toNat 7 2

/-- The address space of an address: 0 global, 4 fabric, 8 local store (02 R32). -/
def spaceOf (a : DWord) : Nat := fieldOf a.toNat 60 4

/-- Whether two ranges share a byte; an empty range shares none. -/
def ranges (a n b m : Nat) : Bool := n != 0 && m != 0 && overlap a n b m

/-- Whether a later copy must wait for an earlier one of its skein: RAW, WAR and WAW (05 R97). -/
def Copy.after (b a : Copy) : Bool :=
  let x := a.spans
  let y := b.spans
  ranges b.src.toNat y.1 a.dst.toNat x.2 || ranges b.dst.toNat y.2 a.src.toNat x.1 || ranges b.dst.toNat y.2 a.dst.toNat x.2

/-- The bytes of an element of an inline reduce. -/
def elemSize (red : Nat) : Nat := if red = 2 then 2 else 4

/-- The first issue check of 05 R94 that a copy fails, with the address that offends. (DESIGN CHOICE, log entry 34.) -/
def copyRefused (s : State) (k : Skein) (c : Copy) : Option (Cause × DWord) :=
  let sp := c.spans
  let sides := [(c.src, sp.1), (c.dst, sp.2)]
  let e := elemSize c.red
  let w0 := c.w0.toNat
  let fabric := c.kind == .copyp
  let zero := match c.kind with
    | .copy => fieldOf w0 32 32 != 0
    | .copy2d => fieldOf w0 48 16 != 0
    | .copyp => fieldOf w0 56 1 != 0 || fieldOf w0 32 16 != 0
    | .tree => false
  let off := fieldOf c.dst.toNat 0 39
  if spaceOf c.src != 0 && spaceOf c.src != 8 then some (.prot, c.src)
  else if (if fabric then spaceOf c.dst != 4 else spaceOf c.dst != 0 && spaceOf c.dst != 8) then some (.prot, c.dst)
  else
    match sides.find? (fun x => (spaceOf x.1 == 0 && decide (2 ^ 57 ≤ x.1.toNat)) || (spaceOf x.1 == 8 && fieldOf x.1.toNat 18 42 != 0)) with
    | some x => some (.prot, x.1)
    | none =>
      match sides.find? (fun x => spaceOf x.1 == 8 && x.2 != 0 && decide (k.lsSize < fieldOf x.1.toNat 0 18 + x.2)) with
      | some x => some (.lsbound, x.1)
      | none =>
        if fabric && (!(inPartition s k.part (fieldOf c.dst.toNat 39 21)) || decide (2 ^ 39 < off + sp.2)) then some (.prot, c.dst)
        else if zero then some (.prot, 0)
        else if c.red != 0 && c.src.toNat % e != 0 then some (.misalign, c.src)
        else if c.red != 0 && c.dst.toNat % e != 0 then some (.misalign, c.dst)
        else if c.red != 0 && (c.rowb % e != 0 || c.spitch % e != 0 || c.dpitch % e != 0) then some (.misalign, 0)
        else none

/-! ## Entering and ending -/

/-- Replaces a copy. -/
def setCopy (s : State) (c : Copy) : State := { s with copies := s.copies.map (fun x => if x.seq = c.seq then c else x) }

/-- Takes 1 from CP of some strands (05 R92). -/
def lowerCp (s : State) (sid ply : Nat) (ls : List (Nat × BitVec 4)) : State :=
  mapStrands s sid ply (ls.map (fun l => l.1)) (fun _ t => { t with cp := t.cp - 1 })

/-- A copy has ended: it leaves the engine, and CP falls. -/
def dropCopy (s : State) (c : Copy) : State :=
  lowerCp { s with copies := s.copies.filter (fun x => x.seq != c.seq) } c.sid c.ply c.lanes

/-- A copy completes: its counter rises, then CP falls (05 R96). -/
def endCopy (s : State) (c : Copy) : State :=
  dropCopy (if c.fn.getLsbD 6 then addCounter s c.core (fieldOf c.fn.toNat 0 6) 1 else s) c

/-- The strands of a list as a mask of 8 bits. -/
def strandBits (ns : List Nat) : Nat := (List.range 8).foldl (fun m n => if ns.contains n then m + 2 ^ n else m) 0

/-- A copy record (05 R103); a tree reduce has no kind of its own there, and takes that of a COPYP. (DESIGN CHOICE, log entry 71.) -/
def copyWords (c : Copy) : List Nat :=
  let kind := if c.fired then 3 else match c.kind with
    | .copy => 0
    | .copy2d => 1
    | _ => 2
  [c.dst.toNat, c.src.toNat, c.w0.toNat, if c.kind = .copy2d then c.w1.toNat else 0, kind * 2 ^ 62 + c.fn.toNat,
   c.ply * 2 ^ 60 + strandBits (c.lanes.map (fun l => l.1)) * 2 ^ 48 + c.progress % 2 ^ 48]

/-- A copy stops: its fault waits for the strands' next WAIT or EXIT (05 R102). -/
def stopCopy (s : State) (c : Copy) (cause : Cause) (addr : DWord) : State :=
  (c.lanes).foldl (fun a l =>
    let key := strandKey c.sid c.ply l.1
    let t := getStrand a key
    setStrand a key { t with faults := t.faults ++ [{ seq := c.seq, cause := cause, addr := addr, mask := l.2, att := none, record := copyWords c }] })
    (dropCopy s c)

/-- A copy enters its skein's order behind the copies it must follow; one that moves nothing completes at once (05 R95,
R97), but for a COPYP that counts on the other package. Its strands' CP counts it already. (DESIGN CHOICE, log entry 34.) -/
def enterCopy (s : State) (c : Copy) : State :=
  let c := { c with seq := s.seq, fenced := (s.copies.filter (fun a => a.sid == c.sid && c.after a)).map (fun a => a.seq) }
  let a := { s with seq := s.seq + 1 }
  if c.total = 0 && !(c.kind == .copyp && bitOf c.w0.toNat 57) then endCopy a c else { a with copies := a.copies ++ [c] }

/-- The strands of the issuing group with their live lanes. -/
def groupLanes (s : State) : List (Nat × BitVec 4) := (grp s).map (fun n => (n, (curStrand s n).liveLanes))

/-- A copy as the group issues it. -/
def newCopy (s : State) (kind : CopyKind) (fn : BitVec 9) (dst src w0 w1 : DWord) : Copy :=
  { seq := 0, core := curCore s, sid := s.cur.sid, ply := s.cur.ply, lanes := groupLanes s, kind := kind, fired := false, dst := dst,
    src := src, w0 := w0, w1 := w1, fn := fn, mode := curMode s, progress := 0, state := .running, fenced := [], snap := [], got := [] }

/-- The copies of the skeins that are resident on a core. -/
def coreCopies (s : State) (core : Nat) : List Copy := s.copies.filter (fun c => c.core == core && (getSkein s c.sid).place == .resident)

/-- Whether a group cannot issue one more copy: the core's 128, or CP of a strand (05 R92). -/
def copyFull (s : State) : Bool :=
  decide (128 ≤ (coreCopies s (curCore s)).length) || (grp s).any (fun n => decide (63 ≤ (curStrand s n).cp))

/-- Adds 1 to CP of the group's strands. -/
def raiseCp (s : State) : State := mapStrands s s.cur.sid s.cur.ply (grp s) (fun _ t => { t with cp := t.cp + 1 })

/-- The issue of a copy (05 R92, R94). -/
def issueCopy (c : Copy) (s : State) : State :=
  match copyRefused s (curSkein s) c with
  | some f => trapAll s f.1 f.2
  | none => if copyFull s then stall s .poll else retire (enterCopy (raiseCp s) c) 4

/-- COPY (05 R93). -/
def execCopy (d a b : BitVec 5) (r : BitVec 2) (e : BitVec 1) (c : BitVec 6) (s : State) : Host.Outcome State Fault Refusal :=
  .next (uniEnter (.copy d a b r e c) .user [] [] [d.toNat, a.toNat, b.toNat] [] s (fun s =>
    issueCopy (newCopy s .copy (r ++ e ++ c) (wReg s d.toNat) (wReg s a.toNat) (wReg s b.toNat) 0) s))

/-- COPY2D (05 R93, R95). -/
def execCopy2d (d a b : BitVec 5) (r : BitVec 2) (e : BitVec 1) (c : BitVec 6) (s : State) : Host.Outcome State Fault Refusal :=
  .next (uniEnter (.copy2d d a b r e c) .user [] [] [d.toNat, a.toNat, b.toNat, b.toNat + 1] [] s (fun s =>
    issueCopy (newCopy s .copy2d (r ++ e ++ c) (wReg s d.toNat) (wReg s a.toNat) (wReg s b.toNat) (wReg s (b.toNat + 1))) s))

/-- COPYP (05 R93). -/
def execCopyp (d a b : BitVec 5) (r : BitVec 2) (e : BitVec 1) (c : BitVec 6) (s : State) : Host.Outcome State Fault Refusal :=
  .next (uniEnter (.copyp d a b r e c) .user [] [] [d.toNat, a.toNat, b.toNat] [] s (fun s =>
    issueCopy (newCopy s .copyp (r ++ e ++ c) (wReg s d.toNat) (wReg s a.toNat) (wReg s b.toNat) 0) s))

/-! ## Inline reduce (05 R100) -/

/-- One element of a reduce. -/
def addElem (red a b : Nat) : Nat :=
  match red with
  | 1 => (fadd f32 .rne false a b).1
  | 2 => (fadd bf16 .rne false a b).1
  | _ => (a + b) % 2 ^ 32

/-- What a write with an inline reduce leaves: each element combined with its old value, poison on either side poisoning
the result. -/
def reduceBytes (red : Nat) : Nat → List PByte → List PByte → List PByte
  | 0, _, _ => []
  | n + 1, old, new =>
    let e := elemSize red
    let o := old.take e
    let x := new.take e
    let bad := (o ++ x).any (fun b => b.bad)
    (natToBytes (addElem red (bytesToNat (o.map (fun b => b.val))) (bytesToNat (x.map (fun b => b.val)))) e).map
        (fun v => { val := v, bad := bad }) ++
      reduceBytes red n (old.drop e) (new.drop e)

/-- The bytes that a write of a copy leaves. -/
def reduced (red : Nat) (old new : List PByte) : List PByte :=
  if red = 0 then new else reduceBytes red (new.length / elemSize red) old new

/-- A write of a copy at its home: none while a gate holds it (05 R100, 15 R282). (DESIGN CHOICE, log entry 34.) -/
def copyPut (s : State) (red pa : Nat) (data : List PByte) : Option State :=
  let a := if red = 0 then s else (rangeFrom (pa / 64) ((pa + data.length - 1) / 64 + 1 - pa / 64)).foldl (fun b l => fetchLine b (64 * l)) s
  homeWrite a outsideAgent pa (reduced red (readPBytes a pa data.length) data)

/-! ## Chunks (05 R101) -/

/-- What a chunk's check finds on one side. -/
inductive Side where
  | inLocal (off : Nat)
  | inGlobal (x : Xl)
  | remote
  | fails (c : Cause) (va entry : Nat)
  | held
  deriving DecidableEq, Repr

/-- The hand-off under way on a range: its place in time, what it does, and the skein that asked for it. -/
def handOffAt (s : State) (p ctx va n : Nat) : Option (Nat × TokenOp × Nat) :=
  s.flight.findSome? (fun i => match i with
    | .tokenOp op q c b j sid _ _ g => if q == p && c == ctx && overlap b (2 ^ j) va n then some (g, op, sid) else none
    | _ => none)

/-- The token check of a chunk, as its skein (02 R47, R48): a grant in the cache of the core's engines allows it; else the home
answers, and while a hand-off is under way it lets only the copies go on that the hand-off waits for. -/
def copyToken (s : State) (c : Copy) (k : Skein) (va n : Nat) (write : Bool) (x : Xl) : Side :=
  let r := regionOf s k.part k.ctx va
  let late := match handOffAt s k.part k.ctx va n with
    | some (g, op, sid) => decide (g ≤ c.seq) || !(op.waitsFor s r sid c.sid)
    | none => false
  if phasesDone s c.sid then .fails .isolate va 0
  else if !x.tokened then .inGlobal x
  else if (grantFor s (engineCache c.core) k.part (here s) (skeinAgent k) k.ctx va write).isSome then .inGlobal x
  else if late then .held
  else if tokenAllows s (skeinAsker s c.sid) k.ctx r write then .inGlobal x
  else .fails (tokenCause s c.sid) va 0

/-- Whether a leaf marks a frame that a channel retirement is moving (01 R27, 02 R35). -/
def movingLeaf (e : Nat) : Bool := !(bitOf e 0) && bitOf e 1 && bitOf e 11

/-- What a write of a chunk finds at its address: where it is held at a moving frame, its place stands as it was on its arrival, and
goes on to the new frame (01 R28); a leaf that marks a moving frame is judged as its other bits stand. -/
def copyPage (s : State) (c : Copy) (va n : Nat) (write : Bool) : Chk × Bool :=
  let k := getSkein s c.sid
  let at_ (pa leaf : Nat) : Xl := { pa := pa, leaf := leaf, base := va / 0x10000 * 0x10000, k := 16, die := homeDie s (pa / 0x10000) }
  match (if write then c.pin else none) with
  | some (pa, leaf) => (.ok (at_ pa leaf), s.moving.contains (pa / 0x10000))
  | none =>
    match checkVa s c.core k.part k.ctx c.mode (if write then .copyWrite else .copyRead) va n 1 with
    | .ok x => (.ok x, write && s.moving.contains (x.pa / 0x10000))
    | .bad e en =>
      if write && movingLeaf en then (permit c.mode .copyWrite n (at_ (movedPa s k.part k.ctx va en) en), true) else (.bad e en, false)

/-- The place of a write that is held at a moving frame, to be kept until the move ends (01 R28). -/
def copyPin (s : State) (c : Copy) (a : DWord) (n : Nat) : Option (Nat × Nat) :=
  if spaceOf a != 0 then none
  else
    match copyPage s c a.toNat n true with
    | (.ok x, true) => if s.moving.contains (x.pa / 0x10000) then some (x.pa, x.leaf) else none
    | _ => none

/-- One side of a chunk, checked in full: local-store ranges were checked at issue, and wait for a change of banking mode (06 R114);
a write is held while its frame moves (01 R28). -/
def copySide (s : State) (c : Copy) (a : DWord) (n : Nat) (write : Bool) : Side :=
  let k := getSkein s c.sid
  if spaceOf a = 8 then if banksShut s c.core then .held else .inLocal (fieldOf a.toNat 0 18)
  else if spaceOf a = 4 then
    if s.lostPkgs.contains (fieldOf a.toNat 39 21) then .fails .prot a.toNat 0 else .remote
  else
    match copyPage s c a.toNat n write with
    | (.bad e en, _) => .fails e a.toNat en
    | (.ok x, moves) => if moves || heldAt s x.die x.pa then .held else copyToken s c k a.toNat n write x

/-- Addresses of the chunk at the copy's progress: source and destination. -/
def Copy.here_ (c : Copy) : DWord × DWord :=
  let r := c.progress / c.rowb
  let o := c.progress % c.rowb
  (c.src + dw (r * c.spitch + o), c.dst + dw (r * c.dpitch + o))

/-- What is left of the last packet of a range that ends at `e`: its start, not before `d` (11 R196). -/
def lastPacket (d e : Nat) : Nat := max d ((e - 1) / 256 * 256)

/-- The length of the chunk at the copy's progress: it ends with its row and at each 4 KiB boundary on either side; the
last packet of a COPYP goes by itself, so that its counter action comes last (05 R96). -/
def Copy.chunk (c : Copy) : Nat :=
  if c.total = 0 then 0
  else
    let p := c.here_
    let edge (a : DWord) : Nat := 4096 - a.toNat % 4096
    let n := min (c.rowb - c.progress % c.rowb) (min (edge p.1) (edge p.2))
    if c.kind = .copyp ∧ c.progress + n = c.total ∧ p.2.toNat < lastPacket p.2.toNat (p.2.toNat + n) then
      lastPacket p.2.toNat (p.2.toNat + n) - p.2.toNat
    else n

/-- The source bytes of a chunk that the copy itself has overwritten read as they stood (05 R98). -/
def Copy.source (c : Copy) (a : DWord) (bs : List PByte) : List PByte :=
  bs.zipIdx.map (fun e => ((c.snap.find? (fun x => x.1 == a.toNat + e.2)).map (fun x => x.2)).getD e.1)

/-- Remembers the bytes of a destination that are source bytes of the same copy. -/
def Copy.remember (c : Copy) (a : DWord) (old : List PByte) : Copy :=
  let own (n : Nat) : Bool := decide (c.src.toNat ≤ n) && decide (n < c.src.toNat + c.spans.1)
  let add (m : List (Nat × PByte)) (e : PByte × Nat) : List (Nat × PByte) :=
    if own (a.toNat + e.2) && !(m.any (fun x => x.1 == a.toNat + e.2)) then (a.toNat + e.2, e.1) :: m else m
  { c with snap := old.zipIdx.foldl add c.snap }

/-- The core's own dirty lines of some bytes are written back, so that a copy sees the stores made there. -/
def flushRange (s : State) (core pa n : Nat) : State := writeBack s (fun l => l.core == core && overlap l.pa 64 pa n)

/-- The bytes of one side of a chunk, and the state they are read in. -/
def sideRead (s : State) (c : Copy) (n : Nat) (side : Side) : List PByte × State :=
  match side with
  | .inLocal off => (lsRead (getSkein s c.sid) off n, s)
  | .inGlobal x =>
    let t := flushRange s c.core x.pa n
    (homeRead t x.pa n, t)
  | _ => ([], s)

/-- A piece of what a chunk reads: bytes here, or a field cell on another package (03 R78). -/
inductive Piece where
  | here (a : DWord) (n : Nat) (side : Side)
  | away (slot : Nat) (cell : CellRead)
  deriving DecidableEq, Repr

/-- How many bytes a piece is. -/
def Piece.len (p : Piece) : Nat :=
  match p with
  | .here _ n _ => n
  | .away _ c => c.len

/-- The pieces of a read from cells, the first of them at an address. -/
def cellPieces (s : State) (slot : Nat) : DWord → Xl → List CellRead → List Piece
  | _, _, [] => []
  | a, x, c :: t =>
    (if c.package = here s then .here a c.len (.inGlobal x) else .away slot c) ::
      cellPieces s slot (a + dw c.len) { x with pa := x.pa + c.len } t

/-- The pieces of a chunk's read of one side. -/
def sidePieces (s : State) (c : Copy) (a : DWord) (n : Nat) (side : Side) : List Piece :=
  let k := getSkein s c.sid
  match side with
  | .inGlobal x =>
    if x.fld then
      match cellsAway s k.part k.ctx a.toNat n with
      | some (slot, cs) => cellPieces s slot a x cs
      | none => [.here a n side]
    else [.here a n side]
  | _ => [.here a n side]

/-- The pieces behind the bytes that have been read already. -/
def skipPieces : Nat → List Piece → List Piece
  | _, [] => []
  | n, p :: t => if p.len ≤ n then skipPieces (n - p.len) t else p :: t

/-- Reads pieces one after another, as far as the first that is to be asked for. -/
def readPieces : List Piece → State → Copy → State × Copy
  | [], s, c => (s, c)
  | .here a n side :: t, s, c =>
    let r := sideRead s c n side
    readPieces t r.2 { c with got := c.got ++ c.source a r.1 }
  | .away slot x :: t, s, c =>
    if s.lostPkgs.contains x.package then readPieces t s { c with got := c.got ++ List.replicate x.len { val := 0, bad := false } } else
    let pkt : FabPkt := { src := here s, spid := (getPart s (getSkein s c.sid).part).spid.toNat, tag := s.seq * 32, off := x.off * 16 + x.len,
                          body := .fieldRead slot x.cell }
    ({ s with seq := s.seq + 1, fabricOut := s.fabricOut ++ [FabricOut.packet x.package pkt] }, { c with state := .asked, ask := s.seq * 32 })

/-- Whether bytes of the copy past `done` still fall into a granule of its destination (06 R117). -/
def Copy.later (c : Copy) (done g : Nat) : Bool :=
  let base := fieldOf c.dst.toNat 0 18
  let r := done / c.rowb
  overlap (base + r * c.dpitch + done % c.rowb) (c.rowb - done % c.rowb) (16 * g) 16 && r < c.rows ||
    (rangeFrom (r + 1) (c.rows - (r + 1))).any (fun j => overlap (base + j * c.dpitch) c.rowb (16 * g) 16)

/-- Marks the granules of a range full once no byte of the copy is still to come there. -/
def fillGranules (k : Skein) (c : Copy) (off n : Nat) : Skein :=
  (rangeFrom (off / 16) ((off + n - 1) / 16 + 1 - off / 16)).foldl (fun k g =>
    if c.later (c.progress + n) g then k else setFull k (16 * g) 1) k

/-- Writes one chunk: none while a gate holds it. The core's lines of the bytes leave its L1, and lines on their way there are not
kept, so that what follows the copy sees its bytes (05 R96, R99). -/
def sideWrite (s : State) (c : Copy) (data : List PByte) (side : Side) : Option State :=
  let k := getSkein s c.sid
  match side with
  | .inLocal off =>
    let k' := lsWrite k off (reduced c.red (lsRead k off data.length) data)
    some (setSkein s c.sid (fillGranules k' c off data.length))
  | .inGlobal x => copyPut (leaveRange s c.core x.pa data.length) c.red x.pa data
  | _ => some s

/-- The skein of a copy that meets PAGE is saved, whatever mode the copy was issued in: the copy pauses where the chunk starts (05
R101, 14 R253). (DESIGN CHOICE, log entry 65.) -/
def pauseCopy (s : State) (c : Copy) (va entry kind : Nat) : State :=
  let k := getSkein s c.sid
  let n := (c.lanes.headD (0, 0)).1
  let w1 := k.launch + k.ctx * 2 ^ 24 + c.ply * 2 ^ 40 + n * 2 ^ 44 + kind * 2 ^ 48 +
    (if bitOf entry 0 && bitOf entry 8 then 2 ^ 51 else 0) + (if !bitOf entry 0 && bitOf entry 1 && bitOf entry 11 then 2 ^ 52 else 0)
  let a := setCopy s { c with state := .paused, got := [], pin := none }
  match k.saving with
  | some _ => a
  | none => setSkein a c.sid { k with saving := some .fault, faultRec := [dw va, dw w1, dw k.index, 0] }

/-- The first destination address on a field page, before anything moves (05 R101, 03 R79). -/
def copyOnField (s : State) (c : Copy) : Option Nat :=
  let k := getSkein s c.sid
  let at_ (va : Nat) : Bool := match translate s c.core k.part k.ctx va with
    | .ok x => x.fld
    | .bad _ _ => false
  if spaceOf c.dst != 0 || c.total == 0 then none
  else
    (List.range c.rows).findSome? (fun j =>
      let a := c.dst.toNat + j * c.dpitch
      (a :: (rangeFrom (a / 0x10000 + 1) ((a + c.rowb - 1) / 0x10000 - a / 0x10000)).map (fun f => f * 0x10000)).find? at_)

/-- The packets of a chunk: offset within the chunk and length, cut at each 256-byte boundary of the destination. -/
def cutPackets : Nat → Nat → Nat → Nat → List (Nat × Nat)
  | 0, _, _, _ => []
  | f + 1, d, i, n =>
    if n = 0 then []
    else
      let m := min n (256 - (d + i) % 256)
      (i, m) :: cutPackets f d (i + m) (n - m)

/-- The tag of a packet of a copy. -/
def copyTag (c : Copy) (off : Nat) : Nat := c.seq * 2 ^ 32 + off

/-- The tag of a packet as ingress remembers it: packets of different kinds have tags of their own. -/
def ingressTag (kind tag : Nat) : Nat := 4 * tag + kind

/-- Whether a packet was applied already (11 R196). -/
def wasApplied (s : State) (src kind tag : Nat) : Bool := s.fabTags.contains (src, ingressTag kind tag)

/-- The packets of `n` bytes of a copy that go to a fabric address; a COPYP that moves nothing sends one. -/
def copyCuts (a : DWord) (n : Nat) : List (Nat × Nat) := if n = 0 then [(0, 0)] else cutPackets (n / 256 + 2) a.toNat 0 n

/-- Whether the packets of a chunk that was sent are acknowledged: those to this package once they are performed here, those to another
once it says so (05 R96). -/
def chunkAcked (s : State) (c : Copy) : Bool :=
  fieldOf c.dst.toNat 39 21 != s.package.toNat ||
    (copyCuts c.here_.2 c.chunk).all (fun x => wasApplied s s.package.toNat 0 (copyTag c (c.progress + x.1)))

/-- Sends a chunk to its package (11 R196): the copy waits for the acknowledgements. -/
def sendChunk (s : State) (c : Copy) (a : DWord) (data : List PByte) : State :=
  let n := data.length
  let w := c.w0.toNat
  let last := c.progress + n == c.total
  let pkt (x : Nat × Nat) : FabricOut := .packet (fieldOf a.toNat 39 21)
    { src := here s, spid := (getPart s (getSkein s c.sid).part).spid.toNat, tag := copyTag c (c.progress + x.1), off := fieldOf a.toNat 0 39 + x.1,
      body := .put (BitVec.ofNat 2 c.red) ((data.drop x.1).take x.2) last (bitOf w 57) (fieldOf w 58 6) (fieldOf w 48 8) }
  { setCopy s { c with state := .sent } with fabricOut := s.fabricOut ++ (copyCuts a n).map pkt }

/-- Goes on with a chunk once its pieces are read: `k` gets the data; a chunk that asks for a cell elsewhere waits for it. -/
def withPieces (s : State) (c : Copy) (ps : List Piece) (k : State → Copy → List PByte → State) : State :=
  let r := readPieces (skipPieces c.got.length ps) s c
  if r.2.state = .asked then setCopy r.1 r.2 else k r.1 { r.2 with got := [] } r.2.got

/-- Writes the data of a chunk, which ends with `n` more bytes performed. -/
def writeChunk (s : State) (c : Copy) (a : DWord) (n : Nat) (data : List PByte) (dst : Side) : State :=
  let old := sideRead s c n dst
  match sideWrite old.2 c data dst with
  | none => setCopy s c
  | some b => setCopy b { c.remember a old.1 with progress := c.progress + n, pin := none }

/-- Moves a chunk that has passed its checks on both sides. -/
def moveChunk (s : State) (c : Copy) (src dst : Side) : State :=
  let p := c.here_
  withPieces s c (sidePieces s c p.1 c.chunk src) (fun s c data =>
    match dst with
    | .remote => sendChunk s c p.2 data
    | _ => writeChunk s c p.2 c.chunk data dst)

/-! ## The tree reduce (11 R211, 09 R175) -/

/-- The distance of two staged slots. -/
def Copy.slotStep (c : Copy) : Nat := (c.rowb + 63) / 64 * 64

/-- The sum of two nodes, an absent one leaving the other unchanged. -/
def treeAdd (f : Fmt) (a b : Option Nat) : Option Nat :=
  match a, b with
  | some x, some y => some (fadd f .rne false x y).1
  | some x, none => some x
  | none, y => y

/-- Node `i` of level `b` of the tree over slots. -/
def treeNode (f : Fmt) (leaf : Nat → Option Nat) : Nat → Nat → Option Nat
  | 0, i => leaf i
  | b + 1, i => treeAdd f (treeNode f leaf b (2 * i)) (treeNode f leaf b (2 * i + 1))

/-- The levels of a tree over `n` slots: the least `b` with n ≤ 2^b, at most 16. -/
def treeDepth (n : Nat) : Nat := ((List.range 17).find? (fun b => decide (n ≤ 2 ^ b))).getD 16

/-- One reduced element of `w` bytes, from the slots' bytes at its offset; poison in a slot poisons it. -/
def treeElem (w : Nat) (slots : List (List PByte)) (o : Nat) : List PByte :=
  let el (bs : List PByte) : List PByte := (bs.drop o).take w
  let v := treeNode (if w = 4 then f32 else bf16) (fun i => (slots[i]?).map (fun bs => bytesToNat ((el bs).map (fun b => b.val))))
    (treeDepth slots.length) 0
  let bad := slots.any (fun bs => (el bs).any (fun b => b.bad))
  (natToBytes (v.getD 0) w).map (fun x => { val := x, bad := bad })

/-- The staged addresses of the chunk at the tree's progress. -/
def Copy.slots (c : Copy) : List DWord := (List.range c.w1.toNat).map (fun i => c.src + dw (i * c.slotStep + c.progress))

/-- The length of a tree's chunk: no slot's piece and no destination piece crosses a 4 KiB boundary. -/
def Copy.treeChunk (c : Copy) : Nat :=
  (c.slots ++ [c.dst + dw c.progress]).foldl (fun n a => min n (4096 - a.toNat % 4096)) (c.rowb - c.progress)

/-- The bytes of `m` slots, `n` of each. -/
def slotBytes (n : Nat) : Nat → List PByte → List (List PByte)
  | 0, _ => []
  | m + 1, bs => bs.take n :: slotBytes n m (bs.drop n)

/-- Moves one chunk of a tree reduce, its slots checked first. -/
def moveTree (s : State) (c : Copy) (n : Nat) (srcs : List Side) (dst : Side) : State :=
  let w := if bitOf c.w0.toNat 32 then 2 else 4
  withPieces s c ((c.slots.zip srcs).flatMap (fun e => sidePieces s c e.1 n e.2)) (fun s c bs =>
    let data := (List.range (n / w)).flatMap (fun i => treeElem w (slotBytes n c.slots.length bs) (i * w))
    writeChunk s c (c.dst + dw c.progress) n data dst)

/-! ## The events of a copy -/

/-- Whether an access was made by a strand that a copy counts on, before the copy. -/
def Copy.behind (c : Copy) (o : Origin) (lane : Nat) : Bool :=
  o.sid == c.sid && o.ply == c.ply && decide (o.tag < c.seq) && c.lanes.any (fun l => l.1 == lane / 4)

/-- Whether a store of the group to some bytes is still on its way that the copy must see: a release of its strand follows it, and
comes before the copy (05 R99). -/
def awaitsStore (s : State) (c : Copy) (pa n : Nat) : Bool :=
  let rels := s.flight.flatMap (fun i => i.pending.filter (fun e => e.1.rel && e.2.kind != .unordered && c.behind e.1 e.2.lane))
  s.flight.any (fun i => i.stores && i.pending.any (fun e => c.behind e.1 e.2.lane && overlap e.2.pa e.2.size pa n &&
    rels.any (fun r => decide (e.1.tag < r.1.tag) && r.2.lane / 4 == e.2.lane / 4)))

/-- Whether a FENCE with CP holds a copy (13 R239). -/
def cpHeld (s : State) (c : Copy) : Bool := heldByFence s Fence.cp c.sid c.ply c.seq (c.lanes.map (fun l => l.1))

/-- Whether a copy has its place among the core's 128: a fired action or a restored copy that finds them taken waits for one to end
(05 R92). (DESIGN CHOICE, log entry 66.) -/
def hasPlace (s : State) (c : Copy) : Bool := ((coreCopies s c.core).take 128).any (fun x => x.seq == c.seq)

/-- Whether a copy may move: nothing before it is left, its skein is resident, it has a place, no FENCE holds it, and its partition
is not halted (14 R267). -/
def copyRuns (s : State) (c : Copy) : Bool :=
  let k := getSkein s c.sid
  c.fenced.all (fun q => !(s.copies.any (fun x => x.seq == q))) && k.place == .resident && hasPlace s c && !(cpHeld s c) &&
    !(getPart s k.part).halted

/-- Whether a side of a chunk is to be read while a store that it must see is on its way. -/
def sideAwaits (s : State) (c : Copy) (n : Nat) (side : Side) : Bool :=
  match side with
  | .inGlobal x => awaitsStore s c x.pa n
  | _ => false

/-- The engine of a core keeps the grants that a chunk was given (02 R48). -/
def keepSides (s : State) (c : Copy) (as : List (DWord × Side)) : State :=
  let k := getSkein s c.sid
  as.foldl (fun a e => match e.2 with
    | .inGlobal x => if x.tokened then keepGrant a (engineCache c.core) k.part (here a) (skeinAgent k) (skeinAsker a c.sid) k.ctx e.1.toNat else a
    | _ => a) s

/-- What a failing or held side makes of a chunk; none when both sides stand. A write that is held at a moving frame keeps its place,
`pin`. -/
def chunkStops (s : State) (c : Copy) (sides : List (Side × Nat)) (pin : Option (Nat × Nat)) : Option State :=
  match sides.find? (fun x => match x.1 with
    | .fails _ _ _ => true
    | .held => true
    | _ => false) with
  | some (.fails .page va en, kind) => some (pauseCopy s c va en kind)
  | some (.fails e va _, _) => some (stopCopy s c e (dw va))
  | some (_, 4) => some (setCopy s { c with pin := pin })
  | some _ => some s
  | none => none

/-- COPY_CHUNK (05 R101): one chunk is checked and moved; a chunk sent to another package counts once it is
acknowledged. (DESIGN CHOICE, log entry 34.) -/
def execCopyChunk (n : Nat) (s : State) : Host.Outcome State Fault Refusal :=
  .next (match s.copies[n]? with
    | none => s
    | some c =>
      if !(copyRuns s c) then s
      else
        match c.state with
        | .sent =>
          if c.progress + c.chunk = c.total || !(chunkAcked s c) then s
          else setCopy s { c with state := .running, progress := c.progress + c.chunk }
        | .running =>
          if c.total = 0 then
            if s.lostPkgs.contains (fieldOf c.dst.toNat 39 21) then stopCopy s c .prot c.dst else sendChunk s c c.dst []
          else if c.progress = c.total then s
          else
            match (if c.progress = 0 then copyOnField s c else none) with
            | some va => stopCopy s c .fstore (dw va)
            | none =>
              if c.kind = .tree then
                let m := c.treeChunk
                let srcs := c.slots.map (fun a => copySide s c a m false)
                let dst := copySide s c (c.dst + dw c.progress) m true
                if srcs.any (sideAwaits s c m) then s
                else
                  (chunkStops s c (srcs.map (fun x => (x, 3)) ++ [(dst, 4)]) (copyPin s c (c.dst + dw c.progress) m)).getD
                    (moveTree (keepSides s c (c.slots.zip srcs ++ [(c.dst + dw c.progress, dst)])) c m srcs dst)
              else
                let p := c.here_
                let src := copySide s c p.1 c.chunk false
                let dst := copySide s c p.2 c.chunk true
                if sideAwaits s c c.chunk src then s
                else (chunkStops s c [(src, 3), (dst, 4)] (copyPin s c p.2 c.chunk)).getD (moveChunk (keepSides s c [(p.1, src), (p.2, dst)]) c src dst)
        | _ => s)

/-- COPY_COMPLETE (05 R96): every destination byte is performed, and the last packet of a COPYP acknowledged. -/
def execCopyComplete (n : Nat) (s : State) : Host.Outcome State Fault Refusal :=
  .next (match s.copies[n]? with
    | none => s
    | some c =>
      match c.state, c.kind with
      | .sent, _ => if c.progress + c.chunk = c.total && chunkAcked s c then endCopy s c else s
      | .running, .copyp => s
      | .running, _ => if c.progress = c.total then endCopy s c else s
      | _, _ => s)

/-- The cause that a refusal's code names (05 R102). -/
def causeAt (n : Nat) : Cause :=
  match n with
  | 0x08 => .page
  | 0x0A => .token
  | 0x0B => .fstore
  | 0x13 => .isolate
  | _ => .prot

/-- The copy that a packet's tag belongs to, while it waits for the answer. -/
def copyOfTag (s : State) (tag : Nat) : Option Copy := s.copies.find? (fun c => c.seq == tag / 2 ^ 32 && c.state == .sent)

/-- FABRIC_REFUSAL (05 R102): remote ingress has refused a packet, and the copy stops. -/
def execFabricRefusal (tag cause addr : Nat) (s : State) : Host.Outcome State Fault Refusal :=
  .next (match copyOfTag s tag with
    | none => s
    | some c => stopCopy s c (causeAt cause) (dw addr))

/-- Adds to RETRYCNT of the I/O die that serves a core's die (01 R28, R29). -/
def countRetry (s : State) (core : Nat) : State :=
  let d := dieOf core / 2
  setIo s d { getIo s d with retryCnt := min ((getIo s d).retryCnt + 1) 0xFFFFFFFF }

/-- COPY_RESEND_ON_RETRY (01 R28): the packet goes again. -/
def execCopyResendOnRetry (tag : Nat) (s : State) : Host.Outcome State Fault Refusal :=
  .next (match copyOfTag s tag with
    | none => s
    | some c =>
      let again := s.fabricOut.find? (fun o => match o with
        | .packet _ p => p.tag == tag
        | _ => false)
      countRetry { s with fabricOut := s.fabricOut ++ again.toList } c.core)

end Sys2Proof.Machine
end

