-- ==== Sys2Proof/Machine/Coll.lean ====
section
/-! DEFINITION. Collectives (11 R200 to R211): binding and aborting a handle, COLL, the answers it waits for, and the
issue of a tree reduce. -/

namespace Sys2Proof.Machine

/-! ## Handles (11 R200, R201) -/

/-- The key of a collective-table entry. -/
def collKey (p id : Nat) : Nat := 64 * p + id

/-- Doubleword `i` of a bound descriptor. -/
def CollEntry.word (e : CollEntry) (i : Nat) : Nat := (e.words.getD i 0).toNat

/-- The entry of no launch. -/
def CollEntry.none : CollEntry := { launch := 0, words := [], attempt := 0, bind := 0 }

/-- WOFF. -/
def CollEntry.woff (e : CollEntry) : Nat := fieldOf (e.word 0) 0 39
/-- NRANKM1. -/
def CollEntry.nrankm1 (e : CollEntry) : Nat := fieldOf (e.word 1) 32 16
/-- WSIZE. -/
def CollEntry.wsize (e : CollEntry) : Nat := fieldOf (e.word 1) 0 32
/-- LIST. -/
def CollEntry.list (e : CollEntry) : Nat := e.word 2
/-- ORD. -/
def CollEntry.ord (e : CollEntry) : Bool := bitOf (e.word 4) 8
/-- ID. -/
def CollEntry.id (e : CollEntry) : Nat := fieldOf (e.word 4) 0 6

/-- The entry that a skein's launch has bound, with its number. -/
def boundColl (s : State) (k : Skein) : Option CollEntry :=
  match findLaunch s k.launch with
  | none => Option.none
  | some l => l.bound.bind (fun id =>
      (s.colls.find? (fun e => e.1 == collKey k.part id)).map (fun e => e.2))

/-- Whether a descriptor breaks 11 R200 (R203: zero fields, the window's end, RCORE). -/
def collBad (e : CollEntry) : Bool :=
  fieldOf (e.word 0) 39 25 != 0 || fieldOf (e.word 1) 48 16 != 0 || fieldOf (e.word 3) 16 48 != 0 || fieldOf (e.word 4) 32 32 != 0 ||
    fieldOf (e.word 4) 22 2 != 0 || fieldOf (e.word 4) 9 6 != 0 || fieldOf (e.word 4) 6 2 != 0 || e.word 5 != 0 || e.word 6 != 0 ||
    e.word 7 != 0 || decide (2 ^ 39 < e.woff + e.wsize) || decide (191 < fieldOf (e.word 4) 24 8)

/-- Whether the group has a COLL or a tree reduce under way that it issued under a binding (11 R204). -/
def colling (s : State) (bind : Nat) : Bool :=
  let mine (ls : List (Nat × BitVec 4)) : Bool := ls.any (fun l => (grp s).contains l.1)
  s.collWaits.any (fun c => c.sid == s.cur.sid && c.ply == s.cur.ply && c.bind == bind && mine c.lanes) ||
    s.copies.any (fun c => c.kind == .tree && c.sid == s.cur.sid && c.ply == s.cur.ply && c.bind == bind && mine c.lanes)

/-- Frees the entry that the issuing launch has bound (11 R204 step 2). -/
def unbind (s : State) : State :=
  match findLaunch s (curSkein s).launch with
  | none => s
  | some l =>
    let a := setLaunch s { l with bound := Option.none, handle := 0 }
    match l.bound with
    | none => a
    | some id => { a with colls := s.colls.filter (fun e => e.1 != collKey l.part id) }

/-- A bind, once no handle is bound (11 R203). (DESIGN CHOICE, log entry 27.) -/
def bindHandle (va : DWord) (s : State) : State :=
  if va.toNat % 64 ≠ 0 then trapAll s .misalign va
  else
    readGroup (dwordsAt va.toNat 8) 8 s (fun s bs =>
      let k := curSkein s
      let e : CollEntry := { launch := k.launch, words := bs.map (fun b => dw (pval b)), attempt := BitVec.ofNat 16 (pval (bs.getD 3 [])),
                             bind := s.seq }
      let taken := s.colls.any (fun x => x.1 == collKey k.part e.id && x.2.launch != k.launch && (findLaunch s x.2.launch).isSome)
      if collBad e || taken || (!e.ord && skeinDet s s.cur.sid) then trapAll s .prot va
      else
        let a := { s with seq := s.seq + 1, colls := Tbl.set CollEntry.none s.colls (collKey k.part e.id) e }
        retire (match findLaunch a k.launch with
          | some l => setLaunch a { l with bound := some e.id, handle := va }
          | none => a) 4)

/-- COLLH (11 R203, R204): W0 unbinds. -/
def execCollh (a : BitVec 5) (s : State) : Host.Outcome State Fault Refusal :=
  .next (uniEnter (.collh a) .user [] [] [a.toNat] [] s (fun s =>
    if (boundColl s (curSkein s)).any (fun e => colling s e.bind) then stall s .poll
    else
      let b := unbind s
      if a = 0 then retire b 4 else bindHandle (wReg b a.toNat) b))

/-- COLLH.ABORT (11 R205): the faults of the group's COLLs under this binding and the attempt it leaves are discarded. -/
def execCollhAbort (d : BitVec 5) (s : State) : Host.Outcome State Fault Refusal :=
  .next (uniEnter (.collhAbort d) .user [] [] [] [d.toNat] s (fun s =>
    let k := curSkein s
    match boundColl s k with
    | none => trapAll s .prot 0
    | some e =>
      if s.collWaits.any (fun c => c.sid == s.cur.sid && c.ply == s.cur.ply && c.bind == e.bind && c.attempt == e.attempt.toNat &&
          c.lanes.any (fun l => (grp s).contains l.1)) then stall s .poll
      else
        let b := mapStrands s s.cur.sid s.cur.ply (grp s) (fun _ t => { t with faults := t.faults.filter (fun f => f.att != some (e.bind, e.attempt)) })
        let e' := { e with attempt := e.attempt + 1 }
        let b := { b with colls := Tbl.set CollEntry.none b.colls (collKey k.part e.id) e' }
        retire (setWReg b d.toNat (e'.attempt.setWidth 64)) 4))

/-- COLLH.TREE (11 R211): it runs as a copy of the group. -/
def execCollhTree (d a b : BitVec 5) (c : BitVec 6) (e : BitVec 1) (s : State) : Host.Outcome State Fault Refusal :=
  .next (uniEnter (.collhTree d a b c e) .user [] [] [d.toNat, a.toNat, b.toNat] [] s (fun s =>
    let w := wReg s b.toNat
    let dst := wReg s d.toNat
    let src := wReg s a.toNat
    match boundColl s (curSkein s) with
    | none => trapAll s .prot (if fieldOf w.toNat 33 31 != 0 then w else 0)
    | some h =>
      if fieldOf w.toNat 33 31 ≠ 0 then trapAll s .prot w
      else if dst.toNat % 4 ≠ 0 then trapAll s .misalign dst
      else if src.toNat % 4 ≠ 0 then trapAll s .misalign src
      else if w.toNat % 4 ≠ 0 then trapAll s .misalign 0
      else if 2 ^ 57 ≤ src.toNat then trapAll s .prot src
      else if 2 ^ 57 ≤ dst.toNat then trapAll s .prot dst
      else if copyFull s then stall s .poll
      else retire (enterCopy (raiseCp s) { newCopy s .tree ((0 : BitVec 2) ++ e ++ c) dst src w (dw (h.nrankm1 + 1)) with bind := h.bind }) 4))

/-! ## COLL (11 R207 to R210) -/

/-- The bytes of an element. -/
def collSize (op : BitVec 2) : Nat := if op = 3 then 1 else 4

/-- The reduce that an operation performs, in the codes of 05 R100. -/
def collRed (op : BitVec 2) : Nat := if op = 1 then 1 else if op = 2 then 2 else 0

/-- The first check of 11 R208 that a lane fails. -/
def collFault (e : CollEntry) (op : BitVec 2) (rank off : Nat) : Option Cause :=
  if e.ord && (op == 1 || op == 2) then some .prot
  else if e.nrankm1 < rank then some .prot
  else if off % collSize op ≠ 0 then some .misalign
  else if e.wsize < off + collSize op then some .prot
  else none

/-- The lanes of the group with peer rank, offset and data. -/
def collLanes (s : State) (g : Guard) (d a b : BitVec 6) : List (Nat × Nat × Nat × Word) :=
  (grp s).flatMap (fun n =>
    let t := curStrand s n
    (lanesOf (t.active g)).map (fun j => (4 * n + j, (t.v a.toNat j).toNat, (t.v b.toNat j).toNat, t.v d.toNat j)))

/-- The strands with failing lanes trap: cause, EADDR and lane of each. -/
def collTrap (s : State) (bad : List (Nat × Cause × DWord)) : State :=
  trapGroup s (fun n =>
    match bad.filter (fun b => b.1 / 4 == n) with
    | [] => Option.none
    | b :: t =>
      let mine := b :: t
      let m := laneMask (fun j => mine.any (fun x => x.1 % 4 == j))
      some { mask := m, top := m, epc := (curStrand s n).pc, eaddr := b.2.2, first := b.2.1.code,
             causes := causesFrom (fun j => (mine.find? (fun x => x.1 % 4 == j)).map (fun x => x.2.1)) })

/-- Sends one packet to each distinct destination, in order of the lowest lane that names it (11 R209). -/
def sendColl (s : State) (g : Guard) (e : CollEntry) (op : BitVec 2) (ls : List (Nat × Nat × Nat × Word)) (pkgs : List Nat) : State :=
  let peers := pkgs.eraseDups
  let elems (q : Nat) : List CollElem :=
    ((ls.zip pkgs).filter (fun x => x.2 == q)).map (fun x => { off := e.woff + x.1.2.2.1, data := x.1.2.2.2, bad := false })
  let pkt (q : Nat) : FabricOut := .coll q
    { src := here s, spid := (getPart s (curSkein s).part).spid.toNat, tag := s.seq, id := e.id, attempt := e.attempt.toNat, op := op,
      elems := elems q }
  let lanes := (acting s g).map (fun n => (n, (curStrand s n).active g))
  let w : CollWait := { tag := s.seq, sid := s.cur.sid, ply := s.cur.ply, bind := e.bind, attempt := e.attempt.toNat, lanes := lanes,
                        peers := peers, seq := s.seq }
  let a := mapStrands s s.cur.sid s.cur.ply (acting s g) (fun _ t => { t with cp := t.cp + 1 })
  retire { a with fabricOut := a.fabricOut ++ peers.map pkt, collWaits := a.collWaits ++ [w], seq := a.seq + 1 } 4

/-- The member packages of some ranks, looked up as loads (11 R203); a member outside the system partition is PROT
(16 R291). (DESIGN CHOICE, log entry 27.) -/
def collLookup (e : CollEntry) (ls : List (Nat × Nat × Nat × Word)) (s : State) (k : State → List Nat → State) : State :=
  let sk := curSkein s
  let cs : List LaneChk := ls.map (fun l =>
    let va := e.list + 4 * l.2.1
    { lane := l.1, va := va, chk := checkVa s sk.core sk.part sk.ctx (curStrand s (l.1 / 4)).mode .load va 4 4 })
  accessLanes s .load 4 cs (fun _ => none) (fun s ok =>
    if ok.any (fun c => mustWait s c.2.1 4) then stall s .poll
    else
      let r := groupReads 4 (ok.map (fun c => (c.1.va, c.2.1))) s
      let pkgs := r.1.map pval
      let bad := (ls.zip pkgs).filter (fun x => decide (0x200000 ≤ x.2) || !(inPartition r.2 sk.part x.2))
      if bad.isEmpty then k r.2 pkgs
      else collTrap r.2 (bad.map (fun x => (x.1.1, .prot, dw (e.list + 4 * x.1.2.1)))))

/-- COLL (11 R207 to R210); a FENCE with CP holds it (13 R239). -/
def execColl (g : Guard) (d a b : BitVec 6) (o : BitVec 2) (s : State) : Host.Outcome State Fault Refusal :=
  let f : LaneForm := { instr := .coll g d a b o, guard := g, len := 4, mode := .user, blocks := [[d.toNat], [a.toNat], [b.toNat]],
                        src := [d.toNat, a.toNat, b.toNat], dst := [], base := none, far := .none }
  .next (laneEnter f s (fun s =>
    let ls := collLanes s g d a b
    if ls.isEmpty then retire s 4
    else if (acting s g).any (fun n => decide (63 ≤ (curStrand s n).cp)) || cpHolds s true false then stall s .poll
    else
      match boundColl s (curSkein s) with
      | none => collTrap s (ls.map (fun l => (l.1, .prot, 0)))
      | some e =>
        let bad := ls.filterMap (fun l => (collFault e o l.2.1 l.2.2.1).map (fun c => (l.1, c, dw (e.woff + l.2.2.1))))
        if !bad.isEmpty then collTrap s bad
        else collLookup e ls s (fun s pkgs => sendColl s g e o ls pkgs)))

/-- The fault that an answer leaves to be delivered (11 R210). -/
def answerFault (ans : CollAnswer) : Option (Cause × DWord) :=
  match ans with
  | .dropped => some (.collabort, 0)
  | .refused c a => some (causeAt c, dw a)
  | _ => none

/-- COLL_PACKET_ACK (11 R210): a destination has answered; with the last answer CP falls. (DESIGN CHOICE, log entry 34.) -/
def execCollPacketAck (tag package : Nat) (ans : CollAnswer) (s : State) : Host.Outcome State Fault Refusal :=
  .next (match s.collWaits.find? (fun c => c.tag == tag && c.peers.contains package) with
    | none => s
    | some c =>
      if ans = .retry then s
      else
        let a : State := match answerFault ans with
          | none => s
          | some f =>
            c.lanes.foldl (fun b l =>
              let key := strandKey c.sid c.ply l.1
              let t := getStrand b key
              if t.faults.any (fun x => x.seq == c.seq) then b
              else
                let p : PendFault := { seq := c.seq, cause := f.1, addr := f.2, mask := l.2, att := some (c.bind, BitVec.ofNat 16 c.attempt), record := [] }
                setStrand b key { t with faults := t.faults ++ [p] }) s
        let c' := { c with peers := c.peers.filter (fun q => q != package) }
        if c'.peers.isEmpty then lowerCp { a with collWaits := a.collWaits.filter (fun x => x.tag != tag) } c.sid c.ply c.lanes
        else { a with collWaits := a.collWaits.map (fun x => if x.tag = tag then c' else x) })

/-- COLL_RETRY_RESEND (11 R206): a packet refused with a retry status goes again, and RETRYCNT counts it (01 R28). -/
def execCollRetryResend (tag package : Nat) (s : State) : Host.Outcome State Fault Refusal :=
  .next (match s.collWaits.find? (fun c => c.tag == tag && c.peers.contains package) with
    | some w =>
      let again := s.fabricOut.find? (fun o => match o with
        | .coll q p => q == package && p.tag == tag
        | _ => false)
      countRetry { s with fabricOut := s.fabricOut ++ again.toList } (getSkein s w.sid).core
    | none => s)

end Sys2Proof.Machine
end

