-- ==== Sys2Proof/Machine/Fetch.lean ====
section
/-! DEFINITION. Instruction fetch (08 R135, R136 step 1): translation, the L1 instruction cache, and what a failed fetch
does to the issuing group. -/

namespace Sys2Proof.Machine

/-- One word fetched for a skein in a mode: its check, the word, and the state with what the core then caches. (DESIGN CHOICE, log entry 16.) -/
def fetchAt (s : State) (k : Skein) (m : Mode) (va : Nat) : Chk × Word × State :=
  match checkVa s k.core k.part k.ctx m .fetch va 4 4 with
  | .bad c e => (.bad c e, 0, s)
  | .ok x =>
    let a := fillTlb s k.core k.part k.ctx x
    match s.icache.find? (fun l => l.core == k.core && l.ctx == k.ctx && l.va == va) with
    | some l => (.ok x, l.word, a)
    | none =>
      let w := BitVec.ofNat 32 (readMem s x.pa 4)
      (.ok x, w, { a with icache := { core := k.core, ctx := k.ctx, va := va, word := w } :: a.icache })

/-- A failed fetch: in U mode a page fault saves the skein; otherwise every strand of the group traps (08 R136). -/
def fetchFail (s : State) (va : Nat) (c : Cause) (entry : Nat) : State :=
  match c, curMode s with
  | .page, .user => pageSave s ((grp s).headD 0) (curPc s) (BitVec.ofNat 64 va) entry Acc.fetch.kind
  | _, _ => trapAll s c (BitVec.ofNat 64 va)

/-- Fetches words for the issuing group, as the tables of BRT and CALLT are read (21 R357); `k` gets the words. -/
def withFetch (vas : List Nat) (s : State) (k : State → List Word → State) : State :=
  match vas with
  | [] => k s []
  | v :: t =>
    let r := fetchAt s (curSkein s) (curMode s) v
    match r.1 with
    | .bad c e => fetchFail r.2.2 v c e
    | .ok _ => withFetch t r.2.2 (fun a ws => k a (r.2.1 :: ws))

end Sys2Proof.Machine
end

