-- ==== Sys2Proof/Machine/Control.lean ====
section
/-! DEFINITION. Control flow (21 R352 to R359): branches, calls, the mask stack, table dispatch and return; and the
parting of a ply (12 R214). -/

namespace Sys2Proof.Machine

/-- The parts into which a group falls by its strands' PCs, each ascending, by lowest strand. -/
def byPc (s : State) (sid ply : Nat) (ns : List Nat) : List (List Nat) :=
  let pc n := (getStrand s (strandKey sid ply n)).pc
  (ns.map pc).eraseDups.map (fun a => ns.filter (fun n => pc n == a))

/-- The group splits where its strands have gone to different addresses (12 R214). -/
def regroup (s : State) : State :=
  let ps := byPc s s.cur.sid s.cur.ply (grp s)
  if ps.length ≤ 1 then s else splitPart s s.cur.sid s.cur.ply (grp s) ps

/-- Each strand of the group takes a new state with its own PC; time passes and the group parts. -/
def steer (s : State) (f : Nat → Strand → Strand) : State :=
  tick (regroup (mapStrands s s.cur.sid s.cur.ply (grp s) f))

/-- The entries of a stack that a push of this strand must leave free (14 R246). -/
def Strand.reserve (t : Strand) : Nat :=
  match t.mode with
  | .user => 3
  | .supervisor => 3 - t.edepth
  | .hypervisor => 0

/-- Whether the mask stack takes `m` more entries and the call stack `c` more (14 R246). -/
def Strand.room (t : Strand) (m c : Nat) : Bool :=
  (m == 0 || decide (t.masks.length + m + t.reserve ≤ 32)) && (c == 0 || decide (t.calls.length + c + t.reserve ≤ 16))

/-- An address that a signed word offset names (08 R148). -/
def target (pc : DWord) (off : BitVec 64) : DWord := pc + 4 * off

/-- The decision of a strand for a branch (08 R146), over the lanes of its top mask that are not dead. -/
def Strand.taken (t : Strand) (p : BitVec 3) (c : BitVec 2) : Bool :=
  let ls := lanesOf t.liveLanes
  match c.toNat with
  | 0 => true
  | 1 => ls.any (fun j => t.pred j p.toNat)
  | 2 => !ls.isEmpty && ls.all (fun j => t.pred j p.toNat)
  | _ => !(ls.any (fun j => t.pred j p.toNat))

/-- BR (21 R353). -/
def execBr (p : BitVec 3) (c : BitVec 2) (o : BitVec 19) (s : State) : Host.Outcome State Fault Refusal :=
  .next (uniEnter (.br p c o) .user [] [] [] [] s (fun s =>
    steer s (fun _ t => { t with wait := .none, pc := if t.taken p c then target t.pc (o.signExtend 64) else t.pc + 4 })))

/-- CALL (21 R353): a strand that takes it pushes the address behind. -/
def execCall (p : BitVec 3) (c : BitVec 2) (o : BitVec 19) (s : State) : Host.Outcome State Fault Refusal :=
  .next (uniEnter (.call p c o) .user [] [] [] [] s (fun s =>
    if (grp s).any (fun n => (curStrand s n).taken p c && !((curStrand s n).room 0 1)) then
      trapAll s .calldepth (instrWord (.call p c o))
    else
      steer s (fun _ t =>
        if t.taken p c then { t with wait := .none, calls := (t.pc + 4) :: t.calls, pc := target t.pc (o.signExtend 64) }
        else { t with wait := .none, pc := t.pc + 4 })))

/-- The lanes that a BRS keeps: active lanes whose predicate is true, or false for `.NONE` (21 R354). -/
def Strand.kept (t : Strand) (p : BitVec 3) (c : BitVec 1) : BitVec 4 :=
  laneMask (fun j => t.liveLanes.getLsbD j && (t.pred j p.toNat == (c == 0)))

/-- BRS (21 R354). -/
def execBrs (p : BitVec 3) (c : BitVec 1) (o : BitVec 19) (s : State) : Host.Outcome State Fault Refusal :=
  .next (uniEnter (.brs p c o) .user [] [] [] [] s (fun s =>
    if (grp s).any (fun n => (curStrand s n).kept p c != 0 && !((curStrand s n).room 1 0)) then
      trapAll s .calldepth (instrWord (.brs p c o))
    else
      steer s (fun _ t =>
        if t.kept p c = 0 then { t with wait := .none, pc := target t.pc (o.signExtend 64) }
        else { t with wait := .none, masks := (t.kept p c).setWidth 8 :: t.masks, pc := t.pc + 4 })))

/-- Whether a call entry is a switch entry, of a CALLT or of a BRT (21 R352). -/
def switchOf (c : DWord) (callt : Bool) : Bool := c.getLsbD 62 && (c.getLsbD 61 == callt)

/-- The address part of a call entry. -/
def callAddr (c : DWord) : DWord := c &&& 0x01FFFFFFFFFFFFFC

/-- The live lanes of a mask entry. -/
def Strand.liveOf (t : Strand) (m : BitVec 8) : BitVec 4 := m.extractLsb' 0 4 &&& ~~~ t.dead

/-- What a JOIN or RET does in a strand: it traps, goes on with an address, or goes to the join point of the switch at
an address. -/
inductive Turning where
  | bad
  | go (t : Strand)
  | join (t : Strand) (at_ : DWord)
  deriving DecidableEq, Repr

/-- A case of a switch has ended: the next case is dispatched, or the switch entry is popped on the way to the join
point (21 R355, R359). `ms` are the masks below the case's own, `c` the switch entry. -/
def endCase (t : Strand) (ms : List (BitVec 8)) (c : DWord) : Turning :=
  match ms with
  | [] => .bad
  | m :: rest =>
    if t.liveOf m != 0 then .go { t with masks := ms, pc := callAddr c, wait := .none }
    else .join { t with masks := rest, calls := t.calls.drop 1, wait := .none } (callAddr c)

/-- JOIN in one strand (21 R355). -/
def joinTurn (t : Strand) : Turning :=
  match t.masks with
  | top :: below :: rest =>
    if (top.extractLsb' 4 3 : BitVec 3) != 0 then .bad
    else if below.getLsbD 6 then
      match t.calls with
      | c :: _ => if switchOf c false then endCase t (below :: rest) c else .bad
      | [] => .bad
    else .go { t with masks := below :: rest, pc := t.pc + 4, wait := .none }
  | _ => .bad

/-- RET in one strand (21 R359). -/
def retTurn (t : Strand) : Turning :=
  match t.calls with
  | [] => .bad
  | c :: cs =>
    if (c.extractLsb' 0 2 : BitVec 2) != 0 || switchOf c false then .bad
    else if switchOf c true then
      match t.masks with
      | top :: below :: rest =>
        if (top.extractLsb' 4 3 : BitVec 3) != 0 || !(below.getLsbD 6) then .bad else endCase t (below :: rest) c
      | _ => .bad
    else .go { t with calls := cs, pc := callAddr c, wait := .none }

/-- The table of a BRT or CALLT word at an address (21 R357). -/
def tableOf (pc : DWord) (w : Word) : DWord := target pc ((w.extractLsb' 0 18).signExtend 64)

/-- Carries out a JOIN or RET over the group: every check first, then the join points are fetched (21 R355). -/
def runTurns (i : Instr) (f : Strand → Turning) (s : State) : State :=
  if (grp s).any (fun n => f (curStrand s n) == .bad) then trapAll s .illegal (instrWord i)
  else
    let js := (grp s).filterMap (fun n => match f (curStrand s n) with
      | .join _ a => some (n, a)
      | _ => none)
    withFetch (js.map (fun e => e.2.toNat)) s (fun s ws =>
      let ts := (js.zip ws).map (fun e => (e.1.1, tableOf e.1.2 e.2))
      withFetch (ts.map (fun e => (e.2 + 4).toNat)) s (fun s os =>
        steer s (fun n t => match f (curStrand s n) with
          | .go u => u
          | .join u _ =>
            match (ts.zip os).find? (fun e => e.1.1 == n) with
            | some e => { u with pc := target e.1.2 (e.2.signExtend 64) }
            | none => u
          | .bad => t)))

/-- JOIN (21 R355). -/
def execJoin (s : State) : Host.Outcome State Fault Refusal :=
  .next (uniEnter .join .user [] [] [] [] s (runTurns .join joinTurn))

/-- RET (21 R359). -/
def execRet (s : State) : Host.Outcome State Fault Refusal :=
  .next (uniEnter .ret .user [] [] [] [] s (runTurns .ret retTurn))

/-- The condition of UBR (08 R147). -/
def ubrCond (c : Nat) (x y : DWord) : Bool :=
  match c with
  | 0 => x == y
  | 1 => x != y
  | 2 => x.slt y
  | 3 => !(x.slt y)
  | 4 => x.ult y
  | _ => !(x.ult y)

/-- UBR (21 R356). -/
def execUbr (a b : BitVec 5) (c : BitVec 3) (o : BitVec 11) (s : State) : Host.Outcome State Fault Refusal :=
  .next (uniEnter (.ubr a b c o) .user [] [] [a.toNat, b.toNat] [] s (fun s =>
    let yes := ubrCond c.toNat (wReg s a.toNat) (wReg s b.toNat)
    steer s (fun _ t => { t with wait := .none, pc := if yes then target t.pc (o.signExtend 64) else t.pc + 4 })))

/-- Whether a strand comes back to its switch (21 R358). -/
def Strand.continues (t : Strand) (callt : Bool) : Bool :=
  match t.masks, t.calls with
  | m :: _, c :: _ => m.getLsbD 6 && switchOf c callt && callAddr c == t.pc
  | _, _ => false

/-- The index of a lane for a BRT or CALLT. -/
def Strand.index (t : Strand) (x : BitVec 6) (j : Nat) : Nat := (t.v x.toNat j).toNat

/-- The index of the case that a strand runs next: that of the lowest live lane. -/
def Strand.caseOf (t : Strand) (x : BitVec 6) : Option Nat := (lanesOf t.liveLanes).head?.map (t.index x)

/-- A strand enters its next case, whose target is `to` (21 R358). -/
def Strand.dispatch (t : Strand) (x : BitVec 6) (callt : Bool) (dst : DWord) : Strand :=
  let k := (t.caseOf x).getD 0
  let T := laneMask (fun j => t.liveLanes.getLsbD j && t.index x j == k)
  let rest : BitVec 8 := (t.liveLanes &&& ~~~ T).setWidth 8 ||| 0x40
  let entry : DWord := t.pc ||| 0x4000000000000000 ||| (if callt then 0x2000000000000000 else 0)
  let u := if t.continues callt then { t with masks := rest :: t.masks.drop 1 }
    else { t with masks := rest :: t.masks, calls := entry :: t.calls }
  { u with masks := T.setWidth 8 :: u.masks, pc := dst, wait := .none }

/-- A strand with no live lane goes to the join point, past a switch entry that has none left. -/
def Strand.skipSwitch (t : Strand) (callt : Bool) (join : DWord) : Strand :=
  let u := if t.continues callt then { t with masks := t.masks.drop 1, calls := t.calls.drop 1 } else t
  { u with pc := join, wait := .none }

/-- Whether a strand's stacks take the entries of its next case. -/
def Strand.roomForCase (t : Strand) (callt : Bool) : Bool :=
  if t.liveLanes = 0 then true else if t.continues callt then t.room 1 0 else t.room 2 1

/-- BRT and CALLT (21 R357, R358). -/
def tableJump (i : Instr) (x : BitVec 6) (off : BitVec 18) (callt : Bool) (s : State) : State :=
  uniEnter i .user [] [] [] [] s (fun s =>
    let nreg := (curSkein s).nreg
    if (grp s).any (fun n => !((curStrand s n).allowed nreg [x.toNat])) then trapAll s .regwin (instrWord i)
    else if (grp s).any (fun n => (curStrand s n).awaits [x.toNat] (curStrand s n).liveLanes) then stall s .poll
    else
      let lost n := (curStrand s n).lostLanes [x.toNat] (curStrand s n).liveLanes
      if (grp s).any (fun n => lost n != 0) then
        trapGroup s (fun n => let t := curStrand s n
          some (trapOf t.liveLanes .lostreply t.pc (dw (allocNumber nreg (t.place x.toNat)))))
      else
        let table := target (curPc s) (off.signExtend 64)
        withFetch [table.toNat] s (fun s w0 =>
          let count := (w0.headD 0).toNat
          let beyond n := laneMask (fun j => (curStrand s n).liveLanes.getLsbD j && decide (count ≤ (curStrand s n).index x j))
          if (count = 0 ∨ 65535 < count) ∧ (grp s).any (fun n => (curStrand s n).liveLanes != 0) then
            trapGroup s (fun n => if (curStrand s n).liveLanes = 0 then none
              else some (trapOf (curStrand s n).liveLanes .brtab (curStrand s n).pc table))
          else if (grp s).any (fun n => beyond n != 0) then
            trapGroup s (fun n => if beyond n = 0 then none else some (trapOf (beyond n) .brtab (curStrand s n).pc table))
          else if (grp s).any (fun n => !((curStrand s n).roomForCase callt)) then trapAll s .calldepth (instrWord i)
          else
            let ks := (grp s).map (fun n => (n, (curStrand s n).caseOf x))
            withFetch (ks.map (fun e => (table + 4 * dw (match e.2 with
              | some k => 2 + k
              | none => 1)).toNat)) s (fun s ws =>
                steer s (fun n t =>
                  match (ks.zip ws).find? (fun e => e.1.1 == n) with
                  | some e =>
                    let dst := target table (e.2.signExtend 64)
                    if t.liveLanes = 0 then t.skipSwitch callt dst else t.dispatch x callt dst
                  | none => t))))

/-- BRT (21 R357). -/
def execBrt (i : BitVec 6) (t : BitVec 18) (s : State) : Host.Outcome State Fault Refusal :=
  .next (tableJump (.brt i t) i t false s)

/-- CALLT (21 R357). -/
def execCallt (i : BitVec 6) (t : BitVec 18) (s : State) : Host.Outcome State Fault Refusal :=
  .next (tableJump (.callt i t) i t true s)

end Sys2Proof.Machine
end

