-- ==== Sys2Proof/Machine/Integer.lean ====
section
/-! DEFINITION. The lane integer, logic, compare and move instructions (18 R299 to R311, R315). Each operation is
written once, for one element of a lane; the extension word runs the same operation over its block. -/

namespace Sys2Proof.Machine

/-- Clamps to the signed range of `n` bits. -/
def clampInt (n : Nat) (x : Int) : Int := max (-(2 ^ (n - 1) : Nat)) (min ((2 ^ (n - 1) : Nat) - 1) x)

/-- Sat32 (17 R297): a clamp with SAT, else the wrap modulo 2^32. -/
def sat32 (sat : Bool) (x : Int) : Word := if sat then BitVec.ofInt 32 (clampInt 32 x) else BitVec.ofInt 32 x

/-- IADD (18 R300). -/
def aluIadd : Alu := fun sat _ d a b _ v _ => wr [(d, sat32 sat ((v a).toInt + (v b).toInt))]
/-- ISUB (18 R300). -/
def aluIsub : Alu := fun sat _ d a b _ v _ => wr [(d, sat32 sat ((v a).toInt - (v b).toInt))]
/-- IADDS (18 R300): always clamped. -/
def aluIadds : Alu := fun _ _ d a b _ v _ => wr [(d, sat32 true ((v a).toInt + (v b).toInt))]
/-- IMUL (18 R300). -/
def aluImul : Alu := fun sat _ d a b _ v _ => wr [(d, sat32 sat ((v a).toInt * (v b).toInt))]
/-- IMULHS (18 R300): bits 63 to 32 of the signed product. -/
def aluImulhs : Alu := fun _ _ d a b _ v _ => wr [(d, BitVec.ofInt 32 ((v a).toInt * (v b).toInt / 0x100000000))]
/-- IMULHU (18 R300): bits 63 to 32 of the unsigned product. -/
def aluImulhu : Alu := fun _ _ d a b _ v _ => wr [(d, BitVec.ofNat 32 ((v a).toNat * (v b).toNat / 0x100000000))]
/-- IMAD (18 R300). -/
def aluImad : Alu := fun sat _ d a b c v _ => wr [(d, sat32 sat ((v a).toInt * (v b).toInt + (v c).toInt))]
/-- IMINS (18 R301). -/
def aluImins : Alu := fun _ _ d a b _ v _ => wr [(d, if (v a).sle (v b) then v a else v b)]
/-- IMINU (18 R301). -/
def aluIminu : Alu := fun _ _ d a b _ v _ => wr [(d, if (v a).ule (v b) then v a else v b)]
/-- IMAXS (18 R301). -/
def aluImaxs : Alu := fun _ _ d a b _ v _ => wr [(d, if (v a).sle (v b) then v b else v a)]
/-- IMAXU (18 R301). -/
def aluImaxu : Alu := fun _ _ d a b _ v _ => wr [(d, if (v a).ule (v b) then v b else v a)]
/-- AND (18 R302). -/
def aluAnd : Alu := fun _ _ d a b _ v _ => wr [(d, v a &&& v b)]
/-- OR (18 R302). -/
def aluOr : Alu := fun _ _ d a b _ v _ => wr [(d, v a ||| v b)]
/-- XOR (18 R302). -/
def aluXor : Alu := fun _ _ d a b _ v _ => wr [(d, v a ^^^ v b)]
/-- ANDN (18 R302). -/
def aluAndn : Alu := fun _ _ d a b _ v _ => wr [(d, v a &&& ~~~ v b)]
/-- The shift amount of the register forms: bits 4 to 0 (18 R303). -/
def amount (w : Word) : Nat := w.toNat % 32
/-- SHL (18 R303). -/
def aluShl : Alu := fun _ _ d a b _ v _ => wr [(d, v a <<< amount (v b))]
/-- SHR (18 R303). -/
def aluShr : Alu := fun _ _ d a b _ v _ => wr [(d, v a >>> amount (v b))]
/-- SAR (18 R303). -/
def aluSar : Alu := fun _ _ d a b _ v _ => wr [(d, (v a).sshiftRight (amount (v b)))]
/-- The mask of a field of `len` bits (18 R304): len from 0 to 31. -/
def fieldMask (w : Word) : Word := BitVec.ofNat 32 (2 ^ (fieldOf w.toNat 8 5) - 1)
/-- BFX (18 R304). -/
def aluBfx : Alu := fun _ _ d a b _ v _ => wr [(d, (v a >>> amount (v b)) &&& fieldMask (v b))]
/-- BFI (18 R304): it reads D as well. -/
def aluBfi : Alu := fun _ _ d a b _ v _ =>
  let m := fieldMask (v b)
  let n := amount (v b)
  wr [(d, (v d &&& ~~~ (m <<< n)) ||| ((v a &&& m) <<< n))]
/-- The number of set bits among the lowest `n`. -/
def popCount (w : Word) : Nat → Nat
  | 0 => 0
  | n + 1 => popCount w n + (if w.getLsbD n then 1 else 0)
/-- The zeros above the highest set bit, looking down from bit `n - 1`. -/
def leadingZeros (w : Word) : Nat → Nat
  | 0 => 0
  | n + 1 => if w.getLsbD n then 0 else leadingZeros w n + 1
/-- POPC (18 R305). -/
def aluPopc : Alu := fun _ _ d a _ _ v _ => wr [(d, BitVec.ofNat 32 (popCount (v a) 32))]
/-- CLZ (18 R305). -/
def aluClz : Alu := fun _ _ d a _ _ v _ => wr [(d, BitVec.ofNat 32 (leadingZeros (v a) 32))]
/-- BREV (18 R305). -/
def aluBrev : Alu := fun _ _ d a _ _ v _ => wr [(d, (v a).reverse)]
/-- SEL (18 R309): `s` names one of P4 to P7. -/
def aluSel (s : Nat) : Alu := fun _ _ d a b _ v p => wr [(d, if p (4 + s) then v a else v b)]
/-- MOV (18 R310). -/
def aluMov : Alu := fun _ _ d a _ _ v _ => wr [(d, v a)]
/-- Byte `k` of a word. -/
def byteOf (w : Word) (k : Nat) : Byte := w.extractLsb' (8 * k) 8
/-- IDP4S (18 R315): D is the addend. -/
def aluIdp4s : Alu := fun _ _ d a b _ v _ =>
  wr [(d, BitVec.ofInt 32 ((v d).toInt + [0, 1, 2, 3].foldl (fun s k => s + (byteOf (v a) k).toInt * (byteOf (v b) k).toInt) 0))]
/-- IDP4U (18 R315). -/
def aluIdp4u : Alu := fun _ _ d a b _ v _ =>
  wr [(d, BitVec.ofNat 32 ((v d).toNat + [0, 1, 2, 3].foldl (fun s k => s + (byteOf (v a) k).toNat * (byteOf (v b) k).toNat) 0))]

/-- The six conditions of a compare (18 R306), from equality and order. -/
def condHolds (c : Nat) (eq lt : Bool) : Bool :=
  match c with
  | 0 => eq
  | 1 => !eq
  | 2 => lt
  | 3 => lt || eq
  | 4 => !(lt || eq)
  | _ => !lt

/-- A compare into predicate `q` (18 R306). -/
def aluCmp (q c : Nat) (signed : Bool) (y : (Nat → Word) → Nat → Word) : Alu := fun _ _ _ a b _ v _ =>
  let x := v a
  let z := y v b
  wp q (condHolds c (x == z) (if signed then x.slt z else x.ult z))

/-- The second operand of a compare of two registers. -/
def cmpReg (v : Nat → Word) (b : Nat) : Word := v b


/-- IADD (18 R300). -/
def execIadd (g : Guard) (d a b : BitVec 6) (h : BitVec 2) (s : State) : Host.Outcome State Fault Refusal :=
  .next (alu (.iadd g d a b h) g 4 Ext.plain { d := 1, a := 1, b := 1, c := 0 } d.toNat a.toNat b.toNat aluIadd s)

/-- ISUB (18 R300). -/
def execIsub (g : Guard) (d a b : BitVec 6) (h : BitVec 2) (s : State) : Host.Outcome State Fault Refusal :=
  .next (alu (.isub g d a b h) g 4 Ext.plain { d := 1, a := 1, b := 1, c := 0 } d.toNat a.toNat b.toNat aluIsub s)

/-- IADDS (18 R300). -/
def execIadds (g : Guard) (d a b : BitVec 6) (h : BitVec 2) (s : State) : Host.Outcome State Fault Refusal :=
  .next (alu (.iadds g d a b h) g 4 Ext.plain { d := 1, a := 1, b := 1, c := 0 } d.toNat a.toNat b.toNat aluIadds s)

/-- IMUL (18 R300). -/
def execImul (g : Guard) (d a b : BitVec 6) (h : BitVec 2) (s : State) : Host.Outcome State Fault Refusal :=
  .next (alu (.imul g d a b h) g 4 Ext.plain { d := 1, a := 1, b := 1, c := 0 } d.toNat a.toNat b.toNat aluImul s)

/-- IMULHS (18 R300). -/
def execImulhs (g : Guard) (d a b : BitVec 6) (h : BitVec 2) (s : State) : Host.Outcome State Fault Refusal :=
  .next (alu (.imulhs g d a b h) g 4 Ext.plain { d := 1, a := 1, b := 1, c := 0 } d.toNat a.toNat b.toNat aluImulhs s)

/-- IMULHU (18 R300). -/
def execImulhu (g : Guard) (d a b : BitVec 6) (h : BitVec 2) (s : State) : Host.Outcome State Fault Refusal :=
  .next (alu (.imulhu g d a b h) g 4 Ext.plain { d := 1, a := 1, b := 1, c := 0 } d.toNat a.toNat b.toNat aluImulhu s)

/-- IMAD (18 R300). -/
def execImad (g : Guard) (d a b : BitVec 6) (h : BitVec 2) (s : State) : Host.Outcome State Fault Refusal :=
  .next (alu (.imad g d a b h) g 4 Ext.plain { d := 1, a := 1, b := 1, c := 1 } d.toNat a.toNat b.toNat aluImad s)

/-- IMINS (18 R301). -/
def execImins (g : Guard) (d a b : BitVec 6) (h : BitVec 2) (s : State) : Host.Outcome State Fault Refusal :=
  .next (alu (.imins g d a b h) g 4 Ext.plain { d := 1, a := 1, b := 1, c := 0 } d.toNat a.toNat b.toNat aluImins s)

/-- IMINU (18 R301). -/
def execIminu (g : Guard) (d a b : BitVec 6) (h : BitVec 2) (s : State) : Host.Outcome State Fault Refusal :=
  .next (alu (.iminu g d a b h) g 4 Ext.plain { d := 1, a := 1, b := 1, c := 0 } d.toNat a.toNat b.toNat aluIminu s)

/-- IMAXS (18 R301). -/
def execImaxs (g : Guard) (d a b : BitVec 6) (h : BitVec 2) (s : State) : Host.Outcome State Fault Refusal :=
  .next (alu (.imaxs g d a b h) g 4 Ext.plain { d := 1, a := 1, b := 1, c := 0 } d.toNat a.toNat b.toNat aluImaxs s)

/-- IMAXU (18 R301). -/
def execImaxu (g : Guard) (d a b : BitVec 6) (h : BitVec 2) (s : State) : Host.Outcome State Fault Refusal :=
  .next (alu (.imaxu g d a b h) g 4 Ext.plain { d := 1, a := 1, b := 1, c := 0 } d.toNat a.toNat b.toNat aluImaxu s)

/-- AND (18 R302). -/
def execAnd (g : Guard) (d a b : BitVec 6) (h : BitVec 2) (s : State) : Host.Outcome State Fault Refusal :=
  .next (alu (.and g d a b h) g 4 Ext.plain { d := 1, a := 1, b := 1, c := 0 } d.toNat a.toNat b.toNat aluAnd s)

/-- OR (18 R302). -/
def execOr (g : Guard) (d a b : BitVec 6) (h : BitVec 2) (s : State) : Host.Outcome State Fault Refusal :=
  .next (alu (.or g d a b h) g 4 Ext.plain { d := 1, a := 1, b := 1, c := 0 } d.toNat a.toNat b.toNat aluOr s)

/-- XOR (18 R302). -/
def execXor (g : Guard) (d a b : BitVec 6) (h : BitVec 2) (s : State) : Host.Outcome State Fault Refusal :=
  .next (alu (.xor g d a b h) g 4 Ext.plain { d := 1, a := 1, b := 1, c := 0 } d.toNat a.toNat b.toNat aluXor s)

/-- ANDN (18 R302). -/
def execAndn (g : Guard) (d a b : BitVec 6) (h : BitVec 2) (s : State) : Host.Outcome State Fault Refusal :=
  .next (alu (.andn g d a b h) g 4 Ext.plain { d := 1, a := 1, b := 1, c := 0 } d.toNat a.toNat b.toNat aluAndn s)

/-- SHL (18 R303). -/
def execShl (g : Guard) (d a b : BitVec 6) (h : BitVec 2) (s : State) : Host.Outcome State Fault Refusal :=
  .next (alu (.shl g d a b h) g 4 Ext.plain { d := 1, a := 1, b := 1, c := 0 } d.toNat a.toNat b.toNat aluShl s)

/-- SHR (18 R303). -/
def execShr (g : Guard) (d a b : BitVec 6) (h : BitVec 2) (s : State) : Host.Outcome State Fault Refusal :=
  .next (alu (.shr g d a b h) g 4 Ext.plain { d := 1, a := 1, b := 1, c := 0 } d.toNat a.toNat b.toNat aluShr s)

/-- SAR (18 R303). -/
def execSar (g : Guard) (d a b : BitVec 6) (h : BitVec 2) (s : State) : Host.Outcome State Fault Refusal :=
  .next (alu (.sar g d a b h) g 4 Ext.plain { d := 1, a := 1, b := 1, c := 0 } d.toNat a.toNat b.toNat aluSar s)

/-- BFX (18 R304). -/
def execBfx (g : Guard) (d a b : BitVec 6) (h : BitVec 2) (s : State) : Host.Outcome State Fault Refusal :=
  .next (alu (.bfx g d a b h) g 4 Ext.plain { d := 1, a := 1, b := 1, c := 0 } d.toNat a.toNat b.toNat aluBfx s)

/-- BFI (18 R304). -/
def execBfi (g : Guard) (d a b : BitVec 6) (h : BitVec 2) (s : State) : Host.Outcome State Fault Refusal :=
  .next (alu (.bfi g d a b h) g 4 Ext.plain { d := 1, a := 1, b := 1, c := 1 } d.toNat a.toNat b.toNat aluBfi s)

/-- IDP4S (18 R315). -/
def execIdp4s (g : Guard) (d a b : BitVec 6) (h : BitVec 2) (s : State) : Host.Outcome State Fault Refusal :=
  .next (alu (.idp4s g d a b h) g 4 Ext.plain { d := 1, a := 1, b := 1, c := 1 } d.toNat a.toNat b.toNat aluIdp4s s)

/-- IDP4U (18 R315). -/
def execIdp4u (g : Guard) (d a b : BitVec 6) (h : BitVec 2) (s : State) : Host.Outcome State Fault Refusal :=
  .next (alu (.idp4u g d a b h) g 4 Ext.plain { d := 1, a := 1, b := 1, c := 1 } d.toNat a.toNat b.toNat aluIdp4u s)

/-- POPC (18 R305). -/
def execPopc (g : Guard) (d a : BitVec 6) (h : BitVec 1) (s : State) : Host.Outcome State Fault Refusal :=
  .next (alu (.popc g d a h) g 4 Ext.plain { d := 1, a := 1, b := 0, c := 0 } d.toNat a.toNat 0 aluPopc s)

/-- CLZ (18 R305). -/
def execClz (g : Guard) (d a : BitVec 6) (h : BitVec 1) (s : State) : Host.Outcome State Fault Refusal :=
  .next (alu (.clz g d a h) g 4 Ext.plain { d := 1, a := 1, b := 0, c := 0 } d.toNat a.toNat 0 aluClz s)

/-- BREV (18 R305). -/
def execBrev (g : Guard) (d a : BitVec 6) (h : BitVec 1) (s : State) : Host.Outcome State Fault Refusal :=
  .next (alu (.brev g d a h) g 4 Ext.plain { d := 1, a := 1, b := 0, c := 0 } d.toNat a.toNat 0 aluBrev s)

/-- MOV (18 R310). -/
def execMov (g : Guard) (d a : BitVec 6) (h : BitVec 1) (s : State) : Host.Outcome State Fault Refusal :=
  .next (alu (.mov g d a h) g 4 Ext.plain { d := 1, a := 1, b := 0, c := 0 } d.toNat a.toNat 0 aluMov s)

/-- SEL (18 R309). -/
def execSel (g : Guard) (d a b : BitVec 6) (sl : BitVec 2) (s : State) : Host.Outcome State Fault Refusal :=
  .next (alu (.sel g d a b sl) g 4 Ext.plain { d := 1, a := 1, b := 1, c := 0 } d.toNat a.toNat b.toNat (aluSel sl.toNat) s)

/-- An operation of S1 and an immediate. -/
def aluImm (f : Word → Word) : Alu := fun _ _ d a _ _ v _ => wr [(d, f (v a))]

/-- IADDI (18 R300). -/
def execIaddi (g : Guard) (d a : BitVec 6) (i : BitVec 8) (s : State) : Host.Outcome State Fault Refusal :=
  .next (alu (.iaddi g d a i) g 4 Ext.plain { d := 1, a := 1, b := 0, c := 0 } d.toNat a.toNat 0 (aluImm (fun x => x + i.signExtend 32)) s)

/-- ANDI (18 R302). -/
def execAndi (g : Guard) (d a : BitVec 6) (i : BitVec 8) (s : State) : Host.Outcome State Fault Refusal :=
  .next (alu (.andi g d a i) g 4 Ext.plain { d := 1, a := 1, b := 0, c := 0 } d.toNat a.toNat 0 (aluImm (fun x => x &&& i.setWidth 32)) s)

/-- ORI (18 R302). -/
def execOri (g : Guard) (d a : BitVec 6) (i : BitVec 8) (s : State) : Host.Outcome State Fault Refusal :=
  .next (alu (.ori g d a i) g 4 Ext.plain { d := 1, a := 1, b := 0, c := 0 } d.toNat a.toNat 0 (aluImm (fun x => x ||| i.setWidth 32)) s)

/-- XORI (18 R302). -/
def execXori (g : Guard) (d a : BitVec 6) (i : BitVec 8) (s : State) : Host.Outcome State Fault Refusal :=
  .next (alu (.xori g d a i) g 4 Ext.plain { d := 1, a := 1, b := 0, c := 0 } d.toNat a.toNat 0 (aluImm (fun x => x ^^^ i.setWidth 32)) s)

/-- SHLI (18 R303). -/
def execShli (g : Guard) (d a : BitVec 6) (i : BitVec 5) (s : State) : Host.Outcome State Fault Refusal :=
  .next (alu (.shli g d a i) g 4 Ext.plain { d := 1, a := 1, b := 0, c := 0 } d.toNat a.toNat 0 (aluImm (fun x => x <<< i.toNat)) s)

/-- SHRI (18 R303). -/
def execShri (g : Guard) (d a : BitVec 6) (i : BitVec 5) (s : State) : Host.Outcome State Fault Refusal :=
  .next (alu (.shri g d a i) g 4 Ext.plain { d := 1, a := 1, b := 0, c := 0 } d.toNat a.toNat 0 (aluImm (fun x => x >>> i.toNat)) s)

/-- SARI (18 R303). -/
def execSari (g : Guard) (d a : BitVec 6) (i : BitVec 5) (s : State) : Host.Outcome State Fault Refusal :=
  .next (alu (.sari g d a i) g 4 Ext.plain { d := 1, a := 1, b := 0, c := 0 } d.toNat a.toNat 0 (aluImm (fun x => x.sshiftRight i.toNat)) s)

/-- ICMPS (18 R306). -/
def execIcmps (g : Guard) (q c : BitVec 3) (a b : BitVec 6) (h : BitVec 2) (s : State) : Host.Outcome State Fault Refusal :=
  .next (alu (.icmps g q c a b h) g 4 Ext.plain { d := 0, a := 1, b := 1, c := 0 } 0 a.toNat b.toNat (aluCmp q.toNat c.toNat true cmpReg) s)

/-- ICMPU (18 R306). -/
def execIcmpu (g : Guard) (q c : BitVec 3) (a b : BitVec 6) (h : BitVec 2) (s : State) : Host.Outcome State Fault Refusal :=
  .next (alu (.icmpu g q c a b h) g 4 Ext.plain { d := 0, a := 1, b := 1, c := 0 } 0 a.toNat b.toNat (aluCmp q.toNat c.toNat false cmpReg) s)

/-- ICMPSI (18 R306). -/
def execIcmpsi (g : Guard) (q c : BitVec 3) (a : BitVec 6) (i : BitVec 8) (s : State) : Host.Outcome State Fault Refusal :=
  .next (alu (.icmpsi g q c a i) g 4 Ext.plain { d := 0, a := 1, b := 0, c := 0 } 0 a.toNat 0
    (aluCmp q.toNat c.toNat true (fun _ _ => i.signExtend 32)) s)

/-- MOVI (18 R310). -/
def execMovi (g : Guard) (d : BitVec 6) (i : BitVec 14) (s : State) : Host.Outcome State Fault Refusal :=
  .next (alu (.movi g d i) g 4 Ext.plain { d := 1, a := 0, b := 0, c := 0 } d.toNat 0 0 (fun _ _ d _ _ _ _ _ => wr [(d, i.signExtend 32)]) s)

/-- MOVHI (18 R310): bits 17 to 0 of D are kept. -/
def execMovhi (g : Guard) (d : BitVec 6) (i : BitVec 14) (s : State) : Host.Outcome State Fault Refusal :=
  .next (alu (.movhi g d i) g 4 Ext.plain { d := 1, a := 0, b := 0, c := 1 } d.toNat 0 0
    (fun _ _ d _ _ _ v _ => wr [(d, i ++ (v d).extractLsb' 0 18)]) s)

/-- PLOG (18 R307). -/
def execPlog (g : Guard) (q x y : BitVec 3) (t : BitVec 4) (s : State) : Host.Outcome State Fault Refusal :=
  .next (alu (.plog g q x y t) g 4 Ext.plain { d := 0, a := 0, b := 0, c := 0 } 0 0 0
    (fun _ _ _ _ _ _ _ p => wp q.toNat (t.getLsbD (2 * (p x.toNat).toNat + (p y.toNat).toNat))) s)

/-- PMOV.PACK (18 R308): bit 0 is set, since P0 reads true. -/
def execPmovPack (g : Guard) (d : BitVec 6) (s : State) : Host.Outcome State Fault Refusal :=
  .next (alu (.pmovPack g d) g 4 Ext.plain { d := 1, a := 0, b := 0, c := 0 } d.toNat 0 0
    (fun _ _ d _ _ _ _ p => wr [(d, BitVec.ofNat 32 ((List.range 8).foldl (fun n k => n + (if p k then 2 ^ k else 0)) 0))]) s)

/-- PMOV.UNPACK (18 R308): P1 to P7 take bits 1 to 7. -/
def execPmovUnpack (g : Guard) (a : BitVec 6) (h : BitVec 1) (s : State) : Host.Outcome State Fault Refusal :=
  .next (alu (.pmovUnpack g a h) g 4 Ext.plain { d := 0, a := 1, b := 0, c := 0 } 0 a.toNat 0
    (fun _ _ _ a _ _ v _ => ⟨[], [1, 2, 3, 4, 5, 6, 7].map (fun k => (k, (v a).getLsbD k)), 0⟩) s)

end Sys2Proof.Machine
end

