-- ==== Sys2Proof/Machine/CrossLane.lean ====
section
/-! DEFINITION. The cross-lane instructions and indirect register access (19 R317, R329 to R334; 09 R175). -/

namespace Sys2Proof.Machine

/-- The form of a word of this chapter that reads its sources in its own lanes. -/
def crossForm (i : Instr) (g : Guard) (d a b : Option (BitVec 6)) : LaneForm :=
  let r (x : Option (BitVec 6)) : List Nat := (x.map BitVec.toNat).toList
  { instr := i, guard := g, len := 4, mode := .user, blocks := [r d, r a, r b], src := r a ++ r b, dst := r d,
    base := none, far := .none }

/-- A cross-lane word: each active lane, by its number in the ply, writes what `op` gives from the state as it stood. -/
def cross (f : LaneForm) (op : State → Nat → LaneOut) (s : State) : State :=
  laneEnter f s (fun s =>
    retire (mapStrands s s.cur.sid s.cur.ply (grp s) (fun n t =>
      t.lanewise (t.active f.guard) (fun j => op s (4 * n + j)))) f.len)

/-- What lane `l` supplies to a permute: its V`v`, or zero. -/
def supplied (s : State) (v l : Nat) : Word := if supplies s l then (curStrand s (l / 4)).v v (l % 4) else 0

/-- Whether lane `l` of the ply is active in the group under a guard. -/
def laneOn (s : State) (g : Guard) (l : Nat) : Bool :=
  (grp s).contains (l / 4) && ((curStrand s (l / 4)).active g).getLsbD (l % 4)

/-- SHFL (19 R329). -/
def execShfl (g : Guard) (d a b : BitVec 6) (h : BitVec 2) (s : State) : Host.Outcome State Fault Refusal :=
  .next (cross { crossForm (.shfl g d a b h) g (some d) (some a) (some b) with src := [b.toNat], far := .shfl a.toNat b.toNat } (fun s l =>
    let j := ((curStrand s (l / 4)).v b.toNat (l % 4)).toNat
    wr [(d.toNat, if j < 32 then supplied s a.toNat j else 0)]) s)

/-- SHFLI (19 R329). -/
def execShfli (g : Guard) (d a : BitVec 6) (i : BitVec 8) (s : State) : Host.Outcome State Fault Refusal :=
  .next (cross { crossForm (.shfli g d a i) g (some d) (some a) none with src := [], far := .shfli a.toNat i.toInt } (fun s l =>
    let j : Int := l + i.toInt
    wr [(d.toNat, if 0 ≤ j ∧ j < 32 then supplied s a.toNat j.toNat else 0)]) s)

/-- VOTE's value from the active lanes `on` and those of them that vote `yes` (19 R330). -/
def voteValue (op : Nat) (on yes : List Nat) : Word :=
  match op with
  | 0 => BitVec.ofNat 32 (yes.foldl (fun x l => x + 2 ^ l) 0)
  | 1 => if yes.isEmpty then 0 else 1
  | 2 => if yes.length = on.length then 1 else 0
  | _ => BitVec.ofNat 32 yes.length

/-- VOTE (19 R330). -/
def execVote (g : Guard) (d : BitVec 6) (q : BitVec 3) (o : BitVec 8) (s : State) : Host.Outcome State Fault Refusal :=
  .next (cross (crossForm (.vote g d q o) g (some d) none none) (fun s _ =>
    let on := (List.range 32).filter (laneOn s g)
    wr [(d.toNat, voteValue o.toNat on (on.filter (fun l => (curStrand s (l / 4)).pred (l % 4) q.toNat)))]) s)

/-- The node operation of LRED and LSCAN, with the flags it raises (19 R331). -/
def redNode (op : Nat) (a b : Word) : Word × BitVec 6 :=
  let f (x : Nat × BitVec 6) : Word × BitVec 6 := (BitVec.ofNat 32 x.1, x.2)
  match op with
  | 0 => (a + b, 0)
  | 1 => f (fadd f32 .rne false a.toNat b.toNat)
  | 2 => (if a.sle b then a else b, 0)
  | 3 => (if a.sle b then b else a, 0)
  | 4 => (if a.ule b then a else b, 0)
  | 5 => (if a.ule b then b else a, 0)
  | 6 => (a &&& b, 0)
  | 7 => (a ||| b, 0)
  | 8 => (a ^^^ b, 0)
  | 9 => f (fminmax f32 false a.toNat b.toNat)
  | _ => f (fminmax f32 true a.toNat b.toNat)

/-- The identity of each operation (19 R331). -/
def redIdentity (op : Nat) : Word :=
  match op with
  | 2 => 0x7FFFFFFF
  | 3 => 0x80000000
  | 4 => 0xFFFFFFFF
  | 6 => 0xFFFFFFFF
  | 9 => 0x7F800000
  | 10 => 0xFF800000
  | _ => 0

/-- A node of the tree: its value, if any lane contributes, and the flags of the nodes below and at it. -/
abbrev RedVal := Option Word × BitVec 6

/-- Combines two nodes; an empty one contributes nothing (09 R175). -/
def redCombine (op : Nat) (x y : RedVal) : RedVal :=
  match x.1, y.1 with
  | some a, some b => let z := redNode op a b; (some z.1, x.2 ||| y.2 ||| z.2)
  | some a, none => (some a, x.2 ||| y.2)
  | none, b => (b, x.2 ||| y.2)

/-- Node `i` of level `b` of the fixed tree over the lanes (09 R175). -/
def redTree (op : Nat) (leaf : Nat → Option Word) : Nat → Nat → RedVal
  | 0, i => (leaf i, 0)
  | b + 1, i => redCombine op (redTree op leaf b (2 * i)) (redTree op leaf b (2 * i + 1))

/-- The combination of the maximal aligned nodes that cover `n` lanes from `pos` on, left to right (09 R175). (DEDUCED, log entry 21.) -/
def redScan (op : Nat) (leaf : Nat → Option Word) : Nat → Nat → Nat → RedVal → RedVal
  | 0, _, _, acc => acc
  | b + 1, pos, n, acc =>
    if n.testBit b then
      redScan op leaf b (pos + 2 ^ b) n (redCombine op acc (redTree op leaf b (pos / 2 ^ b)))
    else redScan op leaf b pos n acc

/-- What a lane contributes to a reduction: V`a` when it is active. -/
def contributes (s : State) (g : Guard) (a l : Nat) : Option Word :=
  if laneOn s g l then some ((curStrand s (l / 4)).v a (l % 4)) else none

/-- A reduction or scan over V`a`: `val` gives each active lane its combination of nodes; the flags raised at any node of
the tree, or in a combination that an active lane is given, go to every strand of the group that has an active lane (19
R332). (DEDUCED, log entry 21.) -/
def reduce (f : LaneForm) (d a op : Nat) (val : State → Nat → RedVal) (s : State) : State :=
  laneEnter f s (fun s =>
    let fl := ((List.range 32).filter (laneOn s f.guard)).foldl (fun x l => x ||| (val s l).2)
      (redTree op (contributes s f.guard a) 5 0).2
    retire (mapStrands s s.cur.sid s.cur.ply (grp s) (fun n t =>
      t.lanewise (t.active f.guard) (fun j => wrf d (((val s (4 * n + j)).1).getD (redIdentity op)) fl))) f.len)

/-- LRED (19 R332). -/
def execLred (g : Guard) (d a : BitVec 6) (o : BitVec 4) (s : State) : Host.Outcome State Fault Refusal :=
  .next (reduce (crossForm (.lred g d a o) g (some d) (some a) none) d.toNat a.toNat o.toNat
    (fun s _ => redTree o.toNat (contributes s g a.toNat) 5 0) s)

/-- LSCAN (19 R332): with EXCL the cover ends before the lane. -/
def execLscan (g : Guard) (d a : BitVec 6) (e : BitVec 1) (o : BitVec 4) (s : State) :
    Host.Outcome State Fault Refusal :=
  .next (reduce (crossForm (.lscan g d a e o) g (some d) (some a) none) d.toNat a.toNat o.toNat
    (fun s l => redScan o.toNat (contributes s g a.toNat) 6 0 (if e = 1 then l else l + 1) (none, 0)) s)

/-- LPREV (19 R333): lane 0 takes the last lane of the ply's width from S2. -/
def execLprev (g : Guard) (d a b : BitVec 6) (h : BitVec 2) (s : State) : Host.Outcome State Fault Refusal :=
  .next (cross { crossForm (.lprev g d a b h) g (some d) (some a) (some b) with src := [], far := .lprev a.toNat b.toNat } (fun s l =>
    wr [(d.toNat, if l = 0 then supplied s b.toNat (4 * (curSkein s).strands - 1) else supplied s a.toNat (l - 1))]) s)

/-- The active lanes whose index reaches past the allocation (07 R122). -/
def badIndex (s : State) (g : Guard) (a n : Nat) : BitVec 4 :=
  let t := curStrand s n
  laneMask (fun j => (t.active g).getLsbD j && decide ((curSkein s).nreg - t.vwb ≤ (t.v a j).toNat))

/-- RDI and WRI up to their effect: the wait for every reply of the strand, then the index check of each active lane
before any lane is performed (19 R334). -/
def indirect (f : LaneForm) (a : Nat) (s : State) (k : State → State) : State :=
  laneEnter f s (fun s =>
    if (acting s f.guard).any (fun n => !(curStrand s n).replies.isEmpty) then stall s .poll
    else if (grp s).any (fun n => badIndex s f.guard a n != 0) then
      trapGroup s (fun n =>
        if badIndex s f.guard a n = 0 then none
        else some (trapOf (badIndex s f.guard a n) .regwin (curStrand s n).pc (instrWord f.instr)))
    else k s)

/-- The allocation register that lane `j` of a strand names by its index (07 R122). -/
def indexed (t : Strand) (a j : Nat) : Bool × Nat := (false, t.vwb + (t.v a j).toNat)

/-- The lanes whose indexed register is marked lost (14 R258). -/
def lostIndex (s : State) (g : Guard) (a n : Nat) : BitVec 4 :=
  let t := curStrand s n
  laneMask (fun j => (t.active g).getLsbD j && t.lost.contains (false, (indexed t a j).2, j))

/-- RDI (19 R334). -/
def execRdi (g : Guard) (d a : BitVec 6) (h : BitVec 1) (s : State) : Host.Outcome State Fault Refusal :=
  let f : LaneForm := crossForm (.rdi g d a h) g (some d) (some a) none
  .next (indirect f a.toNat s (fun s =>
    if (grp s).any (fun n => lostIndex s g a.toNat n != 0) then
      trapGroup s (fun n =>
        let m := lostIndex s g a.toNat n
        let t := curStrand s n
        if m = 0 then none
        else some (trapOf m .lostreply t.pc (BitVec.ofNat 64 (indexed t a.toNat ((lanesOf m).headD 0)).2)))
    else
      retire (mapStrands s s.cur.sid s.cur.ply (grp s) (fun _ t =>
        t.lanewise (t.active g) (fun j => wr [(d.toNat, t.reg (indexed t a.toNat j) j)]))) 4))

/-- WRI (19 R334). -/
def execWri (g : Guard) (a b : BitVec 6) (h : BitVec 2) (s : State) : Host.Outcome State Fault Refusal :=
  let f : LaneForm := (crossForm (.wri g a b h) g none (some a) (some b))
  .next (indirect f a.toNat s (fun s =>
    retire (mapStrands s s.cur.sid s.cur.ply (grp s) (fun _ t =>
      (lanesOf (t.active g)).foldl (fun u j => u.setReg (indexed t a.toNat j) j (t.v b.toNat j)) t)) 4))

end Sys2Proof.Machine
end

