-- ==== Sys2Proof/Machine/Image.lean ====
section
/-! DEFINITION. Where a skein's save image lies and how its parts follow each other (07 R133, R134), and reads and writes
in a context that carry no token check (14 R256). -/

namespace Sys2Proof.Machine

/-- Rounds up to a multiple. -/
def alignUp (n a : Nat) : Nat := (n + a - 1) / a * a

/-- The offset of the local store in an image. -/
def imageLs (k : Skein) : Nat := 0x3000 + k.tiles * 0x1000 + k.accs * 0x4000

/-- The offset of the full/empty bits. -/
def imageFull (k : Skein) : Nat := imageLs k + alignUp k.lsSize 64

/-- The offset of the strand images. -/
def imageStrands (k : Skein) : Nat := imageFull k + alignUp (k.lsSize / 128) 64

/-- The size of one strand image with its registers. -/
def strandSize (k : Skein) : Nat := 0x800 + 16 * (k.nreg + 16)

/-- The offset of a strand image. -/
def imageStrand (k : Skein) (ply n : Nat) : Nat := imageStrands k + (ply * k.strands + n) * strandSize k

/-- The image size (07 R133). -/
def imageSize (k : Skein) : Nat := alignUp (imageStrands k + k.plies * k.strands * strandSize k) 0x1000

/-- The save-area base of a launch record (12 R219). -/
def Launch.saveBase (l : Launch) : Nat := fieldOf (l.word 7) 12 45 * 0x1000

/-- The VA of a skein's image (07 R133). -/
def imageVa (s : State) (k : Skein) : Nat :=
  ((findLaunch s k.launch).map Launch.saveBase).getD 0 + k.index * imageSize k

/-- The VA of the checkpoint image of a skein of a deterministic launch (15 R277). -/
def checkpointVa (s : State) (k : Skein) : Nat :=
  match findLaunch s k.launch with
  | none => 0
  | some l => l.saveBase + (l.total + k.index) * imageSize k

/-- The physical address of a byte of a context, through the tables alone; none where no plain memory is mapped. -/
def ctxPa (s : State) (p ctx va : Nat) (write : Bool) : Option Nat :=
  if 2 ^ 57 ≤ va then none
  else
    match walk s p ctx va with
    | .ok x => if x.tier || inTier s x.pa || x.ctl || (write && (x.fld || !x.rw)) then none else some x.pa
    | .bad _ _ => none

/-- Reads doublewords of a context at a multiple of 8. (DESIGN CHOICE, log entry 27.) -/
def ctxRead (s : State) (p ctx : Nat) : Nat → Nat → Option (List DWord)
  | _, 0 => some []
  | va, n + 1 =>
    match ctxPa s p ctx va false, ctxRead s p ctx (va + 8) n with
    | some pa, some t => some (dw (readMem s pa 8) :: t)
    | _, _ => none

/-- Writes doublewords of a context at a multiple of 8, at their homes: a field frame takes none (03 R63). -/
def ctxWrite (p ctx : Nat) : Nat → List DWord → State → Option State
  | _, [], s => some s
  | va, w :: t, s =>
    match ctxPa s p ctx va true with
    | some pa => ctxWrite p ctx (va + 8) t (homePut s pa (clean (natToBytes w.toNat 8)))
    | none => none

/-- Writes doublewords of a skein's context as far as they are mapped. -/
def imagePatch (s : State) (k : Skein) (off : Nat) (ws : List DWord) : State :=
  (ctxWrite k.part k.ctx (imageVa s k + off) ws s).getD s

/-- Writes bytes at an offset of a saved skein's image. -/
def imagePut (s : State) (k : Skein) (off : Nat) (bs : List PByte) : State :=
  match ctxPa s k.part k.ctx (imageVa s k + off) true with
  | some pa => homePut s pa bs
  | none => s

/-- Reads a doubleword of a saved skein's image. -/
def imageGet (s : State) (k : Skein) (off : Nat) : Nat :=
  match ctxPa s k.part k.ctx (imageVa s k + off) false with
  | some pa => readMem s pa 8
  | none => 0

/-- The word of a transfer entry in an image (07 R134). -/
def xferWord (x : XferEntry) : DWord :=
  let two (j : Nat) : Nat := if !(x.failed.getLsbD j) then 0 else if (x.causes >>> (8 * j)).toNat % 256 = 0x09 then 2 else 1
  dw (2 ^ 63 + x.awaiting.toNat + x.failed.toNat * 16 + (two 0 + two 1 * 4 + two 2 * 16 + two 3 * 64) * 256)

/-- The transfer entries of a strand image: 64 of two doublewords. -/
def xferWords (xs : List XferEntry) : List DWord :=
  (List.range 64).flatMap (fun i => match xs[i]? with
    | some x => [x.addr, xferWord x]
    | none => [0, 0])

/-- The word of a reply entry in an image (07 R134). -/
def replyWord (nreg : Nat) (r : Reply) : DWord :=
  dw (2 ^ 63 + (match r.count with
      | 1 => 0
      | 2 => 1
      | _ => 2) * 2 ^ 61 + (if r.lost then 2 ^ 60 else 0) + r.lanes.toNat * 2 ^ 48 +
    allocNumber nreg (r.sup, r.reg) % 2 ^ 11 * 2 ^ 32 + r.tag % 2 ^ 32)

/-- The reply entries of a strand image: 64 doublewords. -/
def replyWords (nreg : Nat) (rs : List Reply) : List DWord :=
  (List.range 64).map (fun i => match rs[i]? with
    | some r => replyWord nreg r
    | none => 0)

end Sys2Proof.Machine
end

