-- ==== Sys2Proof/Machine/Field.lean ====
section
/-! DEFINITION. Field memory (03 R58 to R78): domains and their cells, transfers with their debit, credit, refund and
acknowledgement, reads of cells, and the declaration, totals and retirement of a domain (20 R348). -/

namespace Sys2Proof.Machine

/-! ## Domains and cells -/

/-- The partition here of a system partition (16 R291). -/
def partOfSpid (s : State) (spid : Nat) : Option Nat :=
  (List.range 8).find? (fun p => (getPart s p).present && (getPart s p).spid.toNat == spid)

/-- The system partition of a partition here. -/
def spidOf (s : State) (p : Nat) : Nat := (getPart s p).spid.toNat

/-- The core number that stands for a transfer asked for by another package, whose identifier is then in `sid`, with the
partition here in `ply`. -/
def remoteCore : Nat := 192

/-- The physical address of a cell that lives here; none when it is unreachable (03 R63). What another package names is translated
again, as in U mode (11 R197). -/
def cellPa (s : State) (d : Domain) (outside : Bool) (c : Nat) : Option Nat :=
  match walk s d.part d.ctx (d.cellVa c) with
  | .ok x => if x.fld && !x.tier && !(inTier s x.pa) && (x.user || !outside) then some x.pa else none
  | .bad _ _ => none

/-- The physical address of a cell here in the frame that the declaration marked. -/
def framePa (d : Domain) (c : Nat) : Option Nat :=
  (d.frames.find? (fun e => e.1 == d.cellVa c / 0x10000)).map (fun e => e.2 * 0x10000 + d.cellVa c % 0x10000)

/-- The value of a cell, as a signed number. -/
def cellVal (s : State) (d : Domain) (pa : Nat) : Int :=
  if d.wide then (BitVec.ofNat 64 (readMem s pa 8)).toInt else (BitVec.ofNat 32 (readMem s pa 4)).toInt

/-- Writes a cell. -/
def putCell (s : State) (d : Domain) (pa : Nat) (v : Int) : State :=
  writeMem s pa (clean (natToBytes ((BitVec.ofInt 64 v).toNat) d.cellBytes))

/-- Max(w). -/
def Domain.top (d : Domain) : Int := if d.wide then 2 ^ 63 - 1 else 2 ^ 31 - 1

/-- Min(w). -/
def Domain.low (d : Domain) : Int := if d.wide then -(2 ^ 63) else -(2 ^ 31)

/-- Out(c): the amounts of the transit records that leave a cell (03 R71). -/
def outOf (s : State) (d : Domain) (c : Nat) : Int :=
  ((s.transits.filter (fun t => t.dom == d.key && t.record.fromCell == c)).map (fun t => (t.record.amount : Int))).foldl (· + ·) 0

/-- Whether a block that a cell lies in is lost (03 R77). -/
def Domain.lostCell (d : Domain) (c : Nat) : Bool := d.lostBlocks.contains (c / 2 ^ d.blk)

/-! ## Debits and credits (03 R71 to R74) -/

/-- The debit's outcome: the amount to move, or a cause. -/
inductive Debit where
  | move (m : Nat)
  | fail (c : Cause)
  deriving DecidableEq, Repr

/-- The credit's check of a cell that is no source (03 R71). -/
def creditFits (s : State) (d : Domain) (c m pa : Nat) : Bool :=
  d.sinks.contains c || decide (cellVal s d pa + m ≤ d.top - outOf s d c)

/-- The debit's checks, and with `both` the credit's too (03 R71). -/
def debitCheck (s : State) (d : Domain) (x : XferLane) (fromPa : Nat) (toPa : Option Nat) (both : Bool) : Debit :=
  let v := cellVal s d fromPa
  let r : Debit :=
    if d.sources.contains x.fromCell then .move x.mag
    else if d.sinks.contains x.fromCell || (!d.signed && decide (v < x.mag)) then
      if x.clip then .move (if d.sinks.contains x.fromCell then 0 else v.toNat) else .fail .fneg
    else if d.signed && decide (v - x.mag < d.low) then .fail .fovf
    else .move x.mag
  match r with
  | .fail c => .fail c
  | .move m =>
    if d.sources.contains x.toCell then .fail .fovf
    else if both then
      match toPa with
      | none => .fail .prot
      | some pa => if creditFits s d x.toCell m pa then .move m else .fail .fovf
    else .move m

/-- Takes an amount from a cell: a source gives without limit (03 R66). -/
def debitCell (s : State) (d : Domain) (c m pa : Nat) : State :=
  if d.sources.contains c then setDomain s { d with injected := d.injected + BitVec.ofNat 128 m }
  else putCell s d pa (cellVal s d pa - m)

/-- Gives an amount to a cell: a sink takes without limit. -/
def creditCell (s : State) (key c m pa : Nat) : State :=
  match findDomain s key with
  | none => s
  | some d =>
    if d.sinks.contains c then setDomain s { d with removed := d.removed + BitVec.ofNat 128 m }
    else putCell s d pa (cellVal s d pa + m)

/-- Gives a refused amount back to its cell, in the frame that holds it, whatever its page maps now (03 R74 step 3). -/
def refundCell (s : State) (key c m : Nat) : State :=
  match findDomain s key with
  | none => s
  | some d =>
    if d.sources.contains c then setDomain s { d with injected := d.injected - BitVec.ofNat 128 m }
    else
      match framePa d c with
      | some pa => putCell s d pa (cellVal s d pa + m)
      | none => s

/-! ## What the issuing strand learns -/

/-- A strand by itself traps: it leaves its part and forms one of its own (14 R245). -/
def trapOne (s : State) (sid ply n : Nat) (i : TrapInfo) : State :=
  let ps := partsOf (getSkein s sid) ply
  let a := setParts s sid ply (ps.map (fun p => p.filter (fun x => x != n)) ++ [[n]])
  let a := if s.cur.sid = sid ∧ s.cur.ply = ply then { a with cur := { a.cur with strands := s.cur.strands.filter (fun x => x != n) } } else a
  trapEntry a (strandKey sid ply n) i

/-- The cause of a lane joined to ECAUSE. -/
def addCause (w : Word) (j c : Nat) : Word := w ||| (BitVec.ofNat 32 c <<< (8 * j))

/-- A transfer entry with lane `j` decided at the debit: 0 moved and settled, else moved, or the cause. -/
def XferEntry.decide (e : XferEntry) (j : Nat) (settled : Bool) (c : Option Cause) : XferEntry :=
  let m := laneMask (fun i => i == j)
  let e := { e with undecided := e.undecided &&& ~~~ m }
  match c with
  | some c => { e with awaiting := e.awaiting &&& ~~~ m, sync := e.sync ||| m, syncCauses := addCause e.syncCauses j c.code }
  | none => if settled then { e with awaiting := e.awaiting &&& ~~~ m } else e

/-- Transfer entries with nothing left. -/
def XferEntry.isOver (e : XferEntry) : Bool := e.undecided == 0 && e.awaiting == 0 && e.failed == 0

/-- The strand goes on behind its XFER: the lanes that failed at their debits are forgotten, and entries with nothing left go. -/
def Strand.endDebits (t : Strand) (tag : Nat) : Strand :=
  { t with wait := if t.wait = .debit then .none else t.wait,
           xfers := (t.xfers.map (fun e => if e.tag = tag then { e with sync := 0, syncCauses := 0 } else e)).filter (fun e => !e.isOver) }

/-- The trap of a strand with lanes that failed at their debits (03 R72). -/
def Strand.debitTrap (t : Strand) (tag : Nat) : Option TrapInfo :=
  (t.xfers.find? (fun e => e.tag == tag && e.sync != 0)).bind (fun e =>
    if t.alive then some { mask := e.sync, causes := e.syncCauses, top := e.sync, epc := t.pc, eaddr := e.addr, first := 0 } else none)

/-- Once every debit of an XFER is decided, its group goes on, and strands with lanes that failed trap (03 R72). -/
def finishDebits (s : State) (o : Origin) (n : Nat) : State :=
  let key (m : Nat) : Nat := strandKey o.sid o.ply m
  let ns := ((partsOf (getSkein s o.sid) o.ply).find? (fun p => p.contains n)).getD [n]
  if ns.any (fun m => (getStrand s (key m)).xfers.any (fun e => e.tag == o.tag && e.undecided != 0)) then s
  else
    ns.foldl (fun a m => match (getStrand s (key m)).debitTrap o.tag with
        | some i => trapOne a o.sid o.ply m i
        | none => a)
      (mapStrands s o.sid o.ply ns (fun _ t => t.endDebits o.tag))

/-- The debit of a lane is decided (03 R71, R72): a CLIP writes what moved, with the sign of the amount. -/
def decideLane (s : State) (x : XferLane) (wide : Bool) (r : Debit) (settled : Bool) : State :=
  let n := x.lane / 4
  let j := x.lane % 4
  let key := strandKey x.org.sid x.org.ply n
  let t := getStrand s key
  let t := match r with
    | .move m =>
      if x.clip then
        let v := BitVec.ofInt 64 (if x.neg then -(m : Int) else m)
        let u := t.setReg (x.destSup, x.dest) j (v.setWidth 32)
        if wide then u.setReg (x.destSup, x.dest + 1) j (v.extractLsb' 32 32) else u
      else t
    | .fail _ => t
  let c := match r with
    | .move _ => none
    | .fail c => some c
  finishDebits (setStrand s key { t with xfers := t.xfers.map (fun e => if e.tag = x.org.tag then e.decide j settled c else e) }) x.org n

/-- A lane's credit is acknowledged (cause 0) or refunded: the strand's entry, the image of a saved skein, or the other
package that issued it (03 R74, R76, 07 R134). -/
def settleLane (s : State) (o : Origin) (lane cause : Nat) : State :=
  if o.core = remoteCore then
    let p : FabPkt := { src := here s, spid := spidOf s o.ply, tag := o.tag, off := 0, body := .fieldSettled cause }
    { s with fabricOut := s.fabricOut ++ [FabricOut.packet o.sid p] }
  else
    let key := strandKey o.sid o.ply (lane / 4)
    let t := getStrand s key
    let m := laneMask (fun i => i == lane % 4)
    let xs := t.xfers.map (fun e =>
      if e.tag = o.tag then
        let e := { e with awaiting := e.awaiting &&& ~~~ m }
        if cause = 0 then e else { e with failed := e.failed ||| m, causes := addCause e.causes (lane % 4) cause }
      else e)
    let k := getSkein s o.sid
    if k.place = .saved then
      imagePatch (setStrand s key { t with xfers := xs }) k (imageStrand k o.ply (lane / 4) + 0x380) (xferWords xs)
    else setStrand s key { t with xfers := xs.filter (fun e => !e.isOver) }

/-! ## The events of a transfer -/

/-- The home of a cell here, or none. -/
def cellHome (s : State) (d : Domain) (c : Nat) : Option Nat := if d.owner c = here s then (cellPa s d false c).map (homeOf s) else none

/-- The number of the next record from a home to a package (03 R76, R77); a record within one package has none. -/
def nextSeq (s : State) (home pkg : Nat) : Nat := Tbl.get 0 s.seqs (home * 0x200000 + pkg) + 1

/-- Debits a lane at its home and sends its credit on its way (03 R74 step 1). -/
def sendCredit (s : State) (d : Domain) (x : XferLane) (m home fromPa : Nat) : State :=
  let dst := d.owner x.toCell
  let far := dst != here s
  let seq := if far then nextSeq s home dst else 0
  let r : FieldRec := { seq := seq, amount := m, toCell := x.toCell, fromCell := x.fromCell, slot := d.slot, package := dst,
                        lane := x.lane, tag := x.org.tag % 2 ^ 24 }
  let a := debitCell s d x.fromCell m fromPa
  let a := { a with transits := a.transits ++ [({ home := home, dom := d.key, record := r, org := x.org, sent := far, own := true, mirror := true } : Transit)] }
  if far then
    { a with seqs := Tbl.set 0 a.seqs (home * 0x200000 + dst) seq,
             fabricOut := a.fabricOut ++ [FabricOut.packet dst
               { src := here s, spid := spidOf s d.part, tag := x.org.tag * 32 + x.lane, off := 0,
                 body := .fieldCredit home r }] }
  else { a with flight := a.flight ++ [Item.credit d.key home r x.org] }

/-- The debit of a lane at its home on this package: decided, with its outcome for the issuer (03 R71 to R74); one that names a cell of a
lost block fails (03 R77). (DEDUCED, log entry 32.) -/
def debitHere (s : State) (d : Domain) (x : XferLane) : Debit × Bool × State :=
  if d.lostCell x.fromCell || d.lostCell x.toCell then (.fail .prot, true, s)
  else match cellPa s d (x.org.core == remoteCore) x.fromCell with
  | none => (.fail .prot, true, s)
  | some pa =>
    let home := homeOf s pa
    let toPa := if d.owner x.toCell = here s then cellPa s d false x.toCell else none
    let both := (toPa.map (homeOf s)) == some home
    match debitCheck s d x pa toPa both with
    | .fail c => (.fail c, true, s)
    | .move m =>
      if both then (.move m, true, creditCell (debitCell s d x.fromCell m pa) d.key x.toCell m (toPa.getD 0))
      else (.move m, false, sendCredit s d x m home pa)

/-- Whether a home's transit area is full (03 R75). (DEDUCED, log entry 32.) -/
def homeFull (s : State) (d : Domain) (x : XferLane) : Bool :=
  match cellHome s d x.fromCell with
  | none => false
  | some h => decide (4096 ≤ (s.transits.filter (fun t => t.home == h)).length)

/-- Whether the debits of two lanes may share a home: both at one home here, or both on one other package. -/
def sameDebit (s : State) (d : Domain) (x y : XferLane) : Bool :=
  d.owner x.fromCell == d.owner y.fromCell && cellHome s d x.fromCell == cellHome s d y.fromCell

/-- Whether no earlier lane of the same XFER has its debit at the same home still to come: those of one XFER are applied in
ascending lane order, and on another package one is asked for at a time (03 R71). -/
def debitFirst (s : State) (n : Nat) (d : Domain) (x : XferLane) : Bool :=
  (s.flight.take n).all (fun i => match i with
    | .debit y => !(y.org.sid == x.org.sid && y.org.ply == x.org.ply && y.org.tag == x.org.tag && decide (y.stage < 2) && sameDebit s d x y)
    | _ => true)

/-- Whether a FENCE with XF holds a transfer (13 R239). -/
def xfHeld (s : State) (x : XferLane) : Bool := heldByFence s Fence.xf x.org.sid x.org.ply x.org.tag [x.lane / 4]

/-- Sends a field message to a package. -/
def tell (s : State) (dst part tag : Nat) (b : FabBody) : State :=
  { s with fabricOut := s.fabricOut ++ [FabricOut.packet dst { src := here s, spid := spidOf s part, tag := tag, off := 0, body := b }] }

/-- What a debit asked for by another package is answered, and once more when it is asked for again (11 R196). -/
def Debit.answers (r : Debit) (settled : Bool) : List FabBody :=
  match r with
  | .fail c => [.fieldMoved 0 c.code]
  | .move m => .fieldMoved m 0 :: (if settled then [.fieldSettled 0] else [])

/-- What a credit home does with a record: it credits, or refuses with a cause (03 R74 step 2). (DEDUCED, log entry 32.) -/
def creditHere (s : State) (key : Nat) (outside : Bool) (r : FieldRec) : Nat × State :=
  match findDomain s key with
  | none => (Cause.prot.code, s)
  | some d =>
    match cellPa s d outside r.toCell with
    | none => (Cause.prot.code, s)
    | some pa => if creditFits s d r.toCell r.amount pa then (0, creditCell s key r.toCell r.amount pa) else (Cause.fovf.code, s)

/-- XFER_CREDIT (03 R74 step 2): a credit within the package. -/
def execXferCredit (n : Nat) (s : State) : Host.Outcome State Fault Refusal :=
  .next (match s.flight[n]? with
    | some (.credit dom home r o) =>
      let x := creditHere s dom false r
      replaceItem x.2 n [if x.1 = 0 then .creditAck dom home r o else .creditRefuse dom home r o x.1]
    | _ => s)

/-- The record that an answer names. -/
def dropTransit (s : State) (dom home : Nat) (r : FieldRec) (o : Origin) : State :=
  match s.transits.find? (fun t => t.dom == dom && t.home == home && t.record == r && t.org == o) with
  | some t => { s with transits := s.transits.erase t }
  | none => s

/-- Changes the doubleword of DECL and SLOT of a descriptor at its home; the line of it leaves the L1 of a core (03 R61, R64). -/
def putDecl (s : State) (core : Nat) (d : Domain) (f : Nat → Nat) : State :=
  match ctxPa s d.part d.ctx (d.handle.toNat + 0x28) true with
  | some pa =>
    let a := leaveL1 s core pa
    homePut a pa (clean (natToBytes (f (readMem a pa 8)) 8))
  | none => s

/-- A waiting group goes on behind its instruction, with a value in W[D]. -/
def wake (s : State) (w : Nat × Nat × List Nat × Nat) (v : DWord) : State :=
  let k := getSkein s w.1
  mapStrands (setSkein s w.1 (k.setW w.2.1 w.2.2.2 v)) w.1 w.2.1 w.2.2.1 (fun _ t =>
    if t.wait = .acks then { t with wait := .none, pc := t.pc + 4 } else t)

/-- A waiting group traps at its instruction, or issues it again. -/
def wakeBack (s : State) (w : Nat × Nat × List Nat × Nat) (again : Bool) (eaddr : DWord) : State :=
  let a := mapStrands s w.1 w.2.1 w.2.2.1 (fun _ t => if t.wait = .acks then { t with wait := .none } else t)
  if again then a
  else w.2.2.1.foldl (fun b n =>
    let t := getStrand b (strandKey w.1 w.2.1 n)
    if t.alive then trapOne b w.1 w.2.1 n (trapOf t.liveLanes .prot t.pc eaddr) else b) a

/-- The frames of a domain here are marked no longer. -/
def unmark (s : State) (d : Domain) : State :=
  { s with fieldFrames := s.fieldFrames.filter (fun e => e.2 != d.key + 1) }

/-- A domain is here no longer. -/
def dropDomain (s : State) (d : Domain) : State :=
  let a := unmark s d
  { a with domains := a.domains.filter (fun x => x.key != d.key) }

/-- The core that a domain's waiting group runs on. -/
def Domain.waiterCore (s : State) (d : Domain) : Nat :=
  match d.waiter with
  | some w => (getSkein s w.1).core
  | none => 0

/-- Whether a domain has transit records here, or debits under way. -/
def hasTransits (s : State) (key : Nat) : Bool :=
  s.transits.any (fun t => t.dom == key) || s.flight.any (fun i => match i with
    | .debit x => x.dom == key
    | _ => false)

/-- Sends a message about a domain to packages. -/
def announce (s : State) (dst : List Nat) (m : DomainMsg) : State := { s with fabricOut := s.fabricOut ++ dst.map (fun q => .domain q m) }

/-- A declaration is complete: SLOT and DECL are written, and the group goes on (03 R61). -/
def finishDeclare (s : State) (d : Domain) : State :=
  let a := putDecl (setDomain s { d with stage := .declared, waiter := none }) (d.waiterCore s) d (fun _ => 2 ^ 63 + d.slot)
  let a := { a with slotsAway := a.slotsAway.filter (fun e => !(e.1 == d.part && e.2.1 == d.handle)) }
  match d.waiter with
  | some w => wake a w (dw d.slot)
  | none => a

/-- A declaration that a package has refused is undone: the group traps PROT, or issues it again where the slot was taken. -/
def finishUndo (s : State) (d : Domain) : State :=
  let again := d.refusal == some true
  let a := dropDomain s d
  let mine := a.slotsAway.filter (fun e => e.1 == d.part && e.2.1 == d.handle)
  let rest := a.slotsAway.filter (fun e => !(e.1 == d.part && e.2.1 == d.handle))
  let a := { a with slotsAway := if again then rest ++ mine ++ [(d.part, d.handle, d.slot)] else rest }
  match d.waiter with
  | some w => wakeBack a w again d.handle
  | none => a

/-- A retirement is complete: the domain is here no longer, and where a group waits here or the descriptor is, DECL is cleared, and the
group goes on (03 R64). -/
def finishRetire (s : State) (d : Domain) : State :=
  let a := dropDomain s d
  let a := if d.declarer = here s ∨ d.waiter.isSome then putDecl a (d.waiterCore s) d (fun w => w % 2 ^ 63) else a
  match d.waiter with
  | some w => wake a w (dw d.slot)
  | none => a

/-- The cell whose home is the total home (03 R62). -/
def Domain.totalCell (d : Domain) : Nat := (d.sources ++ d.sinks).headD 0

/-- Whether a domain's total home is lost: it can then only be retired (03 R77). -/
def Domain.totalLost (d : Domain) : Bool := d.lostCell d.totalCell

/-- The declaring package goes on with a domain once every package asked has answered, and a copy acknowledges once nothing of the
domain is on its way here (03 R61, R64, 20 R348). (DEDUCED, log entry 32.) -/
def domainStep (s : State) (key : Nat) : State :=
  match findDomain s key with
  | none => s
  | some d =>
    if d.declarer != here s then
      match d.stage with
      | .draining =>
        if hasTransits s key then s
        else if s.lostPkgs.contains d.declarer then finishRetire s d
        else announce (setDomain s { d with stage := .releasing }) [d.declarer] (.acked (spidOf s d.part) d.slot (here s) 2 0)
      | _ => s
    else if !d.awaiting.isEmpty then s
    else
      let spid := spidOf s d.part
      match d.stage with
      | .asking =>
        match d.refusal with
        | some _ =>
          if d.agreed.isEmpty then finishUndo s d
          else announce (setDomain s { d with stage := .undoing, awaiting := d.agreed }) d.agreed (.release (here s) spid d.slot)
        | none =>
          if d.agreed.isEmpty then finishDeclare s d
          else announce (setDomain s { d with stage := .telling, awaiting := d.agreed }) d.agreed (.total (here s) spid d.slot d.initial.toNat)
      | .agreed => s
      | .telling => finishDeclare s d
      | .declared => s
      | .undoing => finishUndo s d
      | .draining =>
        if hasTransits s key then s
        else if d.agreed.isEmpty then finishRetire s d
        else announce (setDomain s { d with stage := .releasing, awaiting := d.agreed }) d.agreed (.release (here s) spid d.slot)
      | .releasing => finishRetire s d

/-- A debit asked for by another package, done at its home here: the answer leaves, and is remembered. -/
def debitFor (s : State) (d : Domain) (x : XferLane) : State :=
  let r := debitHere s d x
  let bs := r.1.answers r.2.1
  let a := { r.2.2 with debitsDone := r.2.2.debitsDone ++ [(x.org.sid, x.org.tag, bs)] }
  domainStep (bs.foldl (fun a b => tell a x.org.sid x.org.ply x.org.tag b) a) d.key

/-- XFER_DEBIT (03 R74 step 1): at the home here, or asked of the package of the debited cell; stage 3 is a debit that another
package asked for, which waits for a free record (03 R75). (DEDUCED, log entry 32.) -/
def execXferDebit (n : Nat) (s : State) : Host.Outcome State Fault Refusal :=
  .next (match s.flight[n]? with
    | some (.debit x) =>
      match findDomain s x.dom with
      | none =>
        match x.stage with
        | 0 => decideLane (replaceItem s n []) x false (.fail .prot) true
        | 3 => tell (replaceItem s n []) x.org.sid x.org.ply x.org.tag (.fieldMoved 0 Cause.prot.code)
        | _ => s
      | some d =>
        match x.stage with
        | 0 =>
          if !(debitFirst s n d x) || xfHeld s x then s
          else if d.owner x.fromCell != here s then
            let r : FieldRec := { seq := 0, amount := x.mag, toCell := x.toCell, fromCell := x.fromCell, slot := d.slot,
                                  package := d.owner x.toCell, lane := x.lane, tag := x.org.tag % 2 ^ 24 }
            tell (replaceItem s n [.debit { x with stage := 1 }]) (d.owner x.fromCell) d.part (x.org.tag * 32 + x.lane) (.fieldDebit r x.clip)
          else if homeFull s d x then s
          else
            let r := debitHere (replaceItem s n []) d x
            domainStep (decideLane r.2.2 x d.wide r.1 r.2.1) x.dom
        | 3 => if homeFull s d x then s else debitFor (replaceItem s n []) d x
        | _ => s
    | _ => s)

/-- XFER_CREDIT_ACK (03 R74 step 2): the record goes, and the lane is settled. -/
def execXferCreditAck (n : Nat) (s : State) : Host.Outcome State Fault Refusal :=
  .next (match s.flight[n]? with
    | some (.creditAck dom home r o) =>
      domainStep (settleLane (dropTransit (replaceItem s n []) dom home r o) o r.lane 0) dom
    | _ => s)

/-- XFER_CREDIT_REFUSAL (03 R74 step 3): the amount is given back, the record goes, and the lane has failed. -/
def execXferCreditRefusal (n : Nat) (s : State) : Host.Outcome State Fault Refusal :=
  .next (match s.flight[n]? with
    | some (.creditRefuse dom home r o c) =>
      let a := refundCell (dropTransit (replaceItem s n []) dom home r o) dom r.fromCell r.amount
      domainStep (settleLane a o r.lane c) dom
    | _ => s)

/-- FIELD_RECORD_RESEND (03 R77): every record to a package that is not yet acknowledged leaves again; a copy of it that cannot be read
is repaired from the other (04 R81). -/
def execFieldRecordResend (package : Nat) (s : State) : Host.Outcome State Fault Refusal :=
  let again (t : Transit) : Bool := t.sent && t.record.package == package
  .next { s with
    transits := s.transits.map (fun t => if again t then { t with own := true, mirror := true } else t),
    fabricOut := s.fabricOut ++ (s.transits.filter again).map (fun t =>
      FabricOut.packet package
        { src := here s, spid := spidOf s (t.dom / 4096), tag := t.org.tag * 32 + t.record.lane, off := 0,
          body := .fieldCredit t.home t.record }) }

/-! ## XFER and FLD -/

/-- The modes of a determinism block: 2 VERIFY, 3 CHECK (15 R270). -/
def detMode (s : State) (sid : Nat) : Nat :=
  ((findLaunch s (getSkein s sid).launch).map (fun l => fieldOf (l.block.getD 1 0).toNat 0 2)).getD 0

/-- A lane's failure in the checks of 03 R70: cause, address and the entry that gave it. A read of a cell in a lost block fails as a
transfer does. (DEDUCED, log entry 62.) -/
def cellFault (s : State) (n j : Nat) (d : BitVec 6) (cells : List (BitVec 6)) (xfer : Bool) (word : DWord) :
    Option (Cause × DWord × Nat) :=
  let k := curSkein s
  let t := curStrand s n
  if t.dom = 0 then some (.prot, 0, 0)
  else
    match domainOf s k t.dom with
    | none => some (.prot, t.dom, 0)
    | some dm =>
      if dm.wide && d.toNat % 2 == 1 then some (.illegal, word, 0)
      else if (xfer && dm.retiring) || dm.totalLost then some (.prot, t.dom, 0)
      else
        cells.findSome? (fun r =>
          let c := (t.v r.toNat j).toNat
          if dm.count ≤ c then some (.prot, t.dom, 0)
          else
            let va := dm.cellVa c
            if (xfer && decide (2 ≤ detMode s s.cur.sid)) || phasesDone s s.cur.sid then some (.isolate, dw va, 0)
            else if dm.lostCell c then some (.prot, dw va, 0)
            else
              let ctl := match translate s k.core k.part k.ctx va with
                | .ok x => x.ctl
                | .bad _ _ => false
              match checkVa s k.core k.part k.ctx t.mode .load va dm.cellBytes dm.cellBytes with
              | .ok _ => if ctl then some (.prot, dw va, 0) else none
              | .bad e en => some (if ctl then .prot else e, dw va, en))

/-- The lanes of the group that fail, or `k` when none does: the strands with failing lanes trap, or the skein is saved
for a page fault in U mode. -/
def cellChecks (s : State) (g : Guard) (d : BitVec 6) (cells : List (BitVec 6)) (xfer : Bool) (word : DWord)
    (k : State → State) : State :=
  let ls := (grp s).flatMap (fun n => (lanesOf ((curStrand s n).active g)).map (fun j => (n, j, cellFault s n j d cells xfer word)))
  let bad := ls.filterMap (fun l => l.2.2.map (fun f => (l.1, l.2.1, f)))
  if bad.isEmpty then k s
  else
    match bad.find? (fun b => b.2.2.1 == .page && (curStrand s b.1).mode == .user) with
    | some b => pageSave s b.1 (curPc s) b.2.2.2.1 b.2.2.2.2 (if xfer then Acc.store.kind else Acc.load.kind)
    | none =>
      trapGroup s (fun n =>
        let mine := bad.filter (fun b => b.1 == n)
        match mine with
        | [] => none
        | b :: _ =>
          let m := laneMask (fun j => mine.any (fun x => x.2.1 == j))
          some { mask := m, top := m, epc := (curStrand s n).pc, eaddr := b.2.2.2.1, first := b.2.2.1.code,
                 causes := causesFrom (fun j => (mine.find? (fun x => x.2.1 == j)).map (fun x => x.2.2.1)) })

/-- Whether a strand's current domain has 64-bit cells. -/
def wideOf (s : State) (n : Nat) : Bool := ((domainOf s (curSkein s) (curStrand s n).dom).map (fun d => d.wide)).getD false

/-- The registers that D names: a pair where a strand of the group has a domain of 64-bit cells. -/
def cellRegs (s : State) (d : BitVec 6) : List Nat :=
  if d.toNat % 2 == 0 && (grp s).any (wideOf s) then [d.toNat, d.toNat + 1] else [d.toNat]

/-- The amount of a lane, signed (03 R71). -/
def amountOf (s : State) (n j : Nat) (d : BitVec 6) : Int :=
  let t := curStrand s n
  if wideOf s n then (t.v (d.toNat + 1) j ++ t.v d.toNat j).toInt else (t.v d.toNat j).toInt

/-- The transfers of the active lanes that move something between two cells (03 R71). -/
def xferLanes (s : State) (g : Guard) (d a b : BitVec 6) (clip : Bool) : List XferLane :=
  (grp s).flatMap (fun n =>
    let t := curStrand s n
    (lanesOf (t.active g)).filterMap (fun j =>
      let v := amountOf s n j d
      let c1 := (t.v a.toNat j).toNat
      let c2 := (t.v b.toNat j).toNat
      let p := t.place d.toNat
      if v = 0 ∨ c1 = c2 then none
      else
        (domainOf s (curSkein s) t.dom).map (fun dm =>
          { org := origin s 0, dom := dm.key, lane := 4 * n + j, fromCell := if v < 0 then c2 else c1,
            toCell := if v < 0 then c1 else c2, mag := v.natAbs, neg := decide (v < 0), clip := clip, dest := p.2, destSup := p.1,
            stage := 0 })))

/-- XFER (03 R69 to R74): the strands wait until every debit is decided. -/
def execXfer (g : Guard) (d a b : BitVec 6) (m : BitVec 1) (s : State) : Host.Outcome State Fault Refusal :=
  let i := Instr.xfer g d a b m
  let f : LaneForm := { instr := i, guard := g, len := 4, mode := .user, blocks := [cellRegs s d, [a.toNat], [b.toNat]],
                        src := cellRegs s d ++ [a.toNat, b.toNat], dst := [], base := none, far := .none }
  .next (laneEnter f s (fun s =>
    if (acting s g).any (fun n => decide (63 ≤ (curStrand s n).xf)) || heldByFence s (fun f => f.cp && f.xf) s.cur.sid s.cur.ply s.seq (grp s) then
      stall s .poll
    else
      cellChecks s g d [a, b] true (instrWord i) (fun s =>
        let xs := xferLanes s g d a b (m == 1)
        let r := retire (send s (xs.map Item.debit)) 4
        mapStrands r s.cur.sid s.cur.ply (grp s) (fun n t =>
          let ls := laneMask (fun j => xs.any (fun x => x.lane == 4 * n + j))
          if xs.isEmpty then t
          else if ls = 0 then { t with wait := .debit }
          else { t with wait := .debit,
                        xfers := t.xfers ++ [{ tag := s.seq, addr := t.pc - 4, undecided := ls, awaiting := ls, failed := 0,
                                               causes := 0, sync := 0, syncCauses := 0 }] }))))

/-- The reads of the active lanes of an FLD (03 R78): each lane's access, its home die, and for a cell that is not to be read here,
the domain's slot and the piece to ask for; an unreachable cell here reads as zero. -/
def fldLanes (s : State) (g : Guard) (a : BitVec 6) : List (LaneAcc × Nat × Option (Nat × List CellRead)) :=
  let k := curSkein s
  (grp s).flatMap (fun n => (lanesOf ((curStrand s n).active g)).filterMap (fun j =>
    (domainOf s k (curStrand s n).dom).bind (fun d =>
      let c := ((curStrand s n).v a.toNat j).toNat
      match translate s k.core k.part k.ctx (d.cellVa c) with
      | .bad _ _ => none
      | .ok x =>
        let away := d.owner c != here s
        let zero := !away && !(x.fld && !x.tier)
        let l : LaneAcc := { lane := 4 * n + j, pa := x.pa, va := d.cellVa c, size := d.cellBytes, kind := x.kind, cache := false, fld := true,
                             cnv := 0, data := if zero then clean (natToBytes 0 d.cellBytes) else [], done := 0 }
        some (l, x.die, if away then some (d.slot, [{ package := d.owner c, cell := c, off := 0, len := d.cellBytes }])
          else if zero then some (d.slot, []) else none))))

/-- The items of an FLD's reads: cells here in packets, the others asked for one by one. -/
def fldItems (s : State) (o : Origin) (ls : List (LaneAcc × Nat × Option (Nat × List CellRead))) : List Item :=
  packetsOf o false 0 none ((ls.filter (fun l => l.2.2.isNone)).map (fun l => (l.1, l.2.1))) ++
    ls.filterMap (fun l => l.2.2.map (fun c => .fieldAsk o l.1 none (curSkein s).part c.1 c.2 false))

/-- FLD (03 R78): it counts in LD; cells here are read at their homes, others through the fabric. -/
def execFld (g : Guard) (d a : BitVec 6) (h : BitVec 2) (s : State) : Host.Outcome State Fault Refusal :=
  let i := Instr.fld g d a h
  let f : LaneForm := { instr := i, guard := g, len := 4, mode := .user, blocks := [cellRegs s d, [a.toNat]], src := [a.toNat],
                        dst := cellRegs s d, base := none, far := .none }
  .next (laneEnter f s (fun s =>
    if (acting s g).any (fullLd s) || cpHolds s false false then stall s .poll
    else
      cellChecks s g d [a] false (instrWord i) (fun s =>
        let o := origin s 0
        let ls := fldLanes s g a
        let r := expectReplies s o.tag d.toNat (fun n => if wideOf s n then 2 else 1) (ls.map (fun l => l.1))
        retire (send r (fldItems s o ls)) 4)))

/-! ## FDOM and FTOT -/

/-- FDOM (03 R65): W0 clears DOM. -/
def execFdom (a : BitVec 5) (s : State) : Host.Outcome State Fault Refusal :=
  .next (uniEnter (.fdom a) .user [] [] [a.toNat] [] s (fun s =>
    let w := if a = 0 then 0 else wReg s a.toNat
    if a != 0 && !((domainOf s (curSkein s) w).any (fun d => !d.totalLost)) then trapAll s .prot w
    else retire (mapStrands s s.cur.sid s.cur.ply (grp s) (fun _ t => { t with dom := w })) 4))

/-- The value that FTOT selects (03 R68). -/
def totalSel (sel : Nat) (i inj rem : BitVec 128) : BitVec 128 :=
  match sel with
  | 0 => i + inj - rem
  | 1 => inj
  | 2 => rem
  | _ => i

/-- Writes a 128-bit value to a pair of W registers. -/
def Skein.setPair (k : Skein) (ply n : Nat) (v : BitVec 128) : Skein :=
  (k.setW ply n (v.setWidth 64)).setW ply (n + 1) (v.extractLsb' 64 64)

/-- FTOT (03 R68): one instant at the total home; a total home on another package answers through the fabric. (DEDUCED, log entry 32.) -/
def execFtot (d a : BitVec 5) (f : BitVec 2) (s : State) : Host.Outcome State Fault Refusal :=
  .next (uniEnter (.ftot d a f) .user [] [] [a.toNat] [d.toNat, d.toNat + 1] s (fun s =>
    let dom := (curStrand s ((grp s).headD 0)).dom
    if a == 0 && (dom == 0 || (grp s).any (fun n => (curStrand s n).dom != dom)) then trapAll s .prot 0
    else
      let h := if a = 0 then dom else wReg s a.toNat
      match domainOf s (curSkein s) h with
      | none => trapAll s .prot h
      | some dm =>
        if dm.totalLost then trapAll s .prot h
        else if (grp s).any (fun n => (curStrand s n).xf != 0) then stall s .poll
        else if dm.owner dm.totalCell = here s then
          retire (setSkein s s.cur.sid ((curSkein s).setPair s.cur.ply d.toNat (totalSel f.toNat dm.initial dm.injected dm.removed))) 4
        else
          let r := send s [Item.totalAsk s.seq s.cur.sid s.cur.ply (grp s) d.toNat f.toNat h]
          stall { r with fabricOut := r.fabricOut ++ [FabricOut.packet (dm.owner dm.totalCell)
            { src := here s, spid := spidOf s dm.part, tag := s.seq * 32, off := 0, body := .fieldTotals dm.slot }] } .acks))

/-! ## FDECL -/

/-- Cells that live here, from `c` on. -/
def sumCells (s : State) (d : Domain) : Nat → Nat → Int
  | 0, _ => 0
  | n + 1, c =>
    let v := if d.sources.contains c || d.sinks.contains c || d.owner c != here s then 0
      else match cellPa s d false c with
        | some pa => cellVal s d pa
        | none => 0
    v + sumCells s d n (c + 1)

/-- The 64 KiB pages that hold cells of a domain here, by number. -/
def Domain.pagesHere (s : State) (d : Domain) : List Nat :=
  let n := (d.count * d.cellBytes + 0xFFFF) / 0x10000
  let per := 0x10000 / d.cellBytes
  ((List.range n).filter (fun i =>
    (rangeFrom (i * per / 2 ^ d.blk) ((min (i * per + per) d.count - 1) / 2 ^ d.blk + 1 - i * per / 2 ^ d.blk)).any (fun b =>
      (d.owners[b]?).getD d.declarer == here s))).map (fun i => d.base / 0x10000 + i)

/-- A domain with its frames here, each with its page. -/
def withFrames (s : State) (d : Domain) : Domain :=
  { d with frames := (d.pagesHere s).filterMap (fun n => match walk s d.part d.ctx (n * 0x10000) with
      | .ok x => some (n, x.pa / 0x10000)
      | .bad _ _ => none) }

/-- Marks a domain's frames here as field, and gathers their lines (03 R61). -/
def markField (s : State) (d : Domain) : State :=
  d.frames.foldl (fun a e =>
    let a := (rangeFrom (e.2 * 1024) 1024).foldl (fun b l => if Tbl.get false b.mere l then dropLine b l else b) a
    { a with fieldFrames := Tbl.set 0 a.fieldFrames e.2 (d.key + 1) }) s

/-- Whether a page of the domain here breaks 03 R59. -/
def pageBreaks (s : State) (d : Domain) : Bool :=
  decide (2 ^ 57 < d.cellVa d.count) ||
    (d.pagesHere s).any (fun n => match walk s d.part d.ctx (n * 0x10000) with
      | .ok x => !x.fld || x.tier || x.cnv != 0 || x.ctl
      | .bad _ _ => true)

/-- The lowest free slot of a partition; a slot that another listed package has given to a domain of its own is none for this
descriptor. -/
def freeSlot (s : State) (p : Nat) (handle : DWord) : Option Nat :=
  (List.range 4096).find? (fun n => !(s.domains.any (fun d => d.part == p && d.slot == n)) && !(s.slotsAway.contains (p, handle, n)))

/-- A domain from its descriptor, package list and taps table (03 R60). -/
def domainFrom (s : State) (p ctx slot : Nat) (handle : DWord) (declarer : Nat) (ws : List DWord) (owners taps : List Nat) : Domain :=
  let w (i : Nat) : Nat := (ws.getD i 0).toNat
  let qs := (owners.filter (fun o => o != here s && !(s.lostPkgs.contains o))).eraseDups
  withFrames s
    { part := p, slot := slot, ctx := ctx, handle := handle, base := fieldOf (w 0) 16 48 * 0x10000, count := fieldOf (w 1) 0 32 + 1,
      blk := fieldOf (w 1) 40 6, wide := bitOf (w 1) 38, signed := bitOf (w 1) 39, q := fieldOf (w 1) 32 6, owners := owners,
      sources := taps.take (fieldOf (w 4) 0 5), sinks := (taps.drop (fieldOf (w 4) 0 5)).take (fieldOf (w 4) 8 5),
      lostBlocks := (owners.zipIdx.filter (fun e => s.lostPkgs.contains e.1)).map (fun e => e.2), frames := [], initial := 0, injected := 0,
      removed := 0, declarer := declarer, stage := .asking, awaiting := qs, agreed := [], refusal := none, waiter := none }

/-- The frame of a tap, as far as it is known here: its package, and the frame or else the page. -/
def Domain.tapFrame (d : Domain) (c : Nat) : Nat × Nat :=
  let n := d.cellVa c / 0x10000
  (d.owner c, ((d.frames.find? (fun e => e.1 == n)).map (fun e => e.2)).getD n)

/-- Whether a descriptor breaks 03 R60, or its list or table 03 R61 step 4. -/
def declBad (s : State) (ws : List DWord) (d : Domain) (list : List Nat) : Bool :=
  let w (i : Nat) : Nat := (ws.getD i 0).toNat
  let taps := d.sources ++ d.sinks
  fieldOf (w 0) 0 16 != 0 || fieldOf (w 1) 46 18 != 0 || fieldOf (w 4) 13 51 != 0 || fieldOf (w 4) 5 3 != 0 ||
    fieldOf (w 5) 12 51 != 0 || w 6 != 0 || w 7 != 0 || decide (32 < d.blk) || decide (16 < fieldOf (w 4) 0 5) ||
    decide (16 < fieldOf (w 4) 8 5) || (w 3 == 0 && w 4 != 0) || taps.any (fun c => decide (d.count ≤ c)) ||
    taps.eraseDups.length != taps.length || (taps.map d.tapFrame).eraseDups.length > 1 ||
    list.any (fun e => decide (0x200000 ≤ e)) || d.owners.any (fun o => !(inPartition s d.part o)) || pageBreaks s d || bitOf (w 5) 63

/-- A declaration that has passed its checks here: the slot is taken, the frames marked and the cells summed, and the listed packages
are asked; the group waits until all have answered (03 R61). (DEDUCED, log entry 32.) -/
def declare (s : State) (dst : Nat) (ws : List DWord) (d : Domain) : State :=
  let d := { d with initial := BitVec.ofInt 128 (sumCells s d d.count 0), waiter := some (s.cur.sid, s.cur.ply, grp s, dst) }
  let a := markField { s with domains := s.domains ++ [d] } d
  let ext := ws ++ d.owners.map dw ++ (d.sources ++ d.sinks).map dw
  domainStep (announce (stall a .acks) d.awaiting (.copy (here s) (spidOf s d.part) d.slot d.handle.toNat d.ctx ext)) d.key

/-- Whether a declaration of a descriptor is still under way here. -/
def underWay (s : State) (k : Skein) (h : DWord) : Bool :=
  s.domains.any (fun d => d.part == k.part && d.ctx == k.ctx && d.handle == h && !d.declared)

/-- FDECL (03 R61). -/
def execFdecl (d a : BitVec 5) (s : State) : Host.Outcome State Fault Refusal :=
  .next (uniEnter (.fdecl d a) .supervisor [] [] [a.toNat] [d.toNat] s (fun s =>
    let h := wReg s a.toNat
    if h.toNat % 64 ≠ 0 then trapAll s .misalign h
    else
      readGroup (dwordsAt h.toNat 8) 8 s (fun s bs =>
        let ws := bs.map (fun b => dw (pval b))
        let list := (ws.getD 2 0).toNat
        let tab := (ws.getD 3 0).toNat
        let w1 := (ws.getD 1 0).toNat
        let nb := if list = 0 then 0 else (fieldOf w1 0 32 + 2 ^ fieldOf w1 40 6) / 2 ^ fieldOf w1 40 6
        let w4 := (ws.getD 4 0).toNat
        let ns := min 16 (fieldOf w4 0 5)
        let nk := min 16 (fieldOf w4 8 5)
        if list % 4 ≠ 0 then trapAll s .misalign (dw list)
        else if tab % 4 ≠ 0 then trapAll s .misalign (dw tab)
        else
          readGroup ((List.range nb).map (fun i => list + 4 * i)) 4 s (fun s os =>
            readGroup (if tab = 0 then [] else (List.range ns).map (fun i => tab + 4 * i) ++ (List.range nk).map (fun i => tab + 0x40 + 4 * i)) 4 s
              (fun s ts =>
                checkStore [h.toNat + 0x28] s (fun s =>
                  let k := curSkein s
                  let slot := freeSlot s k.part h
                  let dm := domainFrom s k.part k.ctx (slot.getD 0) h (here s) ws (os.map pval) (ts.map pval)
                  if underWay s k h then stall s .poll
                  else if declBad s ws dm (os.map pval) || slot.isNone then trapAll s .prot h else declare s d.toNat ws dm))))))

/-- A retirement begins: the declarer asks the packages with a copy to drain, and a package with a copy asks the declarer to retire
the domain (03 R64, 20 R348). (DEDUCED, log entry 32.) -/
def startRetire (s : State) (d : Domain) (waiter : Option (Nat × Nat × List Nat × Nat)) : State :=
  let qs := d.agreed.filter (fun o => !(s.lostPkgs.contains o))
  let spid := spidOf s d.part
  let a := setDomain s { d with stage := .draining, awaiting := qs, agreed := qs, waiter := waiter }
  domainStep (announce (announce a qs (.drain (here s) spid d.slot))
    (if d.declarer = here s ∨ s.lostPkgs.contains d.declarer then [] else [d.declarer]) (.retire (here s) spid d.slot)) d.key

/-- FDECL.RETIRE (20 R348): the group waits until the domain is retired on every package. -/
def execFdeclRetire (d a : BitVec 5) (s : State) : Host.Outcome State Fault Refusal :=
  .next (uniEnter (.fdeclRetire d a) .supervisor [] [] [a.toNat] [d.toNat] s (fun s =>
    let h := wReg s a.toNat
    if h.toNat % 64 ≠ 0 then trapAll s .misalign h
    else
      readGroup (dwordsAt h.toNat 8) 8 s (fun s bs =>
        checkStore [h.toNat + 0x28] s (fun s =>
          match domainOf s (curSkein s) h with
          | none => trapAll s .prot h
          | some dm =>
            if !(bitOf (pval (bs.getD 5 [])) 63) || dm.retiring then trapAll s .prot h
            else
              startRetire (stall s .acks) dm (some (s.cur.sid, s.cur.ply, grp s, d.toNat))))))

/-! ## What packages tell each other about domains (03 R61, R64) -/

/-- A copy arrives at a listed package: refused where a page breaks 03 R59, the partition is not here, or the slot is taken; else
its frames are marked, and its cells summed, and the domain is declared here once the declarer says that every package has agreed.
A copy that comes again is acknowledged again (11 R196). (DEDUCED, log entry 32.) -/
def takeCopy (s : State) (src spid slot handle ctx : Nat) (ws : List DWord) : State :=
  match partOfSpid s spid with
  | none => announce s [src] (.refused spid slot (here s) false)
  | some p =>
    let n := fieldOf (ws.getD 1 0).toNat 0 32 + 1
    let b := fieldOf (ws.getD 1 0).toNat 40 6
    let nb := if ws.getD 2 0 = 0 then 0 else (n - 1 + 2 ^ b) / 2 ^ b
    let rest := (ws.drop 8).map (fun w => w.toNat)
    let d := { domainFrom s p ctx slot (dw handle) src (ws.take 8) (rest.take nb) (rest.drop nb) with awaiting := [], stage := .agreed }
    let sum (a : State) (d : Domain) : Nat := (BitVec.ofInt 128 (sumCells a d d.count 0)).toNat
    match findDomain s d.key with
    | some x => announce s [src] (if x.declarer = src ∧ x.handle = dw handle then .acked spid slot (here s) 0 (sum s x) else .refused spid slot (here s) true)
    | none =>
      if pageBreaks s d then announce s [src] (.refused spid slot (here s) false)
      else
        let a := markField { s with domains := s.domains ++ [d] } d
        announce a [src] (.acked spid slot (here s) 0 (sum a d))

/-- The domain of a message, which names its system partition. -/
def messageDomain (s : State) (spid slot : Nat) : Option Domain := (partOfSpid s spid).bind (fun p => findDomain s (p * 4096 + slot))

/-- The part of a declaration or retirement that a stage waits in: 0 the copies, 1 INITIAL, 2 the drains, 3 the releases. -/
def DomStage.part : DomStage → Nat
  | .asking => 0
  | .telling => 1
  | .draining => 2
  | _ => 3

/-- An answer of a package, to a part of what the declaring package asks, that it awaits. -/
def takeAnswer (s : State) (spid slot package part : Nat) (f : Domain → Domain) : State :=
  match messageDomain s spid slot with
  | none => s
  | some d =>
    if d.awaiting.contains package && d.stage.part == part then
      domainStep (setDomain s (f { d with awaiting := d.awaiting.filter (fun q => q != package) })) d.key
    else s

/-- What an acknowledgement adds to a declaration: the package holds a copy, and its cells count in INITIAL. -/
def Domain.acked (d : Domain) (package sum : Nat) : Domain :=
  if d.stage = .asking then { d with agreed := d.agreed ++ [package], initial := d.initial + BitVec.ofNat 128 sum } else d

/-- INITIAL reaches a copy, which is declared with it (03 R61). -/
def takeTotal (s : State) (src spid slot sum : Nat) : State :=
  let a := match messageDomain s spid slot with
    | some d => if d.stage = .agreed then setDomain s { d with stage := .declared, initial := BitVec.ofNat 128 sum } else s
    | none => s
  announce a [src] (.acked spid slot (here s) 1 0)

/-- A copy is to drain: it answers once nothing of the domain is on its way here, or at once where it has said so already. -/
def takeDrain (s : State) (src spid slot : Nat) : State :=
  match messageDomain s spid slot with
  | some d => if d.stage = .declared ∨ d.stage = .draining then domainStep (setDomain s { d with stage := .draining }) d.key
    else announce s [src] (.acked spid slot (here s) 2 0)
  | none => announce s [src] (.acked spid slot (here s) 2 0)

/-- A copy is released, and one that is gone already is acknowledged again. -/
def takeRelease (s : State) (src spid slot : Nat) : State :=
  let a := match messageDomain s spid slot with
    | some d => if d.declarer = src then finishRetire s d else s
    | none => s
  announce a [src] (.acked spid slot (here s) 3 0)

/-- DOMAIN_DESCRIPTOR_COPY (03 R61, R64): a package receives a copy, INITIAL, a retirement or a release and acknowledges it, or the
declarer is asked to retire, or takes an answer; a message that comes again is answered again (11 R196). -/
def execDomainDescriptorCopy (msg : DomainMsg) (s : State) : Host.Outcome State Fault Refusal :=
  .next (match msg with
    | .copy src spid slot handle ctx ws => takeCopy s src spid slot handle ctx ws
    | .total src spid slot sum => takeTotal s src spid slot sum
    | .drain src spid slot => takeDrain s src spid slot
    | .release src spid slot => takeRelease s src spid slot
    | .retire _ spid slot =>
      match messageDomain s spid slot with
      | some d => if d.declarer = here s ∧ d.stage = .declared then startRetire s d none else s
      | none => s
    | .acked spid slot package part sum => takeAnswer s spid slot package part (fun d => d.acked package sum)
    | .refused spid slot package taken => takeAnswer s spid slot package 0 (fun d => { d with refusal := some ((d.refusal.getD taken) && taken) }))

end Sys2Proof.Machine
end

