-- ==== Sys2Proof/Machine/Float.lean ====
section
/-! DEFINITION. The lane floating-point, conversion and tapered instructions, and the byte lookups (18 R312 to R314,
19 R317 to R328); each operation is written once, for one element of a lane. -/

namespace Sys2Proof.Machine

/-- A rounded 32-bit result with its flags. -/
def wf32 (d : Nat) (x : Nat × BitVec 6) : LaneOut := wrf d (BitVec.ofNat 32 x.1) x.2

/-- The 64-bit value of the pair at `a` (07 R119: the high word in the odd register). -/
def pairOf (v : Nat → Word) (a : Nat) : Nat := (v a).toNat + (v (a + 1)).toNat * 0x100000000

/-- A 64-bit result in the pair at `d`. -/
def wf64 (d : Nat) (x : Nat × BitVec 6) : LaneOut :=
  { regs := [(d, BitVec.ofNat 32 x.1), (d + 1, BitVec.ofNat 32 (x.1 / 0x100000000))], preds := [], flags := x.2 }

/-- A packed result from its two elements. -/
def wf16 (d : Nat) (x y : Nat × BitVec 6) : LaneOut := wrf d (BitVec.ofNat 32 (x.1 + y.1 * 65536)) (x.2 ||| y.2)

/-- Element `h` of a packed word. -/
def half (w : Word) (h : Nat) : Nat := fieldOf w.toNat (16 * h) 16

/-- FADD.F32 (19 R318). -/
def aluFadd : Alu := fun sat r d a b _ v _ => wf32 d (fadd f32 r sat (v a).toNat (v b).toNat)
/-- FMUL.F32 (19 R318). -/
def aluFmul : Alu := fun sat r d a b _ v _ => wf32 d (fmul f32 r sat (v a).toNat (v b).toNat)
/-- FFMA.F32 (19 R318). -/
def aluFfma : Alu := fun sat r d a b c v _ => wf32 d (ffma f32 r sat (v a).toNat (v b).toNat (v c).toNat)
/-- FMIN.F32 (19 R319). -/
def aluFmin : Alu := fun _ _ d a b _ v _ => wf32 d (fminmax f32 false (v a).toNat (v b).toNat)
/-- FMAX.F32 (19 R319). -/
def aluFmax : Alu := fun _ _ d a b _ v _ => wf32 d (fminmax f32 true (v a).toNat (v b).toNat)
/-- FRCP.F32 (19 R321). -/
def aluFrcp : Alu := fun _ _ d a _ _ v _ => wf32 d (frcp (v a).toNat)
/-- FRSQ.F32 (19 R321). -/
def aluFrsq : Alu := fun _ _ d a _ _ v _ => wf32 d (frsq (v a).toNat)
/-- FEX2.F32 (19 R321). -/
def aluFex2 : Alu := fun _ _ d a _ _ v _ => wf32 d (fex2 (v a).toNat)
/-- FLG2.F32 (19 R321). -/
def aluFlg2 : Alu := fun _ _ d a _ _ v _ => wf32 d (flg2 (v a).toNat)
/-- Packed addition (19 R322). -/
def aluPadd (f : Fmt) : Alu := fun sat r d a b _ v _ =>
  wf16 d (fadd f r sat (half (v a) 0) (half (v b) 0)) (fadd f r sat (half (v a) 1) (half (v b) 1))
/-- Packed multiplication (19 R322). -/
def aluPmul (f : Fmt) : Alu := fun sat r d a b _ v _ =>
  wf16 d (fmul f r sat (half (v a) 0) (half (v b) 0)) (fmul f r sat (half (v a) 1) (half (v b) 1))
/-- Packed fused multiply-add (19 R322). -/
def aluPfma (f : Fmt) : Alu := fun sat r d a b c v _ =>
  wf16 d (ffma f r sat (half (v a) 0) (half (v b) 0) (half (v c) 0))
    (ffma f r sat (half (v a) 1) (half (v b) 1) (half (v c) 1))
/-- FADD.F64 (19 R323). -/
def aluDadd : Alu := fun sat r d a b _ v _ => wf64 d (fadd f64 r sat (pairOf v a) (pairOf v b))
/-- FMUL.F64 (19 R323). -/
def aluDmul : Alu := fun sat r d a b _ v _ => wf64 d (fmul f64 r sat (pairOf v a) (pairOf v b))
/-- FFMA.F64 (19 R323). -/
def aluDfma : Alu := fun sat r d a b c v _ => wf64 d (ffma f64 r sat (pairOf v a) (pairOf v b) (pairOf v c))
/-- TSUM.F32 (19 R324): the error is always representable. -/
def aluTsum : Alu := fun _ _ d a b _ v _ =>
  let t := twoSum (v a).toNat (v b).toNat
  { regs := [(d, BitVec.ofNat 32 t.1), (d + 1, BitVec.ofNat 32 (f32.round .rne false t.2.2).1)], preds := [], flags := t.2.1 }

/-! ## Conversions (18 R312 to R314) -/

/-- A value on its way through a conversion. -/
inductive CvtVal where
  | int (i : Int)
  | num (x : FNum)
  deriving DecidableEq, Repr

/-- The range of an integer type code; `none` for the others (18 R312). -/
def intRange (t : Nat) : Option (Int × Int) :=
  match t with
  | 0 => some (-0x80000000, 0x7FFFFFFF)
  | 1 => some (0, 0xFFFFFFFF)
  | 7 => some (-0x80, 0x7F)
  | 8 => some (0, 0xFF)
  | 9 => some (-0x8000, 0x7FFF)
  | 10 => some (0, 0xFFFF)
  | _ => none

/-- The source value of a type code; `x` holds the pair. -/
def cvtRead (t x : Nat) : CvtVal :=
  match t with
  | 0 => .int (BitVec.ofNat 32 x).toInt
  | 1 => .int (x % 0x100000000 : Nat)
  | 2 => .num (f32.read (x % 0x100000000))
  | 3 => .num (bf16.read (x % 65536))
  | 4 => .num (f16.read (x % 65536))
  | 5 => .num (taperedRead false (x % 256))
  | 6 => .num (taperedRead true (x % 64))
  | 7 => .int (BitVec.ofNat 8 x).toInt
  | 8 => .int (x % 256 : Nat)
  | 9 => .int (BitVec.ofNat 16 x).toInt
  | 10 => .int (x % 65536 : Nat)
  | _ => .num (f64.read x)

/-- The value as a number. -/
def CvtVal.num' : CvtVal → FNum
  | .int i => .fin (decide (i < 0)) i.natAbs 0
  | .num x => x

/-- A value encoded in a tapered format through F32 (09 R165). -/
def toTapered (t6 : Bool) (x : FNum) : Nat × BitVec 6 :=
  let y := f32.round .rne false x
  let z := taperedWrite t6 (f32.read y.1)
  (z.1, y.2 ||| z.2)

/-- A float format rounding of a value. -/
def toFloat (f : Fmt) (r : Rnd) (x : FNum) : Nat × BitVec 6 := f.round r false x

/-- CVT of one value to a type code: the bits, and the flags (09 R165); a signaling NaN raises NV. -/
def cvtWrite (r : Rnd) (t : Nat) (x : CvtVal) : Nat × BitVec 6 :=
  let nv := match x with
    | .num y => flagIf y.signals fNV
    | .int _ => 0
  let y : Nat × BitVec 6 := match intRange t with
    | some (lo, hi) =>
      let z : Int × BitVec 6 := match x with
        | .int i => (max lo (min hi i), 0)
        | .num y => floatToInt r lo hi y
      ((BitVec.ofInt 32 z.1).toNat, z.2)
    | none =>
      match t with
      | 2 => toFloat f32 r x.num'
      | 3 => toFloat bf16 r x.num'
      | 4 => toFloat f16 r x.num'
      | 5 => toTapered false x.num'
      | 6 => toTapered true x.num'
      | _ => toFloat f64 r x.num'
  (y.1, y.2 ||| nv)

/-- CVT (18 R313). -/
def aluCvt (f t : Nat) : Alu := fun _ r d a _ _ v _ =>
  let y := cvtWrite r t (cvtRead f (if f = 11 then pairOf v a else (v a).toNat))
  if t = 11 then wf64 d y else wf32 d y

/-- F2FX (18 R314): `q` selects a 64-bit result, `x` an F64 operand. -/
def aluF2fx (q x : Bool) (p : Nat) : Alu := fun _ r d a _ _ v _ =>
  let y := if x then f64.read (pairOf v a) else f32.read (v a).toNat
  let y' := match y with
    | .fin n m e => FNum.fin n m (e + p)
    | z => z
  let z := if q then floatToInt r (-0x8000000000000000) 0x7FFFFFFFFFFFFFFF y'
    else floatToInt r (-0x80000000) 0x7FFFFFFF y'
  if q then wf64 d ((BitVec.ofInt 64 z.1).toNat, z.2) else wf32 d ((BitVec.ofInt 32 z.1).toNat, z.2)

/-- FX2F (18 R314): `q` selects a 64-bit operand, `x` an F64 result. -/
def aluFx2f (q x : Bool) (p : Nat) : Alu := fun _ r d a _ _ v _ =>
  let n : Int := if q then (BitVec.ofNat 64 (pairOf v a)).toInt else (v a).toInt
  let y := FNum.fin (decide (n < 0)) n.natAbs (-(p : Int))
  if x then wf64 d (f64.round r false y) else wf32 d (f32.round r false y)

/-! ## Tapered codes and byte lookups (19 R325 to R328) -/

/-- Replaces byte `k` of a word. -/
def setByteOf (w : Word) (k : Nat) (b : Nat) : Word :=
  (w &&& ~~~ (0xFF#32 <<< (8 * k))) ||| (BitVec.ofNat 32 (b % 256) <<< (8 * k))

/-- TDEC (19 R326): `t6` the format, `x2` two codes, `k` the byte. -/
def aluTdec (t6 x2 : Bool) (k : Nat) : Alu := fun _ _ d a _ _ v _ =>
  let dec (f : Fmt) (j : Nat) : Nat := (f.round .rne false (taperedRead t6 (byteOf (v a) j).toNat)).1
  if x2 then wr [(d, BitVec.ofNat 32 (dec bf16 k + dec bf16 (k + 1) * 65536))]
  else wr [(d, BitVec.ofNat 32 (dec f32 k))]

/-- TENC (19 R326): bytes of D that it does not name are kept. -/
def aluTenc (t6 x2 : Bool) (k : Nat) : Alu := fun _ _ d a _ _ v _ =>
  let enc (x : FNum) : Nat × BitVec 6 := let y := taperedWrite t6 x; (y.1, y.2 ||| flagIf x.signals fNV)
  if x2 then
    let y := enc (bf16.read (half (v a) 0))
    let z := enc (bf16.read (half (v a) 1))
    wrf d (setByteOf (setByteOf (v d) k y.1) (k + 1) z.1) (y.2 ||| z.2)
  else
    let y := enc (f32.read (v a).toNat)
    wrf d (setByteOf (v d) k y.1) y.2

/-- TBLO and TBHI (19 R327): `sh` is 0 for the low nibble and 4 for the high one. -/
def aluTbl (sh : Nat) : Alu := fun _ _ d a b _ v _ =>
  let pick (k : Nat) : Nat :=
    let n := fieldOf (v a).toNat (8 * k + sh) 4
    (byteOf (v (b + n / 4)) (n % 4)).toNat
  wr [(d, BitVec.ofNat 32 ([0, 1, 2, 3].foldl (fun x k => x + pick k * 2 ^ (8 * k)) 0))]

/-- BSEL (19 R328): bytes 0 to 3 are S1's, bytes 4 to 7 the old D's. -/
def aluBsel : Alu := fun _ _ d a b _ v _ =>
  let pick (k : Nat) : Nat :=
    let s := (byteOf (v b) k).toNat
    if 128 ≤ s then 0 else if s % 8 < 4 then (byteOf (v a) (s % 8)).toNat else (byteOf (v d) (s % 8 - 4)).toNat
  wr [(d, BitVec.ofNat 32 ([0, 1, 2, 3].foldl (fun x k => x + pick k * 2 ^ (8 * k)) 0))]

/-- FADD.F32 (19 R318). -/
def execFaddF32 (g : Guard) (d a b : BitVec 6) (h : BitVec 2) (s : State) : Host.Outcome State Fault Refusal :=
  .next (alu (.faddF32 g d a b h) g 4 Ext.plain { d := 1, a := 1, b := 1, c := 0 } d.toNat a.toNat b.toNat aluFadd s)

/-- FMUL.F32 (19 R318). -/
def execFmulF32 (g : Guard) (d a b : BitVec 6) (h : BitVec 2) (s : State) : Host.Outcome State Fault Refusal :=
  .next (alu (.fmulF32 g d a b h) g 4 Ext.plain { d := 1, a := 1, b := 1, c := 0 } d.toNat a.toNat b.toNat aluFmul s)

/-- FFMA.F32 (19 R318). -/
def execFfmaF32 (g : Guard) (d a b : BitVec 6) (h : BitVec 2) (s : State) : Host.Outcome State Fault Refusal :=
  .next (alu (.ffmaF32 g d a b h) g 4 Ext.plain { d := 1, a := 1, b := 1, c := 1 } d.toNat a.toNat b.toNat aluFfma s)

/-- FMIN.F32 (19 R319). -/
def execFminF32 (g : Guard) (d a b : BitVec 6) (h : BitVec 2) (s : State) : Host.Outcome State Fault Refusal :=
  .next (alu (.fminF32 g d a b h) g 4 Ext.plain { d := 1, a := 1, b := 1, c := 0 } d.toNat a.toNat b.toNat aluFmin s)

/-- FMAX.F32 (19 R319). -/
def execFmaxF32 (g : Guard) (d a b : BitVec 6) (h : BitVec 2) (s : State) : Host.Outcome State Fault Refusal :=
  .next (alu (.fmaxF32 g d a b h) g 4 Ext.plain { d := 1, a := 1, b := 1, c := 0 } d.toNat a.toNat b.toNat aluFmax s)

/-- FADD.BF16X2 (19 R322). -/
def execFaddBf16x2 (g : Guard) (d a b : BitVec 6) (h : BitVec 2) (s : State) : Host.Outcome State Fault Refusal :=
  .next (alu (.faddBf16x2 g d a b h) g 4 Ext.plain { d := 1, a := 1, b := 1, c := 0 } d.toNat a.toNat b.toNat (aluPadd bf16) s)

/-- FMUL.BF16X2 (19 R322). -/
def execFmulBf16x2 (g : Guard) (d a b : BitVec 6) (h : BitVec 2) (s : State) : Host.Outcome State Fault Refusal :=
  .next (alu (.fmulBf16x2 g d a b h) g 4 Ext.plain { d := 1, a := 1, b := 1, c := 0 } d.toNat a.toNat b.toNat (aluPmul bf16) s)

/-- FFMA.BF16X2 (19 R322). -/
def execFfmaBf16x2 (g : Guard) (d a b : BitVec 6) (h : BitVec 2) (s : State) : Host.Outcome State Fault Refusal :=
  .next (alu (.ffmaBf16x2 g d a b h) g 4 Ext.plain { d := 1, a := 1, b := 1, c := 1 } d.toNat a.toNat b.toNat (aluPfma bf16) s)

/-- FADD.F16X2 (19 R322). -/
def execFaddF16x2 (g : Guard) (d a b : BitVec 6) (h : BitVec 2) (s : State) : Host.Outcome State Fault Refusal :=
  .next (alu (.faddF16x2 g d a b h) g 4 Ext.plain { d := 1, a := 1, b := 1, c := 0 } d.toNat a.toNat b.toNat (aluPadd f16) s)

/-- FMUL.F16X2 (19 R322). -/
def execFmulF16x2 (g : Guard) (d a b : BitVec 6) (h : BitVec 2) (s : State) : Host.Outcome State Fault Refusal :=
  .next (alu (.fmulF16x2 g d a b h) g 4 Ext.plain { d := 1, a := 1, b := 1, c := 0 } d.toNat a.toNat b.toNat (aluPmul f16) s)

/-- FFMA.F16X2 (19 R322). -/
def execFfmaF16x2 (g : Guard) (d a b : BitVec 6) (h : BitVec 2) (s : State) : Host.Outcome State Fault Refusal :=
  .next (alu (.ffmaF16x2 g d a b h) g 4 Ext.plain { d := 1, a := 1, b := 1, c := 1 } d.toNat a.toNat b.toNat (aluPfma f16) s)

/-- TSUM.F32 (19 R324). -/
def execTsumF32 (g : Guard) (d a b : BitVec 6) (h : BitVec 2) (s : State) : Host.Outcome State Fault Refusal :=
  .next (alu (.tsumF32 g d a b h) g 4 Ext.plain { d := 2, a := 1, b := 1, c := 0 } d.toNat a.toNat b.toNat aluTsum s)

/-- TBLO (19 R327). -/
def execTblo (g : Guard) (d a b : BitVec 6) (h : BitVec 2) (s : State) : Host.Outcome State Fault Refusal :=
  .next (alu (.tblo g d a b h) g 4 Ext.plain { d := 1, a := 1, b := 4, c := 0 } d.toNat a.toNat b.toNat (aluTbl 0) s)

/-- TBHI (19 R327). -/
def execTbhi (g : Guard) (d a b : BitVec 6) (h : BitVec 2) (s : State) : Host.Outcome State Fault Refusal :=
  .next (alu (.tbhi g d a b h) g 4 Ext.plain { d := 1, a := 1, b := 4, c := 0 } d.toNat a.toNat b.toNat (aluTbl 4) s)

/-- BSEL (19 R328). -/
def execBsel (g : Guard) (d a b : BitVec 6) (h : BitVec 2) (s : State) : Host.Outcome State Fault Refusal :=
  .next (alu (.bsel g d a b h) g 4 Ext.plain { d := 1, a := 1, b := 1, c := 1 } d.toNat a.toNat b.toNat aluBsel s)

/-- FADD.F64 (19 R323). -/
def execFaddF64 (g : Guard) (d a b : BitVec 6) (s : State) : Host.Outcome State Fault Refusal :=
  .next (alu (.faddF64 g d a b) g 4 Ext.plain { d := 2, a := 2, b := 2, c := 0 } d.toNat a.toNat b.toNat aluDadd s)

/-- FMUL.F64 (19 R323). -/
def execFmulF64 (g : Guard) (d a b : BitVec 6) (s : State) : Host.Outcome State Fault Refusal :=
  .next (alu (.fmulF64 g d a b) g 4 Ext.plain { d := 2, a := 2, b := 2, c := 0 } d.toNat a.toNat b.toNat aluDmul s)

/-- FFMA.F64 (19 R323). -/
def execFfmaF64 (g : Guard) (d a b : BitVec 6) (s : State) : Host.Outcome State Fault Refusal :=
  .next (alu (.ffmaF64 g d a b) g 4 Ext.plain { d := 2, a := 2, b := 2, c := 2 } d.toNat a.toNat b.toNat aluDfma s)

/-- FRCP.F32 (19 R321). -/
def execFrcpF32 (g : Guard) (d a : BitVec 6) (h : BitVec 1) (s : State) : Host.Outcome State Fault Refusal :=
  .next (alu (.frcpF32 g d a h) g 4 Ext.plain { d := 1, a := 1, b := 0, c := 0 } d.toNat a.toNat 0 aluFrcp s)

/-- FRSQ.F32 (19 R321). -/
def execFrsqF32 (g : Guard) (d a : BitVec 6) (h : BitVec 1) (s : State) : Host.Outcome State Fault Refusal :=
  .next (alu (.frsqF32 g d a h) g 4 Ext.plain { d := 1, a := 1, b := 0, c := 0 } d.toNat a.toNat 0 aluFrsq s)

/-- FEX2.F32 (19 R321). -/
def execFex2F32 (g : Guard) (d a : BitVec 6) (h : BitVec 1) (s : State) : Host.Outcome State Fault Refusal :=
  .next (alu (.fex2F32 g d a h) g 4 Ext.plain { d := 1, a := 1, b := 0, c := 0 } d.toNat a.toNat 0 aluFex2 s)

/-- FLG2.F32 (19 R321). -/
def execFlg2F32 (g : Guard) (d a : BitVec 6) (h : BitVec 1) (s : State) : Host.Outcome State Fault Refusal :=
  .next (alu (.flg2F32 g d a h) g 4 Ext.plain { d := 1, a := 1, b := 0, c := 0 } d.toNat a.toNat 0 aluFlg2 s)

/-- FCMP.F32 (19 R320): the flags are set even when the predicate is P0. -/
def execFcmpF32 (g : Guard) (q c : BitVec 3) (a b : BitVec 6) (h : BitVec 2) (s : State) : Host.Outcome State Fault Refusal :=
  .next (alu (.fcmpF32 g q c a b h) g 4 Ext.plain { d := 0, a := 1, b := 1, c := 0 } 0 a.toNat b.toNat
    (fun _ _ _ a b _ v _ => let r := fcmp f32 c.toNat (v a).toNat (v b).toNat; ⟨[], [(q.toNat, r.1)], r.2⟩) s)

/-- How many registers a value of a type code takes (18 R312). -/
def cvtRegs (t : Nat) : Nat := if t = 11 then 2 else 1

/-- CVT (18 R312, R313). -/
def execCvt (g : Guard) (d a : BitVec 6) (f t : BitVec 4) (s : State) : Host.Outcome State Fault Refusal :=
  .next (alu (.cvt g d a f t) g 4 Ext.plain { d := cvtRegs t.toNat, a := cvtRegs f.toNat, b := 0, c := 0 } d.toNat a.toNat 0
    (aluCvt f.toNat t.toNat) s)

/-- F2FX (18 R314). -/
def execF2fx (g : Guard) (d a : BitVec 6) (q x : BitVec 1) (k : BitVec 6) (s : State) : Host.Outcome State Fault Refusal :=
  .next (alu (.f2fx g d a q x k) g 4 Ext.plain { d := q.toNat + 1, a := x.toNat + 1, b := 0, c := 0 } d.toNat a.toNat 0
    (aluF2fx (q == 1) (x == 1) k.toNat) s)

/-- FX2F (18 R314). -/
def execFx2f (g : Guard) (d a : BitVec 6) (q x : BitVec 1) (k : BitVec 6) (s : State) : Host.Outcome State Fault Refusal :=
  .next (alu (.fx2f g d a q x k) g 4 Ext.plain { d := x.toNat + 1, a := q.toNat + 1, b := 0, c := 0 } d.toNat a.toNat 0
    (aluFx2f (q == 1) (x == 1) k.toNat) s)

/-- TDEC (19 R326). -/
def execTdec (g : Guard) (d a : BitVec 6) (f x : BitVec 1) (k : BitVec 2) (s : State) : Host.Outcome State Fault Refusal :=
  .next (alu (.tdec g d a f x k) g 4 Ext.plain { d := 1, a := 1, b := 0, c := 0 } d.toNat a.toNat 0 (aluTdec (f == 1) (x == 1) k.toNat) s)

/-- TENC (19 R326): it reads D. -/
def execTenc (g : Guard) (d a : BitVec 6) (f x : BitVec 1) (k : BitVec 2) (s : State) : Host.Outcome State Fault Refusal :=
  .next (alu (.tenc g d a f x k) g 4 Ext.plain { d := 1, a := 1, b := 0, c := 1 } d.toNat a.toNat 0 (aluTenc (f == 1) (x == 1) k.toNat) s)

/-! ## The extension word (08 R140 to R144, 18 R316) -/

/-- The shape and the operation of a word that accepts XW, by opcode (08 R142). -/
def xwOp (w : Word) : Shape × Alu :=
  let k := w.extractLsb' 0 6
  match opByte w with
  | 0x00 => ({ d := 1, a := 1, b := 1, c := 0 }, aluIadd)
  | 0x02 => ({ d := 1, a := 1, b := 1, c := 0 }, aluIsub)
  | 0x03 => ({ d := 1, a := 1, b := 1, c := 0 }, aluIadds)
  | 0x04 => ({ d := 1, a := 1, b := 1, c := 0 }, aluImul)
  | 0x05 => ({ d := 1, a := 1, b := 1, c := 0 }, aluImulhs)
  | 0x06 => ({ d := 1, a := 1, b := 1, c := 0 }, aluImulhu)
  | 0x07 => ({ d := 1, a := 1, b := 1, c := 1 }, aluImad)
  | 0x08 => ({ d := 1, a := 1, b := 1, c := 0 }, aluImins)
  | 0x09 => ({ d := 1, a := 1, b := 1, c := 0 }, aluIminu)
  | 0x0A => ({ d := 1, a := 1, b := 1, c := 0 }, aluImaxs)
  | 0x0B => ({ d := 1, a := 1, b := 1, c := 0 }, aluImaxu)
  | 0x0C => ({ d := 1, a := 1, b := 1, c := 0 }, aluAnd)
  | 0x0D => ({ d := 1, a := 1, b := 1, c := 0 }, aluOr)
  | 0x0E => ({ d := 1, a := 1, b := 1, c := 0 }, aluXor)
  | 0x0F => ({ d := 1, a := 1, b := 1, c := 0 }, aluAndn)
  | 0x13 => ({ d := 1, a := 1, b := 1, c := 0 }, aluShl)
  | 0x14 => ({ d := 1, a := 1, b := 1, c := 0 }, aluShr)
  | 0x15 => ({ d := 1, a := 1, b := 1, c := 0 }, aluSar)
  | 0x19 => ({ d := 1, a := 1, b := 1, c := 0 }, aluBfx)
  | 0x1A => ({ d := 1, a := 1, b := 1, c := 1 }, aluBfi)
  | 0x1B => ({ d := 1, a := 1, b := 0, c := 0 }, aluPopc)
  | 0x1C => ({ d := 1, a := 1, b := 0, c := 0 }, aluClz)
  | 0x1D => ({ d := 1, a := 1, b := 0, c := 0 }, aluBrev)
  | 0x21 => ({ d := 1, a := 1, b := 1, c := 0 }, aluSel (w.extractLsb' 0 2).toNat)
  | 0x22 => ({ d := 1, a := 1, b := 0, c := 0 }, aluMov)
  | 0x28 => ({ d := 1, a := 1, b := 1, c := 0 }, aluFadd)
  | 0x29 => ({ d := 1, a := 1, b := 1, c := 0 }, aluFmul)
  | 0x2A => ({ d := 1, a := 1, b := 1, c := 1 }, aluFfma)
  | 0x2B => ({ d := 1, a := 1, b := 1, c := 0 }, aluFmin)
  | 0x2C => ({ d := 1, a := 1, b := 1, c := 0 }, aluFmax)
  | 0x2E => ({ d := 1, a := 1, b := 0, c := 0 }, aluFrcp)
  | 0x2F => ({ d := 1, a := 1, b := 0, c := 0 }, aluFrsq)
  | 0x30 => ({ d := 1, a := 1, b := 0, c := 0 }, aluFex2)
  | 0x31 => ({ d := 1, a := 1, b := 0, c := 0 }, aluFlg2)
  | 0x32 => ({ d := 1, a := 1, b := 1, c := 0 }, aluPadd bf16)
  | 0x33 => ({ d := 1, a := 1, b := 1, c := 0 }, aluPmul bf16)
  | 0x34 => ({ d := 1, a := 1, b := 1, c := 1 }, aluPfma bf16)
  | 0x35 => ({ d := 1, a := 1, b := 1, c := 0 }, aluPadd f16)
  | 0x36 => ({ d := 1, a := 1, b := 1, c := 0 }, aluPmul f16)
  | 0x37 => ({ d := 1, a := 1, b := 1, c := 1 }, aluPfma f16)
  | 0x38 => ({ d := 2, a := 2, b := 2, c := 0 }, aluDadd)
  | 0x39 => ({ d := 2, a := 2, b := 2, c := 0 }, aluDmul)
  | 0x3A => ({ d := 2, a := 2, b := 2, c := 2 }, aluDfma)
  | 0x3F => ({ d := 1, a := 1, b := 1, c := 1 }, aluIdp4s)
  | 0x40 => ({ d := 1, a := 1, b := 1, c := 1 }, aluIdp4u)
  | 0x3C => ({ d := cvtRegs (w.extractLsb' 0 4).toNat, a := cvtRegs (w.extractLsb' 4 4).toNat, b := 0, c := 0 },
      aluCvt (w.extractLsb' 4 4).toNat (w.extractLsb' 0 4).toNat)
  | 0x3D => ({ d := (w.extractLsb' 7 1).toNat + 1, a := (w.extractLsb' 6 1).toNat + 1, b := 0, c := 0 },
      aluF2fx (w.getLsbD 7) (w.getLsbD 6) k.toNat)
  | 0x3E => ({ d := (w.extractLsb' 6 1).toNat + 1, a := (w.extractLsb' 7 1).toNat + 1, b := 0, c := 0 },
      aluFx2f (w.getLsbD 7) (w.getLsbD 6) k.toNat)
  | _ => ({ d := 0, a := 0, b := 0, c := 0 }, fun _ _ _ _ _ _ _ _ => wr [])

/-- The extension that an XW gives a follower: S3 counts only where the follower takes it (08 R140, R142). -/
def xwExt (r c : BitVec 3) (sx : BitVec 1) (m : BitVec 3) (t : BitVec 6) (p : BitVec 2) (w : Word) : Ext :=
  { rows := r.toNat + 1, cols := c.toNat + 1, sat := sx == 1, rnd := rndOf m.toNat,
     s3 := match xwAccept (opByte w) with
       | some (_, _, _, true) => some t.toNat
       | _ => none,
     pitch := if p = 1 then c.toNat + 1 else if p = 2 then 16 else 8 }

/-- XW and the word that follows it, as one instruction of eight bytes (08 R143, R144). -/
def execXw (r c : BitVec 3) (sx : BitVec 1) (m : BitVec 3) (t : BitVec 6) (p : BitVec 2) (w : Word) (s : State) :
    Host.Outcome State Fault Refusal :=
  .next (alu (.xw r c sx m t p w) ⟨w.extractLsb' 21 3, w.extractLsb' 20 1⟩ 8 (xwExt r c sx m t p w) (xwOp w).1
    (w.extractLsb' 14 6).toNat (w.extractLsb' 8 6).toNat (w.extractLsb' 2 6).toNat (xwOp w).2 s)

end Sys2Proof.Machine
end

