-- ==== Sys2Proof/Machine/Grow.lean ====
section
/-! DEFINITION. The register allocation (07 R123 to R126; 21 R370, R371): RGROW, RGTRY, RSHRK, VWBS, and the grants and
the deadlock break of the core. -/

namespace Sys2Proof.Machine

/-- The lane registers of a core's pool (07 R124). -/
def poolSize : Nat := 131072

/-- The lane registers that a skein uses with `n` registers per lane (07 R124). -/
def regUse (k : Skein) (n : Nat) : Nat := k.plies * k.strands * 4 * (n + 16)

/-- The lane registers in use on a core. -/
def poolUsed (s : State) (core : Nat) : Nat :=
  ((residentOn s core).map (fun sid => regUse (getSkein s sid) (getSkein s sid).nreg)).sum

/-- Whether a request for `n` more registers is refused outright (07 R124). -/
def growBad (k : Skein) (n : Nat) : Bool :=
  n == 0 || n % 8 != 0 || decide (1024 < k.nreg + n) || decide (poolSize < regUse k (k.nreg + n))

/-- Whether the core's free registers meet a request. -/
def growFits (s : State) (k : Skein) (n : Nat) : Bool :=
  decide (poolUsed s k.core + (regUse k (k.nreg + n) - regUse k k.nreg) ≤ poolSize)

/-- Gives a skein `n` more registers per lane; they read as zero. -/
def growBy (s : State) (sid n : Nat) : State :=
  let k := getSkein s sid
  setSkein s sid { k with nreg := k.nreg + n }

/-- RGROW (07 R124): granted at once when the free registers suffice, blocked otherwise. -/
def execRgrow (a : BitVec 5) (s : State) : Host.Outcome State Fault Refusal :=
  .next (uniEnter (.rgrow a) .user [] [] [a.toNat] [] s (fun s =>
    let n := (wReg s a.toNat).toNat
    let k := curSkein s
    if growBad k n then trapAll s .regwin (instrWord (.rgrow a))
    else if growFits s k n then retire (growBy s s.cur.sid n) 4
    else stall s (.grow n)))

/-- RGTRY (07 R124): 0 when granted, 1 when refused. -/
def execRgtry (d a : BitVec 5) (s : State) : Host.Outcome State Fault Refusal :=
  .next (uniEnter (.rgtry d a) .user [] [] [a.toNat] [d.toNat] s (fun s =>
    let n := (wReg s a.toNat).toNat
    let k := curSkein s
    if growBad k n then trapAll s .regwin (instrWord (.rgtry d a))
    else if growFits s k n then retire (setWReg (growBy s s.cur.sid n) d.toNat 0) 4
    else retire (setWReg s d.toNat 1) 4))

/-- A strand whose allocation registers from `n` on are gone. -/
def Strand.shrink (t : Strand) (n : Nat) : Strand :=
  { t with user := t.user.filter (fun e => decide (e.1 < 4 * n)), lost := t.lost.filter (fun e => e.1 || decide (e.2.1 < n)) }

/-- RSHRK (07 R124): the base of every strand counts, one that has exited included, and it waits for replies that still have to write a register that it removes. -/
def execRshrk (a : BitVec 5) (s : State) : Host.Outcome State Fault Refusal :=
  .next (uniEnter (.rshrk a) .user [] [] [a.toNat] [] s (fun s =>
    let n := (wReg s a.toNat).toNat
    let k := curSkein s
    let all := skeinAll k
    let st (e : Nat × Nat) : Strand := getStrand s (strandKey s.cur.sid e.1 e.2)
    if n = 0 ∨ n % 8 ≠ 0 ∨ k.nreg < n + 8 ∨ all.any (fun e => decide (k.nreg - n ≤ (st e).vwb)) then
      trapAll s .regwin (instrWord (.rshrk a))
    else if all.any (fun e => (st e).replies.any (fun r => !r.sup && decide (k.nreg - n < r.reg + r.count))) then stall s .poll
    else
      let b := all.foldl (fun b e =>
        let key := strandKey s.cur.sid e.1 e.2
        setStrand b key ((getStrand b key).shrink (k.nreg - n))) s
      retire (setSkein b s.cur.sid { k with nreg := k.nreg - n }) 4))

/-- VWBS (07 R123). -/
def execVwbs (a : BitVec 5) (s : State) : Host.Outcome State Fault Refusal :=
  .next (uniEnter (.vwbs a) .user [] [] [a.toNat] [] s (fun s =>
    let n := (wReg s a.toNat).toNat
    if n % 8 ≠ 0 ∨ (curSkein s).nreg ≤ n then trapAll s .regwin (instrWord (.vwbs a))
    else retire (mapStrands s s.cur.sid s.cur.ply (grp s) (fun _ t => { t with vwb := n })) 4))

/-- The priority of a skein: that of its launch. -/
def prioOf (s : State) (sid : Nat) : Nat := ((findLaunch s (getSkein s sid).launch).map Launch.prio).getD 0

/-- Whether skein `a` goes before skein `b`: higher priority, then older (07 R125, 12 R223). -/
def goesBefore (s : State) (a b : Nat) : Bool :=
  decide (prioOf s b < prioOf s a) || (prioOf s a == prioOf s b && decide ((getSkein s a).age ≤ (getSkein s b).age))

/-- Inserts by an order that says which goes first. -/
def insertBy {α : Type} (le : α → α → Bool) (x : α) : List α → List α
  | [] => [x]
  | y :: t => if le x y then x :: y :: t else y :: insertBy le x t

/-- Sorts by an order that says which goes first. -/
def sortBy {α : Type} (le : α → α → Bool) (l : List α) : List α := l.foldr (insertBy le) []

/-- The blocked requests of a core: skein, ply, strand and how many registers, best first: by priority, then by the age of the skein,
which is that of its placement or restore, then by ply and part. (DESIGN CHOICE, log entry 73.) -/
def growRequests (s : State) (core : Nat) : List (Nat × Nat × Nat × Nat) :=
  (sortBy (goesBefore s) ((residentOn s core).filter (fun sid => (getSkein s sid).saving.isNone))).flatMap (fun sid =>
    (List.range (getSkein s sid).plies).flatMap (fun p =>
      (partsOf (getSkein s sid) p).filterMap (fun ns =>
        match (getStrand s (strandKey sid p (ns.headD 0))).wait with
        | .grow n => some (sid, p, ns.headD 0, n)
        | _ => none)))

/-- Blocked requests are granted in order, whole, up to the first that the free registers cannot meet. A request that
an earlier grant has made too large is issued again, and traps. -/
def grantAll : List (Nat × Nat × Nat × Nat) → State → State
  | [], s => s
  | (sid, p, n0, n) :: t, s =>
    let k := getSkein s sid
    let ns := ((partsOf k p).find? (fun ns => ns.contains n0)).getD []
    if growBad k n then grantAll t (mapStrands s sid p ns (fun _ u => { u with wait := .none }))
    else if growFits s k n then
      grantAll t (mapStrands (growBy s sid n) sid p ns (fun _ u => { u with wait := .none, pc := u.pc + 4 }))
    else s

/-- RGROW_GRANT (07 R125). -/
def execRgrowGrant (core : Nat) (s : State) : Host.Outcome State Fault Refusal :=
  .next (grantAll (growRequests s core) s)

/-- Whether a skein has a strand blocked in RGROW. -/
def growBlocked (s : State) (sid : Nat) : Bool :=
  (skeinAll (getSkein s sid)).any (fun e => match (getStrand s (strandKey sid e.1 e.2)).wait with
    | .grow _ => true
    | _ => false)

/-- RGROW_DEADLOCK_BREAK (07 R125): when every resident skein is blocked so, the one of lowest priority that was placed
last is saved. -/
def execRgrowDeadlockBreak (core : Nat) (s : State) : Host.Outcome State Fault Refusal :=
  let rs := residentOn s core
  let worst := (sortBy (goesBefore s) rs).getLast?
  .next (if rs.all (growBlocked s) && rs.all (fun sid => (getSkein s sid).saving.isNone) then
    match worst with
    | some sid => setSkein s sid { getSkein s sid with saving := some .deadlock }
    | none => s
  else s)

end Sys2Proof.Machine
end

