-- ==== Sys2Proof/Machine/Ingress.lean ====
section
/-! DEFINITION. Fabric ingress (11 R196, R197, R206): what the package does with packets of other packages, puts, COLL
elements and the messages of field memory, and accesses held at a frame that moves (01 R28). -/

namespace Sys2Proof.Machine

/-! ## Checks at ingress -/

/-- The page of an access that enters the package, judged as one of U mode, and whether its frame moves; where the leaf marks a
frame that is being moved, the page is judged as the leaf's other bits stand (01 R27, R28). (DEDUCED, log entry 69.) -/
def outsidePage (s : State) (p ctx va size : Nat) (write : Bool) : Chk × Bool :=
  let a : Acc := if write then .copyWrite else .copyRead
  match checkVa s remoteCore p ctx .user a va size 1 with
  | .ok t => (.ok t, s.moving.contains (t.pa / 0x10000))
  | .bad e en =>
    if movingLeaf en then
      let pa := movedPa s p ctx va en
      (permit .user a size { pa := pa, leaf := en, base := va / 0x10000 * 0x10000, k := 16, die := homeDie s (pa / 0x10000) }, true)
    else (.bad e en, false)

/-- The token check of an access from outside (02 R47, R48): a grant in its port's cache allows it, else the home answers, unless a
hand-off is under way. -/
def outsideToken (s : State) (p ctx : Nat) (x : Asker) (va size : Nat) (write : Bool) (t : Xl) : Side :=
  let cached := match x with
    | .ingress q => (grantFor s (portCache s p) p q .copies ctx va write).isSome
    | _ => false
  if !t.tokened || cached then .inGlobal t
  else if handOff s p ctx va size then .held
  else if tokenAllows s x ctx (regionOf s p ctx va) write then .inGlobal t
  else .fails .token va 0

/-- The checks of an access that enters the package (11 R197, 16 R284), and whether it has passed them but its frame moves; a hand-off
or a moving home holds it. -/
def outsideSide (s : State) (p ctx : Nat) (x : Asker) (va size : Nat) (write : Bool) : Side × Bool :=
  match outsidePage s p ctx va size write with
  | (.bad e en, _) => (.fails e va en, false)
  | (.ok t, moves) =>
    match outsideToken s p ctx x va size write t with
    | .inGlobal t => if !moves && heldAt s t.die t.pa then (.held, false) else (.inGlobal t, moves)
    | r => (r, false)

/-- Whether a partition takes no access from outside: it is halted (14 R267), in reset, or its keys are not released
(01 R31). (DEDUCED, log entry 43.) -/
def closed (s : State) (x : Partition) : Bool := x.halted || x.busy || !s.keys

/-- The virtual address that a window offset names. -/
def Partition.windowVa (x : Partition) (off : Nat) : Nat := fieldOf x.fwBase.toNat 16 41 * 0x10000 + off

/-- An access through a partition's fabric window. -/
def windowSide (s : State) (p src off size : Nat) (write : Bool) : Side × Bool :=
  let x := getPart s p
  if closed s x || !(x.fwBase.getLsbD 0) || decide (2 ^ x.fwLog2.toNat < off + size) then (.fails .prot 0 0, false)
  else outsideSide s p x.fwCtx.toNat (.ingress src) (x.windowVa off) size write

/-- The port that an access came through keeps the grant that it was given (02 R48). -/
def keepPort (s : State) (p src off : Nat) (t : Xl) : State :=
  let x := getPart s p
  if t.tokened then keepGrant s (portCache s p) p src .copies (.ingress src) x.fwCtx.toNat (x.windowVa off) else s

/-- The fabric address of a window offset here. -/
def fabricAddr (s : State) (off : Nat) : Nat := 4 * 2 ^ 60 + here s * 2 ^ 39 + off

/-- Remembers that a packet was applied. -/
def markApplied (s : State) (src kind tag : Nat) : State := { s with fabTags := s.fabTags ++ [(src, ingressTag kind tag)] }

/-! ## Accesses held at a moving frame (01 R28) or before a gate (15 R282) -/

/-- The held access of a packet. -/
def heldOf (s : State) (b : HeldBody) : Option Held := s.heldPkts.find? (fun h => h.body == b)

/-- Holds an access to a context that has passed its checks, with the translation of its arrival. -/
def holdIn (s : State) (p ctx src : Nat) (b : HeldBody) (spots : List (Nat × Nat × Nat × Bool)) : State :=
  if (heldOf s b).isSome then s else { s with heldPkts := s.heldPkts ++ [{ body := b, part := p, ctx := ctx, src := src, spots := spots }] }

/-- Holds an access through the fabric window. -/
def holdAccess (s : State) (p src : Nat) (b : HeldBody) (spots : List (Nat × Nat × Nat × Bool)) : State :=
  holdIn s p (getPart s p).fwCtx.toNat src b spots

/-- An access is held no longer. -/
def unhold (s : State) (b : HeldBody) : State := { s with heldPkts := s.heldPkts.filter (fun h => h.body != b) }

/-- Whether a held access may be applied, as far as moves go: that of each of its frames has ended. -/
def Held.ready (h : Held) (s : State) : Bool :=
  h.spots.all (fun x => !x.2.2.2 && !(heldAt s (homeDie s (x.2.1 / 0x10000)) x.2.1))

/-- Answers a packet. -/
def answer (s : State) (pkt : FabPkt) (ok : Bool) (cause addr : Nat) : State :=
  unhold { s with fabricOut := s.fabricOut ++ [FabricOut.answer pkt.src pkt.tag ok cause addr []] } (.put pkt)

/-- The status of a refusal that asks for a resend (01 R28). -/
def retryStatus : Nat := 0xFF

/-! ## Puts (05 R96, R100) -/

/-- The cores that see a put's bytes once they see its counter, or the end of a copy that one of them issued to its own package (05
R96). -/
def putCores (s : State) (pkt : FabPkt) (count : Option (Nat × Nat)) : List Nat :=
  (count.map Prod.fst).toList ++
    (if pkt.src = here s then ((s.copies.find? (fun c => c.seq == pkt.tag / 2 ^ 32)).map (fun c => c.core)).toList else [])

/-- A put that has passed its checks: written at its home, the remote counter raised by the last packet, and acknowledged; none while
a gate holds it. The lines of its bytes leave the L1 of the cores that are to see them. -/
def performPut (s : State) (pkt : FabPkt) (red : Nat) (bytes : List PByte) (last : Bool) (count : Option (Nat × Nat)) (pa : Option Nat) :
    Option State :=
  (match pa with
    | none => some s
    | some pa => copyPut ((putCores s pkt count).foldl (fun a c => leaveRange a c pa bytes.length) s) red pa bytes).map
    (fun a =>
      let a := match count with
        | some (core, k) => if last then addCounter a core k 1 else a
        | none => a
      answer (markApplied a pkt.src 0 pkt.tag) pkt true 0 0)

/-- A put (11 R197): applied before, refused, held at a moving frame or before a gate, or performed. -/
def ingressPut (s : State) (pkt : FabPkt) (red : Nat) (bytes : List PByte) (last rce : Bool) (rcnt rcore : Nat) : State :=
  let refuse (c : Cause) : State := answer s pkt false c.code (fabricAddr s pkt.off)
  match partOfSpid s pkt.spid with
  | none => refuse .prot
  | some p =>
    let count := if rce then some (rcore, rcnt) else none
    if wasApplied s pkt.src 0 pkt.tag then answer s pkt true 0 0
    else if closed s (getPart s p) || (rce && !((coresOf s p).contains rcore)) then refuse .prot
    else if bytes.isEmpty then (performPut s pkt red bytes last count none).getD s
    else
      match heldOf s (.put pkt) with
      | some h => if h.ready s then (performPut s pkt red bytes last count (h.spots.head?.map (fun x => x.2.1))).getD s else s
      | none =>
        match windowSide s p pkt.src pkt.off bytes.length true with
        | (.inGlobal x, moves) =>
          let a := if moves then s else keepPort s p pkt.src pkt.off x
          let spots := [((getPart s p).windowVa pkt.off, x.pa, bytes.length, moves)]
          ((if moves then none else performPut a pkt red bytes last count (some x.pa))).getD (holdAccess a p pkt.src (.put pkt) spots)
        | (.fails e _ _, _) => refuse e
        | _ => s

/-! ## Field messages (03 R74, R77, R78) -/

/-- The domain that a field message names, unless its partition takes no access from outside (14 R267). -/
def domainAt (s : State) (spid slot : Nat) : Option Domain :=
  (partOfSpid s spid).bind (fun p => if closed s (getPart s p) then none else findDomain s (p * 4096 + slot))

/-- Sends a field message back. -/
def reply (s : State) (pkt : FabPkt) (b : FabBody) : State :=
  { s with fabricOut := s.fabricOut ++ [FabricOut.packet pkt.src { src := here s, spid := pkt.spid, tag := pkt.tag, off := pkt.off, body := b }] }

/-- The value of a cell for a reader elsewhere: taps, drains and unreachable cells read zero (03 R78). -/
def cellRead (s : State) (d : Domain) (c : Nat) : Nat :=
  if d.sources.contains c || d.sinks.contains c then 0
  else
    match cellPa s d true c with
    | some pa => readMem s pa d.cellBytes
    | none => 0

/-- A debit asked for by another package (03 R74 step 1): answered again if it was done (11 R196), refused, kept while its home has no
free record (03 R75), or done. (DEDUCED, log entry 32.) -/
def ingressDebit (s : State) (pkt : FabPkt) (r : FieldRec) (clip : Bool) : State :=
  match s.debitsDone.find? (fun e => e.1 == pkt.src && e.2.1 == pkt.tag) with
  | some e => e.2.2.foldl (fun a b => reply a pkt b) s
  | none =>
    match domainAt s pkt.spid r.slot with
    | none => reply s pkt (.fieldMoved 0 Cause.prot.code)
    | some d =>
      let o : Origin := { core := remoteCore, die := 0, sid := pkt.src, ply := d.part, tag := pkt.tag, ctx := d.ctx, pc := 0, acq := false, rel := false }
      let x : XferLane := { org := o, dom := d.key, lane := r.lane, fromCell := r.fromCell, toCell := r.toCell, mag := r.amount, neg := false,
                            clip := clip, dest := 0, destSup := false, stage := 3 }
      if s.flight.contains (.debit x) then s
      else if homeFull s d x then { s with flight := s.flight ++ [.debit x] }
      else debitFor s d x

/-- The key under which a debit home's records are numbered here. -/
def seqKey (src home : Nat) : Nat := src * 256 + home

/-- Applies the next record of a debit home, and then those held behind it (03 R77). -/
def applyCredits (src home p : Nat) : Nat → FieldRec → State → State
  | 0, _, s => s
  | n + 1, r, s =>
    let x := if closed s (getPart s p) then (Cause.prot.code, s) else creditHere s (p * 4096 + r.slot) true r
    let a := { x.2 with applied := Tbl.set 0 x.2.applied (seqKey src home) r.seq,
                        refusedCredits := if x.1 = 0 then x.2.refusedCredits else x.2.refusedCredits ++ [(seqKey src home, r.seq, x.1)] }
    let pk : FabPkt := { src := here s, spid := spidOf s p, tag := r.tag * 32 + r.lane, off := 0, body := .fieldCredited home r x.1 }
    let a := { a with fabricOut := a.fabricOut ++ [FabricOut.packet src pk] }
    match a.heldCredits.find? (fun h => h.1 == src && h.2.1 == home * 8 + p && h.2.2.seq == r.seq + 1) with
    | none => a
    | some h => applyCredits src home p n h.2.2 { a with heldCredits := a.heldCredits.erase h }

/-- A credit from another package: applied in sequence, acknowledged again, or held (03 R77). -/
def ingressCredit (s : State) (pkt : FabPkt) (home : Nat) (r : FieldRec) : State :=
  match partOfSpid s pkt.spid with
  | none => s
  | some p =>
    let done := Tbl.get 0 s.applied (seqKey pkt.src home)
    if r.seq ≤ done then
      reply s pkt (.fieldCredited home r (((s.refusedCredits.find? (fun x => x.1 == seqKey pkt.src home && x.2.1 == r.seq)).map
        (fun x => x.2.2)).getD 0))
    else if r.seq = done + 1 then applyCredits pkt.src home p (s.heldCredits.length + 1) r s
    else if s.heldCredits.contains (pkt.src, home * 8 + p, r) then s
    else { s with heldCredits := s.heldCredits ++ [(pkt.src, home * 8 + p, r)] }

/-- The answer to a credit that a debit home here has sent (03 R74). -/
def ingressCredited (s : State) (home : Nat) (r : FieldRec) (cause : Nat) : State :=
  match s.transits.find? (fun t => t.sent && t.home == home && t.record == r) with
  | none => s
  | some t =>
    let a := dropTransit s t.dom home r t.org
    let a := if cause = 0 then a else refundCell a t.dom r.fromCell r.amount
    domainStep (settleLane a t.org r.lane cause) t.dom

/-- The transfer lane in flight that an answer's tag names, at a stage. -/
def laneOfTag (s : State) (tag stage : Nat) : Option XferLane :=
  s.flight.findSome? (fun i => match i with
    | .debit x => if x.org.tag * 32 + x.lane = tag ∧ x.stage = stage then some x else none
    | _ => none)

/-- The cause of a debit that failed elsewhere. -/
def debitCause (n : Nat) : Cause :=
  match n with
  | 0x0C => .fneg
  | 0x0D => .fovf
  | _ => causeAt n

/-- The FTOT that waits for totals under a tag. -/
def totalOfTag (s : State) (tag : Nat) : Option Item :=
  s.flight.find? (fun x => match x with
    | .totalAsk g _ _ _ _ _ _ => g * 32 == tag
    | _ => false)

/-- An FTOT whose total home refuses it traps PROT (14 R267). -/
def refuseTotal (s : State) (i : Item) : State :=
  match i with
  | .totalAsk _ sid ply ns _ _ h => wakeBack { s with flight := s.flight.erase i } (sid, ply, ns, 0) false h
  | _ => s

/-- The end of a transfer that was debited elsewhere. -/
def ingressSettled (s : State) (tag cause : Nat) : State :=
  match laneOfTag s tag 2 with
  | none => s
  | some x => domainStep (settleLane { s with flight := s.flight.erase (.debit x) } x.org x.lane cause) x.dom

/-- The bytes of a piece of a cell, from its value. -/
def pieceBytes (v off len : Nat) : List PByte := clean (((natToBytes v 8).drop off).take len)

/-- The copy that has asked for a cell elsewhere under a tag, of which it uses a new one for each piece (11 R196). -/
def copyAsking (s : State) (tag : Nat) : Option Copy := s.copies.find? (fun c => c.ask == tag && c.state == .asked)

/-- The value of a cell elsewhere reaches a copy that has asked for it. -/
def copyValue (s : State) (tag off v : Nat) : State :=
  match copyAsking s tag with
  | some c => setCopy s { c with state := .running, got := c.got ++ pieceBytes v (off / 16) (off % 16) }
  | none => s

/-- The value of a cell elsewhere reaches the read that has asked for it, which goes on with its next piece (03 R78). -/
def ingressValue (s : State) (tag off v : Nat) : State :=
  match s.flight.find? (fun i => match i with
    | .fieldAsk o acc _ _ _ _ sent => sent && o.tag * 32 + acc.lane == tag && acc.va + acc.data.length == off
    | _ => false) with
  | some (.fieldAsk o acc uni p slot (c :: t) sent) =>
    let r := askCells s o { acc with data := acc.data ++ pieceBytes v c.off c.len } uni p slot t
    { replaceItem s (s.flight.idxOf (.fieldAsk o acc uni p slot (c :: t) sent)) [r.1] with fabricOut := s.fabricOut ++ r.2 }
  | _ => copyValue s tag off v

/-- A read of a cell elsewhere is refused (14 R267): a copy stops as at any refusal (05 R102), and a lane receives zero, as for a cell
that ingress cannot reach (03 R78). (DEDUCED, log entry 32.) -/
def refuseRead (s : State) (tag off cause : Nat) : State :=
  match copyAsking s tag with
  | some c => stopCopy s c (causeAt cause) c.here_.1
  | none => ingressValue s tag off 0

/-- The answer to a debit that this package asked for, or the refusal of an FTOT or of the read of a cell. -/
def ingressMoved (s : State) (tag off moved cause : Nat) : State :=
  match laneOfTag s tag 1, totalOfTag s tag with
  | none, some t => refuseTotal s t
  | none, none => if cause = 0 then s else refuseRead s tag off cause
  | some x, _ =>
    let rest := s.flight.erase (.debit x)
    let wide := ((findDomain s x.dom).map (fun d => d.wide)).getD false
    if cause = 0 then decideLane { s with flight := rest ++ [Item.debit { x with stage := 2 }] } x wide (.move moved) false
    else domainStep (decideLane { s with flight := rest } x wide (.fail (debitCause cause)) true) x.dom

/-- The totals of a domain whose total home is elsewhere. -/
def ingressTotal (s : State) (tag i inj rem : Nat) : State :=
  match totalOfTag s tag with
  | some (.totalAsk g sid ply ns d sel h) =>
    let a := { s with flight := s.flight.erase (.totalAsk g sid ply ns d sel h) }
    wake a (sid, ply, ns, d) 0 |> fun b => setSkein b sid ((getSkein b sid).setPair ply d
      (totalSel sel (BitVec.ofNat 128 i) (BitVec.ofNat 128 inj) (BitVec.ofNat 128 rem)))
  | _ => s

/-- FABRIC_INGRESS_ACCESS (11 R196, R197; 03 R74, R77, R78); a partition that takes no access refuses the read of a cell (14 R267).
(DESIGN CHOICE, log entry 5.) -/
def execFabricIngressAccess (pkt : FabPkt) (s : State) : Host.Outcome State Fault Refusal :=
  .next (match pkt.body with
    | .put red bytes last rce rcnt rcore => ingressPut s pkt red.toNat bytes last rce rcnt rcore
    | .fieldRead slot cell =>
      if (partOfSpid s pkt.spid).any (fun p => closed s (getPart s p)) then reply s pkt (.fieldMoved 0 Cause.prot.code)
      else reply s pkt (.fieldValue (match domainAt s pkt.spid slot with
        | some d => cellRead s d cell
        | none => 0))
    | .fieldDebit r clip => ingressDebit s pkt r clip
    | .fieldCredit home r => ingressCredit s pkt home r
    | .fieldCredited home r cause => ingressCredited s home r cause
    | .fieldMoved moved cause => ingressMoved s pkt.tag pkt.off moved cause
    | .fieldSettled cause => ingressSettled s pkt.tag cause
    | .fieldValue v => ingressValue s pkt.tag pkt.off v
    | .fieldTotals slot => match domainAt s pkt.spid slot with
        | some d => reply s pkt (.fieldTotal d.initial.toNat d.injected.toNat d.removed.toNat)
        | none => reply s pkt (.fieldMoved 0 Cause.prot.code)
    | .fieldTotal i j r => ingressTotal s pkt.tag i j r)

/-- Answers a COLL packet. -/
def collAnswer (s : State) (pkt : CollPkt) (a : CollAnswer) : State :=
  unhold { s with fabricOut := s.fabricOut ++ [FabricOut.collAnswer pkt.src pkt.tag a] } (.coll pkt)

/-- Whether the next bytes that a copy writes lie in a frame that moves (01 R28). -/
def Copy.writesMoving (c : Copy) (s : State) : Bool :=
  let k := getSkein s c.sid
  let a := if c.kind = .tree then c.dst + dw c.progress else c.here_.2
  c.state == .running && c.total != 0 && spaceOf a == 0 && (match c.pin, translate s c.core k.part k.ctx a.toNat with
    | some x, _ => s.moving.contains (x.1 / 0x10000)
    | none, .ok x => s.moving.contains (x.pa / 0x10000)
    | none, .bad _ en => movingLeaf en)

/-- MOVING_HOLD_TIMEOUT (01 R28): access number `n` held at a moving frame, a packet or else a chunk of a core's own copy,
is refused with a retry status; the own copy's engine counts it and tries again. An access that waits before a gate goes on waiting.
(DESIGN CHOICE, log entry 6.) -/
def execMovingHoldTimeout (n : Nat) (s : State) : Host.Outcome State Fault Refusal :=
  .next (match s.heldPkts[n]? with
    | some h =>
      if h.ready s then s
      else
        match h.body with
        | .put pkt => answer s pkt false retryStatus (fabricAddr s pkt.off)
        | .coll pkt => collAnswer s pkt .retry
        | .host _ _ _ => s
    | none =>
      match s.copies[n - s.heldPkts.length]? with
      | none => s
      | some c => if c.writesMoving s then countRetry (setCopy s { c with pin := none }) c.core else s)

/-! ## COLL packets (11 R206, R209) -/

/-- One element's bytes. -/
def elemBytes (op : BitVec 2) (e : CollElem) : List PByte :=
  (natToBytes e.data.toNat (collSize op)).map (fun v => { val := v, bad := e.bad })

/-- Performs the elements at their addresses in lane order; none while a gate holds one of them. Their lines leave the L1 of the
counter's core (11 R209). -/
def performElems (op : BitVec 2) (rcore : Option Nat) : List (CollElem × Nat) → State → Option State
  | [], s => some s
  | (e, pa) :: t, s =>
    (copyPut (match rcore with
      | some c => leaveRange s c pa (collSize op)
      | none => s) (collRed op) pa (elemBytes op e)).bind (performElems op rcore t)

/-- A COLL packet that has passed its checks: all elements are performed, and the counter rises by their number; none while a gate holds
one of them. -/
def performColl (s : State) (pkt : CollPkt) (e : CollEntry) (pas : List Nat) : Option State :=
  let w4 := e.word 4
  let rcore := if bitOf w4 15 then some (fieldOf w4 24 8) else none
  (performElems pkt.op rcore (pkt.elems.zip pas) s).map (fun a =>
    let a := match rcore with
      | some c => addCounter a c (fieldOf w4 16 6) (BitVec.ofNat 32 pkt.elems.length)
      | none => a
    collAnswer (markApplied a pkt.src 2 pkt.tag) pkt .performed)

/-- A COLL packet under the current attempt: every element passes ingress, or the packet is refused; a moving frame or a gate holds
it. -/
def ingressColl (s : State) (pkt : CollPkt) (p : Nat) (e : CollEntry) : State :=
  let sides := pkt.elems.map (fun x => (x, windowSide s p pkt.src x.off (collSize pkt.op) true))
  let spots := sides.filterMap (fun x => match x.2 with
    | (.inGlobal t, moves) => some (x.1, t, moves)
    | _ => none)
  match sides.find? (fun x => match x.2.1 with
    | .inGlobal _ => false
    | _ => true) with
  | some (x, .fails c _ _, _) => collAnswer s pkt (.refused c.code (fabricAddr s x.off))
  | some _ => s
  | none =>
    let moves := spots.any (fun x => x.2.2)
    let a := if moves then s else spots.foldl (fun a x => keepPort a p pkt.src x.1.off x.2.1) s
    (if moves then none else performColl a pkt e (spots.map (fun x => x.2.1.pa))).getD
      (holdAccess a p pkt.src (.coll pkt) (spots.map (fun x => ((getPart s p).windowVa x.1.off, x.2.1.pa, collSize pkt.op, x.2.2))))

/-- COLL_PACKET_INGRESS (11 R206). (DESIGN CHOICE, log entry 5.) -/
def execCollPacketIngress (pkt : CollPkt) (s : State) : Host.Outcome State Fault Refusal :=
  .next (match partOfSpid s pkt.spid with
    | none => collAnswer s pkt (.refused Cause.prot.code 0)
    | some p =>
      if wasApplied s pkt.src 2 pkt.tag then collAnswer s pkt .performed
      else if closed s (getPart s p) then collAnswer s pkt (.refused Cause.prot.code 0)
      else
        match s.colls.find? (fun e => e.1 == collKey p pkt.id), heldOf s (.coll pkt) with
        | none, _ => collAnswer s pkt .retry
        | some e, some h => if h.ready s then (performColl s pkt e.2 (h.spots.map (fun x => x.2.1))).getD s else s
        | some e, none =>
          let late := (e.2.attempt - BitVec.ofNat 16 pkt.attempt).toNat
          if late = 0 then ingressColl s pkt p e.2
          else if late ≤ 32767 then
            let x := getPart s p
            collAnswer (setPart s p { x with collDrop := min (x.collDrop + 1) 0xFFFFFFFF }) pkt .dropped
          else collAnswer s pkt .retry)

end Sys2Proof.Machine
end

