-- ==== Sys2Proof/Machine/Matrix.lean ====
section
/-! DEFINITION. The matrix engine (10 R179 to R192): tiles and their formats, accumulator tokens, the engine queue with its
events, MMA and MLOOP steps (09 R176), requantization (09 R173) and the ways in and out. -/

namespace Sys2Proof.Machine

/-! ## Tiles -/

/-- A tile's configuration: at placement T8, 64 rows of 64 columns (10 R179). -/
def tileCfgOf (k : Skein) (t : Nat) : BitVec 14 := Tbl.get 0x0FE7 k.tileCfg t

/-- The format code of a configuration. -/
def cfgFmt (c : BitVec 14) : Nat := (c.extractLsb' 11 3).toNat
/-- Its rows. -/
def cfgRows (c : BitVec 14) : Nat := (c.extractLsb' 5 6).toNat + 1
/-- Its columns. -/
def cfgCols (c : BitVec 14) : Nat := 8 * ((c.extractLsb' 0 5).toNat + 1)
/-- The bytes of one row. -/
def cfgRowBytes (c : BitVec 14) : Nat := tileRowBytes (cfgFmt c) (cfgCols c)
/-- The bytes of all rows. -/
def cfgBytes (c : BitVec 14) : Nat := cfgRows c * cfgRowBytes c

/-- One byte of a tile; poison is kept by aligned word (01 R402). -/
def tileByte (k : Skein) (t i : Nat) : PByte :=
  { val := Tbl.get 0 k.tile (4096 * t + i), bad := Tbl.get false k.tileBad (1024 * t + i / 4) }

/-- `n` bytes of a tile. -/
def tileRead (k : Skein) (t i n : Nat) : List PByte := (List.range n).map (fun j => tileByte k t (i + j))

/-- Writes a tile from its first byte on. -/
def tileWrite (k : Skein) (t : Nat) (data : List PByte) : Skein :=
  let bad (w : Nat) : Bool :=
    let mine := (data.drop (4 * w)).take 4
    if mine.any (fun b => b.bad) then true else if mine.length = 4 then false else Tbl.get false k.tileBad (1024 * t + w)
  { k with tile := data.zipIdx.foldl (fun m e => Tbl.set 0 m (4096 * t + e.2) e.1.val) k.tile,
           tileBad := (List.range ((data.length + 3) / 4)).foldl (fun m w => Tbl.set false m (1024 * t + w) (bad w)) k.tileBad }

/-- The code of element (i, c) of a tile with its poison (10 R180). -/
def tileCode (k : Skein) (t i c : Nat) : Nat × Bool :=
  let cfg := tileCfgOf k t
  let row := i * cfgRowBytes cfg
  let get (o n : Nat) : Nat × Bool :=
    let bs := tileRead k t (row + o) n
    (bytesToNat (bs.map (fun b => b.val)), bs.any (fun b => b.bad))
  match cfgFmt cfg with
  | 0 =>
    let g := get (3 * (c / 4)) 3
    (fieldOf g.1 (6 * (c % 4)) 6, g.2)
  | 2 => get (2 * c) 2
  | 3 => get (2 * c) 2
  | 6 => get (4 * c) 4
  | _ => get c 1

/-- The exact value of a code in a format. -/
def codeValue (fmt x : Nat) : FNum :=
  match fmt with
  | 0 => taperedRead true x
  | 1 => taperedRead false x
  | 2 => bf16.read x
  | 3 => f16.read x
  | 4 => let v := (BitVec.ofNat 8 x).toInt; .fin (decide (v < 0)) v.natAbs 0
  | 5 => .fin false x 0
  | _ => f32.read x

/-- A value times its scale (09 R171): 0xFF makes every element of the block a NaN. -/
def scaled (x : FNum) (e : Byte) : FNum :=
  match scaleExp e, x with
  | none, _ => .nan false
  | some k, .fin n m f => .fin n m (f + k)
  | some _, y => y

/-! ## Accumulators and scales -/

/-- The key of element (i, j) of accumulator `a`. -/
def accKey (a i j : Nat) : Nat := 4096 * a + 64 * i + j

/-- An element of an accumulator. -/
def accElem (k : Skein) (a i j : Nat) : Word := Tbl.get 0 k.acc (accKey a i j)

/-- The block length of a BLK code: 16, 32 or 64. -/
def blkLen (b : Nat) : Nat := 2 ^ (4 + b)

/-- The scale blocks that the K elements of a step reach: the first, and how many. -/
def scaleBlocks (w : ScaleWord) (kb kn : Nat) : Nat × Nat := (kb / blkLen w.blk, (kb + kn - 1) / blkLen w.blk + 1 - kb / blkLen w.blk)

/-- The scale bytes of a step's operand, `rows` rows of them. -/
def readScales (k : Skein) (w : ScaleWord) (rows kb kn : Nat) : List PByte :=
  if w.on then
    let b := scaleBlocks w kb kn
    (List.range rows).flatMap (fun i => lsRead k (w.base + i * w.stride + b.1) b.2)
  else []

/-- The scale of element `n` along K in row `i` of an operand; 1 where there is none. -/
def scaleAt (w : ScaleWord) (scales : List PByte) (kb kn i n : Nat) : PByte :=
  if w.on then
    let b := scaleBlocks w kb kn
    scales.getD (i * b.2 + ((kb + n) / blkLen w.blk - b.1)) { val := 127, bad := false }
  else { val := 127, bad := false }

/-- One element of a step (09 R176): the accumulator's new word and whether poison reached it. -/
def stepElem (k : Skein) (a ta tb : Nat) (sa sb : ScaleWord) (sc : List PByte × List PByte) (kb i j : Nat) : Word × Bool :=
  let ca := tileCfgOf k ta
  let cb := tileCfgOf k tb
  let kn := cfgCols ca
  let r := (List.range kn).foldl (fun (x : FNum × Bool) n =>
    let u := tileCode k ta i n
    let v := tileCode k tb n j
    let su := scaleAt sa sc.1 kb kn i n
    let sv := scaleAt sb sc.2 kb kn j n
    let p := (mulExact (scaled (codeValue (cfgFmt ca) u.1) su.val) (scaled (codeValue (cfgFmt cb) v.1) sv.val)).1
    ((addExact .rne x.1 p).1, x.2 || u.2 || v.2 || su.bad || sv.bad)) (.fin false 0 0, false)
  let old := accElem k a i j
  let new := match r.1 with
    | .nan _ => BitVec.ofNat 32 f32.nan
    | s => if s.isZero then old else BitVec.ofNat 32 (f32.round .rne false (addExact .rne (f32.read old.toNat) s).1).1
  (new, r.2)

/-- A step updates every element below A's rows and B's columns. -/
def matStep (k : Skein) (a ta tb : Nat) (sa sb : ScaleWord) (sc : List PByte × List PByte) (kb : Nat) : Skein :=
  let rows := cfgRows (tileCfgOf k ta)
  let cols := cfgCols (tileCfgOf k tb)
  let es := (List.range rows).flatMap (fun i => (List.range cols).map (fun j => (accKey a i j, stepElem k a ta tb sa sb sc kb i j)))
  es.foldl (fun k e => { k with acc := Tbl.set 0 k.acc e.1 e.2.1, accBad := if e.2.2 then Tbl.set false k.accBad e.1 true else k.accBad }) k

/-- Every element of an accumulator becomes +0 (10 R191). -/
def clearAcc (k : Skein) (a : Nat) : Skein :=
  { k with acc := k.acc.filter (fun e => e.1 / 4096 != a), accBad := k.accBad.filter (fun e => e.1 / 4096 != a) }

/-! ## Requantization (09 R173, 10 R191) -/

/-- The exponent of the largest magnitude of a block; none for an infinity. -/
def blockExp (xs : List FNum) : Option Int :=
  xs.foldl (fun o x => match o, x with
    | some e, .fin _ m f => some (if m = 0 then e else max e (f + bitLen m - 1))
    | _, .inf _ => none
    | o, _ => o) (some (-1000000))

/-- One block: its scale, its codes, and MSAT. -/
def quantBlock (t6 : Bool) (xs : List FNum) : Nat × List Nat × Bool :=
  let n := taperedBits t6
  if xs.any FNum.isNan then (0xFF, xs.map (fun _ => 2 ^ n), false)
  else if xs.all FNum.isZero then (0, xs.map (fun _ => 0), false)
  else
    let emax : Int := if t6 then 4 else 12
    let small : Int := if t6 then 5 else 13
    let b : Int := match blockExp xs with
      | some e => e - emax + 127
      | none => 1000
    let sat := decide (254 < b)
    let tiny := decide (b < 0)
    let b := if sat then 254 else if tiny then 0 else b
    let code (x : FNum) : Nat := match x with
      | .fin s m e =>
        let f := e - (b - 127)
        if tiny && (if f + small ≤ 0 then decide (m ≤ 2 ^ (-(f + small)).toNat) else m == 0) then 0 else (taperedWrite t6 (.fin s m f)).1
      | y => (taperedWrite t6 y).1
    (b.toNat, xs.map code, sat)

/-- Packs a row of codes: T6 in groups of four, T8 a byte each (10 R180). -/
def packCodes (t6 : Bool) : List Nat → List Byte
  | a :: b :: c :: d :: t =>
    (if t6 then natToBytes (a + b * 2 ^ 6 + c * 2 ^ 12 + d * 2 ^ 18) 3 else [a, b, c, d].map (BitVec.ofNat 8)) ++ packCodes t6 t
  | t => t.map (BitVec.ofNat 8)

/-- What AQNT makes of one stored row: element bytes, scale bytes and MSAT; a block with a poisoned element is poisoned
whole. (DEDUCED, log entry 26.) -/
def quantRow (k : Skein) (a : Nat) (t6 tr : Bool) (bl i : Nat) : List PByte × List PByte × Bool :=
  let key (j : Nat) : Nat := if tr then accKey a j i else accKey a i j
  let bs := (List.range (64 / bl)).map (fun b =>
    let js := rangeFrom (b * bl) bl
    let q := quantBlock t6 (js.map (fun j => f32.read (Tbl.get 0 k.acc (key j)).toNat))
    let bad := js.any (fun j => Tbl.get false k.accBad (key j))
    ((packCodes t6 q.2.1).map (fun v => ({ val := v, bad := bad } : PByte)), ({ val := BitVec.ofNat 8 q.1, bad := bad } : PByte), q.2.2))
  (bs.flatMap (fun b => b.1), bs.map (fun b => b.2.1), bs.any (fun b => b.2.2))

/-- AQNT performed: the elements, the scales and their full bits; MSAT. -/
def quantize (k : Skein) (a elem scale : Nat) (clear tr : Bool) (blk fmt : Nat) : Skein × Bool :=
  let rs := (List.range 64).map (quantRow k a (fmt == 0) tr (blkLen blk))
  let es := rs.flatMap (fun r => r.1)
  let ss := rs.flatMap (fun r => r.2.1)
  let k := setFull (setFull (lsWrite (lsWrite k elem es) scale ss) elem es.length) scale ss.length
  (if clear then clearAcc k a else k, rs.any (fun r => r.2.2))

/-! ## Tokens and the queue -/

/-- Whether a request names an accumulator. -/
def MatOp.names (o : MatOp) (c : Chain) (a : Nat) : Bool :=
  match o with
  | .mma b _ _ _ _ _ => b == a
  | .loop => c.acc == a
  | .quant b _ _ _ _ _ _ => b == a
  | .clear b => b == a
  | .move b => b == a
  | _ => false

/-- The ply that holds an accumulator's token, counted from 1; 0 for none. -/
def tokenOf (k : Skein) (a : Nat) : Nat := Tbl.get 0 k.token a

/-- Whether some live strand of a skein has issued an instruction that names an accumulator and waits for the engine to take it. -/
def engineWaits (s : State) (sid a : Nat) : Bool := anyWaits s sid (.engine a)

/-- Whether an accumulator's token is free: no ply holds it and no earlier request that names it is left (10 R184). -/
def tokenFree (s : State) (sid a : Nat) : Bool :=
  let k := getSkein s sid
  tokenOf k a == 0 && !(k.queue.any (fun r => r.op.names k.chain a)) && !engineWaits s sid a

/-- Whether the group has issued its instruction, which names this accumulator, and waits for the engine. -/
def tokenJudged (a : Nat) (s : State) : Bool := (curStrand s ((grp s).headD 0)).wait == .engine a

/-- The ACCTOK check of an accumulator that an instruction names: made once, before any wait for the engine (10 R184). -/
def needToken (a : Nat) (s : State) (k : State → State) : State :=
  if tokenOf (curSkein s) a = s.cur.ply + 1 ∨ tokenJudged a s = true then k s else trapAll s .acctok (dw a)

/-- The stalls of 10 R182, in the wait `w`: a chain in flight, a full queue, and TL at its limit where the request counts in it.
(DEDUCED, log entry 26.) -/
def needQueue (tl : Bool) (w : Wait) (s : State) (k : State → State) : State :=
  let sk := curSkein s
  if sk.chain.active || decide (8 ≤ sk.queue.length) || (tl && (grp s).any (fun n => decide (63 ≤ (curStrand s n).tl))) then stall s w
  else k s

/-- The request that the group makes. -/
def matReq (s : State) (o : MatOp) : MatReq := { op := o, ply := s.cur.ply, strands := grp s, stage := .queued, age := 0 }

/-- A request takes its place at the end of the skein's queue. -/
def pushMat (s : State) (r : MatReq) : State := setSkein s s.cur.sid { curSkein s with queue := (curSkein s).queue ++ [r] }

/-- Enters a request that counts in TL, and the group goes on. -/
def enterMat (s : State) (o : MatOp) : State :=
  retire (mapStrands (pushMat s (matReq s o)) s.cur.sid s.cur.ply (grp s) (fun _ t => { t with tl := t.tl + 1 })) 4

/-- Whether a request of the queue is the group's own, made when its instruction issued: the group is what is left of the one that
made it. -/
def MatReq.mine (r : MatReq) (s : State) (o : MatOp) : Bool := r.op == o && r.ply == s.cur.ply && (grp s).all r.strands.contains

/-- TCFG and AMOV: the request takes a place in the queue, and the group waits in `w` until the engine has performed everything
before it, then performs it (10 R182). (DESIGN CHOICE, log entry 14.) -/
def inTurn (o : MatOp) (w : Wait) (s : State) (k : State → State) : State :=
  match (curSkein s).queue with
  | [] => if (curSkein s).chain.active then stall s w else k s
  | r :: q =>
    if r.mine s o then k (setSkein s s.cur.sid { curSkein s with queue := q })
    else if q.any (fun r => r.mine s o) then stall s w
    else needQueue false w s (fun s => stall (pushMat s (matReq s o)) w)

/-- Whether a request is performed by its own group, in its turn. -/
def MatOp.byGroup : MatOp → Bool
  | .config _ _ => true
  | .move _ => true
  | _ => false

/-- Whether a strand waits for a TCFG or AMOV that its group has in the queue: a save lets it complete (10 R193). -/
def matBegun (s : State) (sid ply n : Nat) : Bool :=
  (match (getStrand s (strandKey sid ply n)).wait with
    | .poll => true
    | .engine _ => true
    | _ => false) && (getSkein s sid).queue.any (fun r => r.op.byGroup && r.ply == ply && r.strands.contains n)

/-- A request at the head that asks nothing of the engine: an MREL, or one whose group no longer waits for it. -/
def MatReq.idle (s : State) (sid : Nat) (r : MatReq) : Bool :=
  match r.op with
  | .release _ => true
  | o => o.byGroup && !(r.strands.any (matBegun s sid r.ply))

/-- The queue from its first request that is not idle on. -/
def leadQueue (s : State) (sid : Nat) : State :=
  let k := getSkein s sid
  setSkein s sid { k with queue := k.queue.dropWhile (MatReq.idle s sid) }

/-- Whether a range lies inside the skein's local store. -/
def inStore (k : Skein) (off n : Nat) : Bool := decide (off + n ≤ k.lsSize)

/-- TCFG (10 R180). -/
def execTcfg (t : BitVec 3) (f : BitVec 3) (r : BitVec 6) (c : BitVec 5) (s : State) : Host.Outcome State Fault Refusal :=
  .next (uniEnter (.tcfg t f r c) .user [t.toNat] [] [] [] s (fun s =>
    inTurn (.config t.toNat (f ++ r ++ c)) .poll s (fun s =>
      let k := curSkein s
      retire (setSkein s s.cur.sid { k with tileCfg := Tbl.set 0x0FE7 k.tileCfg t.toNat (f ++ r ++ c) }) 4)))

/-- The issuing skein with the configurations that the TCFGs in its queue will have given by the time that a request made now is
performed: requests are performed in issue order (10 R182, 22 R378). -/
def configured (s : State) : Skein :=
  let k := curSkein s
  { k with tileCfg := k.queue.foldl (fun m r => match r.op with
      | .config t cfg => Tbl.set 0x0FE7 m t cfg
      | _ => m) k.tileCfg }

/-- The address checks of TLD and TST (10 R189). -/
def tileMove (t : Nat) (w : DWord) (op : Nat → MatOp) (s : State) : State :=
  let k := configured s
  if lsOffset w % 64 ≠ 0 then trapAll s .misalign w
  else if !(inStore k (lsOffset w) (cfgBytes (tileCfgOf k t))) then trapAll s .lsbound w
  else needQueue true .poll s (fun s => enterMat s (op (lsOffset w)))

/-- TLD (10 R189). -/
def execTld (t : BitVec 3) (a : BitVec 5) (s : State) : Host.Outcome State Fault Refusal :=
  .next (uniEnter (.tld t a) .user [t.toNat] [] [a.toNat] [] s (fun s => tileMove t.toNat (wReg s a.toNat) (.load t.toNat) s))

/-- TST (10 R189). -/
def execTst (t : BitVec 3) (a : BitVec 5) (s : State) : Host.Outcome State Fault Refusal :=
  .next (uniEnter (.tst t a) .user [t.toNat] [] [a.toNat] [] s (fun s => tileMove t.toNat (wReg s a.toNat) (.store t.toNat) s))

/-- MACQ (10 R184). -/
def execMacq (k : BitVec 3) (s : State) : Host.Outcome State Fault Refusal :=
  .next (uniEnter (.macq k) .user [] [k.toNat] [] [] s (fun s =>
    let sk := curSkein s
    let me := s.cur.ply + 1
    if tokenOf sk k.toNat = me then retire s 4
    else if sk.token.any (fun e => e.2 == me && decide (k.toNat < e.1)) then trapAll s .acctok (dw k.toNat)
    else if tokenFree s s.cur.sid k.toNat then retire (setSkein s s.cur.sid { sk with token := Tbl.set 0 sk.token k.toNat me }) 4
    else stall s (.accToken k.toNat)))

/-- MREL (10 R182, R184): the ply holds the token no more, and the release takes its place in the queue; the token becomes free when
the requests that name it have completed. -/
def execMrel (k : BitVec 3) (s : State) : Host.Outcome State Fault Refusal :=
  .next (uniEnter (.mrel k) .user [] [k.toNat] [] [] s (fun s =>
    needToken k.toNat s (fun s =>
      let sk := curSkein s
      let a := setSkein s s.cur.sid { sk with token := Tbl.set 0 sk.token k.toNat 0 }
      if sk.queue.isEmpty then retire a 4
      else if 8 ≤ sk.queue.length then stall s (.engine k.toNat)
      else retire (pushMat a (matReq s (.release k.toNat))) 4)))

/-! ## Format blocks (10 R185, R186) -/

/-- The scale word that an operand word describes. -/
def scaleWord (w : Nat) : ScaleWord :=
  if bitOf w 3 then { base := fieldOf w 32 32, stride := fieldOf w 16 12, blk := fieldOf w 4 2, on := true } else ScaleWord.reset

/-- The cause of an operand word that breaks 10 R185. (DEDUCED, log entry 26.) -/
def operandBad (w fmt : Nat) : Option Cause :=
  if fieldOf w 28 4 != 0 || fieldOf w 6 10 != 0 || fieldOf w 4 2 == 3 || fieldOf w 0 3 != fmt ||
      (!bitOf w 3 && (fieldOf w 32 32 != 0 || fieldOf w 16 12 != 0 || fieldOf w 4 2 != 0)) then some .prot
  else if fieldOf w 32 4 ≠ 0 then some .misalign
  else none

/-- Whether the scale bytes of an operand lie inside the allocation: `rows` rows, K from `kb` on. -/
def scalesFit (k : Skein) (w : ScaleWord) (rows last : Nat) : Bool :=
  !w.on || inStore k (w.base + (rows - 1) * w.stride + last / blkLen w.blk) 1

/-- The words of a format block at an offset of the local store. (DESIGN CHOICE, log entry 27.) -/
def formatWords (k : Skein) (off : Nat) : List Nat := (bytesDwords 4 ((lsRead k off 32).map (fun b => b.val))).map (fun w => w.toNat)

/-- The operand shapes of a step (10 R186, step 1). -/
def shapesFit (k : Skein) (ta tb : Nat) : Bool :=
  cfgCols (tileCfgOf k ta) == cfgRows (tileCfgOf k tb) && decide (cfgCols (tileCfgOf k tb) ≤ 64)

/-- The first failure of a format block, when it lies at `off`: the scales' range, then its fields (10 R186 steps 3, 4);
`steps` steps are to come, and with none no scale is read. (DEDUCED, log entry 26.) -/
def formatBad (k : Skein) (off ta tb steps : Nat) : Option Cause :=
  if !(inStore k off 32) then some .lsbound
  else
    let ws := formatWords k off
    let last := steps * cfgCols (tileCfgOf k ta) - 1
    let wa := ws.getD 0 0
    let wb := ws.getD 1 0
    if steps ≠ 0 ∧ (!(scalesFit k (scaleWord wa) (cfgRows (tileCfgOf k ta)) last) || !(scalesFit k (scaleWord wb) (cfgCols (tileCfgOf k tb)) last)) = true then
      some .lsbound
    else
      match operandBad wa (cfgFmt (tileCfgOf k ta)), operandBad wb (cfgFmt (tileCfgOf k tb)) with
      | some c, _ => some c
      | none, some c => some c
      | none, none => if ws.getD 2 0 ≠ 0 ∨ ws.getD 3 0 ≠ 0 then some .prot else none

/-- The scale words of both operands: those of a format block, or none. -/
def formatScales (k : Skein) (fb : Option Nat) : ScaleWord × ScaleWord :=
  match fb with
  | none => (ScaleWord.reset, ScaleWord.reset)
  | some off => (scaleWord ((formatWords k off).getD 0 0), scaleWord ((formatWords k off).getD 1 0))

/-- MMA (10 R186): W0 names no format block. (DEDUCED, log entry 26.) -/
def execMma (k : BitVec 3) (a b : BitVec 3) (w : BitVec 5) (s : State) : Host.Outcome State Fault Refusal :=
  .next (uniEnter (.mma k a b w) .user [a.toNat, b.toNat] [k.toNat] [w.toNat] [] s (fun s =>
    needToken k.toNat s (fun s =>
      let sk := configured s
      let at_ := wReg s w.toNat
      let fb := if w = 0 then none else some (lsOffset at_)
      if !(shapesFit sk a.toNat b.toNat) then trapAll s .prot 0
      else if w ≠ 0 ∧ lsOffset at_ % 32 ≠ 0 then trapAll s .misalign at_
      else if w ≠ 0 ∧ banksShut s (curCore s) = true then stall s (.engine k.toNat)
      else
        match fb.bind (fun off => formatBad sk off a.toNat b.toNat 1) with
        | some c => trapAll s c at_
        | none =>
          needQueue true (.engine k.toNat) s (fun s =>
            let x := formatScales sk fb
            let kn := cfgCols (tileCfgOf sk a.toNat)
            let sc := (readScales sk x.1 (cfgRows (tileCfgOf sk a.toNat)) 0 kn, readScales sk x.2 (cfgCols (tileCfgOf sk b.toNat)) 0 kn)
            enterMat s (.mma k.toNat a.toNat b.toNat x.1 x.2 sc)))))

/-- The chain that a loop block describes (10 R187). -/
def chainOf (s : State) (sk : Skein) (ws : List Nat) (acc a b : Nat) : Chain :=
  let w (i : Nat) : Nat := ws.getD i 0
  let inc (i : Nat) : Int := (BitVec.ofNat 32 (fieldOf (w i) 32 32)).toInt
  let fb := if bitOf (w 3) 32 then some (fieldOf (w 3) 0 32) else none
  let x := if fieldOf (w 0) 0 32 = 0 then (ScaleWord.reset, ScaleWord.reset) else formatScales sk fb
  { active := true, n := fieldOf (w 0) 0 32, done := 0, abase := fieldOf (w 1) 0 32, ainc := inc 1, bbase := fieldOf (w 2) 0 32, binc := inc 2,
    a := a, b := b, acc := acc, cnt := fieldOf (w 3) 35 6, ce := bitOf (w 3) 34, wf := bitOf (w 3) 33, fbv := bitOf (w 3) 32, sa := x.1, sb := x.2,
    ply := s.cur.ply, strands := grp s, fresh := true, sca := [], scb := [], ahead := none }

/-- Whether every step's tile range of one operand lies inside the allocation. -/
def rangesFit (k : Skein) (base : Nat) (inc : Int) (n size : Nat) : Bool :=
  let last : Int := base + (n - 1 : Nat) * inc
  n == 0 || (inStore k base size && decide (0 ≤ last) && inStore k last.toNat size)

/-- The first check of 10 R188 that fails, after ACCTOK; a scale base that is not aligned gives MISALIGN, as R185 says, and not the PROT
of the other rules of a format block. (DEDUCED, log entry 74.) -/
def loopRefused (k : Skein) (w : DWord) (ws : List Nat) (c : Chain) : Option (Cause × DWord) :=
  let fb := fieldOf (ws.getD 3 0) 0 32
  let ca := tileCfgOf k c.a
  let cb := tileCfgOf k c.b
  let fmt := if c.fbv then formatBad k fb c.a c.b c.n else none
  let al (x : Int) (n : Int) : Bool := x % n != 0
  if c.fbv && fb % 32 != 0 then some (.misalign, dw fb)
  else if c.abase % 64 ≠ 0 then some (.misalign, dw c.abase)
  else if c.bbase % 64 ≠ 0 then some (.misalign, dw c.bbase)
  else if al c.ainc 64 || al c.binc 64 then some (.misalign, w)
  else if fmt == some .lsbound || !(rangesFit k c.abase c.ainc c.n (cfgBytes ca)) || !(rangesFit k c.bbase c.binc c.n (cfgBytes cb)) ||
      (c.fbv && !(inStore k fb 32)) then some (.lsbound, w)
  else if fieldOf (ws.getD 0 0) 32 32 != 0 || fieldOf (ws.getD 3 0) 41 23 != 0 || tileCfgOf k (c.a + 1) != ca || tileCfgOf k (c.b + 1) != cb ||
      !(shapesFit k c.a c.b) then some (.prot, w)
  else fmt.map (fun e => (e, w))

/-- MLOOP (10 R188). -/
def execMloop (k : BitVec 3) (a b : BitVec 2) (w : BitVec 5) (s : State) : Host.Outcome State Fault Refusal :=
  let i := Instr.mloop k a b w
  .next (uniEnter i .user [2 * a.toNat, 2 * b.toNat] [k.toNat] [w.toNat] [] s (fun s =>
    needToken k.toNat s (fun s =>
      let sk := configured s
      let at_ := wReg s w.toNat
      let off := lsOffset at_
      if sk.tiles ≤ 2 * a.toNat + 1 ∨ sk.tiles ≤ 2 * b.toNat + 1 then trapAll s .regwin (instrWord i)
      else if off % 32 ≠ 0 then trapAll s .misalign at_
      else if !(inStore sk off 32) then trapAll s .lsbound at_
      else if banksShut s (curCore s) then stall s (.engine k.toNat)
      else
        let ws := formatWords sk off
        let c := chainOf s sk ws k.toNat (2 * a.toNat) (2 * b.toNat)
        match loopRefused sk at_ ws c with
        | some f => trapAll s f.1 f.2
        | none =>
          needQueue true (.engine k.toNat) s (fun s =>
            if c.n = 0 then retire s 4
            else enterMat (setSkein s s.cur.sid { curSkein s with chain := c }) .loop))))

/-! ## Results (10 R190, R191) -/

/-- What one lane of a ply receives: register and element of each row. -/
def amovLane (a r0 rows d l : Nat) : List (Nat × Nat) :=
  (List.range rows).flatMap (fun r => [(d + 2 * r, accKey a (r0 + r) (2 * l)), (d + 2 * r + 1, accKey a (r0 + r) (2 * l + 1))])

/-- Writes a lane's elements; the lane dies on a poisoned one (14 R265). -/
def Strand.takeAcc (t : Strand) (k : Skein) (j : Nat) (es : List (Nat × Nat)) (at_ : DWord) : Strand :=
  let u := es.foldl (fun u e => u.setV e.1 j (Tbl.get 0 k.acc e.2)) t
  if es.any (fun e => Tbl.get false k.accBad e.2) then u.kill (laneMask (fun i => i == j)) at_ else u

/-- AMOV (10 R190): a range beyond the registers traps before a poisoned W[S1] (08 R136). -/
def execAmov (k : BitVec 3) (a : BitVec 5) (r : BitVec 3) (v : BitVec 6) (s : State) : Host.Outcome State Fault Refusal :=
  let i := Instr.amov k a r v
  let rows := r.toNat + 1
  let regs := rangeFrom v.toNat (2 * rows)
  if i.wf && (grp s).any (fun n => !((curStrand s n).allowed (curSkein s).nreg regs)) then .next (trapAll s .regwin (instrWord i))
  else .next (uniEnter i .user [] [k.toNat] [a.toNat] [] s (fun s =>
    let sk := curSkein s
    let r0 := fieldOf (wReg s a.toNat).toNat 0 6
    needToken k.toNat s (fun s =>
      if fieldOf (wReg s a.toNat).toNat 6 58 ≠ 0 ∨ 64 < r0 + rows then trapAll s .prot 0
      else if (grp s).any (fun n => (curStrand s n).awaits regs (curStrand s n).liveLanes) then stall s (.engine k.toNat)
      else
        inTurn (.move k.toNat) (.engine k.toNat) s (fun s =>
          retire (mapStrands s s.cur.sid s.cur.ply (grp s) (fun n t =>
            (lanesOf t.liveLanes).foldl (fun u j => u.takeAcc sk j (amovLane k.toNat r0 rows v.toNat (4 * n + j)) t.pc) t)) 4))))

/-- AQNT (10 R191). -/
def execAqnt (k : BitVec 3) (a b : BitVec 5) (c t : BitVec 1) (l : BitVec 2) (f : BitVec 1) (s : State) : Host.Outcome State Fault Refusal :=
  .next (uniEnter (.aqnt k a b c t l f) .user [] [k.toNat] [a.toNat, b.toNat] [] s (fun s =>
    needToken k.toNat s (fun s =>
      let sk := curSkein s
      let e := wReg s a.toNat
      let x := wReg s b.toNat
      if lsOffset e % 64 ≠ 0 then trapAll s .misalign e
      else if !(inStore sk (lsOffset e) (if f = 0 then 3072 else 4096)) then trapAll s .lsbound e
      else if !(inStore sk (lsOffset x) (4096 / blkLen l.toNat)) then trapAll s .lsbound x
      else needQueue true (.engine k.toNat) s (fun s => enterMat s (.quant k.toNat (lsOffset e) (lsOffset x) (c == 1) (t == 1) l.toNat f.toNat)))))

/-- ACLR (10 R191). -/
def execAclr (k : BitVec 3) (s : State) : Host.Outcome State Fault Refusal :=
  .next (uniEnter (.aclr k) .user [] [k.toNat] [] [] s (fun s =>
    needToken k.toNat s (fun s => needQueue true (.engine k.toNat) s (fun s => enterMat s (.clear k.toNat)))))

/-! ## The engine's events (10 R182, R183, R188) -/

/-- Whether a request reads or writes the local store when it is performed. -/
def MatOp.usesBanks : MatOp → Bool
  | .load _ _ => true
  | .store _ _ => true
  | .quant _ _ _ _ _ _ _ => true
  | _ => false

/-- Replaces the head of a skein's queue. -/
def setHead (k : Skein) (r : MatReq) : Skein := { k with queue := r :: k.queue.drop 1 }

/-- The head of a skein's queue leaves, and TL falls; the releases behind it take effect. -/
def endRequest (s : State) (sid : Nat) (r : MatReq) : State :=
  let k := getSkein s sid
  leadQueue (mapStrands (setSkein s sid { k with queue := k.queue.drop 1 }) sid r.ply r.strands (fun _ t => { t with tl := t.tl - 1 })) sid

/-- The resident skeins of a quad whose head request is in the reservation table, with the request. -/
def posted (s : State) (quad : Nat) : List (Nat × MatReq) :=
  s.skeins.filterMap (fun e =>
    if e.2.place == .resident && e.2.core / 4 == quad then
      match e.2.queue with
      | r :: _ => if r.stage = .posted then some (e.1, r) else none
      | [] => none
    else none)

/-- Whether the granules of a range are full. -/
def rangeFull (k : Skein) (off n : Nat) : Bool := (rangeFrom (off / 16) ((off + n - 1) / 16 + 1 - off / 16)).all (fun g => Tbl.get false k.full g)

/-- Where step `t` of a chain finds the tiles it fetches: tile register and offset, for A and for B (10 R188). -/
def Chain.fetches (c : Chain) (t : Nat) : List (Nat × Nat) :=
  let one (x base : Nat) (inc : Int) : List (Nat × Nat) :=
    if (c.fresh && t == c.done) || inc != 0 then [(if inc = 0 then x else x + t % 2, ((base : Int) + t * inc).toNat)] else []
  one c.a c.abase c.ainc ++ one c.b c.bbase c.binc

/-- The tile registers of step `t`. -/
def Chain.tiles (c : Chain) (t : Nat) : Nat × Nat := (if c.ainc = 0 then c.a else c.a + t % 2, if c.binc = 0 then c.b else c.b + t % 2)

/-- The tiles of step `t` enter the engine. -/
def loadTiles (k : Skein) (t : Nat) : Skein :=
  (k.chain.fetches t).foldl (fun k f => tileWrite k f.1 (lsRead k f.2 (cfgBytes (tileCfgOf k f.1)))) k

/-- The scales of step `t`, read with its tiles. -/
def stepScales (k : Skein) (t : Nat) : List PByte × List PByte :=
  let x := k.chain.tiles t
  let kn := cfgCols (tileCfgOf k x.1)
  (readScales k k.chain.sa (cfgRows (tileCfgOf k x.1)) (t * kn) kn, readScales k k.chain.sb (cfgCols (tileCfgOf k x.2)) (t * kn) kn)

/-- The fetch of a chain's next step, unless it was fetched while the step before it ran. (DEDUCED, log entry 26.) -/
def Chain.fetch (k : Skein) : Skein :=
  let c := k.chain
  match c.ahead with
  | some x => { k with chain := { c with fresh := false, sca := x.1, scb := x.2, ahead := none } }
  | none =>
    let x := stepScales k c.done
    { loadTiles k c.done with chain := { c with fresh := false, sca := x.1, scb := x.2 } }

/-- The fetch for step t + 1 while step t runs: the double buffering (10 R188). -/
def Chain.prefetch (k : Skein) : Skein :=
  { loadTiles k (k.chain.done + 1) with chain := { k.chain with ahead := some (stepScales k (k.chain.done + 1)) } }

/-- Whether a fetch for step `t` of a chain has to wait: on full bits if WF, for the banks, or because the skein is being saved
(10 R188, R193, 06 R114). -/
def fetchWaits (s : State) (k : Skein) (t : Nat) : Bool :=
  banksShut s k.core || k.saving.isSome ||
    (k.chain.wf && (k.chain.fetches t).any (fun f => !(rangeFull k f.2 (cfgBytes (tileCfgOf k f.1)))))

/-- MATRIX_REQUEST_POST (10 R183): the head of a skein's queue is posted when its tiles and scales are in the engine. A step of a
chain fetches them first, or did so while the step before it ran. -/
def execMatrixRequestPost (sid : Nat) (s : State) : Host.Outcome State Fault Refusal :=
  .next (
    let s := leadQueue s sid
    let k := getSkein s sid
    let quad := k.core / 4
    let room := decide ((posted s quad).length < 32) && decide (((posted s quad).filter (fun e => (getSkein s e.1).core == k.core)).length < 8)
    match k.queue with
    | [] => s
    | r :: _ =>
      if k.place != .resident || (getPart s k.part).halted then s
      else if r.stage != .queued then
        if r.op == .loop && k.chain.ahead.isNone && decide (k.chain.done + 1 < k.chain.n) && !(fetchWaits s k (k.chain.done + 1)) then
          setSkein s sid (Chain.prefetch k)
        else s
      else if !room || r.op.byGroup || (r.op == .loop && (k.saving.isSome || (k.chain.ahead.isNone && fetchWaits s k k.chain.done))) then s
      else
        let k := setHead k { r with stage := .posted, age := s.cycle.toNat }
        setSkein s sid (if r.op == .loop then Chain.fetch k else k))

/-- Whether the arbiter takes entry `a` before entry `b` (10 R183, R193): an entry that has waited 2,048 cycles before the
younger ones, then a skein being saved, the higher priority, and the older entry. -/
def matBefore (s : State) (a b : Nat × MatReq) : Bool :=
  let old (x : Nat × MatReq) : Bool := decide (2048 ≤ s.cycle.toNat - x.2.age)
  let pr (x : Nat × MatReq) : Nat := if (getSkein s x.1).saving.isSome then 32 else prioOf s x.1
  if (old a || old b) && a.2.age != b.2.age then decide (a.2.age < b.2.age)
  else if pr a ≠ pr b then decide (pr b < pr a)
  else decide (a.2.age ≤ b.2.age)

/-- MATRIX_PASS_GRANT (10 R183): the arbiter of a quad grants one posted entry, of a partition that does not halt (14 R267). -/
def execMatrixPassGrant (quad : Nat) (s : State) : Host.Outcome State Fault Refusal :=
  .next (match sortBy (matBefore s) ((posted s quad).filter (fun e => !(getPart s (getSkein s e.1).part).halted)) with
    | [] => s
    | e :: _ => setSkein s e.1 (setHead (getSkein s e.1) { e.2 with stage := .granted }))

/-- MLOOP_STEP_RETIRE (10 R188): the step is added to the accumulator, its counter may rise, and the last step ends the
chain. -/
def execMloopStepRetire (sid : Nat) (s : State) : Host.Outcome State Fault Refusal :=
  .next (
    let k := getSkein s sid
    match k.queue with
    | [] => s
    | r :: _ =>
      if r.op != .loop || r.stage != .granted || k.place != .resident then s
      else
        let c := k.chain
        let x := c.tiles c.done
        let k := matStep k c.acc x.1 x.2 c.sa c.sb (c.sca, c.scb) (c.done * cfgCols (tileCfgOf k x.1))
        let c := { c with done := c.done + 1, sca := [], scb := [] }
        let last := decide (c.n ≤ c.done)
        let k := { setHead k { r with stage := .queued } with chain := if last then Chain.reset else c }
        let a := setSkein s sid k
        let a := if c.ce then addCounter a k.core c.cnt 1 else a
        if last then endRequest a sid r else a)

/-- A request performed, other than a chain's step; MSAT rises in the strands of its group (09 R163). -/
def performMat (s : State) (sid : Nat) (r : MatReq) : State :=
  let k := getSkein s sid
  match r.op with
  | .load t a => setSkein s sid (tileWrite k t (lsRead k a (cfgBytes (tileCfgOf k t))))
  | .store t a =>
    let n := cfgBytes (tileCfgOf k t)
    setSkein s sid (setFull (lsWrite k a (tileRead k t 0 n)) a n)
  | .mma acc a b sa sb sc => setSkein s sid (matStep k acc a b sa sb sc 0)
  | .loop => s
  | .quant acc e x cl tr blk fmt =>
    let q := quantize k acc e x cl tr blk fmt
    mapStrands (setSkein s sid q.1) sid r.ply r.strands (fun _ t => if q.2 then { t with fstat := t.fstat ||| fMSAT } else t)
  | .clear acc => setSkein s sid (clearAcc k acc)
  | .config _ _ => s
  | .move _ => s
  | .release _ => s

/-- MATRIX_REQUEST_COMPLETE (10 R182): the request at the head is performed, and TL falls. -/
def execMatrixRequestComplete (sid : Nat) (s : State) : Host.Outcome State Fault Refusal :=
  .next (match (getSkein s sid).queue with
    | [] => s
    | r :: _ =>
      if r.op == .loop || r.stage != .granted || (getSkein s sid).place != .resident ||
          (r.op.usesBanks && banksShut s (getSkein s sid).core) then s
      else endRequest (performMat s sid r) sid r)

end Sys2Proof.Machine
end

