-- ==== Sys2Proof/Machine/Moves.lean ====
section
/-! DEFINITION. Homes that move towards their users (04 R88, R89): the end of an epoch, and the release of a new home. -/

namespace Sys2Proof.Machine

/-- Whether a frame holds token-table entries: it lies in a partition's area (04 R88, R91). -/
def holdsTokens (s : State) (f : Nat) : Bool :=
  (List.range 8).any (fun p =>
    let b := (getPart s p).tokBase.toNat
    let l := fieldOf b 0 6
    l != 0 && decide (fieldOf b 16 36 ≤ f) && decide (f < fieldOf b 16 36 + 2 ^ (l - 16)))

/-- The atomics that die `d` has had at a frame. -/
def atomicsOf (s : State) (f d : Nat) : Nat := Tbl.get 0 s.atomCount (4 * f + d)

/-- The die that a frame moves to at the end of an epoch, if it moves (04 R88): the highest counter wins, and the
lowest die a tie. (DEDUCED, log entry 29.) -/
def moveTo (s : State) (f : Nat) : Option Nat :=
  let home := homeDie s f
  let may := (homeDies s (frameOwner s f)).filter (fun d => d != home && decide (s.atmThresh.toNat ≤ atomicsOf s f d) &&
    decide (2 * atomicsOf s f home ≤ atomicsOf s f d))
  if Tbl.get 0 s.movedAgo f != 0 || Tbl.get 0 s.fieldFrames f != 0 || holdsTokens s f || s.homeMoves.any (fun m => m.1 == f) then none
  else may.foldl (fun b d => match b with
    | none => some d
    | some e => if atomicsOf s f e < atomicsOf s f d then some d else some e) none

/-- The entry of the home table takes a new die (04 R89 step 1, R91). -/
def writeHomeEntry (s : State) (f d : Nat) : State :=
  let a := fieldOf s.homeBase.toNat 21 31 * 0x200000 + f / 4
  let old := (readByte s a).toNat
  let sh := 4 ^ (f % 4)
  putBytes s a [BitVec.ofNat 8 (old - fieldOf old (2 * (f % 4)) 2 * sh + d * sh)]

/-- The translations of a frame leave every TLB. -/
def dropFrame (s : State) (f : Nat) : State :=
  { s with tlb := s.tlb.filter (fun e =>
      let b := fieldOf e.leaf.toNat 16 36
      !(decide (b ≤ f) && decide (f < b + 2 ^ (e.k - 16)))) }

/-- A move of a frame's home begins; the new home starts from the counts of the old one. (DEDUCED, log entry 29; DESIGN CHOICE,
log entry 63.) -/
def beginMove (s : State) (f d : Nat) : State :=
  let old := homeDie s f
  let a := dropFrame (writeHomeEntry s f d) f
  { a with homeMoves := a.homeMoves ++ [(f, old, d)], movedAgo := Tbl.set 0 a.movedAgo f 9 }

/-- The frames that may move: those with a counter, or every HBM frame when the threshold is 0. -/
def epochFrames (s : State) : List Nat :=
  if s.atmThresh = 0 then List.range (hbmTop / 0x10000) else (s.atomCount.map (fun e => e.1 / 4)).eraseDups

/-- ATM_EPOCH_END (04 R88): moves begin where the balance has tipped, judged by the counters as they stand before every counter is
halved. (DESIGN CHOICE, log entries 6 and 63; DEDUCED, log entry 29.) -/
def execAtmEpochEnd (s : State) : Host.Outcome State Fault Refusal :=
  let a := if s.atmEn && s.homeBase.getLsbD 0 then
      (epochFrames s).foldl (fun b f => match moveTo s f with
        | some d => beginMove b f d
        | none => b) s
    else s
  .next { a with atomCount := (a.atomCount.map (fun e => (e.1, e.2 / 2))).filter (fun e => e.2 != 0),
                 movedAgo := (a.movedAgo.map (fun e => (e.1, e.2 - 1))).filter (fun e => e.2 != 0) }

/-- Whether an item names a frame at a die: a request translated to the old home (04 R89 step 3). -/
def Item.at_ (i : Item) (f d : Nat) : Bool :=
  match i with
  | .gatherHome p => p.die == d && p.lanes.any (fun l => l.pa / 0x10000 == f)
  | .gatherStack p => p.die == d && p.lanes.any (fun l => l.pa / 0x10000 == f)
  | .atomic r => r.die == d && r.pa / 0x10000 == f
  | _ => false

/-- HOME_MOVE_RELEASE (04 R89): once the old requests have drained, the old home writes back and drops its lines, and
the new home performs what it has held. (DEDUCED, log entry 29.) -/
def execHomeMoveRelease (frame : Nat) (s : State) : Host.Outcome State Fault Refusal :=
  .next (match s.homeMoves.find? (fun m => m.1 == frame) with
    | none => s
    | some m =>
      if s.flight.any (fun i => i.at_ frame m.2.1) then s
      else
        let lines := ((rangeFrom (frame * 1024) 1024).filter (fun l => Tbl.get false s.mere l))
        { lines.foldl dropLine s with homeMoves := s.homeMoves.filter (fun x => x.1 != frame),
                                      atmCnt := min (s.atmCnt + 1) 0xFFFFFFFF })

end Sys2Proof.Machine
end

