-- ==== Sys2Proof/Machine/Special.lean ====
section
/-! DEFINITION. Special registers (07 R129, R130; 21 R368, R369; 06 R114; 16 R292): SRD, SRDU, SWR and the two writes
that act on a core or a partition; and what a word does that decodes to no instruction (08 R136, R154). -/

namespace Sys2Proof.Machine

/-- The mode that a special register needs (07 R129); an identifier that is not listed needs none. -/
def srMode (i : Nat) : Mode :=
  if !srListed i then .user else if 0x200 ≤ i then .hypervisor else if 0x100 ≤ i then .supervisor else .user

/-- MODE's value. -/
def Mode.code : Mode → Nat
  | .user => 0
  | .supervisor => 1
  | .hypervisor => 2

/-- The grid extent of a launch, one dimension. -/
def gridOf (s : State) (k : Skein) (d : Nat) : Nat :=
  match findLaunch s k.launch with
  | some l => fieldOf (l.word 1) (16 * d) 16
  | none => 0

/-- The skein's index in one dimension: SKX + NSKX * (SKY + NSKY * SKZ) is its linear index (02 R43). -/
def gridIndex (s : State) (k : Skein) (d : Nat) : Nat :=
  match d with
  | 0 => k.index % gridOf s k 0
  | 1 => k.index / gridOf s k 0 % gridOf s k 1
  | _ => k.index / gridOf s k 0 / gridOf s k 1

/-- The dead lanes of a ply. -/
def deadMask (s : State) (sid ply : Nat) : Nat :=
  (List.range 8).foldl (fun m n => m + (getStrand s (strandKey sid ply n)).dead.toNat * 2 ^ (4 * n)) 0

/-- LSMODE as read (06 R114). -/
def lsmodeRead (c : Core) : DWord := dw ((if c.pend.isSome then 2 else 0) + (if c.mode then 1 else 0))

/-- The trap-state set that reads: zero at EDEPTH 0 (21 R369). -/
def Strand.readSet (t : Strand) : TrapSet := if t.edepth = 0 then TrapSet.reset else t.trapSet

/-- A special register as strand `n` of the group reads it in lane `j`. -/
def srRead (s : State) (i n j : Nat) : DWord :=
  let k := curSkein s
  let t := curStrand s n
  match i with
  | 0x000 => dw (4 * n + j)
  | 0x001 => dw n
  | 0x002 => dw s.cur.ply
  | 0x003 => dw (gridIndex s k 0)
  | 0x004 => dw (gridIndex s k 1)
  | 0x005 => dw (gridIndex s k 2)
  | 0x006 => dw (gridOf s k 0)
  | 0x007 => dw (gridOf s k 1)
  | 0x008 => dw (gridOf s k 2)
  | 0x009 => dw k.core
  | 0x00A => dw (k.core / 4)
  | 0x00B => dw (dieOf k.core)
  | 0x00C => dw s.package.toNat
  | 0x00D => dw k.part
  | 0x00E => s.cycle
  | 0x00F => dw k.launch
  | 0x010 => dw t.vwb
  | 0x011 => t.dom
  | 0x012 => ((findLaunch s k.launch).map (fun l => l.handle)).getD 0
  | 0x013 => dw k.phase
  | 0x014 => dw k.lsSize
  | 0x015 => dw k.nreg
  | 0x016 => dw t.mode.code
  | 0x017 => dw (deadMask s s.cur.sid s.cur.ply)
  | 0x018 => t.fstat.setWidth 64
  | 0x100 => t.readSet.epc
  | 0x101 => (t.readSet.ecause.extractLsb' (8 * j) 8).setWidth 64
  | 0x102 => t.readSet.emask.setWidth 64
  | 0x103 => t.readSet.eaddr
  | 0x104 => t.evec
  | 0x105 => dw t.edepth
  | 0x110 => lsmodeRead (getCore s k.core)
  | 0x111 => dw k.nreg
  | 0x200 => t.hcause
  | 0x201 => t.hepc
  | 0x202 => t.hvec
  | 0x203 => dw (getPart s k.part).pcapNext
  | 0x204 => dw (getPart s k.part).permit
  | 0x205 => Tbl.get 0 (getPart s k.part).energy t.energySel.toNat
  | _ => Tbl.get 0 t.escr (i - 0x106)

/-- Whether an AQNT of strand `n` of the group is still in the engine queue: FSTAT, which reflects every earlier
instruction, has then still to take its MSAT (18 R311, 09 R163). -/
def requantizing (s : State) (n : Nat) : Bool :=
  (curSkein s).queue.any (fun r => r.ply == s.cur.ply && r.strands.contains n && (match r.op with
    | .quant _ _ _ _ _ _ _ => true
    | _ => false))

/-- Whether an access to special register `i` by some strands of the group waits. (DEDUCED, log entry 54.) -/
def srWaits (s : State) (i : Nat) (ns : List Nat) : Bool := i == 0x018 && ns.any (requantizing s)

/-- SRD (07 R129): the low 32 bits, in each active lane its own. -/
def execSrd (g : Guard) (d : BitVec 6) (i : BitVec 14) (s : State) : Host.Outcome State Fault Refusal :=
  let f : LaneForm := { instr := .srd g d i, guard := g, len := 4, mode := srMode i.toNat, blocks := [[d.toNat]], src := [],
                        dst := [d.toNat], base := none, far := .none }
  .next (laneEnter f s (fun s =>
    if srWaits s i.toNat (acting s g) then stall s .poll
    else retire (mapStrands s s.cur.sid s.cur.ply (grp s) (fun n t =>
      t.lanewise (t.active g) (fun j => wr [(d.toNat, (srRead s i.toNat n j).setWidth 32)]))) 4))

/-- The lane that SRDU takes a per-lane register from: the group's lowest active lane, or its first lane. -/
def srLane (s : State) : Nat × Nat :=
  match (grp s).find? (fun n => (curStrand s n).liveLanes != 0) with
  | some n => (n, (lanesOf (curStrand s n).liveLanes).headD 0)
  | none => ((grp s).headD 0, 0)

/-- SRDU (21 R368): a per-strand register is that of the group's first strand. -/
def execSrdu (d : BitVec 5) (i : BitVec 14) (s : State) : Host.Outcome State Fault Refusal :=
  .next (uniEnter (.srdu d i) (srMode i.toNat) [] [] [] [d.toNat] s (fun s =>
    let l := if i = 0 ∨ i = 0x101 then srLane s else ((grp s).headD 0, 0)
    if srWaits s i.toNat [l.1] then stall s .poll
    else retire (setWReg s d.toNat (srRead s i.toNat l.1 l.2)) 4))

/-- A strand after SWR of one of its registers (21 R369). -/
def Strand.swr (t : Strand) (i : Nat) (w : DWord) : Strand :=
  match i with
  | 0x018 => { t with fstat := w.setWidth 6 }
  | 0x100 => if t.edepth = 0 then t else t.setTrapSet { t.trapSet with epc := w &&& ~~~ 3 }
  | 0x102 => if t.edepth = 0 then t else t.setTrapSet { t.trapSet with emask := w.setWidth 4 }
  | 0x104 => { t with evec := w &&& ~~~ 3 }
  | 0x201 => { t with hepc := w &&& ~~~ 3 }
  | 0x202 => { t with hvec := w &&& ~~~ 3 }
  | 0x205 => { t with energySel := w.setWidth 8 }
  | _ => { t with escr := Tbl.set 0 t.escr (i - 0x106) w }

/-- SWR (21 R369): in every strand of the group. -/
def execSwr (a : BitVec 5) (i : BitVec 14) (s : State) : Host.Outcome State Fault Refusal :=
  .next (uniEnter (.swr a i) (srMode i.toNat) [] [] [a.toNat] [] s (fun s =>
    let w := wReg s a.toNat
    if i = 0x205 ∧ w >>> 8 ≠ 0 then trapAll s .illegal (instrWord (.swr a i))
    else if srWaits s i.toNat (grp s) then stall s .poll
    else retire (mapStrands s s.cur.sid s.cur.ply (grp s) (fun _ t => t.swr i.toNat w)) 4))

/-- Whether a launch needs the slotted mode (06 R114, 12 R222). -/
def Launch.slotted (l : Launch) : Bool := l.det || l.slot

/-- Whether a skein whose launch needs the slotted mode is resident on a core. -/
def slottedOn (s : State) (core : Nat) : Bool :=
  (residentOn s core).any (fun sid => ((findLaunch s (getSkein s sid).launch).map Launch.slotted).getD false)

/-- SWR of LSMODE (06 R114): the change waits for the banks; a change to 0 under a slotted skein is refused, and a value with reserved
bits set before that. (DESIGN CHOICE, log entries 4 and 67.) -/
def execSwrLsmode (a : BitVec 5) (s : State) : Host.Outcome State Fault Refusal :=
  .next (uniEnter (.swrLsmode a) .supervisor [] [] [a.toNat] [] s (fun s =>
    let w := wReg s a.toNat
    let c := getCore s (curCore s)
    if w >>> 2 ≠ 0 then trapAll s .illegal (instrWord (.swrLsmode a))
    else if !(w.getLsbD 0) && slottedOn s (curCore s) then trapAll s .prot 0
    else retire (setCore s (curCore s) { c with pend := some (w.getLsbD 0) }) 4))

/-- Whether an access to the banks of a core is half done (20 R336). -/
def banksBusy (s : State) (core : Nat) : Bool :=
  s.flight.any (fun i => match i with
    | .half h => h.near && h.org.core == core
    | _ => false)

/-- LSMODE_TAKES_EFFECT (06 R114): the accesses in the banks have finished. -/
def execLsmodeTakesEffect (core : Nat) (s : State) : Host.Outcome State Fault Refusal :=
  let c := getCore s core
  .next (match c.pend with
    | some m => if banksBusy s core then s else setCore s core { c with mode := m, pend := none }
    | none => s)

/-- The cap that a PCAP write gives a partition (16 R292). (DESIGN CHOICE, log entry 51.) -/
def capOf (s : State) (p w : Nat) : Nat :=
  let x := max 50 (min (fieldOf w 0 11) 2000)
  let others := (((List.range 8).filter (fun q => q != p && (getPart s q).present)).map (fun q => (getPart s q).pcapNext)).sum
  if 2000 < others + x then 2000 - others else x

/-- SWR of PCAP (16 R292): the new cap holds from the next interval. -/
def execSwrPcap (a : BitVec 5) (s : State) : Host.Outcome State Fault Refusal :=
  .next (uniEnter (.swrPcap a) .hypervisor [] [] [a.toNat] [] s (fun s =>
    let p := (curSkein s).part
    retire (setPart s p { getPart s p with pcapNext := capOf s p (wReg s a.toNat).toNat }) 4))

/-! ## What a word that is no instruction does -/

/-- The mode that R154 reserves a word to, by its opcode, or by the identifier of SRD, SRDU and SWR or the FN of RETN. -/
def wordMode (w : Word) : Mode :=
  if [0xB7, 0xC5, 0xC6, 0xC8, 0xC9, 0xCA, 0xCB, 0xCF, 0xD0].contains (opByte w) then .supervisor
  else if [0xC7, 0xCD].contains (opByte w) then .hypervisor
  else if [0x25, 0xA4, 0xA5].contains (opByte w) then srMode (w.extractLsb' 0 14).toNat
  else if opByte w = 0xB1 ∧ w.extractLsb' 0 9 = 2 then .hypervisor
  else .user

/-- The words as EADDR reports them: an XW with its follower. -/
def fetchedWord (w f : Word) : DWord := if opByte w = 0x7F then wordsValue [w, f] else wordsValue [w]

/-- Steps 2 to 4 of 08 R136 for a word that decodes to no instruction: PRIV if its opcode is assigned and reserved to a
higher mode, else ILLEGAL. A strand without live lanes passes over a lane-set word. (DEDUCED, log entry 53.) -/
def undecoded (s : State) (w f : Word) : State :=
  let c (n : Nat) : Cause :=
    if opAssigned (opByte w) && !((curStrand s n).mode.reaches (wordMode w)) then .priv else .illegal
  let trap (n : Nat) : TrapInfo := trapOf (curStrand s n).liveLanes (c n) (curStrand s n).pc (fetchedWord w f)
  if w.getLsbD 31 then trapGroup s (fun n => some (trap n))
  else if (grp s).any (fun n => (curStrand s n).liveLanes != 0) then
    trapGroup s (fun n => if (curStrand s n).liveLanes = 0 then none else some (trap n))
  else retire s (if opByte w = 0x7F then 8 else 4)

end Sys2Proof.Machine
end

