-- ==== Sys2Proof/Machine/Sync.lean ====
section
/-! DEFINITION. Waiting and meeting (21 R360 to R367): TWIST, EXIT, YIELD, WAIT, named and scope barriers, FENCE (13 R237
to R240), and the hand-over of write rights. -/

namespace Sys2Proof.Machine

/-! ## Delivery of faults (21 R363) -/

/-- The oldest of some pending faults. -/
def oldestFault : List PendFault → Option PendFault
  | [] => none
  | f :: t =>
    match oldestFault t with
    | none => some f
    | some g => if g.seq < f.seq then some g else some f

/-- The trap that delivers a strand's oldest copy, COLL or trigger fault. -/
def Strand.copyFault (t : Strand) : Option TrapInfo := (oldestFault t.faults).map (fun f => trapOf (f.mask &&& ~~~ t.dead) f.cause t.pc f.addr)

/-- The strand without its oldest copy, COLL or trigger fault. -/
def Strand.dropFault (t : Strand) : Strand :=
  match oldestFault t.faults with
  | some f => { t with faults := t.faults.erase f }
  | none => t

/-- The oldest transfer with failed lanes (03 R76). -/
def Strand.failedXfer (t : Strand) : Option XferEntry := t.xfers.find? (fun x => x.failed != 0)

/-- The trap that delivers it: the causes of the failed lanes, and the XFER's address. -/
def Strand.fieldFault (t : Strand) : Option TrapInfo :=
  t.failedXfer.map (fun x => { mask := x.failed, causes := x.causes, top := x.failed, epc := t.pc, eaddr := x.addr, first := 0 })

/-- The strand without those failures: an entry with nothing left goes. -/
def Strand.dropXfer (t : Strand) : Strand :=
  match t.failedXfer with
  | some x =>
    let xs := t.xfers.map (fun y => if y.tag = x.tag then { y with failed := 0, causes := 0 } else y)
    { t with xfers := xs.filter (fun y => y.undecided != 0 || y.awaiting != 0 || y.failed != 0) }
  | none => t

/-- The strands of the group that have a pending fault trap with it; each forgets the fault delivered. -/
def deliverWith (s : State) (info : Strand → Option TrapInfo) (drop : Strand → Strand) : State :=
  let f n := info (curStrand s n)
  trapGroup (mapStrands s s.cur.sid s.cur.ply (grp s) (fun _ t => if (info t).isSome then drop t else t)) f

/-- The pending faults that a WAIT or EXIT delivers: copy faults first, then field faults; otherwise `k`. -/
def deliverFaults (cp xf : Bool) (s : State) (k : State → State) : State :=
  if cp && (grp s).any (fun n => (curStrand s n).copyFault.isSome) then deliverWith s Strand.copyFault Strand.dropFault
  else if xf && (grp s).any (fun n => (curStrand s n).fieldFault.isSome) then deliverWith s Strand.fieldFault Strand.dropXfer
  else k s

/-- WAIT (21 R363): a field at its largest value imposes no wait. -/
def execWait (l s' c : BitVec 4) (t x : BitVec 3) (s : State) : Host.Outcome State Fault Refusal :=
  .next (uniEnter (.wait l s' c t x) .user [] [] [] [] s (fun s =>
    deliverFaults (c != 15) (x != 7) s (fun s =>
      let ok (u : Strand) : Bool :=
        (l == 15 || decide (u.replies.length ≤ l.toNat)) && (s' == 15 || decide (u.stores.length ≤ s'.toNat)) &&
          (c == 15 || decide (u.cp ≤ c.toNat)) && (t == 7 || decide (u.tl ≤ t.toNat)) && (x == 7 || decide (u.xf ≤ x.toNat))
      if (grp s).all (fun n => ok (curStrand s n)) then retire s 4 else stall s .poll)))

/-! ## Barriers of a skein (21 R364, 14 R266) -/

/-- How many arrivals complete a barrier: N less the strands that died before arriving, or with N = 0 every live
strand. -/
def needOf (s : State) (sid : Nat) (b : Barrier) : Nat :=
  let all := allStrands s sid
  if b.expected = 0 then (all.filter (fun e => e.2.2.alive)).length
  else max 1 (b.expected - (all.filter (fun e => e.2.2.dead == 0xF && !(b.who.contains (e.1 * 8 + e.2.1)))).length)

/-- Replaces barrier `name` of a skein. -/
def setBar (s : State) (sid name : Nat) (b : Barrier) : State :=
  let k := getSkein s sid
  setSkein s sid { k with bars := Tbl.set Barrier.reset k.bars name b }

/-- Strands whose wait `f` picks go on behind their instruction. -/
def releaseWait (s : State) (sid : Nat) (w : Wait) : State :=
  (skeinAll (getSkein s sid)).foldl (fun a e =>
    let key := strandKey sid e.1 e.2
    let t := getStrand a key
    if t.live && t.wait == w then setStrand a key { t with wait := .none, pc := t.pc + 4 } else a) s

/-- Every part of a skein's plies falls apart where its strands stand at different addresses (12 R214). -/
def partAll (s : State) (sid : Nat) : State :=
  (List.range (getSkein s sid).plies).foldl (fun a p =>
    setParts a sid p ((partsOf (getSkein a sid) p).flatMap (byPc a sid p))) s

/-- The issuing group is the part that now holds its first strand. -/
def refocus (s : State) : State :=
  let n := (grp s).headD 0
  let ps := partsOf (getSkein s s.cur.sid) s.cur.ply
  { s with cur := { s.cur with strands := (ps.find? (fun p => p.contains n)).getD (grp s) } }

/-- The plies of a skein that share a completion of barrier `name`: with a strand that has arrived or waits there. -/
def meeting (s : State) (sid name : Nat) (b : Barrier) : List Nat :=
  b.who.map (fun x => x / 8) ++ ((allStrands s sid).filter (fun e => e.2.2.live && e.2.2.wait == .barrier name)).map (fun e => e.1)

/-- A barrier's generation completes if enough strands have arrived: its waiters are released, and the plies that share it see what the
others among them have written into W registers (07 R128). -/
def judgeBar (s : State) (sid name : Nat) : State :=
  let b := Tbl.get Barrier.reset (getSkein s sid).bars name
  if b.inUse && decide (needOf s sid b ≤ b.arrived) then
    let a := setBar s sid name Barrier.reset
    releaseWait (setSkein a sid ((getSkein a sid).meetPlies (meeting s sid name b))) sid (.barrier name)
  else s

/-- Every barrier of a skein is judged again, as when a strand dies or exits. -/
def judgeBars (s : State) (sid : Nat) : State := partAll ((List.range 16).foldl (fun a b => judgeBar a sid b) s) sid

/-- One arrival at a barrier. -/
def arrive (s : State) (sid ply n name count : Nat) : State :=
  let old := Tbl.get Barrier.reset (getSkein s sid).bars name
  let b := if old.inUse then old else { arrived := 0, expected := count, inUse := true, who := [] }
  judgeBar (setBar s sid name { b with arrived := b.arrived + 1, who := b.who ++ [ply * 8 + n] }) sid name

/-- Whether an arrival with this count is refused. -/
def barRefused (s : State) (name count : Nat) : Bool :=
  let k := curSkein s
  let b := Tbl.get Barrier.reset k.bars name
  decide (k.plies * k.strands < count) || (b.inUse && b.expected != count)

/-- Whether the group already waits so. -/
def waits (s : State) (w : Wait) : Bool := (grp s).all (fun n => (curStrand s n).wait == w)

/-- Sets the wait of a strand. -/
def setWait (s : State) (n : Nat) (w : Wait) : State := setStrand s (curKey s n) { curStrand s n with wait := w }

/-- The parts are formed anew and time passes. -/
def settleParts (s : State) : State := tick (refocus (partAll s s.cur.sid))

/-- BAR (21 R364). -/
def execBar (name : BitVec 4) (c : BitVec 10) (s : State) : Host.Outcome State Fault Refusal :=
  .next (uniEnter (.bar name c) .user [] [] [] [] s (fun s =>
    let w := Wait.barrier name.toNat
    if waits s w then settleParts (judgeBar s s.cur.sid name.toNat)
    else if barRefused s name.toNat c.toNat then trapAll s .prot 0
    else if watchedAway s then stall s .poll
    else settleParts ((grp s).foldl (fun a n => arrive (setWait a n w) a.cur.sid a.cur.ply n name.toNat c.toNat) s)))

/-- BARA (21 R364). -/
def execBara (name : BitVec 4) (c : BitVec 10) (s : State) : Host.Outcome State Fault Refusal :=
  .next (uniEnter (.bara name c) .user [] [] [] [] s (fun s =>
    if barRefused s name.toNat c.toNat then trapAll s .prot 0
    else if watchedAway s then stall s .poll
    else
      let a := (grp s).foldl (fun a n => arrive a a.cur.sid a.cur.ply n name.toNat c.toNat) s
      retire (partAll a a.cur.sid) 4))

/-- BARW (21 R364). -/
def execBarw (name : BitVec 4) (s : State) : Host.Outcome State Fault Refusal :=
  .next (uniEnter (.barw name) .user [] [] [] [] s (fun s =>
    let w := Wait.barrier name.toNat
    if waits s w then settleParts (judgeBar s s.cur.sid name.toNat)
    else if watchedAway s then stall s .poll
    else if (Tbl.get Barrier.reset (curSkein s).bars name.toNat).inUse then stall s w
    else retire s 4))

/-! ## TWIST, EXIT, YIELD -/

/-- The live strands of a ply (12 R215). -/
def liveOfPly (s : State) (sid ply : Nat) : List Nat :=
  (List.range 8).filter (fun n => (getStrand s (strandKey sid ply n)).alive)

/-- TWIST (12 R215): the strands wait until every live strand of the ply does, and then form one part for each address. -/
def execTwist (s : State) : Host.Outcome State Fault Refusal :=
  .next (uniEnter .twist .user [] [] [] [] s (fun s =>
    let sid := s.cur.sid
    let ply := s.cur.ply
    let a := mapStrands s sid ply (grp s) (fun _ t => { t with wait := .twist })
    let live := liveOfPly a sid ply
    if live.all (fun n => (getStrand a (strandKey sid ply n)).wait == .twist) then
      let b := setParts a sid ply (byPc a sid ply live)
      tick (refocus (mapStrands b sid ply live (fun _ t => { t with wait := .none, pc := t.pc + 4 })))
    else tick a))

/-- The accumulator tokens of a ply are freed as if by MREL (10 R184). -/
def freeTokens (k : Skein) (ply : Nat) : Skein :=
  { k with token := k.token.filter (fun e => e.2 != ply + 1) }

/-! ## Scope barriers (12 R225) -/

/-- The quad or die that an arrival at a level counts in. -/
def sbarPlace (k : Skein) (level : Nat) : Nat := if level = 1 then k.core / 4 else if level = 2 then dieOf k.core else 0

/-- The skeins of a launch that are placed in a quad or die now. -/
def placedAt (s : State) (launch level place : Nat) : List Nat :=
  (s.skeins.filter (fun e => e.2.launch == launch && e.2.place == .resident && sbarPlace e.2 level == place)).map (fun e => e.1)

/-- The scope barrier at level 1 or 2 that is under way at a place. -/
def sbarAt (s : State) (launch level place : Nat) : Option SbarGen :=
  s.sbars.find? (fun b => b.launch == launch && b.level == level && b.place == place)

/-- A scope barrier at a place is no longer under way. -/
def dropSbar (s : State) (launch level place : Nat) : State :=
  { s with sbars := s.sbars.filter (fun b => !(b.launch == launch && b.level == level && b.place == place)) }

/-- Whether some strand of a launch waits at an SBAR of a level and place. -/
def sbarOpen (s : State) (launch level place : Nat) : Bool :=
  s.skeins.any (fun e => e.2.launch == launch && anyWaits s e.1 (.sbar level place))

/-- An arrival at level 1 or 2 is to come: it joins the skeins that are placed there now, and those that an earlier arrival of the
generation has joined (12 R225). (DESIGN CHOICE, log entry 30.) -/
def joinSbar (s : State) (launch level place : Nat) : State :=
  if 2 < level then s
  else
    let old := if sbarOpen s launch level place then ((sbarAt s launch level place).map (fun b => b.members)).getD [] else []
    let a := dropSbar s launch level place
    { a with sbars := a.sbars ++ [{ launch := launch, level := level, place := place, members := (old ++ placedAt s launch level place).eraseDups }] }

/-- The skeins that an SBAR at a level and place joins (12 R225): of the same launch, or of every launch bound to the same
collective-table entry; at levels 1 and 2 those that the arrivals of its generation have joined. (DESIGN CHOICE, log entry 30.) -/
def sbarMembers (s : State) (launch level place : Nat) : List Nat :=
  let bound := (s.colls.filter (fun e => e.2.launch == launch)).map (fun e => e.2.words)
  let launches := if level = 4 then launch :: (s.colls.filter (fun e => bound.contains e.2.words)).map (fun e => e.2.launch)
    else [launch]
  let joined := ((sbarAt s launch level place).map (fun b => b.members)).getD (placedAt s launch level place)
  (s.skeins.filter (fun e => launches.contains e.2.launch && (decide (2 < level) || joined.contains e.1))).map (fun e => e.1)

/-- Whether every live strand of a skein waits at an SBAR of a level and place: one that was saved there has arrived. -/
def sbarArrived (s : State) (level place sid : Nat) : Bool :=
  (allStrands s sid).all (fun e => !e.2.2.alive || e.2.2.wait == .sbar level place)

/-- The strands of a saved skein that wait so go on behind their instruction, in its image too. -/
def releaseSaved (s : State) (sid : Nat) (w : Wait) : State :=
  let k := getSkein s sid
  (skeinAll k).foldl (fun a e =>
    if (getStrand s (strandKey sid e.1 e.2)).wait == w then
      imagePatch a k (imageStrand k e.1 e.2) [dw (imageGet a k (imageStrand k e.1 e.2)) + 4]
    else a) s

/-- A member of a complete SBAR: its waiters are released, behind an acquire of its core (13 R240), and its plies, all of which share
the completion, see every W register as it is (07 R128). -/
def releaseMember (s : State) (w : Wait) (sid : Nat) : State :=
  let k := getSkein s sid
  let a := if k.place = .resident then acquire s k.core false else releaseSaved s sid w
  let a := setSkein a sid { getSkein a sid with late := [] }
  partAll (releaseWait a sid w) sid

/-- An SBAR completes if every live strand of every member has arrived. -/
def judgeSbar (s : State) (launch level place : Nat) : State :=
  let ms := sbarMembers s launch level place
  let unplaced := decide (2 < level) && ((findLaunch s launch).map (fun x => decide (x.placed < x.total))).getD false
  if !unplaced && ms.all (sbarArrived s level place) then
    ms.foldl (fun b m => releaseMember b (.sbar level place) m) (dropSbar s launch level place)
  else s

/-- The scope barriers that some strand waits at: launch, level and place. -/
def openSbars (s : State) : List (Nat × Nat × Nat) :=
  (s.strands.filterMap (fun e => match e.2.wait with
    | .sbar l p => some ((getSkein s (e.1 / 128)).launch, l, p)
    | _ => none)).eraseDups

/-- Every scope barrier is judged again, as when a strand ends or a skein is restored. -/
def judgeSbars (s : State) : State := (openSbars s).foldl (fun a x => judgeSbar a x.1 x.2.1 x.2.2) s

/-- A strand less: the groups of its ply that wait at TWIST issue it again, and the scope barriers are judged (12 R215, R225). -/
def rejudgeWaits (s : State) (sid ply : Nat) : State :=
  judgeSbars { s with strands := s.strands.map (fun e => match e.2.wait with
      | .twist => if e.1 / 8 = sid * 16 + ply then (e.1, { e.2 with wait := .poll }) else e
      | _ => e) }

/-- Strands of a ply end: they leave their part, the barriers are judged again, a ply without strands frees its tokens,
and a skein without strands exits (12 R216, 21 R361). -/
def endStrands (s : State) (sid ply : Nat) (ns : List Nat) : State :=
  let a := mapStrands s sid ply ns (fun _ t => { t with live := false, wait := .none, faults := [], xfers := [] })
  let a := setParts a sid ply ((partsOf (getSkein a sid) ply).map (fun p => p.filter (fun n => !ns.contains n)))
  let a := if (liveOfPly a sid ply).isEmpty then setSkein a sid (freeTokens (getSkein a sid) ply) else a
  exitSkein (rejudgeWaits (judgeBars a sid) sid ply) sid

/-- Whether a strand has stopped for good and has still to leave its part, or to count as exited (14 R266). -/
def deadWaits (s : State) (sid ply n : Nat) : Bool :=
  let t := getStrand s (strandKey sid ply n)
  t.live && t.dead == 0xF && (getSkein s sid).place == .resident &&
    ((partsOf (getSkein s sid) ply).any (fun p => p.contains n) || t.idle)

/-- A strand whose lanes are all dead stops, its faults are discarded, and once its operations are complete it counts as
exited (14 R266). -/
def settleDead (s : State) (sid ply n : Nat) : State :=
  let key := strandKey sid ply n
  let t := getStrand s key
  if t.idle then endStrands s sid ply [n]
  else
    let a := setStrand s key { t with faults := [], wait := .none }
    let a := setParts a sid ply ((partsOf (getSkein a sid) ply).map (fun p => p.filter (fun x => x != n)))
    rejudgeWaits (judgeBars a sid) sid ply

/-- The fault that an EXIT delivers first to a strand, which has none to deliver before its counters are zero (21 R361). -/
def Strand.atRest (f : Strand → Option TrapInfo) (t : Strand) : Option TrapInfo := if t.idle then f t else none

/-- The pending faults that an EXIT delivers in the strands whose counters are zero: copy faults first, then field faults;
otherwise `k`. -/
def exitFaults (s : State) (k : State → State) : State :=
  if (grp s).any (fun n => ((curStrand s n).atRest Strand.copyFault).isSome) then deliverWith s (Strand.atRest Strand.copyFault) Strand.dropFault
  else if (grp s).any (fun n => ((curStrand s n).atRest Strand.fieldFault).isSome) then
    deliverWith s (Strand.atRest Strand.fieldFault) Strand.dropXfer
  else k s

/-- EXIT (21 R361): strands whose counters are zero take their pending faults, or end; the others wait at the EXIT. -/
def execExit (s : State) : Host.Outcome State Fault Refusal :=
  .next (uniEnter .exit .user [] [] [] [] s (fun s =>
    if (grp s).any (fun n => (curStrand s n).edepth != 0 || (curStrand s n).mode == .hypervisor) then
      trapAll s .illegal (instrWord .exit)
    else
      exitFaults s (fun s =>
        let out := (grp s).filter (fun n => (curStrand s n).idle)
        let left := (grp s).filter (fun n => !(curStrand s n).idle)
        if out.isEmpty then stall s .poll
        else
          let a := endStrands s s.cur.sid s.cur.ply out
          tick { a with cur := { a.cur with strands := left } })))

/-- YIELD (21 R362): the group goes on behind it, and counts as stalled for the swap of plies until it issues again. -/
def execYield (s : State) : Host.Outcome State Fault Refusal :=
  .next (uniEnter .yield .user [] [] [] [] s (fun s =>
    let a := retire s 4
    mapStrands a a.cur.sid a.cur.ply (grp a) (fun _ t => { t with wait := .yielded })))

/-! ## SBAR and FENCE -/

/-- The dirty lines of the issuing skein that a release orders: RC pages, and U pages too for FENCE.SYS.FULL (13 R238). -/
def writeOrdered (s : State) (u : Bool) : State :=
  let sid := s.cur.sid
  let core := curCore s
  writeBack s (fun l => l.owner == sid && l.core == core && (l.kind == .release || (u && l.kind == .unordered)))

/-- SBAR (21 R366): a release at arrival, and an acquire by every member at completion (13 R240). (DESIGN CHOICE, log entries 14 and 30.) -/
def execSbar (l : BitVec 3) (s : State) : Host.Outcome State Fault Refusal :=
  .next (uniEnter (.sbar l) .user [] [] [] [] s (fun s =>
    let k := curSkein s
    let la := findLaunch s k.launch
    let w := Wait.sbar l.toNat (sbarPlace k l.toNat)
    if !((la.map Launch.cores).getD false) || (l == 4 && ((la.map (fun x => x.handle)).getD 0) == 0) then trapAll s .prot 0
    else
      let s := writeOrdered s false
      if !(waits s w) && unperformed s s.cur.sid s.cur.ply (grp s) then stall s .poll
      else
        let a := if waits s w then s else joinSbar s k.launch l.toNat (sbarPlace k l.toNat)
        let a := mapStrands a s.cur.sid s.cur.ply (grp s) (fun _ t => { t with wait := w })
        tick (refocus (judgeSbar a k.launch l.toNat (sbarPlace k l.toNat)))))

/-- Whether an access of a FENCE's group was made before it. -/
def Fence.earlier (f : Fence) (e : Origin × LaneAcc) : Bool :=
  e.1.sid == f.sid && e.1.ply == f.ply && f.strands.contains (e.2.lane / 4) && decide (e.1.tag < f.tag) &&
    (f.all || e.2.kind != .unordered)

/-- Whether some lanes of a copy or COLL are of a FENCE's group, and it was issued before (13 R239). -/
def Fence.counts (f : Fence) (sid ply seq : Nat) (ls : List (Nat × BitVec 4)) : Bool :=
  sid == f.sid && ply == f.ply && decide (seq < f.tag) && ls.any (fun l => f.strands.contains l.1)

/-- Whether an earlier access that is still to be performed keeps a release from holding (13 R238): at CORE scope a plain store to a
word that nothing watches does not, as the core's own accesses see it already. -/
def Fence.keeps (f : Fence) (s : State) (i : Item) : Bool :=
  let plain := match i with
    | .gatherHome p => p.write
    | .gatherStack p => p.write
    | _ => false
  i.pending.any (fun e => f.earlier e && (f.wide || f.cp || f.xf || !plain || watched s e.2.pa e.2.size))

/-- Whether the order of a FENCE holds, copies apart: the accesses that it waits for have returned their values or been performed, and
with CP and XF the COLLs and transfers issued before it have ended (13 R237 to R239). -/
def Fence.settled (f : Fence) (s : State) : Bool :=
  let ts := f.strands.map (fun n => getStrand s (strandKey f.sid f.ply n))
  (!f.acq || ts.all (fun t => t.replies.all (fun r => decide (f.tag ≤ r.tag)))) &&
    (!f.rel || s.flight.all (fun i => !(f.keeps s i))) &&
    (!f.cp || s.collWaits.all (fun c => !(f.counts c.sid c.ply c.seq c.lanes))) &&
    (!f.xf || ts.all (fun t => t.xfers.all (fun x => decide (f.tag ≤ x.tag) || (x.undecided == 0 && x.awaiting == 0))))

/-- Whether the order of a FENCE holds: with CP, the copies issued before it have ended as well. -/
def Fence.ready (f : Fence) (s : State) : Bool := f.settled s && (!f.cp || s.copies.all (fun c => !(f.counts c.sid c.ply c.seq c.lanes)))

/-- A FENCE whose order holds is gone: an acquire invalidates its core's L1 (13 R238). -/
def endFence (s : State) (f : Fence) : State :=
  let a := { s with flight := s.flight.erase (.fence f) }
  if f.wide && f.acq then acquire a f.core f.all else a

/-- The FENCEs whose order holds are gone, and what they held goes on. -/
def settleFences (s : State) : State :=
  s.flight.foldl (fun a i => match i with
    | .fence f => if f.ready a then endFence a f else a
    | _ => a) s

/-- FENCE (13 R237 to R239): a release writes back first; the group goes on, and until the order holds, what follows is held. (DESIGN
CHOICE, log entry 14.) -/
def execFence (sc : BitVec 3) (k : BitVec 2) (c x : BitVec 1) (s : State) : Host.Outcome State Fault Refusal :=
  .next (uniEnter (.fence sc k c x) .user [] [] [] [] s (fun s =>
    let all := sc == 5 && k == 3
    let rel := k != 1
    let wide := sc != 0
    let f : Fence := { core := curCore s, sid := s.cur.sid, ply := s.cur.ply, strands := grp s, acq := k != 2, rel := rel, wide := wide,
                       all := all, cp := c == 1, xf := x == 1, tag := s.seq }
    let a := if wide && rel then writeOrdered s all else s
    retire (settleFences { a with flight := a.flight ++ [.fence f], seq := a.seq + 1 }) 4))

/-! ## UOWN -/

/-- The registers that UOWN's mask names (21 R367). -/
def namedW (m : DWord) : List Nat := (rangeFrom 1 31).filter (fun k => m.getLsbD k)

/-- UOWN (21 R367): the new writer sees every write that the old one has made (07 R127). -/
def execUown (a : BitVec 5) (p : BitVec 4) (s : State) : Host.Outcome State Fault Refusal :=
  .next (uniEnter (.uown a p) .user [] [] [a.toNat] [] s (fun s =>
    let k := curSkein s
    let ws := namedW (wReg s a.toNat)
    if k.plies ≤ p.toNat then trapAll s .prot 0
    else
      match ws.find? (fun w => Tbl.get 0 k.writer w != s.cur.ply) with
      | some w => trapAll s .uwrite (dw w)
      | none => retire (setSkein s s.cur.sid { k with
          writer := ws.foldl (fun m w => Tbl.set 0 m w p.toNat) k.writer,
          late := k.late.filter (fun e => !(e.ply == p.toNat && ws.contains e.reg)) }) 4))

end Sys2Proof.Machine
end

