-- ==== Sys2Proof/Machine/Trigger.lean ====
section
/-! DEFINITION. The trigger unit (05 R104 to R108): arming and cancelling records, counters, and the evaluation that fires
the records whose predicate holds. -/

namespace Sys2Proof.Machine

/-! ## Trigger records (05 R105) -/

/-- Term `t` of a record: its word. -/
def Trigger.term (words : List DWord) (t : Nat) : Nat := fieldOf (words.getD (t / 2) 0).toNat (32 * (t % 2)) 32

/-- VALID of a term. -/
def termValid (w : Nat) : Bool := bitOf w 25

/-- The AND-group of term `t`. -/
def termGroup (words : List DWord) (t : Nat) : Nat := fieldOf (words.getD 7 0).toNat (48 + 2 * t) 2

/-- Whether a term is true on a core. -/
def termTrue (s : State) (core w : Nat) : Bool := decide (fieldOf w 0 16 ≤ (counter s core (fieldOf w 26 6)).toNat)

/-- Whether a group has a valid term and all its valid terms are true. -/
def groupTrue (s : State) (core : Nat) (words : List DWord) (g : Nat) : Bool :=
  let ts := (List.range 8).filter (fun t => termValid (Trigger.term words t) && termGroup words t == g)
  !ts.isEmpty && ts.all (fun t => termTrue s core (Trigger.term words t))

/-- The predicate of a record: the OR of its four groups. -/
def Trigger.holds (s : State) (t : Trigger) : Bool := (List.range 4).any (groupTrue s t.core t.words)

/-- Whether a record has a zero field set or no valid term. -/
def recordBad (words : List DWord) : Bool :=
  let w7 := (words.getD 7 0).toNat
  (List.range 8).any (fun t => fieldOf (Trigger.term words t) 16 9 != 0) || fieldOf w7 17 31 != 0 || fieldOf w7 9 7 != 0 ||
    !((List.range 8).any (fun t => termValid (Trigger.term words t)))

/-- The action of a record as a copy of the strands that armed it. -/
def Trigger.action (t : Trigger) : Copy :=
  let w7 := t.words.getD 7 0
  { seq := 0, core := t.core, sid := t.sid, ply := t.ply, lanes := t.lanes, kind := if bitOf w7.toNat 16 then .copyp else .copy,
    fired := true, dst := t.words.getD 4 0, src := t.words.getD 5 0, w0 := t.words.getD 6 0, w1 := 0, fn := w7.extractLsb' 0 9,
    mode := t.mode, progress := 0, state := .running, fenced := [], snap := [], got := [] }

/-- The lowest free slot of a core's 64. -/
def freeTrigger (s : State) (core : Nat) : Option Nat :=
  (List.range 64).find? (fun n => !(s.triggers.any (fun t => t.core == core && t.slot == n)))

/-- A core's trigger unit is to evaluate (05 R107). -/
def judgeTriggers (s : State) (core : Nat) : State :=
  if s.evalPending.contains core then s else { s with evalPending := s.evalPending ++ [core] }

/-- TRIG (05 R106); the tag bits of its address are ignored. (DESIGN CHOICE, log entries 27 and 72.) -/
def execTrig (d a : BitVec 5) (s : State) : Host.Outcome State Fault Refusal :=
  .next (uniEnter (.trig d a) .user [] [] [a.toNat] [d.toNat] s (fun s =>
    let w := wReg s a.toNat
    let k := curSkein s
    let off := lsOffset w
    if banksShut s (curCore s) then stall s .poll
    else if off % 64 ≠ 0 then trapAll s .misalign w
    else if k.lsSize < off + 64 then trapAll s .lsbound w
    else
      let words := bytesDwords 8 ((lsRead k off 64).map (fun b => b.val))
      let t : Trigger := { core := k.core, slot := (freeTrigger s k.core).getD 0, sid := s.cur.sid, ply := s.cur.ply,
                           lanes := groupLanes s, addr := off, seq := s.seq, mode := curMode s, words := words }
      if recordBad words then trapAll s .prot w
      else
        match copyRefused s k t.action, freeTrigger s k.core with
        | some f, _ => trapAll s f.1 f.2
        | none, none => retire (setWReg s d.toNat 1) 4
        | none, some _ =>
          if (grp s).any (fun n => decide (63 ≤ (curStrand s n).cp)) then stall s .poll
          else
            let b := judgeTriggers (raiseCp { s with triggers := s.triggers ++ [t], seq := s.seq + 1 }) k.core
            retire (setWReg b d.toNat 0) 4))

/-- The oldest record that a skein has armed from an address. -/
def oldestTrigger (s : State) (sid off : Nat) : Option Trigger :=
  (s.triggers.filter (fun t => t.sid == sid && t.addr == off)).foldl (fun o t => match o with
    | none => some t
    | some x => if t.seq < x.seq then some t else some x) none

/-- TRIG.CANCEL (05 R106); the tag bits of its address are ignored. (DESIGN CHOICE, log entry 72.) -/
def execTrigCancel (d a : BitVec 5) (s : State) : Host.Outcome State Fault Refusal :=
  .next (uniEnter (.trigCancel d a) .user [] [] [a.toNat] [d.toNat] s (fun s =>
    match oldestTrigger s s.cur.sid (lsOffset (wReg s a.toNat)) with
    | none => retire (setWReg s d.toNat 0) 4
    | some t =>
      let b := lowerCp { s with triggers := s.triggers.filter (fun x => x.seq != t.seq) } t.sid t.ply t.lanes
      retire (setWReg b d.toNat 1) 4))

/-- CNTR.ADD (05 R104): it waits until every earlier access of the group is performed with respect to its own core (22 R375). -/
def execCntrAdd (a : BitVec 5) (c : BitVec 6) (s : State) : Host.Outcome State Fault Refusal :=
  .next (uniEnter (.cntrAdd a c) .user [] [] [a.toNat] [] s (fun s =>
    if watchedAway s then stall s .poll else retire (addCounter s (curCore s) c.toNat ((wReg s a.toNat).setWidth 32)) 4))

/-- CNTR.SET (05 R104), which waits as CNTR.ADD does. -/
def execCntrSet (a : BitVec 5) (c : BitVec 6) (s : State) : Host.Outcome State Fault Refusal :=
  .next (uniEnter (.cntrSet a c) .user [] [] [a.toNat] [] s (fun s =>
    if watchedAway s then stall s .poll else retire (setCounter s (curCore s) c.toNat ((wReg s a.toNat).setWidth 32)) 4))

/-- CNTR.READ (05 R104): its value is returned at once, so that no later access has to be held (22 R375). -/
def execCntrRead (d : BitVec 5) (c : BitVec 6) (s : State) : Host.Outcome State Fault Refusal :=
  .next (uniEnter (.cntrRead d c) .user [] [] [] [d.toNat] s (fun s =>
    retire (setWReg s d.toNat ((counter s (curCore s) c.toNat).setWidth 64)) 4))

/-- The records of a core whose predicate holds, in ascending slot order. -/
def dueTriggers (s : State) (core : Nat) : List Trigger :=
  (List.range 64).flatMap (fun n => s.triggers.filter (fun t => t.core == core && t.slot == n && t.holds s))

/-- TRIGGER_EVALUATION (05 R107): each record whose predicate holds fires once, and its action enters the skein's copy
order at once, whether or not the core has 128 copies in flight. (DEDUCED, log entry 17; DESIGN CHOICE, log entry 66.) -/
def execTriggerEvaluation (core : Nat) (s : State) : Host.Outcome State Fault Refusal :=
  .next (
    let due := dueTriggers s core
    let a := { s with triggers := s.triggers.filter (fun t => !(due.any (fun x => x.seq == t.seq))),
                      evalPending := s.evalPending.filter (fun c => c != core) }
    due.foldl (fun b t => enterCopy b t.action) a)

end Sys2Proof.Machine
end

