-- ==== Sys2Proof/Machine/Save.lean ====
section
/-! DEFINITION. Saving and restoring skeins (14 R256 to R258; 07 R133, R134; 05 R103, R108; 10 R193, R194): the image, the
save with its failures, the restore, the reply catcher, and SKSV and SKRS (22 R383, R384). -/

namespace Sys2Proof.Machine

/-! ## Bytes in a context -/

/-- Writes `n` blocks of 4 KiB of a context, at their homes; none when one of them is not mapped for writing. -/
def ctxPut (p ctx : Nat) : Nat → Nat → List PByte → State → Option State
  | 0, _, _, s => some s
  | n + 1, va, data, s =>
    match ctxPa s p ctx va true with
    | some pa => ctxPut p ctx n (va + 4096) (data.drop 4096) (homePut s pa (data.take 4096))
    | none => none

/-- Reads `n` blocks of 4 KiB of a context. -/
def ctxGet (s : State) (p ctx : Nat) : Nat → Nat → Option (List PByte)
  | 0, _ => some []
  | n + 1, va =>
    match ctxPa s p ctx va false, ctxGet s p ctx n (va + 4096) with
    | some pa, some t => some (readPBytes s pa 4096 ++ t)
    | _, _ => none

/-- Bytes padded with zeros to a length. -/
def padTo (n : Nat) (bs : List PByte) : List PByte := bs ++ List.replicate (n - bs.length) { val := 0, bad := false }

/-- The bytes of words. -/
def natBytes (ws : List Nat) : List PByte := clean (dwordBytes (ws.map dw))

/-- Number `n` words from a function. -/
def wordsOf (n : Nat) (f : Nat → Nat) : List Nat := (List.range n).map f

/-! ## The image of a skein (07 R133) -/

/-- A scale word in the MLOOP state (10 R193). -/
def ScaleWord.pack (w : ScaleWord) : Nat :=
  if w.on then fieldOf w.base 4 14 + w.stride % 2 ^ 12 * 2 ^ 14 + w.blk % 4 * 2 ^ 26 + 2 ^ 28 else 0

/-- The scale word that 29 bits hold. -/
def scaleFrom (n : Nat) : ScaleWord :=
  if bitOf n 28 then { base := 16 * fieldOf n 0 14, stride := fieldOf n 14 12, blk := fieldOf n 26 2, on := true } else ScaleWord.reset

/-- The 32 bits of a signed increment. -/
def inc32 (i : Int) : Nat := (BitVec.ofInt 32 i).toNat

/-- Whether an MREL of the chain's accumulator is pending (10 R193). -/
def releasePending (k : Skein) : Bool := k.chain.active && tokenOf k k.chain.acc == 0

/-- The strands of a mask. -/
def bitStrands (m : Nat) : List Nat := (List.range 8).filter (fun n => bitOf m n)

/-- The MLOOP state of an image (10 R193). -/
def chainWords (k : Skein) : List Nat :=
  let c := k.chain
  let bit (b : Bool) (n : Nat) : Nat := if b then 2 ^ n else 0
  let cfg (lo : Nat) : Nat :=
    (List.range 4).foldl (fun m i => if lo + i < k.tiles then m + (tileCfgOf k (lo + i)).toNat * 2 ^ (16 * i) else m) 0
  (if c.active then
    [c.n * 2 ^ 32 + bit (releasePending k) 19 + bit c.fbv 18 + c.cnt * 2 ^ 12 + bit c.ce 11 + bit c.wf 10 + c.b / 2 * 2 ^ 7 +
      c.a / 2 * 2 ^ 4 + c.acc * 2 + 1,
     inc32 c.ainc * 2 ^ 32 + c.abase, inc32 c.binc * 2 ^ 32 + c.bbase, c.ply * 2 ^ 40 + strandBits c.strands * 2 ^ 32 + c.done,
     c.sb.pack * 2 ^ 29 + c.sa.pack]
   else [0, 0, 0, 0, 0]) ++
  [(List.range 8).foldl (fun m a => m + (tokenOf k a - 1) * 2 ^ (4 * a)) 0, cfg 0, cfg 4]

/-- The copies of a skein that are not complete, in their order. -/
def skeinCopies (s : State) (sid : Nat) : List Copy := s.copies.filter (fun c => c.sid == sid)

/-- The copies of a skein that stopped with a fault some strand has still to be given: their places and records (05 R103). -/
def stoppedCopies (s : State) (sid : Nat) : List (Nat × List Nat) :=
  (((allStrands s sid).flatMap (fun e => e.2.2.faults)).filterMap (fun f => if f.record.isEmpty then none else some (f.seq, f.record))).eraseDups

/-- What an image records of a skein's copies, in the order of issue: place, record, and the copy where it goes on. It has room for 128;
of more, the oldest are kept. (DESIGN CHOICE, log entry 71.) -/
def copyRecords (s : State) (sid : Nat) : List (Nat × List Nat × Option Copy) :=
  let live := (skeinCopies s sid).map (fun c => (c.seq, copyWords c, some c))
  (sortBy (fun a b => decide (a.1 ≤ b.1)) (live ++ (stoppedCopies s sid).map (fun e => (e.1, e.2, none)))).take 128

/-- The first 12 KiB of an image as words. (DEDUCED, log entry 25.) -/
def headWords (s : State) (sid : Nat) (trs : List Trigger) : List Nat :=
  let k := getSkein s sid
  let cs := copyRecords s sid
  let held := (List.range 8).foldl (fun m a => if tokenOf k a = 0 then m else m + 2 ^ a) 0
  let bar (i : Nat) : Nat :=
    let b := Tbl.get Barrier.reset k.bars i
    b.arrived + b.expected * 2 ^ 10 + (if b.inUse then 2 ^ 20 else 0)
  let cw := cs.flatMap (fun c => c.2.1)
  let tw := trs.flatMap (fun t => t.words.map (fun w => w.toNat))
  [k.plies - 1 + (k.strands - 1) * 2 ^ 4 + k.nreg * 2 ^ 8 + k.lsSize * 2 ^ 32,
   k.tiles + k.accs * 2 ^ 4 + held * 2 ^ 8 + cs.length * 2 ^ 16 + trs.length * 2 ^ 24 + k.core * 2 ^ 31,
   k.digest.toNat, k.phase, (List.range 32).foldl (fun m i => if Tbl.get false k.wBad i then m + 2 ^ i else m) 0, 0, 0, 0] ++
  wordsOf 32 (fun i => (k.wr i).toNat) ++
  wordsOf 4 (fun i => (List.range 8).foldl (fun m j => m + Tbl.get 0 k.writer (8 * i + j) * 2 ^ (8 * j)) 0) ++
  wordsOf 16 bar ++ [0, 0, 0, 0] ++ chainWords k ++ cw ++ List.replicate (768 - cw.length) 0 ++ tw ++
  List.replicate (512 - tw.length) 0

/-- The trap-state set of a strand image (07 R134). -/
def setWords (x : TrapSet) : List Nat := [x.epc.toNat, x.eaddr.toNat, x.ecause.toNat + x.emask.toNat * 2 ^ 32 + x.prev.code * 2 ^ 36, 0]

/-- Words from bytes given low first. -/
def packBytes (bs : List Nat) (n : Nat) : List Nat :=
  wordsOf n (fun i => (List.range 8).foldl (fun m j => m + bs.getD (8 * i + j) 0 * 2 ^ (8 * j)) 0)

/-- A strand image without its registers (07 R134); a strand that has exited has empty stacks, and keeps its dead lanes and its digest
(14 R265, 15 R273). (DEDUCED, log entry 25.) -/
def strandWords (k : Skein) (t : Strand) : List Nat :=
  let t := if t.live then t else { t with masks := [], calls := [], wait := .none }
  let bar := match t.wait with
    | .barrier b => b + 2 ^ 4
    | _ => 0
  [t.pc.toNat,
   t.replies.length % 64 + t.stores.length % 64 * 2 ^ 8 + t.cp % 64 * 2 ^ 16 + t.tl % 64 * 2 ^ 24 + t.xf % 64 * 2 ^ 32,
   t.mode.code + t.edepth * 2 ^ 4 + t.masks.length * 2 ^ 8 + t.calls.length * 2 ^ 16 + t.fstat.toNat * 2 ^ 21 + t.dead.toNat * 2 ^ 28 +
     bar * 2 ^ 32,
   t.vwb, t.dom.toNat, t.preds.toNat, t.digest.toNat, if t.digestOn then 1 else 0] ++
  packBytes (t.masks.reverse.map (fun m => m.toNat)) 4 ++ wordsOf 16 (fun i => (t.calls.reverse.getD i 0).toNat) ++
  setWords t.set1 ++ setWords t.set2 ++ wordsOf 8 (fun i => (Tbl.get 0 t.escr i).toNat) ++ [0, 0, 0, 0] ++
  (replyWords k.nreg t.replies).map (fun w => w.toNat) ++ (xferWords t.xfers).map (fun w => w.toNat) ++ List.replicate 16 0

/-- The registers of a strand image: the allocation, then the supervisor registers. -/
def regBytes (k : Skein) (t : Strand) : List PByte :=
  let row (m : Tbl Word) (r : Nat) : List Byte := (List.range 4).flatMap (fun j => natToBytes (Tbl.get 0 m (4 * r + j)).toNat 4)
  clean ((List.range k.nreg).flatMap (row t.user) ++ (List.range 16).flatMap (row t.sup))

/-- The whole image. -/
def imageBytes (s : State) (sid : Nat) (trs : List Trigger) : List PByte :=
  let k := getSkein s sid
  let acc (a : Nat) : List PByte := (List.range 4096).flatMap (fun i =>
    (natToBytes (Tbl.get 0 k.acc (4096 * a + i)).toNat 4).map (fun v => ({ val := v, bad := Tbl.get false k.accBad (4096 * a + i) } : PByte)))
  let full := (List.range (k.lsSize / 128)).map (fun i => ({ val := BitVec.ofNat 8 ((List.range 8).foldl (fun m j =>
    if Tbl.get false k.full (8 * i + j) then m + 2 ^ j else m) 0), bad := false } : PByte))
  padTo (imageSize k)
    (padTo 0x3000 (natBytes (headWords s sid trs)) ++ (List.range k.tiles).flatMap (fun t => tileRead k t 0 4096) ++
     (List.range k.accs).flatMap acc ++ lsRead k 0 k.lsSize ++ padTo (alignUp (k.lsSize / 128) 64) full ++
     (skeinAll k).flatMap (fun e =>
       let t := getStrand s (strandKey sid e.1 e.2)
       natBytes (strandWords k t) ++ regBytes k t))

/-! ## Reading an image -/

/-- The words of a part of an image, and whether any of it is poisoned. -/
def imageWords (bs : List PByte) (off n : Nat) : List Nat × Bool :=
  let part := (bs.drop off).take (8 * n)
  ((bytesDwords n (part.map (fun b => b.val))).map (fun w => w.toNat), part.any (fun b => b.bad))

/-- Whether a copy record breaks 05 R103, or names strands that the skein does not have. -/
def recordBroken (k : Skein) (ws : List Nat) : Bool :=
  let w (i : Nat) : Nat := ws.getD i 0
  fieldOf (w 4) 9 53 != 0 || fieldOf (w 5) 56 4 != 0 || decide (k.plies ≤ fieldOf (w 5) 60 4) || decide (2 ^ k.strands ≤ fieldOf (w 5) 48 8)

/-- Whether the head of an image breaks 07 R133 or its MLOOP state 10 R193, or is not this skein's. -/
def headBad (k : Skein) (ws : List Nat) : Bool :=
  let w (i : Nat) : Nat := ws.getD i 0
  w 8 != 0 || (rangeFrom 1 31).any (fun i => decide (k.plies ≤ fieldOf (w (40 + i / 8)) (8 * (i % 8)) 8)) ||
    (rangeFrom 44 16).any (fun i => fieldOf (w i) 21 43 != 0) || fieldOf (w 64) 20 12 != 0 || fieldOf (w 67) 44 20 != 0 ||
    fieldOf (w 68) 58 6 != 0 || fieldOf (w 69) 32 32 != 0 || (List.range 8).any (fun t => fieldOf (w (70 + t / 4)) (16 * (t % 4) + 14) 2 != 0) ||
  (List.range (fieldOf (w 1) 16 8)).any (fun i => recordBroken k (ws.drop (72 + 6 * i))) ||
  w 0 != k.plies - 1 + (k.strands - 1) * 2 ^ 4 + k.nreg * 2 ^ 8 + k.lsSize * 2 ^ 32 || fieldOf (w 1) 0 8 != k.tiles + k.accs * 2 ^ 4 ||
    decide (128 < fieldOf (w 1) 16 8) || decide (64 < fieldOf (w 1) 24 7) || fieldOf (w 1) 39 25 != 0 || fieldOf (w 4) 32 32 != 0 ||
    w 5 != 0 || w 6 != 0 || w 7 != 0 || (rangeFrom 60 4).any (fun i => w i != 0) || (rangeFrom 1352 184).any (fun i => w i != 0)

/-- The chain that an image describes: its next step fetches its tiles afresh (10 R194). -/
def chainFrom (ws : List Nat) : Chain :=
  let w (i : Nat) : Nat := ws.getD i 0
  if bitOf (w 0) 0 then
    { active := true, n := fieldOf (w 0) 32 32, done := fieldOf (w 3) 0 32, abase := fieldOf (w 1) 0 32,
      ainc := (BitVec.ofNat 32 (w 1 / 2 ^ 32)).toInt, bbase := fieldOf (w 2) 0 32, binc := (BitVec.ofNat 32 (w 2 / 2 ^ 32)).toInt,
      a := 2 * fieldOf (w 0) 4 3, b := 2 * fieldOf (w 0) 7 3, acc := fieldOf (w 0) 1 3, cnt := fieldOf (w 0) 12 6, ce := bitOf (w 0) 11,
      wf := bitOf (w 0) 10, fbv := bitOf (w 0) 18, sa := scaleFrom (fieldOf (w 4) 0 29), sb := scaleFrom (fieldOf (w 4) 29 29),
      ply := fieldOf (w 3) 40 4, strands := bitStrands (fieldOf (w 3) 32 8),
      fresh := true, sca := [], scb := [], ahead := none }
  else Chain.reset

/-- What a skein takes from the head of its image: W registers, writers, barriers, the chain and the tokens. -/
def headFrom (k : Skein) (ws : List Nat) : Skein :=
  let w (i : Nat) : Nat := ws.getD i 0
  let c := chainFrom (ws.drop 64)
  let bar (i : Nat) : Barrier :=
    { arrived := fieldOf (w (44 + i)) 0 10, expected := fieldOf (w (44 + i)) 10 10, inUse := bitOf (w (44 + i)) 20,
      who := (Tbl.get Barrier.reset k.bars i).who }
  let tok (a : Nat) : Nat :=
    if !(bitOf (w 1) (8 + a)) || (c.active && bitOf (w 64) 19 && c.acc == a) then 0 else fieldOf (w 69) (4 * a) 4 + 1
  { k with digest := dw (w 2), phase := w 3,
           w := (rangeFrom 1 31).foldl (fun m i => Tbl.set 0 m i (dw (w (8 + i)))) [],
           wBad := (rangeFrom 1 31).foldl (fun m i => Tbl.set false m i (bitOf (w 4) i)) [],
           writer := (rangeFrom 1 31).foldl (fun m i => Tbl.set 0 m i (fieldOf (w (40 + i / 8)) (8 * (i % 8)) 8)) [],
           bars := (List.range 16).foldl (fun m i => Tbl.set Barrier.reset m i (bar i)) [],
           chain := c, queue := if c.active then [{ op := .loop, ply := c.ply, strands := c.strands, stage := .queued, age := 0 }] else [],
           token := (List.range 8).foldl (fun m a => Tbl.set 0 m a (tok a)) [],
           tileCfg := (List.range k.tiles).foldl (fun m t => Tbl.set 0x0FE7 m t (BitVec.ofNat 14 (w (70 + t / 4) / 2 ^ (16 * (t % 4))))) [] }

/-- The rest of a skein from its image: tiles, accumulators, local store and full bits. -/
def bodyFrom (k : Skein) (bs : List PByte) : Skein :=
  let k := (List.range k.tiles).foldl (fun k t => tileWrite k t ((bs.drop (0x3000 + 4096 * t)).take 4096)) k
  let acc := bs.drop (0x3000 + 4096 * k.tiles)
  let k := (List.range (4096 * k.accs)).foldl (fun k i =>
    let e := (acc.drop (4 * i)).take 4
    { k with acc := Tbl.set 0 k.acc i (BitVec.ofNat 32 (bytesToNat (e.map (fun b => b.val)))),
             accBad := Tbl.set false k.accBad i (e.any (fun b => b.bad)) }) k
  let k := lsWrite k 0 ((bs.drop (imageLs k)).take k.lsSize)
  let full := bs.drop (imageFull k)
  { k with full := (List.range (k.lsSize / 16)).foldl (fun m g =>
      Tbl.set false m g ((((full.drop (g / 8)).headD { val := 0, bad := false }).val).getLsbD (g % 8))) [] }

/-- A mode code. -/
def modeFrom (n : Nat) : Mode := if n = 0 then .user else if n = 1 then .supervisor else .hypervisor

/-- A trap-state set of an image: an EPC is a multiple of 4 (08 R135). -/
def setFrom (ws : List Nat) : TrapSet :=
  let w (i : Nat) : Nat := ws.getD i 0
  { epc := dw (w 0 / 4 * 4), eaddr := dw (w 1), ecause := BitVec.ofNat 32 (w 2), emask := BitVec.ofNat 4 (w 2 / 2 ^ 32),
    prev := modeFrom (fieldOf (w 2) 36 2) }

/-- Whether a reply entry of a strand image that is valid breaks 07 R134. -/
def replyBad (k : Skein) (w : Nat) : Bool :=
  bitOf w 63 && (fieldOf w 61 2 == 3 || fieldOf w 43 5 != 0 || decide (k.nreg + 16 ≤ fieldOf w 32 11))

/-- Whether a transfer entry that is valid names a cause that 07 R134 does not. -/
def xferBad (w : Nat) : Bool := bitOf w 63 && (List.range 4).any (fun j => fieldOf w (8 + 2 * j) 2 == 3)

/-- Whether a trap-state set breaks 07 R134. -/
def setBad (ws : List Nat) : Bool := fieldOf (ws.getD 2 0) 38 26 != 0 || fieldOf (ws.getD 2 0) 36 2 == 3 || ws.getD 3 0 != 0

/-- Whether a strand image breaks 07 R134. (DEDUCED, log entry 25.) -/
def strandBad (k : Skein) (ws : List Nat) : Bool :=
  let w (i : Nat) : Nat := ws.getD i 0
  [6, 14, 22, 30].any (fun i => fieldOf (w 1) i 2 != 0) || fieldOf (w 1) 38 26 != 0 || fieldOf (w 2) 14 2 != 0 || bitOf (w 2) 27 ||
    setBad (ws.drop 28) || setBad (ws.drop 32) || (rangeFrom 48 64).any (fun i => replyBad k (w i)) ||
    (List.range 64).any (fun i => xferBad (w (113 + 2 * i))) ||
  decide (2 < fieldOf (w 2) 0 2) || fieldOf (w 2) 2 2 != 0 || decide (2 < fieldOf (w 2) 4 2) || fieldOf (w 2) 6 2 != 0 ||
    decide (32 < fieldOf (w 2) 8 6) || decide (16 < fieldOf (w 2) 16 5) || fieldOf (w 2) 37 27 != 0 || decide (k.nreg ≤ w 3) ||
    decide (1 < w 7) || decide (2 ^ 32 ≤ w 5) || (rangeFrom 44 4).any (fun i => w i != 0) || (rangeFrom 240 16).any (fun i => w i != 0)

/-- Byte `i` of words. -/
def wordByte (ws : List Nat) (i : Nat) : Nat := fieldOf (ws.getD (i / 8) 0) (8 * (i % 8)) 8

/-- The replies of a restored strand (14 R257, R258) are the valid entries of its image, the lost ones among them: an entry that the save
wrote is that of its request, and one that was added by hand waits for a reply that does not come. (DEDUCED, log entry 24.) -/
def repliesFrom (k : Skein) (old : List Reply) (ws : List Nat) : List Reply :=
  (List.range 64).filterMap (fun i =>
    let w := ws.getD i 0
    let o := old[i]?
    let tag := match o with
      | some r => if r.tag % 2 ^ 32 = fieldOf w 0 32 then r.tag else fieldOf w 0 32
      | none => fieldOf w 0 32
    let reg := fieldOf w 32 11
    if bitOf w 63 && fieldOf w 48 4 != 0 then
      some { tag := tag, sup := decide (k.nreg ≤ reg), reg := if k.nreg ≤ reg then reg - k.nreg else reg, count := 2 ^ fieldOf w 61 2,
             lanes := BitVec.ofNat 4 (w / 2 ^ 48), lost := bitOf w 60 || (o.map (fun r => r.lost)).getD false }
    else none)

/-- The marks of a lost reply: each register in each of its lanes. -/
def lostMarks (r : Reply) : List (Bool × Nat × Nat) :=
  (rangeFrom r.reg r.count).flatMap (fun x => (lanesOf r.lanes).map (fun j => (r.sup, x, j)))

/-- The transfers of a restored strand are the valid entries of its image; one that was added by hand is no transfer's, and waits for
lanes that nothing acknowledges. (DEDUCED, log entry 24.) -/
def xfersFrom (old : List XferEntry) (ws : List Nat) : List XferEntry :=
  (List.range 64).filterMap (fun i =>
    let w := ws.getD (2 * i + 1) 0
    let c (j : Nat) : Option Cause := if !(bitOf w (4 + j)) then none else if fieldOf w (8 + 2 * j) 2 = 2 then some .prot else some .fovf
    let e : XferEntry := (old[i]?).getD { tag := 2 ^ 64 + i, addr := 0, undecided := 0, awaiting := 0, failed := 0, causes := 0, sync := 0, syncCauses := 0 }
    if bitOf w 63 && fieldOf w 0 8 != 0 then
      some { e with addr := dw (ws.getD (2 * i) 0), awaiting := BitVec.ofNat 4 w, failed := BitVec.ofNat 4 (w / 16), causes := causesFrom c }
    else none)

/-- A wait as it stands when the image says that no barrier is waited for. -/
def Wait.elsewhere : Wait → Wait
  | .barrier _ => .none
  | w => w

/-- A strand as a restore finds it: what the image holds, and what the catcher has kept (replies on their way, pending
faults, folds and the vectors of traps). (DEDUCED, log entry 24.) -/
def strandFrom (old : Strand) (k : Skein) (ws : List Nat) (regs : List PByte) : Strand :=
  let w (i : Nat) : Nat := ws.getD i 0
  let depth := fieldOf (w 2) 8 6
  let rs := repliesFrom k old.replies (ws.drop 48)
  let word (r j : Nat) : Word := BitVec.ofNat 32 (bytesToNat (((regs.drop (16 * r + 4 * j)).take 4).map (fun b => b.val)))
  let table (lo n : Nat) : Tbl Word := (List.range (4 * n)).foldl (fun m i => Tbl.set 0 m i (word (lo + i / 4) (i % 4))) []
  let bad := laneMask (fun j => (List.range (k.nreg + 16)).any (fun r => ((regs.drop (16 * r + 4 * j)).take 4).any (fun b => b.bad)))
  let t : Strand := { old with
    live := depth != 0, pc := dw (w 0 / 4 * 4),
    masks := ((List.range depth).map (fun i => BitVec.ofNat 8 (wordByte (ws.drop 8) i))).reverse,
    calls := ((List.range (fieldOf (w 2) 16 5)).map (fun i => dw (w (12 + i)))).reverse,
    mode := modeFrom (fieldOf (w 2) 0 2), edepth := fieldOf (w 2) 4 2, set1 := setFrom (ws.drop 28), set2 := setFrom (ws.drop 32),
    escr := (List.range 8).foldl (fun m i => Tbl.set 0 m i (dw (w (36 + i)))) [], vwb := w 3, dom := dw (w 4), preds := BitVec.ofNat 32 (w 5),
    fstat := BitVec.ofNat 6 (w 2 / 2 ^ 21), digest := dw (w 6), digestOn := w 7 == 1, cp := fieldOf (w 1) 16 6, tl := fieldOf (w 1) 24 6,
    dead := BitVec.ofNat 4 (w 2 / 2 ^ 28), wait := if bitOf (w 2) 36 then .barrier (fieldOf (w 2) 32 4) else old.wait.elsewhere,
    replies := rs.filter (fun r => !r.lost), stores := [], xfers := xfersFrom old.xfers (ws.drop 112),
    lost := old.lost ++ (rs.filter (fun r => r.lost)).flatMap lostMarks, user := table 0 k.nreg, sup := table k.nreg 16 }
  (t.kill bad t.pc)

/-! ## Saving (14 R256) -/

/-- Whether a wait is that of an instruction in progress which a save lets complete: a token instruction or TQRY, LNCH, TLBI, SKSV, an
access of which one half is performed, an XFER before its debits, or an instruction that waits for other packages (22 R372, R377). -/
def Wait.begun : Wait → Bool
  | .home => true
  | .half => true
  | .drain _ => true
  | .token => true
  | .debit => true
  | .acks => true
  | .save => true
  | _ => false

/-- Whether a strand stands in an instruction that a save lets complete, a TCFG or AMOV in its queue included (10 R193), or still has
stores to be performed. -/
def strandBusy (s : State) (sid ply n : Nat) : Bool :=
  let t := getStrand s (strandKey sid ply n)
  t.live && (!t.stores.isEmpty || t.wait.begun || matBegun s sid ply n)

/-- Whether an item in flight is work of a skein that no image records: a load for a W register or a DGST.FOLD, an FTOT, half an access,
or a FENCE that waits for more than copies, which the save records. (DEDUCED, log entry 37.) -/
def Item.unsaved (s : State) (sid : Nat) : Item → Bool
  | .gatherHome p => p.uni.isSome && p.org.sid == sid
  | .gatherStack p => p.uni.isSome && p.org.sid == sid
  | .gatherReply _ p => p.uni.isSome && p.org.sid == sid
  | .fieldAsk o _ uni _ _ _ _ => uni.isSome && o.sid == sid
  | .totalAsk _ x _ _ _ _ _ => x == sid
  | .fence f => f.sid == sid && !(f.settled s)
  | .half h => h.org.sid == sid
  | _ => false

/-- Whether a skein has drained so far that its image can be written; a tree reduce runs on until it completes or pauses for PAGE.
(DESIGN CHOICE, log entry 71.) -/
def skeinDrained (s : State) (sid : Nat) : Bool :=
  let k := getSkein s sid
  (skeinAll k).all (fun e => !(strandBusy s sid e.1 e.2)) && !(s.collWaits.any (fun c => c.sid == sid)) && !(s.flight.any (Item.unsaved s sid)) &&
    (skeinCopies s sid).all (fun c => c.state != .sent && (c.kind != .tree || c.state == .paused)) &&
    (match k.queue.filter (fun r => !(r.idle s sid)) with
     | [] => true
     | [r] => r.op == .loop && r.stage == .queued
     | _ => false)

/-- What a strand's wait becomes: a barrier wait is recorded as arrived, a commit and a scope barrier stand, and every
other wait is abandoned. (DEDUCED, log entry 24.) -/
def savedWait : Wait → Wait
  | .barrier b => .barrier b
  | .sbar l p => .sbar l p
  | .phase => .phase
  | _ => .none

/-- The grants of a skein and the requests for them are dropped. -/
def dropGrants (s : State) (sid : Nat) : State :=
  let k := getSkein s sid
  let mine (g : Grant) : Bool := (g.core == k.core || g.core == engineCache k.core) && g.part == k.part && g.package == here s && g.ctx == k.ctx &&
    g.agent == skeinAgent k
  { s with grants := s.grants.filter (fun g => !mine g), refused := s.refused.filter (fun r => r.1 != sid),
           flight := s.flight.filter (fun i => match i with
             | .grantAsk _ x _ _ _ _ _ _ => x != sid
             | .grantGive g _ => !mine g
             | _ => true) }

/-- The steps of a save before its image is written: copies pause, dirty lines are written back, grants are dropped. -/
def settleSkein (s : State) (sid : Nat) : State :=
  let k := getSkein s sid
  let a := writeBack s (fun l => l.owner == sid && l.core == k.core)
  let a := dropGrants { a with copies := a.copies.map (fun c => if c.sid = sid ∧ (c.state = .running ∨ c.state = .asked) then { c with state := .paused, got := [], pin := none } else c) } sid
  (skeinAll k).foldl (fun b e =>
    let key := strandKey sid e.1 e.2
    let t := getStrand b key
    setStrand b key { t with wait := savedWait t.wait }) a

/-- The image at an address of the skein's context: none when the write is refused. -/
def writeImage (s : State) (sid va : Nat) (trs : List Trigger) : Option State :=
  let k := getSkein s sid
  ctxPut k.part k.ctx (imageSize k / 4096) va (imageBytes s sid trs) s

/-- The armed records of a skein, in slot order. -/
def armedOf (s : State) (sid : Nat) : List Trigger := (List.range 64).flatMap (fun n => s.triggers.filter (fun t => t.sid == sid && t.slot == n))

/-- A skein leaves its core: its image stands, and what its plies share is held nowhere else. -/
def unplace (s : State) (sid : Nat) : State :=
  let k := getSkein s sid
  let a := { s with triggers := s.triggers.filter (fun t => t.sid != sid), parked := s.parked ++ armedOf s sid }
  let a := setSkein a sid { k with place := .saved, savedCore := k.core, saving := none, ls := [], full := [], lsBad := [], w := [],
                                   writer := [], wBad := [], tile := [], tileBad := [], tileCfg := [], acc := [], accBad := [],
                                   token := [], queue := [], chain := Chain.reset, active := [], lagging := [], late := [], turn := [],
                                   pend := [], kept := [] }
  (skeinAll k).foldl (fun b e =>
    let key := strandKey sid e.1 e.2
    setStrand b key { getStrand b key with user := [], sup := [] }) a

/-- The fault record goes to queue 32 (14 R253, R254). -/
def postFault (s : State) (k : Skein) : State :=
  match k.faultRec with
  | [a, b, c, _] => setPart s k.part (enqueue (getPart s k.part) 32 (a, b, c, dw (imageVa s k)))
  | _ => s

/-- A saved skein counts for a pre-emption under way (14 R260). (DEDUCED, log entry 23.) -/
def countSaved (s : State) (k : Skein) : State :=
  let x := getPart s k.part
  if x.preState = 2 ∧ (x.preTarget = 0xFFFF ∨ x.preTarget = k.ctx) then setPart s k.part { x with preSaved := x.preSaved + 1 } else s

/-- ResetContext (14 R261): every skein of the context is killed, and its launches end with the reset mark. (DEDUCED, log entry 23.) -/
def resetContext (s : State) (p tgt : Nat) : State :=
  let hit (ctx : Nat) : Bool := tgt == 0xFFFF || ctx == tgt
  let a := { s with launches := s.launches.map (fun (l : Launch) => if l.part = p ∧ hit l.ctx then { l with reset := true } else l) }
  let sids := (a.skeins.filter (fun e => e.2.part == p && hit e.2.ctx)).map (fun e => e.1)
  let a := sids.foldl (fun b sid => killSkein b sid 0 false) a
  (a.launches.filter (fun l => l.part == p && hit l.ctx)).foldl completeLaunch a

/-- A pre-emption request ends in a state (14 R260): a context whose slice has expired waits behind the others (R262). (DEDUCED, log
entry 23.) -/
def endPreempt (s : State) (p st : Nat) : State :=
  let x := getPart s p
  let x := { x with preState := BitVec.ofNat 8 st, preReq := false, preHeld := if x.preSlice then x.preHeld.erase x.preTarget else x.preHeld,
                    sliced := if x.preSlice then some x.preTarget else x.sliced, preSlice := false }
  postEvent (setPart s p x) { part := p, type := 9, w1 := dw st, w2 := x.preSaved.setWidth 64, w3 := dw x.preTarget }

/-- A save has failed (14 R261): for pre-emption the context is reset, otherwise the skein is killed. (DEDUCED, log entry 25.) -/
def failSave (s : State) (sid : Nat) : State :=
  let k := getSkein s sid
  match k.saving with
  | some .preempt => endPreempt (resetContext s k.part (getPart s k.part).preTarget) k.part 4
  | _ => killSkein s sid 0 false

/-- A skein that has drained is saved (14 R256): its image is written, and it leaves its core. -/
def saveSkein (s : State) (sid : Nat) : State :=
  let k := getSkein s sid
  let a := settleSkein s sid
  match writeImage a sid (imageVa a k) (armedOf a sid) with
  | none => failSave s sid
  | some b =>
    let b := unplace b sid
    let k' := getSkein b sid
    match k.saving with
    | some .fault => countSaved (postFault (setSkein b sid { k' with heldFault := true, faultRec := [] }) k) k
    | some .named => countSaved (setSkein b sid { k' with heldSave := true }) k
    | some .preempt => countSaved (setSkein b sid { k' with gang := true }) k
    | _ => countSaved b k

/-- Whether a core of a halted partition has stopped (14 R267). -/
def coreStopped (s : State) (core : Nat) : Bool :=
  let x := getPart s (partOf s core)
  x.halted && x.stopWritten.contains core

/-- SKEIN_SAVE (14 R256): once the skein has stopped and drained; a core that a halt has stopped saves none (14 R267). -/
def execSkeinSave (sid : Nat) (s : State) : Host.Outcome State Fault Refusal :=
  .next (
    let k := getSkein s sid
    if k.saving.isSome && k.place == .resident && !(coreStopped s k.core) && skeinDrained s sid then saveSkein s sid else s)

/-- SAVE_STOP_TIMEOUT (14 R261). (DESIGN CHOICE, log entry 6.) -/
def execSaveStopTimeout (sid : Nat) (s : State) : Host.Outcome State Fault Refusal :=
  .next (if (getSkein s sid).saving.isSome && !(skeinDrained s sid) then failSave s sid else s)

/-! ## Restoring -/

/-- The kind of a copy that a record describes: a fired action moves as COPYP if its destination is on another package. -/
def recordKind (ws : List Nat) : CopyKind :=
  match fieldOf (ws.getD 4 0) 62 2 with
  | 0 => .copy
  | 1 => .copy2d
  | 2 => .copyp
  | _ => if fieldOf (ws.getD 0 0) 60 4 = 4 then .copyp else .copy

/-- A copy as a record of an image describes it (05 R103, 14 R263), with what the record has no place for from the copy that it was
written for. (DEDUCED, log entry 25.) -/
def copyFrom (core sid seq : Nat) (old : Option Copy) (ws : List Nat) : Copy :=
  let w (i : Nat) : Nat := ws.getD i 0
  let tree := fieldOf (w 4) 62 2 == 2 && (old.map (fun c => c.kind == .tree)).getD false
  let mask (n : Nat) : BitVec 4 := ((old.bind (fun c => c.lanes.find? (fun l => l.1 == n))).map (fun l => l.2)).getD 0xF
  let c : Copy := { seq := seq, core := core, sid := sid, ply := fieldOf (w 5) 60 4, lanes := (bitStrands (fieldOf (w 5) 48 8)).map (fun n => (n, mask n)),
                    kind := if tree then .tree else recordKind ws, fired := fieldOf (w 4) 62 2 == 3, dst := dw (w 0), src := dw (w 1), w0 := dw (w 2),
                    w1 := if tree then (old.map (fun c => c.w1)).getD 0 else dw (w 3), fn := BitVec.ofNat 9 (w 4),
                    mode := (old.map (fun c => c.mode)).getD .user, progress := fieldOf (w 5) 0 48, state := .running, fenced := [],
                    snap := (old.map (fun c => c.snap)).getD [], got := [], bind := (old.map (fun c => c.bind)).getD 0 }
  { c with progress := min c.progress c.total }

/-- The copies that a restore issues again from `n` records, in their order, each behind those before it whose footprint meets its own;
the record of a copy that has stopped issues none. -/
def recordCopies (core sid : Nat) (ws : List Nat) : Nat → Nat → List (Nat × List Nat × Option Copy) → List Copy → List Copy
  | 0, _, _, out => out
  | n + 1, fresh, olds, out =>
    match olds with
    | (_, _, none) :: t => recordCopies core sid (ws.drop 6) n fresh t out
    | (q, _, some c) :: t =>
      let d := copyFrom core sid q (some c) ws
      recordCopies core sid (ws.drop 6) n fresh t (out ++ [{ d with fenced := (out.filter (fun a => d.after a)).map (fun a => a.seq) }])
    | [] =>
      let d := copyFrom core sid fresh none ws
      recordCopies core sid (ws.drop 6) n (fresh + 1) [] (out ++ [{ d with fenced := (out.filter (fun a => d.after a)).map (fun a => a.seq) }])

/-- The copies of a skein as the `n` records of its image give them; the fault of a stopped copy whose record is gone goes too. -/
def resumeCopies (s : State) (sid core n : Nat) (ws : List Nat) : State :=
  let olds := copyRecords s sid
  let gone := ((olds.drop n).filter (fun e => e.2.2.isNone)).map (fun e => e.1)
  let a := { s with seq := s.seq + 128, copies := s.copies.filter (fun c => c.sid != sid) ++ recordCopies core sid ws n s.seq olds [] }
  (skeinAll (getSkein a sid)).foldl (fun b e =>
    let t := getStrand b (strandKey sid e.1 e.2)
    setStrand b (strandKey sid e.1 e.2) { t with faults := t.faults.filter (fun f => f.record.isEmpty || !(gone.contains f.seq)) }) a

/-- The `n` trigger records of an image are armed again in the free slots of their core, and evaluated at once (05 R108); one that was
written into the image by hand belongs to ply 0. (DEDUCED, log entry 25.) -/
def rearm (s : State) (sid core n : Nat) (ws : List Nat) : State :=
  let mine := s.parked.filter (fun t => t.sid == sid)
  let a := { s with parked := s.parked.filter (fun t => t.sid != sid) }
  let new : Trigger := { core := core, slot := 0, sid := sid, ply := 0, lanes := (List.range (getSkein s sid).strands).map (fun i => (i, 0xF)), addr := 0,
                         seq := 0, mode := .user, words := [] }
  if n = 0 then a
  else
    let b := (List.range n).foldl (fun b i =>
      let t : Trigger := { mine.getD i { new with seq := b.seq } with core := core, slot := (freeTrigger b core).getD 0,
                                                                      words := ((ws.drop (8 * i)).take 8).map dw }
      { b with triggers := b.triggers ++ [t], seq := b.seq + 1 }) a
    judgeTriggers b core

/-- A strand's kept lists, which a restart from a checkpoint drops. -/
def Strand.afresh (t : Strand) : Strand :=
  { t with replies := [], stores := [], xfers := [], faults := [], lost := [], folds := [], newDead := 0, wait := .none }

/-- Every strand from its image. -/
def strandsFrom (s : State) (sid : Nat) (k : Skein) (bs : List PByte) (fresh : Bool) : State :=
  (skeinAll k).foldl (fun b e =>
    let key := strandKey sid e.1 e.2
    let off := imageStrand k e.1 e.2
    let t := getStrand b key
    setStrand b key (strandFrom (if fresh then t.afresh else t) k (imageWords bs off 256).1
      ((bs.drop (off + 0x800)).take (16 * (k.nreg + 16))))) s

/-- Every strand of a ply is in one of its parts, and the parts fall apart where their strands stand at different addresses (12 R214). -/
def allParts (s : State) (sid : Nat) : State :=
  let k := getSkein s sid
  partAll ((List.range k.plies).foldl (fun a p =>
    let live := liveOfPly a sid p
    let ps := (partsOf (getSkein a sid) p).map (fun ns => ns.filter (fun n => live.contains n))
    let left := live.filter (fun n => !(ps.any (fun ns => ns.contains n)))
    setParts a sid p (ps ++ [left])) s) sid

/-- Who has arrived at the barriers of a restored skein: those that wait there by the image, and not those that did before and do no
more. -/
def arrivals (s : State) (sid : Nat) (old : Skein) (was : List (Nat × Wait)) : State :=
  let now := (allStrands s sid).map (fun e => (e.1 * 8 + e.2.1, e.2.2.wait))
  let at_ (ws : List (Nat × Wait)) (i : Nat) : List Nat := (ws.filter (fun e => e.2 == .barrier i)).map (fun e => e.1)
  let who (i : Nat) : List Nat :=
    let keep := (Tbl.get Barrier.reset old.bars i).who.filter (fun x => !((at_ was i).contains x))
    keep ++ at_ now i
  let k := getSkein s sid
  setSkein s sid { k with bars := (List.range 16).foldl (fun m i =>
    Tbl.set Barrier.reset m i { Tbl.get Barrier.reset m i with who := if (Tbl.get Barrier.reset m i).inUse then who i else [] }) k.bars }

/-- A restored skein leaves the scope barriers of the quad or die where it was, and joins those under way where it is now, its strands
that wait in SBAR included (12 R225). (DESIGN CHOICE, log entry 30.) -/
def moveSbars (s : State) (sid : Nat) : State :=
  let k := getSkein s sid
  let moved (b : SbarGen) : SbarGen :=
    if b.launch != k.launch then b
    else { b with members := b.members.filter (fun x => x != sid) ++ (if sbarPlace k b.level == b.place then [sid] else []) }
  (skeinAll k).foldl (fun b e =>
    let key := strandKey sid e.1 e.2
    match (getStrand b key).wait with
    | .sbar l _ =>
      let b := joinSbar b k.launch l (sbarPlace k l)
      setStrand b key { getStrand b key with wait := .sbar l (sbarPlace k l) }
    | _ => b) { s with sbars := s.sbars.map moved }

/-- The FENCEs of a restored skein hold on its new core (13 R237). -/
def moveFences (s : State) (sid core : Nat) : State :=
  { s with flight := s.flight.map (fun i => match i with
      | .fence f => if f.sid = sid then .fence { f with core := core } else i
      | i => i) }

/-- How many plies of a core are active (12 R223). -/
def activePlies (s : State) (core : Nat) : Nat :=
  ((residentOn s core).map (fun sid => ((getSkein s sid).active.filter (fun e => e.2)).length)).sum

/-- The plies of a skein take active slots while its core has some free; the others wait for one from now on (12 R223). -/
def activate (s : State) (sid : Nat) : State :=
  (List.range (getSkein s sid).plies).foldl (fun a p =>
    let k := getSkein a sid
    setSkein a sid (if activePlies a k.core < 8 then { k with active := Tbl.set false k.active p true }
      else { k with pend := Tbl.set 0 k.pend p s.ticks })) s

/-- Whether a context has skeins on the cores of a partition. -/
def runsOn (s : State) (p ctx : Nat) : Bool := s.skeins.any (fun e => e.2.part == p && e.2.ctx == ctx && e.2.place == .resident)

/-- A skein of a context is to be placed or restored: a context with none on the cores comes to run behind those that run (14 R262). -/
def comesToRun (s : State) (p ctx : Nat) : State :=
  let x := getPart s p
  let on := x.running.filter (runsOn s p)
  setPart s p { x with running := if on.contains ctx then on else on ++ [ctx] }

/-- A saved skein as it is to be restored: from a checkpoint, with the registers it had there. -/
def Skein.restoring (k : Skein) : Skein := if k.checkpointed then { k with nreg := k.checkNreg, parts := k.checkParts } else k

/-- Restores a saved skein on a core (14 R256): from its checkpoint if it restarts a phase (15 R278). An image that cannot
be read, or breaks 07 R133 or R134, kills the skein (14 R263). What the core has cached is invalidated, so that the skein sees nothing
older than it has seen elsewhere (13 R230). (DEDUCED, log entry 25.) -/
def restoreSkein (s : State) (sid core : Nat) : State :=
  let k := (getSkein s sid).restoring
  match ctxGet s k.part k.ctx (imageSize k / 4096) (if k.checkpointed then checkpointVa s k else imageVa s k) with
  | none => killSkein s sid 0 false
  | some bs =>
    let head := imageWords bs 0 1536
    let sts := (skeinAll k).map (fun e => imageWords bs (imageStrand k e.1 e.2) 256)
    if head.2 || sts.any (fun e => e.2) || headBad k head.1 || sts.any (fun e => strandBad k e.1) then killSkein s sid 0 false
    else
      let k' := { bodyFrom (headFrom k head.1) bs with place := .resident, core := core, age := s.seq, checkpointed := false, gang := false }
      let was := (allStrands s sid).map (fun e => (e.1 * 8 + e.2.1, e.2.2.wait))
      let s := comesToRun s k.part k.ctx
      let a := setSkein { s with seq := s.seq + 1 } sid k'
      let a := arrivals (strandsFrom a sid k' bs k.checkpointed) sid k was
      let a := acquire (moveFences (moveSbars (activate (allParts a sid) sid) sid) sid core) core true
      let w1 := head.1.getD 1 0
      judgeSbars (rearm (resumeCopies a sid core (fieldOf w1 16 8) (head.1.drop 72)) sid core (fieldOf w1 24 7) (head.1.drop 840))

/-! ## The reply catcher (14 R257, R258) -/

/-- The reply entries of a strand, written into its image. -/
def patchReplies (s : State) (k : Skein) (ply n : Nat) (rs : List Reply) : State :=
  imagePatch s k (imageStrand k ply n + 0x180)
    ((List.range 64).map (fun i => match rs[i]? with
      | some r => if r.lanes = 0 then 0 else replyWord k.nreg r
      | none => 0))

/-- The digest of a strand in its skein's image. -/
def imageDigest (k : Skein) (ply n : Nat) : Nat := imageStrand k ply n + 0x30

/-- A fold that a saved strand has waited for: its image's digest takes it (15 R275). -/
def lateFold (s : State) (o : Origin) (lane va : Nat) (old : List Byte) : State :=
  let k := getSkein s o.sid
  let n := lane / 4
  let key := strandKey o.sid o.ply n
  let t := getStrand s key
  if t.folds.isEmpty then s
  else
    let u := ({ t with digest := dw (imageGet s k (imageDigest k o.ply n)) }).settleFolds o.tag (lane % 4) va old
    imagePatch (setStrand s key u) k (imageDigest k o.ply n) [u.digest]

/-- One lane's answer for a saved skein: the image's registers take it, its entry loses the lane, and poison kills the
lane there. (DEDUCED, log entry 24.) -/
def lateLane (s : State) (o : Origin) (lane : Nat) (bs : List PByte) : State :=
  let k := getSkein s o.sid
  let n := lane / 4
  let j := lane % 4
  let key := strandKey o.sid o.ply n
  let t := getStrand s key
  let off := imageStrand k o.ply n
  let a := ((t.replyRegs o.tag).zip (bytesWords (t.replyRegs o.tag).length bs)).foldl (fun b e =>
    imagePut b k (off + 0x800 + 16 * allocNumber k.nreg e.1 + 4 * j) (clean (natToBytes e.2.toNat 4))) s
  let bad := bs.any (fun b => b.bad)
  let a := if bad then imagePatch a k (off + 0x10) [dw (imageGet a k (off + 0x10) ||| 2 ^ (28 + j))] else a
  let m := laneMask (fun i => i == j)
  let rs := t.replies.map (fun r => if r.tag = o.tag then { r with lanes := r.lanes &&& ~~~ m } else r)
  let t := if bad then t.kill m o.pc else t
  patchReplies (setStrand a key { t with replies := rs }) k o.ply n rs

/-- LATE_REPLY (14 R257): a reply for a saved skein reaches the catcher. (DEDUCED, log entry 24.) -/
def execLateReply (n : Nat) (s : State) : Host.Outcome State Fault Refusal :=
  let saved (sid : Nat) : Bool := (getSkein s sid).place == .saved
  .next (match s.flight[n]? with
    | some (.gatherReply _ p) =>
      if saved p.org.sid then p.lanes.foldl (fun b l => lateLane b p.org l.lane l.data) (replaceItem s n []) else s
    | some (.atomReply r olds) =>
      let all := r.lanes.zip olds
      let late := all.filter (fun e => saved e.1.org.sid)
      let rest := all.filter (fun e => !(saved e.1.org.sid))
      late.foldl (fun b e =>
          let bs := natToBytes e.2.1.toNat r.width
          lateFold (lateLane b e.1.org e.1.lane (bs.map (fun v => { val := v, bad := e.2.2 }))) e.1.org e.1.lane e.1.va bs)
        (replaceItem s n (if rest.isEmpty then [] else
          [Item.atomReply { r with lanes := rest.map (fun e => e.1) } (rest.map (fun e => e.2))]))
    | _ => s)

/-- The issuers that an item's replies are expected by, each with the address of its request. -/
def Item.askers : Item → List (Origin × Nat)
  | .gatherHome p => if p.write then [] else (p.lanes.map (fun l => (p.org, l.va))).take 1
  | .gatherStack p => if p.write then [] else (p.lanes.map (fun l => (p.org, l.va))).take 1
  | .gatherReply _ p => (p.lanes.map (fun l => (p.org, l.va))).take 1
  | .atomic r => (r.lanes.filter (fun l => l.reply)).map (fun l => (l.org, l.va))
  | .atomReply r _ => r.lanes.map (fun l => (l.org, l.va))
  | .fieldAsk o l _ _ _ _ _ => [(o, l.va)]
  | .half h => [(h.org, 0)]
  | _ => []

/-- What is left of an item once a request's replies are lost: the contributions of other requests (14 R258). -/
def Item.without (o : Origin) (i : Item) : List Item :=
  let mine (x : Origin) : Bool := x.sid == o.sid && x.ply == o.ply && x.tag == o.tag
  match i with
  | .atomic r =>
    let ls := r.lanes.filter (fun l => !(l.reply && mine l.org))
    if ls.isEmpty then [] else [.atomic { r with lanes := ls }]
  | .atomReply r olds =>
    let es := (r.lanes.zip olds).filter (fun e => !(mine e.1.org))
    if es.isEmpty then [] else [.atomReply { r with lanes := es.map (fun e => e.1) } (es.map (fun e => e.2))]
  | i => if i.askers.any (fun a => mine a.1) then [] else [i]

/-- Whether a request was awaited when its skein was saved. -/
def acrossSave (s : State) (o : Origin) : Bool :=
  let k := getSkein s o.sid
  k.place == .saved || (k.place == .resident && decide (o.tag < k.age))

/-- The folds of a strand without those that wait for a request. -/
def Strand.foldNothing (t : Strand) (tag : Nat) : Strand :=
  t.drain (t.folds.filter (fun f => match f with
    | .awaiting g _ _ => g != tag
    | _ => true))

/-- A strand whose replies to a request are lost; of a saved skein the image says so. -/
def loseReplies (s : State) (o : Origin) (m : Nat) : State :=
  let k := getSkein s o.sid
  let key := strandKey o.sid o.ply m
  let t := getStrand s key
  let hit (r : Reply) : Bool := r.tag == o.tag && r.lanes != 0
  if !(t.replies.any hit) then s
  else if k.place = .saved then
    let t := ({ t with digest := dw (imageGet s k (imageDigest k o.ply m)) }).foldNothing o.tag
    let rs := t.replies.map (fun r => if hit r then { r with lost := true } else r)
    patchReplies (imagePatch (setStrand s key { t with replies := rs }) k (imageDigest k o.ply m) [t.digest]) k o.ply m rs
  else
    setStrand s key { t.foldNothing o.tag with replies := t.replies.filter (fun r => !hit r), lost := t.lost ++ (t.replies.filter hit).flatMap lostMarks }

/-- The reply entries that no request in flight is to answer, as software may have added to an image (14 R263): each with its strand. -/
def orphans (s : State) : List (Origin × Nat) :=
  let asked := s.flight.flatMap (fun i => i.askers.map (fun a => (a.1.sid, a.1.ply, a.1.tag)))
  s.strands.flatMap (fun e =>
    let sid := e.1 / 128
    let ply := e.1 / 8 % 16
    (e.2.replies.filter (fun r => r.lanes != 0 && !r.lost && !(asked.contains (sid, ply, r.tag)))).map (fun r =>
      (({ core := (getSkein s sid).core, die := 0, sid := sid, ply := ply, tag := r.tag, ctx := (getSkein s sid).ctx, pc := e.2.pc,
          acq := false, rel := false } : Origin), e.1 % 8)))

/-- The lost-reply event of a skein (14 R258). -/
def lostEvent (s : State) (sid va : Nat) : State :=
  let k := getSkein s sid
  postEvent s { part := k.part, type := 8, w1 := dw k.launch, w2 := dw k.index, w3 := dw va }

/-- REPLY_LOST_TIMEOUT (14 R258): replies of one request that were awaited across a save are declared lost; what was on
its way for them is dropped, and folds that waited for it fold nothing. A number past the items in flight names an entry that no
request is to answer. (DESIGN CHOICE, log entry 6.) -/
def execReplyLostTimeout (n : Nat) (s : State) : Host.Outcome State Fault Refusal :=
  .next (match s.flight[n]? with
    | some i =>
      match i.askers.find? (fun a => acrossSave s a.1) with
      | none => s
      | some (o, va) => lostEvent ((List.range 8).foldl (fun b m => loseReplies b o m) { s with flight := s.flight.flatMap (Item.without o) }) o.sid va
    | none =>
      match (orphans s)[n - s.flight.length]? with
      | none => s
      | some (o, m) => lostEvent (loseReplies s o m) o.sid 0)

/-! ## SKSV and SKRS (22 R383, R384) -/

/-- The skeins that an SKSV saves and holds: the one it names, or every one of a co-resident launch. (DEDUCED, log entry 39.) -/
def sksvTargets (s : State) (l : Launch) (index : Nat) : List Nat :=
  if l.cores then (s.skeins.filter (fun e => e.2.launch == l.num)).map (fun e => e.1) else [skeinId l.num index]

/-- SKSV (22 R383): W[D] is 0 saved and held, 1 not resident, 2 no such launch or index, 3 the save failed. (DEDUCED, log entry 39.) -/
def execSksv (d a b : BitVec 5) (s : State) : Host.Outcome State Fault Refusal :=
  .next (uniEnter (.sksv d a b) .supervisor [] [] [a.toNat, b.toNat] [d.toNat] s (fun s =>
    let num := wReg s a.toNat
    let k := curSkein s
    let index := (wReg s b.toNat).toNat
    let sid := skeinId num.toNat index
    let answer (n : Nat) : State := retire (setWReg s d.toNat (dw n)) 4
    if num >>> 24 ≠ 0 then trapAll s .prot num
    else if waits s .save then
      let gone := (findLaunch s num.toNat).isNone || (getSkein s sid).plies == 0
      let busy := s.skeins.any (fun e => e.2.launch == num.toNat && e.2.heldSave && e.2.saving.isSome)
      if busy then stall s .save else if gone then answer 3 else answer 0
    else
      match findLaunch s num.toNat with
      | none => answer 2
      | some l =>
        if l.part != k.part || decide (l.total ≤ index) then answer 2
        else if num.toNat == k.launch && (index == k.index || l.cores) then trapAll s .prot num
        else if (getSkein s sid).place != .resident then answer 1
        else
          let a := (sksvTargets s l index).foldl (fun b x =>
            let y := getSkein b x
            setSkein b x { y with saving := if y.place = .resident then some (y.saving.getD .named) else y.saving, heldSave := true }) s
          stall a .save))

/-- SKRS (22 R384): W[D] is 0 released for restore, 1 no saved skein has that image, 2 already released. (DEDUCED, log entry 39.) -/
def execSkrs (d a b : BitVec 5) (s : State) : Host.Outcome State Fault Refusal :=
  .next (uniEnter (.skrs d a b) .supervisor [] [] [a.toNat, b.toNat] [d.toNat] s (fun s =>
    let k := curSkein s
    let c := wReg s b.toNat
    let ctx := if c.toNat = 0xFFFF then k.ctx else c.toNat
    if c >>> 16 ≠ 0 then trapAll s .prot c
    else
      match s.skeins.find? (fun e => e.2.place == .saved && e.2.part == k.part && e.2.ctx == ctx && imageVa s e.2 == (wReg s a.toNat).toNat) with
      | none => retire (setWReg s d.toNat 1) 4
      | some e =>
        if e.2.heldSave || e.2.heldFault then
          retire (setWReg (setSkein s e.1 { e.2 with heldSave := false, heldFault := false }) d.toNat 0) 4
        else retire (setWReg s d.toNat 2) 4))

end Sys2Proof.Machine
end

