-- ==== Sys2Proof/Machine/Phase.lean ====
section
/-! DEFINITION. Deterministic launches (15 R269 to R279): the determinism block, task entries and their lends, checkpoints,
PHASE with its commit and digests, the end of a phase with re-execution under VERIFY and CHECK; and the gate's timeout
(15 R282). -/

namespace Sys2Proof.Machine

/-! ## The determinism block (15 R270) -/

/-- MODE of a deterministic launch: 0 none, 1 RECORD, 2 VERIFY, 3 CHECK. -/
def Launch.detMode (l : Launch) : Nat := fieldOf (l.block.getD 1 0).toNat 0 2
/-- NPHASE. -/
def Launch.nphase (l : Launch) : Nat := fieldOf (l.block.getD 1 0).toNat 16 16
/-- TASKS. -/
def Launch.tasks (l : Launch) : Nat := (l.block.getD 0 0).toNat
/-- DLOG. -/
def Launch.dlog (l : Launch) : Nat := (l.block.getD 2 0).toNat
/-- The current arbitration seed. -/
def Launch.seed (l : Launch) : BitVec 32 :=
  if l.run = 1 ∧ l.detMode = 3 then (l.block.getD 3 0).extractLsb' 32 32 else (l.block.getD 3 0).extractLsb' 0 32

/-- Whether a block breaks 15 R270. -/
def blockBad (ws : List DWord) : Bool :=
  let w (i : Nat) : Nat := (ws.getD i 0).toNat
  let m := fieldOf (w 1) 0 2
  fieldOf (w 0) 57 7 != 0 || fieldOf (w 0) 0 6 != 0 || fieldOf (w 1) 32 32 != 0 || fieldOf (w 1) 2 14 != 0 || fieldOf (w 1) 16 16 == 0 ||
    w 2 % 8 != 0 || ((m == 1 || m == 2) && w 2 == 0) || (rangeFrom 4 4).any (fun i => w i != 0)

/-- A launch with its determinism block, which its first placement reads in its context; an unreadable or malformed
block stays empty. (DEDUCED, log entry 40.) -/
def withBlock (s : State) (l : Launch) : Launch :=
  if !l.det || !l.block.isEmpty then l
  else
    let va := (l.winit.getD 0 0).toNat
    match (if va % 64 = 0 then ctxRead s l.part l.ctx va 8 else none) with
    | some ws => if blockBad ws then l else { l with block := ws }
    | none => l

/-! ## Task entries (15 R270, R271) -/

/-- A region of a task entry: base, size and IN. -/
def taskRegion (w : DWord) : Option (Nat × Nat × Bool) := (regionWord (w &&& ~~~ 0x40)).map (fun r => (r.1, r.2, w.getLsbD 6))

/-- The regions of task entry (p, s); none when the entry cannot be read or has a malformed word. -/
def taskOf (s : State) (l : Launch) (p index : Nat) : Option (List (Nat × Nat × Bool)) :=
  match ctxRead s l.part l.ctx (l.tasks + 256 * (p * l.total + index)) 32 with
  | none => none
  | some ws =>
    let rs := (ws.takeWhile (fun w => w != 0)).map taskRegion
    if rs.all Option.isSome then some (rs.filterMap id) else none

/-- Whether no hand-off and no access of the holder stands in the way of lending some regions. (DEDUCED, log entry 40.) -/
def lendReady (s : State) (k : Skein) (rs : List (Nat × Nat × Bool)) : Bool :=
  rs.all (fun r => !(handOff s k.part k.ctx r.1 (2 ^ r.2.1)) &&
    !(holderBusy s .recall (regionOf s k.part k.ctx r.1) 0 s.seq))

/-- The grants that overlap a region are revoked. -/
def revokeAll (s : State) (p ctx base k : Nat) : State :=
  { s with grants := s.grants.filter (fun g => !(g.on p ctx base k)),
           flight := s.flight.filter (fun i => match i with
             | .grantGive g _ => !(g.on p ctx base k)
             | _ => true) }

/-- The package lends one region to a skein, as LEND of its context would (15 R271): none when 02 R50 or R51 refuses. -/
def lendTask (k : Skein) (sid : Nat) (x : Nat × Nat × Bool) (s : State) : Option State :=
  let r := regionOf s k.part k.ctx x.1
  let h : Holder := { package := here s, ctx := k.ctx, agent := skeinAgent k }
  let ok := matchesHolder s .context k.ctx r.holder && !r.lost && decide (x.2.1 ≤ r.k) &&
    (if x.2.2 then r.mayShare h else r.shares == 0 && decide (r.depth < 3) && r.holder != h)
  if ok && tokenRoom s k.part (r.k - x.2.1 + (if listedRegion s r then 0 else 1)) then
    let c := halve x.1 x.2.1 (r.k - x.2.1) r
    let a := revokeAll (cutRegion s r (c.1 :: c.2)) k.part k.ctx x.1 x.2.1
    some (changeState a (if x.2.2 then .share h else .lend h) c.1 sid)
  else none

/-- The package lends every region of a task entry, in order. -/
def lendTasks (k : Skein) (sid : Nat) : List (Nat × Nat × Bool) → State → Option State
  | [], s => some s
  | x :: t, s => (lendTask k sid x s).bind (lendTasks k sid t)

/-- RETN of one region of a task entry (02 R52, FN 0); a region that the skein no longer holds is passed over. -/
def returnTask (k : Skein) (sid : Nat) (s : State) (x : Nat × Nat × Bool) : State :=
  let a : Asker := .skein (skeinAgent k) false
  match wholeRegion s k.part k.ctx x.1 x.2.1 with
  | none => s
  | some r =>
    let s' := revokeAll s k.part k.ctx x.1 x.2.1
    if r.lost then s
    else if (shareOf s a r).isSome then changeState s' .unshare r sid
    else if matchesHolder s a k.ctx r.holder && r.depth != 0 && r.shares == 0 then changeState (handBack s' r) .retn r sid
    else s

/-- RETN of every region of a skein's task entry in phase `p`. -/
def returnTasks (s : State) (l : Launch) (sid p : Nat) : State :=
  let k := getSkein s sid
  ((taskOf s l p k.index).getD []).foldl (returnTask k sid) s

/-! ## The start of a phase (15 R271, R277) -/

/-- A skein enters its current phase: its task entry is lent, and under VERIFY and CHECK its checkpoint is written. A
refusal kills it with inner cause PROT. -/
def startPhase (s : State) (sid : Nat) : State :=
  let k := getSkein s sid
  match findLaunch s k.launch with
  | none => s
  | some l =>
    match (if l.block.isEmpty then none else taskOf s l k.phase k.index) with
    | none => killSkein s sid Cause.prot.code false
    | some rs =>
      match lendTasks k sid rs s with
      | none => killSkein s sid Cause.prot.code false
      | some a =>
        if l.detMode < 2 then a
        else
          match writeImage a sid (checkpointVa a k) [] with
          | some b => setSkein b sid { getSkein b sid with checkNreg := k.nreg, checkParts := k.parts }
          | none => killSkein a sid Cause.prot.code false

/-- Whether a skein's next task entry can be lent now. -/
def phaseReady (s : State) (l : Launch) (k : Skein) (p : Nat) : Bool :=
  match taskOf s l p k.index with
  | none => true
  | some rs => lendReady s k rs

/-! ## The commit (15 R273, R278) -/

/-- The skein digest: the strand digests folded, ply-major. -/
def skeinDigest (s : State) (sid : Nat) : DWord :=
  (allStrands s sid).foldl (fun h e => foldDigest h (dw (8 * e.1 + e.2.1)) e.2.2.digest) 0

/-- The address of a skein digest in the log. -/
def Launch.digestVa (l : Launch) (p index : Nat) : Nat := l.dlog + 8 * (p * l.total + index)

/-- Writes a doubleword of a launch's context, as far as it is mapped. -/
def logWrite (s : State) (l : Launch) (va : Nat) (w : DWord) : State := (ctxWrite l.part l.ctx va [w] s).getD s

/-- The logged digest of a skein. -/
def loggedDigest (s : State) (l : Launch) (p index : Nat) : Option DWord :=
  (ctxRead s l.part l.ctx (l.digestVa p index) 1).bind (fun ws => ws.head?)

/-- A skein has committed: its strands stand behind their PHASE until the launch has, unless a handler took them there. -/
def markCommitted (s : State) (sid : Nat) : State :=
  let k := getSkein s sid
  let a := setSkein s sid { k with committed := true }
  if k.accept then a
  else
    (skeinAll k).foldl (fun b e =>
      let key := strandKey sid e.1 e.2
      let t := getStrand b key
      if t.wait = .phase then setStrand b key { t with pc := t.pc + 4 } else b) a

/-- The DIGEST trap of a skein at its PHASE, and the event that names it (15 R278). -/
def digestTrap (s : State) (sid : Nat) : State :=
  let k := getSkein s sid
  let va := dw (k.phase * 2 ^ 32 + k.index)
  let a := setSkein s sid { k with accept := true }
  let a := postEvent a { part := k.part, type := 10, w1 := dw k.launch, w2 := dw k.phase, w3 := dw k.index }
  (skeinAll k).foldl (fun b e =>
    let t := getStrand b (strandKey sid e.1 e.2)
    if t.alive && t.wait == .phase then
      trapOne (setStrand b (strandKey sid e.1 e.2) { t with wait := .none }) sid e.1 e.2 (trapOf t.liveLanes .digest (t.pc + 4) va)
    else b) a

/-- Whether every live strand of a skein waits in PHASE. -/
def phaseArrived (s : State) (sid : Nat) : Bool :=
  let all := (allStrands s sid).filter (fun e => e.2.2.alive)
  !all.isEmpty && all.all (fun e => e.2.2.wait == .phase)

/-- A skein whose live strands have all arrived commits its phase: dirty lines, digest, ModeAction, and, where nothing
can follow, its returns; a digest that is refused traps. -/
def commitSkein (s : State) (sid : Nat) : State :=
  let k := getSkein s sid
  match findLaunch s k.launch with
  | none => s
  | some l =>
    if k.committed || !(phaseArrived s sid) then s
    else if k.accept then markCommitted s sid
    else
      let rs := (taskOf s l k.phase k.index).getD []
      let a := writeBack s (fun x => x.owner == sid && x.core == k.core && rs.any (fun r => overlap x.va 64 r.1 (2 ^ r.2.1)))
      let d := skeinDigest a sid
      let a := setSkein a sid { k with digest := d, firstDigest := if l.run = 0 then d else k.firstDigest }
      match l.detMode with
      | 1 => markCommitted (returnTasks (logWrite a l (l.digestVa k.phase k.index) d) l sid k.phase) sid
      | 2 => if l.run = 0 || loggedDigest a l k.phase k.index == some d then markCommitted a sid else digestTrap a sid
      | 3 => if l.run = 0 || d == k.firstDigest then markCommitted a sid else digestTrap a sid
      | _ => markCommitted (returnTasks a l sid k.phase) sid

/-- PHASE (15 R273): each strand waits until its counters are zero, then for its skein, then for its launch. (DEDUCED, log entry 40.) -/
def execPhase (s : State) : Host.Outcome State Fault Refusal :=
  .next (uniEnter .phase .user [] [] [] [] s (fun s =>
    if !(skeinDet s s.cur.sid) || (curSkein s).committed then trapAll s .prot 0
    else if (grp s).any (fun n => !(curStrand s n).idle) then stall s .poll
    else commitSkein (stall s .phase) s.cur.sid))

/-! ## The end of a phase (15 R273, R277 to R279) -/

/-- The live skeins of a launch, ascending. -/
def skeinsOf (s : State) (num : Nat) : List Nat := (s.skeins.filter (fun e => e.2.launch == num)).map (fun e => e.1)

/-- The launch digest of the phase that ends: killed and exited skeins count with digest 0. (DEDUCED, log entry 37.) -/
def launchDigest (s : State) (l : Launch) : DWord :=
  (List.range l.total).foldl (fun h i => foldDigest h (dw i) (getSkein s (skeinId l.num i)).digest) 0

/-- A committed skein goes on into the launch's current phase, or stands behind its last one. -/
def advanceSkein (s : State) (sid : Nat) : State :=
  let k := getSkein s sid
  match findLaunch s k.launch with
  | none => s
  | some l =>
    let more := decide (l.phase < l.nphase)
    let a := setSkein s sid { k with phase := l.phase, committed := !more, accept := false }
    let a := (skeinAll k).foldl (fun b e =>
      let key := strandKey sid e.1 e.2
      let t := getStrand b key
      setStrand b key { t with digest := 0, wait := if t.wait = .phase then .none else t.wait }) a
    if more then startPhase (partAll a sid) sid else partAll a sid

/-- Every skein of a launch restarts its phase from its checkpoint: it leaves its core, to be restored. -/
def restartPhase (s : State) (l : Launch) : State :=
  (skeinsOf s l.num).foldl (fun a sid =>
    let b := if (getSkein a sid).place = .resident then unplace (dropGrants a sid) sid else a
    setSkein b sid { getSkein b sid with checkpointed := true, committed := false, accept := false })
    (setLaunch s { l with run := 1 })

/-- Every digest of a phase is settled: the returns that were held, the launch digest, and the next phase number. -/
def settlePhase (s : State) (l : Launch) : State :=
  let a := if l.detMode < 2 then s else (skeinsOf s l.num).foldl (fun b sid => returnTasks b l sid l.phase) s
  let a := if l.detMode = 1 then logWrite a l (l.dlog + 8 * (l.nphase * l.total + l.phase)) (launchDigest a l) else a
  setLaunch a { l with phase := l.phase + 1, run := 0 }

/-- The resident skeins of a launch that can go on into the current phase. -/
def advanceAll (s : State) (num : Nat) : State :=
  (skeinsOf s num).foldl (fun a sid =>
    let k := getSkein a sid
    match findLaunch a num with
    | none => a
    | some l =>
      if k.place == .resident && k.saving.isNone && k.committed && decide (k.phase < l.phase) && phaseReady a l k l.phase then advanceSkein a sid
      else a) s

/-- PHASE_ALL_COMMITTED (15 R273, R278): skeins whose strands have all arrived commit; when every skein has, the phase is
settled or executed again, and the skeins go on. -/
def execPhaseAllCommitted (num : Nat) (s : State) : Host.Outcome State Fault Refusal :=
  .next (
    let a := ((skeinsOf s num).filter (fun sid => (getSkein s sid).place == .resident)).foldl commitSkein s
    match findLaunch a num with
    | none => a
    | some l =>
      let sids := skeinsOf a num
      let done := decide (l.total ≤ l.placed) && !sids.isEmpty &&
        sids.all (fun sid => (getSkein a sid).committed && (getSkein a sid).phase == l.phase) && decide (l.phase < l.nphase)
      if !l.det || !done then advanceAll a num
      else
        let wrong := sids.any (fun sid => loggedDigest a l l.phase (getSkein a sid).index != some (getSkein a sid).digest)
        if l.run = 0 && (l.detMode == 3 || (l.detMode == 2 && wrong)) then restartPhase a l
        else advanceAll (settlePhase a l) num)

/-- The skein that runs alone while a phase is executed again under VERIFY (15 R278): the lowest that has not
committed. -/
def serialSkein (s : State) (l : Launch) : Option Nat :=
  if l.run = 1 ∧ l.detMode = 2 then (skeinsOf s l.num).find? (fun sid => !(getSkein s sid).committed) else none

/-- The skein that runs alone in a partition: of several launches that execute a phase again, the oldest goes first. (DEDUCED, log entry 40.) -/
def aloneIn (s : State) (p : Nat) : Option Nat := (s.launches.filter (fun l => l.part == p)).findSome? (serialSkein s)

/-- Whether some other skein of the partition runs alone. -/
def serialBars (s : State) (p sid : Nat) : Bool := ((aloneIn s p).map (fun x => x != sid)).getD false

/-! ## The gate of a watched word (15 R282) -/

/-- Whether the gate of an entry refuses the next request of an agent now. -/
def gateShut (s : State) (e : OrderEntry) (agent : OrderEntry → Nat) : Bool := (gateWord agent (e.pa / 8) s).isNone

/-- Whether a lane of a scatter at place `n` in flight waits before the gate of an entry: nothing else holds it. -/
def laneGated (s : State) (e : OrderEntry) (n : Nat) (p : Packet) (l : LaneAcc) : Bool :=
  p.write && overlap l.pa l.size e.pa 8 && laneMay s n p l && gateShut s e (laneAgent p.org l.lane)

/-- Whether the request at place `n` in flight waits before the gate of an entry: it has reached the home, nothing else holds it, and
the gate refuses one of its lanes. -/
def itemGated (s : State) (e : OrderEntry) (n : Nat) (i : Item) : Bool :=
  match i with
  | .atomic r => overlap r.pa r.width e.pa 8 && mayPerform s n && !(heldAt s r.die r.pa) &&
      r.lanes.any (fun l => gateShut s e (laneAgent l.org l.lane))
  | .gatherHome p => p.lanes.any (fun l => nextSlice s p == some (sliceOn s p.die l.pa) && laneGated s e n p l)
  | .gatherStack p => p.lanes.any (laneGated s e n p)
  | _ => false

/-- Whether an access from outside waits before the gate of an entry. -/
def Held.gated (h : Held) (s : State) (e : OrderEntry) : Bool :=
  !(closed s (getPart s h.part)) && h.ready s && h.spots.any (fun x => overlap x.2.1 x.2.2.1 e.pa 8) && gateShut s e outsideAgent

/-- Whether the next chunk of a copy waits before the gate of an entry. -/
def copyGated (s : State) (e : OrderEntry) (c : Copy) : Bool :=
  let tree := c.kind == .tree
  let n := if tree then c.treeChunk else c.chunk
  let srcs := if tree then c.slots else [c.here_.1]
  let dst := if tree then c.dst + dw c.progress else c.here_.2
  let open_ (x : Side) : Bool := !(sideAwaits s c n x) && (chunkStops s c [(x, 3)] none).isNone
  copyRuns s c && c.state == .running && c.progress < c.total && srcs.all (fun a => open_ (copySide s c a n false)) &&
    (match copySide s c dst n true with
      | .inGlobal x => overlap x.pa n e.pa 8 && gateShut s e outsideAgent
      | _ => false)

/-- Whether the strand with a key waits before the gate of an entry with a message that it stores. -/
def strandGated (s : State) (e : OrderEntry) (key : Nat) (t : Strand) : Bool :=
  let o : Origin := { core := 0, die := 0, sid := key / 128, ply := key / 8 % 16, tag := 0, ctx := 0, pc := 0, acq := false, rel := false }
  match t.wait with
  | .gate pa => t.alive && overlap pa 32 e.pa 8 && gateShut s e (laneAgent o (4 * (key % 8)))
  | _ => false

/-- Whether a request waits before the gate of a word. -/
def gateWaits (s : State) (e : OrderEntry) : Bool :=
  s.flight.zipIdx.any (fun i => itemGated s e i.2 i.1) || s.heldPkts.any (fun h => h.gated s e) || s.copies.any (copyGated s e) ||
    s.strands.any (fun t => strandGated s e t.1 t.2)

/-- ORDER_GATE_TIMEOUT (15 R282): a gate before which a request waits opens. (DESIGN CHOICE, log entry 6.) -/
def execOrderGateTimeout (n : Nat) (s : State) : Host.Outcome State Fault Refusal :=
  .next (match s.orders[n]? with
    | none => s
    | some e =>
      if e.play && !e.div && gateWaits s e then
        postEvent (setOrder s { e with div := true }) { part := e.part, type := 11, w1 := dw e.desc, w2 := dw e.used, w3 := 0 }
      else s)

end Sys2Proof.Machine
end

