-- ==== Sys2Proof/Machine/Place.lean ====
section
/-! DEFINITION. Launches and their placement (12 R217 to R228): LNCH with its refusals, the launch scheduler, the core that
takes a skein, active and pending plies, power intervals; and the events of pre-emption (14 R260, R262). -/

namespace Sys2Proof.Machine

/-! ## LNCH (12 R218 to R220, 22 R382) -/

/-- What a read of the device on behalf of a context finds: a doubleword, a refusal, or a hand-off that holds it. -/
inductive DevRead where
  | word (w : DWord)
  | refused
  | held
  deriving DecidableEq, Repr

/-- One doubleword read in a context, checked as an S-mode read of the context itself (12 R218). -/
def devRead (s : State) (p ctx va : Nat) : DevRead :=
  match checkVa s remoteCore p ctx .supervisor .load va 8 8 with
  | .bad _ _ => .refused
  | .ok x =>
    if x.tokened && handOff s p ctx va 8 then .held
    else if x.tokened && !(tokenAllows s .context ctx (regionOf s p ctx va) false) then .refused
    else
      let bs := homeRead s x.pa 8
      if bs.any (fun b => b.bad) then .refused else .word (dw (pval bs))

/-- Doublewords read in order: the words, or the first that was refused or held. -/
def devReads (s : State) (p ctx : Nat) : List Nat → List DWord × Option DevRead
  | [] => ([], none)
  | va :: t =>
    match devRead s p ctx va with
    | .word w => let r := devReads s p ctx t; (w :: r.1, r.2)
    | r => ([], some r)

/-- Whether a launch record breaks 12 R219. -/
def launchBad (ws : List DWord) : Bool :=
  let w (i : Nat) : Nat := (ws.getD i 0).toNat
  let n := fieldOf (w 2) 0 16
  let dk := fieldOf (w 5) 61 2
  let ck := fieldOf (w 6) 62 2
  fieldOf (w 0) 57 7 != 0 || fieldOf (w 0) 0 2 != 0 || fieldOf (w 1) 56 8 != 0 || decide (7 < fieldOf (w 1) 52 4) ||
    fieldOf (w 1) 0 16 == 0 || fieldOf (w 1) 16 16 == 0 || fieldOf (w 1) 32 16 == 0 || fieldOf (w 2) 56 8 != 0 ||
    decide (8 < fieldOf (w 2) 52 4) || decide (8 < fieldOf (w 2) 48 4) || decide (262144 < fieldOf (w 2) 16 32) || n % 8 != 0 || n == 0 ||
    decide (1024 < n) || w 3 % 8 != 0 || fieldOf (w 4) 21 43 != 0 || fieldOf (w 4) 5 3 != 0 || bitOf (w 5) 63 || dk == 3 ||
    fieldOf (w 5) 49 12 != 0 || (dk == 0 && fieldOf (w 5) 0 49 != 0) || (dk == 1 && !bitOf (w 5) 48 && fieldOf (w 5) 24 24 != 0) ||
    (dk == 2 && (decide (191 < fieldOf (w 5) 0 8) || fieldOf (w 5) 14 2 != 0 || bitOf (w 5) 48)) || ck == 3 ||
    (ck == 0 && fieldOf (w 6) 0 62 != 0) || (ck == 1 && (decide (191 < fieldOf (w 6) 0 8) || fieldOf (w 6) 14 48 != 0)) ||
    (ck == 2 && fieldOf (w 6) 48 14 != 0) || fieldOf (w 7) 57 7 != 0 || fieldOf (w 7) 0 12 != 0

/-- What a skein of a launch takes of a core: plies, strands per ply, registers per lane, local store, tiles,
accumulators, and whether the core must be slotted. -/
structure Need where
  plies : Nat
  strands : Nat
  nreg : Nat
  ls : Nat
  tiles : Nat
  accs : Nat
  slotted : Bool
  deriving DecidableEq, Repr

/-- What a record asks for each skein (12 R219, R222). -/
def Launch.need (l : Launch) : Need :=
  { plies := fieldOf (l.word 1) 48 4 + 1, strands := fieldOf (l.word 1) 52 4 + 1, nreg := fieldOf (l.word 2) 0 16,
    ls := alignUp (fieldOf (l.word 2) 16 32) 1024, tiles := fieldOf (l.word 2) 48 4, accs := fieldOf (l.word 2) 52 4, slotted := l.slotted }

/-- The lane registers of a skein. -/
def Need.regs (n : Need) : Nat := n.plies * n.strands * 4 * (n.nreg + 16)

/-- Whether a core can take skeins at all: it works, and it has the banking mode that they need; a core with a pending write counts as
MODE 0 (06 R114). (DEDUCED, log entry 50.) -/
def coreServes (s : State) (n : Need) (core : Nat) : Bool :=
  !(getCore s core).failed && (!n.slotted || ((getCore s core).mode && (getCore s core).pend.isNone))

/-- How many skeins an empty core takes. -/
def coreHolds (s : State) (n : Need) (core : Nat) : Nat :=
  if !(coreServes s n core) then 0
  else min (64 / n.plies) (min (poolSize / n.regs) (if n.ls = 0 then 64 else 262144 / n.ls))

/-- How many skeins the empty partition takes (12 R224). (DEDUCED, log entry 40.) -/
def emptyHolds (s : State) (p : Nat) (n : Need) : Nat :=
  ((List.range 48).map (fun q =>
    let cs := (rangeFrom (4 * q) 4).filter (coresOf s p).contains
    min ((cs.map (coreHolds s n)).sum) (min (if n.tiles = 0 then 256 else 128 / n.tiles) (if n.accs = 0 then 256 else 64 / n.accs)))).sum

/-- The live launches of a context in a partition. -/
def liveLaunches (s : State) (p ctx : Nat) : List Launch := s.launches.filter (fun l => l.part == p && l.ctx == ctx)

/-- The number that the next launch of a context takes: [7:0] is not 0xFF and not that of a live launch of it. -/
def nextNumber (s : State) (p ctx : Nat) : Option (BitVec 24) :=
  ((List.range 512).map (fun i => s.nextLaunch + BitVec.ofNat 24 i)).find? (fun n =>
    n.toNat % 256 != 255 && !((liveLaunches s p ctx).any (fun l => l.num % 256 == n.toNat % 256)))

/-- What becomes of a launch message: held, refused with a code, or accepted. -/
inductive Verdict where
  | held
  | refused (code : Nat)
  | accepted (l : Launch)
  deriving DecidableEq, Repr

/-- The dependences of a fresh launch as they stand (12 R220). (DEDUCED, log entry 17.) -/
def freshMet (s : State) (l : Launch) : Bool := fieldOf (l.word 5) 61 2 == 0 || launchesMet s l || counterMet s l

/-- A launch from its record and initial values. -/
def launchFrom (num : BitVec 24) (p ctx : Nat) (tag : BitVec 48) (ws winit : List DWord) (evec hvec : DWord) : Launch :=
  { num := num.toNat, part := p, ctx := ctx, tag := tag, words := ws, winit := winit, evec := evec, hvec := hvec, met := false, placed := 0,
    exited := 0, starved := false, dispatcher := false, bound := none, handle := 0, phase := 0, run := 0, block := [], reset := false }

/-- The refusals that follow the reads: codes 6, 7 and 4 (12 R218). -/
def judgeRoom (s : State) (l : Launch) (num : Option (BitVec 24)) : Option Nat :=
  if l.cores && decide (emptyHolds s l.part l.need < l.total) then some 6
  else if l.slotted && !((coresOf s l.part).any (coreServes s l.need)) then some 7
  else if decide (256 ≤ (s.launches.filter (fun x => x.part == l.part)).length) || num.isNone then some 4
  else none

/-- A launch message judged (12 R218): the first refusal in the order 5, 1, 2, 3, 1, 6, 7, 4. (DEDUCED, log entry 42.) -/
def judgeMessage (s : State) (p : Nat) (w0 w1 evec hvec : DWord) : Verdict :=
  let ctx := (w1.extractLsb' 0 16).toNat
  if !(ctxValid s p ctx) then .refused 5
  else if fieldOf w0.toNat 57 7 ≠ 0 ∨ fieldOf w0.toNat 0 6 ≠ 0 then .refused 1
  else
    match devReads s p ctx (dwordsAt w0.toNat 8) with
    | (_, some .held) => .held
    | (_, some _) => .refused 1
    | (ws, none) =>
      let num := nextNumber s p ctx
      let l := launchFrom (num.getD 0) p ctx (w1.extractLsb' 16 48) ws [] evec hvec
      if launchBad ws then .refused 2
      else if 24 ≤ l.prio ∧ !l.super then .refused 3
      else
        match (if l.word 3 = 0 then (List.replicate 31 0, none) else devReads s p ctx (dwordsAt (l.word 3) 31)) with
        | (_, some .held) => .held
        | (_, some _) => .refused 1
        | (winit, none) =>
          match judgeRoom s l num with
          | some c => .refused c
          | none => .accepted { l with winit := winit }

/-- The energy queue of a launch (12 R219). -/
def Launch.queue (l : Launch) : Nat := fieldOf (l.word 4) 8 8

/-- An accepted launch enters the scheduler; its energy goes to its queue, what it still causes once it has ended too (12 R228). -/
def acceptLaunch (s : State) (l : Launch) : State :=
  { s with launches := s.launches ++ [{ l with met := freshMet s l }], nextLaunch := BitVec.ofNat 24 (l.num + 1),
           launchQueue := Tbl.set 0 s.launchQueue l.num l.queue }

/-- LNCH (22 R382): a hand-off on what it reads holds it, and a save lets it complete (22 R372). -/
def execLnch (d a b : BitVec 5) (s : State) : Host.Outcome State Fault Refusal :=
  .next (uniEnter (.lnch d a b) .supervisor [] [] [a.toNat, b.toNat] [d.toNat] s (fun s =>
    let t := curStrand s ((grp s).headD 0)
    match judgeMessage s (curSkein s).part (wReg s a.toNat) (wReg s b.toNat) t.evec t.hvec with
    | .held => stall s .home
    | .refused c => retire (setWReg s d.toNat (dw (2 ^ 63 + c))) 4
    | .accepted l => retire (setWReg (acceptLaunch s l) d.toNat (dw l.num)) 4))

/-! ## Placement (12 R221, R222) -/

/-- The resident plies of a core. -/
def pliesOn (s : State) (core : Nat) : Nat := ((residentOn s core).map (fun sid => (getSkein s sid).plies)).sum

/-- The sum of a figure over the resident skeins of a core's quad. -/
def quadSum (s : State) (core : Nat) (f : Skein → Nat) : Nat :=
  ((rangeFrom (core / 4 * 4) 4).flatMap (fun c => (residentOn s c).map (fun sid => f (getSkein s sid)))).sum

/-- Whether a skein fits on a core now (12 R222). -/
def fitsOn (s : State) (n : Need) (core : Nat) : Bool :=
  coreServes s n core && decide (pliesOn s core + n.plies ≤ 64) && decide (poolUsed s core + n.regs ≤ poolSize) &&
    decide (((residentOn s core).map (fun sid => (getSkein s sid).lsSize)).sum + n.ls ≤ 262144) &&
    decide (quadSum s core (fun k => k.tiles) + n.tiles ≤ 128) && decide (quadSum s core (fun k => k.accs) + n.accs ≤ 64)

/-- The cores of some that have the fewest resident plies. -/
def leastLoaded (s : State) (cores : List Nat) : List Nat :=
  cores.filter (fun c => cores.all (fun d => decide (pliesOn s c ≤ pliesOn s d)))

/-- The core that takes a skein of a launch (12 R222): the least loaded, then the lowest number or what the seed picks. -/
def pickCore (s : State) (l : Launch) (n : Need) (ok : Nat → Bool) : Option Nat :=
  let ties := leastLoaded s ((coresOf s l.part).filter (fun c => ok c && fitsOn s n c))
  match ties with
  | [] => none
  | c :: _ => some (if l.det then ties.getD (Config.seedPick l.seed ties % ties.length) c else c)

/-- A skein as it is placed. -/
def freshSkein (s : State) (l : Launch) (core : Nat) : Skein :=
  let n := l.need
  { Skein.reset with
      place := .resident, core := core, launch := l.num, index := l.placed, ctx := l.ctx, part := l.part, plies := n.plies,
      strands := n.strands, nreg := n.nreg, lsSize := n.ls, tiles := n.tiles, accs := n.accs, age := s.seq,
      w := l.winit.zipIdx.foldl (fun m e => Tbl.set 0 m (e.2 + 1) e.1) [],
      parts := (List.range n.plies).foldl (fun m p => Tbl.set [] m p [List.range n.strands]) [] }

/-- A strand as it is placed (12 R222, 14 R242, R243). -/
def freshStrand (l : Launch) : Strand :=
  { Strand.reset with
      live := true, pc := dw (fieldOf (l.word 0) 2 55 * 4), masks := [0xF], mode := if l.super then .supervisor else .user,
      evec := l.evec, hvec := l.hvec, digestOn := l.det }

/-- Places the next skein of a launch on a core. -/
def placeOn (s : State) (l : Launch) (core : Nat) : State :=
  let sid := skeinId l.num l.placed
  let k := freshSkein s l core
  let s := comesToRun s l.part l.ctx
  let a := setSkein { s with seq := s.seq + 1 } sid k
  let a := (skeinAll k).foldl (fun b e => setStrand b (strandKey sid e.1 e.2) (freshStrand l)) a
  let a := judgeLaunches (setLaunch (activate a sid) { l with placed := l.placed + 1, starved := false })
  if l.det then startPhase a sid else a

/-- Whether the next skein of a launch may start its first phase now. -/
def firstReady (s : State) (l : Launch) : Bool :=
  !l.det || l.block.isEmpty || phaseReady s l { freshSkein s l 0 with index := l.placed } 0

/-- Places the next skein of a launch, if it fits. -/
def placeNext (num : Nat) (s : State) : Option State :=
  match findLaunch s num with
  | none => none
  | some l =>
    let l := withBlock s l
    if l.total ≤ l.placed || !(firstReady s l) then none else (pickCore s l l.need (fun _ => true)).map (placeOn s l)

/-- Places `n` more skeins of a launch, all or none (12 R224). -/
def placeGang (num : Nat) : Nat → State → Option State
  | 0, s => some s
  | n + 1, s => (placeNext num s).bind (placeGang num n)

/-- Restores a saved skein, if it fits; armed records tie it to the core that it was saved from (05 R108). -/
def restoreNext (sid : Nat) (s : State) : Option State :=
  let k := getSkein s sid
  match findLaunch s k.launch with
  | none => none
  | some l =>
    let mine := (s.parked.filter (fun t => t.sid == sid)).length
    let ok (c : Nat) : Bool :=
      mine == 0 || (c == k.savedCore && decide ((s.triggers.filter (fun t => t.core == c)).length + mine ≤ 64))
    let n : Need := { l.need with nreg := k.restoring.nreg }
    (pickCore s l n ok).map (restoreSkein s sid)

/-- Restores some saved skeins, all or none. -/
def restoreGang : List Nat → State → Option State
  | [], s => some s
  | sid :: t, s => (restoreNext sid s).bind (restoreGang t)

/-- Whether something holds every skein of a launch off the cores: pre-emption, DBGCTL (14 R260, R263). -/
def launchHeld (s : State) (l : Launch) : Bool :=
  let x := getPart s l.part
  preHolds x l.ctx || (x.dbgHalt && x.dbgLaunch.toNat == l.num)

/-- Whether a skein has committed its launch's current phase, and waits for it to end (15 R273). -/
def awaitsPhase (l : Launch) (k : Skein) : Bool := k.committed && k.phase == l.phase && decide (l.phase < l.nphase)

/-- Whether a saved skein may be restored (14 R264): no hold on it, and, while its launch commits a phase, not before it
has something to do. -/
def restorable (s : State) (sid : Nat) : Bool :=
  let k := getSkein s sid
  match findLaunch s k.launch with
  | none => false
  | some l =>
    k.place == .saved && !k.heldSave && !k.heldFault && !(launchHeld s l) && !(awaitsPhase l k) && !(serialBars s l.part sid)

/-- Whether a launch has an unplaced skein that may be placed. -/
def placeable (s : State) (l : Launch) : Bool :=
  l.met && decide (l.placed < l.total) && !(launchHeld s l) && (aloneIn s l.part).isNone &&
    l.named.all (fun n => match findLaunch s n with
      | some m => decide (m.total ≤ m.placed)
      | none => true)

/-- What the scheduler may do next: bring back a saved skein, or place the next skein of a launch. -/
inductive Cand where
  | back (sid : Nat)
  | fresh (num : Nat)
  deriving DecidableEq, Repr

/-- The saved skeins of a partition that may be restored, by launch and index. -/
def saves (s : State) (p : Nat) : List Nat :=
  s.launches.flatMap (fun l => if l.part = p then (skeinsOf s l.num).filter (restorable s) else [])

/-- The context of a candidate. -/
def Cand.ctx (s : State) (c : Cand) : Option Nat :=
  match c with
  | .back sid => some (getSkein s sid).ctx
  | .fresh n => (findLaunch s n).map (fun l => l.ctx)

/-- Whether a candidate's context has had its turn while contexts take turns (14 R262). -/
def outOfTurn (s : State) (p : Nat) (c : Cand) : Bool :=
  (getPart s p).sliceLen != 0 && (getPart s p).sliced.isSome && (getPart s p).sliced == c.ctx s

/-- The candidates of a partition by priority (12 R221, R224): saved skeins of co-resident launches; then by priority,
saved skeins before unplaced ones, older launches first. -/
def byPriority (s : State) (p : Nat) : List Cand :=
  let co (sid : Nat) : Bool := ((findLaunch s (getSkein s sid).launch).map Launch.cores).getD false
  let bs := saves s p
  let fs := s.launches.filter (fun l => l.part == p && placeable s l)
  (bs.filter co).map .back ++
    (List.range 32).reverse.flatMap (fun pr =>
      (bs.filter (fun sid => !(co sid) && prioOf s sid == pr)).map .back ++ (fs.filter (fun l => l.prio == pr)).map (fun l => .fresh l.num))

/-- The candidates of a partition in order: a context whose slice has expired comes behind the others (14 R262). (DEDUCED, log entry 23.) -/
def candidates (s : State) (p : Nat) : List Cand :=
  let cs := byPriority s p
  cs.filter (fun c => !(outOfTurn s p c)) ++ cs.filter (outOfTurn s p)

/-- Once a head skein has waited too long, only it is placed, and only what goes before it is restored (12 R221). (DEDUCED, log entry 40.) -/
def afterWait (s : State) (cs : List Cand) : List Cand :=
  let late (c : Cand) : Bool := match c with
    | .fresh n => ((findLaunch s n).map (fun l => l.starved)).getD false
    | .back _ => false
  match cs.find? late with
  | none => cs
  | some f => (cs.takeWhile (fun c => c != f)).filter (fun c => match c with
      | .back _ => true
      | .fresh _ => false) ++ [f]

/-- One candidate's placement or restore: a co-resident launch is placed whole, and restored whole where pre-emption has saved it (12
R224). -/
def tryCand (s : State) (c : Cand) : Option State :=
  match c with
  | .back sid =>
    match findLaunch s (getSkein s sid).launch with
    | none => none
    | some l => if l.cores && (getSkein s sid).gang then restoreGang ((skeinsOf s l.num).filter (fun x => restorable s x && (getSkein s x).gang)) s
      else restoreNext sid s
  | .fresh num =>
    match findLaunch s num with
    | none => none
    | some l => if l.cores then placeGang num (l.total - l.placed) s else placeNext num s

/-- Whether a partition's scheduler works: keys released (01 R31), not in reset, not halted. -/
def schedules (s : State) (p : Nat) : Bool := s.keys && !(getPart s p).busy && !(getPart s p).halted

/-- The scheduler's next act in a partition: the first candidate that fits. -/
def schedule (s : State) (p : Nat) : Option (Cand × State) :=
  if schedules s p then (afterWait s (candidates s p)).findSome? (fun c => (tryCand s c).map (fun a => (c, a))) else none

/-- A committed skein that holds a core while another skein of its launch waits for one may be saved (15 R273). (DEDUCED, log entry 40.) -/
def makeRoom (s : State) (p : Nat) : State :=
  let waiting (l : Launch) : Bool := l.part == p && l.det && (decide (l.placed < l.total) || (skeinsOf s l.num).any (restorable s))
  let idle (l : Launch) : Option Nat := (skeinsOf s l.num).find? (fun sid =>
    let k := getSkein s sid
    k.place == .resident && awaitsPhase l k && k.saving.isNone)
  match (s.launches.filter waiting).findSome? idle with
  | some sid => if schedules s p then setSkein s sid { getSkein s sid with saving := some .phase } else s
  | none => s

/-- SKEIN_PLACEMENT (12 R221). -/
def execSkeinPlacement (p : Nat) (s : State) : Host.Outcome State Fault Refusal :=
  .next (match schedule s p with
    | some x => x.2
    | none => makeRoom s p)

/-- SKEIN_RESTORE (14 R256): the skein that the scheduler brings back next. -/
def execSkeinRestore (sid : Nat) (s : State) : Host.Outcome State Fault Refusal :=
  .next (match schedule s (getSkein s sid).part with
    | some (.back x, a) => if x = sid then a else s
    | _ => s)

/-- PLACEMENT_WAIT_TIMEOUT (12 R221): the head launch's next skein has waited 100 µs. (DESIGN CHOICE, log entry 6.) -/
def execPlacementWaitTimeout (p : Nat) (s : State) : Host.Outcome State Fault Refusal :=
  let head := (candidates s p).findSome? (fun c => match c with
    | .fresh n => some n
    | .back _ => none)
  .next (match head.bind (findLaunch s) with
    | some l => if (tryCand s (.fresh l.num)).isNone then setLaunch s { l with starved := true } else s
    | none => s)

/-! ## Active and pending plies (12 R223) -/

/-- Whether a wait ends only by another agent's step. -/
def Wait.sleeps (w : Wait) : Bool :=
  w.driven || (match w with
    | .barrier _ => true
    | .sbar _ _ => true
    | .twist => true
    | .half => true
    | _ => false)

/-- The waits of a ply's parts. -/
def partWaits (s : State) (sid ply : Nat) : List Wait :=
  (partsOf (getSkein s sid) ply).map (fun ns => (getStrand s (strandKey sid ply (ns.headD 0))).wait)

/-- Whether a ply has a part that can issue. -/
def plyReady (s : State) (sid ply : Nat) : Bool := (partWaits s sid ply).any (fun w => !w.sleeps)

/-- Whether a ply is blocked or stalled: every part waits for something, or one that yields makes the ply count so (12 R223, 21 R362). -/
def plyStuck (s : State) (sid ply : Nat) : Bool :=
  (partWaits s sid ply).all (fun w => w != .none) || (partWaits s sid ply).any (fun w => w == .yielded)

/-- The plies of a core that are active, or that are pending, in order of priority and age. -/
def pliesOf (s : State) (core : Nat) (active : Bool) : List (Nat × Nat) :=
  (sortBy (goesBefore s) (residentOn s core)).flatMap (fun sid =>
    ((List.range (getSkein s sid).plies).filter (fun p => Tbl.get false (getSkein s sid).active p == active)).map (fun p => (sid, p)))

/-- A ply takes a slot, and keeps it up to a cycle. -/
def takeSlot (s : State) (e : Nat × Nat) (till : DWord) : State :=
  let k := getSkein s e.1
  setSkein s e.1 { k with active := Tbl.set false k.active e.2 true, kept := Tbl.set 0 k.kept e.2 till }

/-- A ply gives up its slot, and waits for one from now on. -/
def giveSlot (s : State) (e : Nat × Nat) : State :=
  let k := getSkein s e.1
  setSkein s e.1 { k with active := Tbl.set false k.active e.2 false, pend := Tbl.set 0 k.pend e.2 s.ticks }

/-- A pending ply takes a slot: a free one, or that of the last active ply that `f` gives up. -/
def promote (s : State) (core : Nat) (ply : Option (Nat × Nat)) (f : Nat × Nat → Bool) (till : DWord) : State :=
  match ply with
  | none => s
  | some e =>
    if activePlies s core < 8 then takeSlot s e till
    else
      match (pliesOf s core true).reverse.find? f with
      | some v => takeSlot (giveSlot s v) e till
      | none => s

/-- The pending plies of a core that can issue, in order of priority and age. -/
def readyPending (s : State) (core : Nat) : List (Nat × Nat) := (pliesOf s core false).filter (fun e => plyReady s e.1 e.2)

/-- Since when a ply has been without a slot. -/
def pendSince (s : State) (e : Nat × Nat) : Nat := Tbl.get 0 (getSkein s e.1).pend e.2

/-- The ready pending ply of a core that has been without a slot for longest. -/
def longestPending (s : State) (core : Nat) : Option (Nat × Nat) :=
  (readyPending s core).find? (fun e => (readyPending s core).all (fun x => decide (pendSince s e ≤ pendSince s x)))

/-- Whether an active ply that was promoted keeps its slot: for 64 cycles, unless it is blocked or stalled (12 R223). -/
def keepsSlot (s : State) (e : Nat × Nat) : Bool :=
  decide (s.cycle < Tbl.get 0 (getSkein s e.1).kept e.2) && !(plyStuck s e.1 e.2)

/-- PLY_SWAP (12 R223): the best ready pending ply, for the last active one that is blocked or stalled. -/
def execPlySwap (core : Nat) (s : State) : Host.Outcome State Fault Refusal :=
  .next (promote s core (readyPending s core).head? (fun e => plyStuck s e.1 e.2) 0)

/-- PLY_ANTI_STARVATION (12 R223): the ready pending ply that has waited longest takes the slot of the active ply of lowest priority,
the youngest among equals, even if that is ready, but not of one that keeps it. (DESIGN CHOICE, log entry 6.) -/
def execPlyAntiStarvation (core : Nat) (s : State) : Host.Outcome State Fault Refusal :=
  .next (promote s core (longestPending s core) (fun e => !(keepsSlot s e)) (s.cycle + 64))

/-- LDLFE_GRANULE_FILLED (06 R118): a waiting LDLFE whose granules are full issues again, and completes. -/
def execLdlfeGranuleFilled (sid ply part : Nat) (s : State) : Host.Outcome State Fault Refusal :=
  let ns := (partsOf (getSkein s sid) ply).getD part []
  .next (mapStrands s sid ply ns (fun _ t => if t.wait = .fullEmpty then { t with wait := .none } else t))

/-! ## Power (12 R226, R227) -/

/-- The permit after an interval in which a partition drew `w` watts under its cap. (DESIGN CHOICE, log entry 51.) -/
def nextPermit (s : State) (x : Partition) (w : Nat) : Nat :=
  let d := (Config.permitDelta s.ticks).toNat + 1
  if x.pcap < w then max 1 (x.permit - d) else if w < x.pcap then min 64 (x.permit + d) else x.permit

/-- The end of a partition's power interval, with its power where the event tells it. -/
def endInterval (s : State) (p : Nat) (watts : Option Nat) : State :=
  let x := getPart s p
  if !x.present then s
  else setPart s p { x with permit := (watts.map (nextPermit s x)).getD x.permit, pcap := x.pcapNext }

/-- POWER_INTERVAL (12 R226; 16 R292): each partition's permit follows its power and its cap of the last interval, and
a written cap takes effect. (DESIGN CHOICE, log entries 4 and 51.) -/
def execPowerInterval (watts : List (Nat × Nat)) (s : State) : Host.Outcome State Fault Refusal :=
  .next ((List.range 8).foldl (fun a p => endInterval a p ((watts.find? (fun e => e.1 == p)).map (fun e => e.2))) s)

/-! ## Pre-emption (14 R260, R262) and the debugger (14 R263) -/

/-- Resident skeins of the contexts that a request names. -/
def preTargets (s : State) (p tgt : Nat) : List Nat :=
  (s.skeins.filter (fun e => e.2.part == p && e.2.place == .resident && (tgt == 0xFFFF || e.2.ctx == tgt))).map (fun e => e.1)

/-- PRECTL_REQ (14 R260): a write of REQ. -/
def execPrectlReq (p : Nat) (w : DWord) (s : State) : Host.Outcome State Fault Refusal := .next (prectlSet s p (w ||| 1))

/-- PRECTL_RESUME (14 R260): a write of RESUME. -/
def execPrectlResume (p : Nat) (w : DWord) (s : State) : Host.Outcome State Fault Refusal := .next (prectlSet s p (w ||| 2))

/-- PREEMPT_DEADLINE (14 R260): the drain has ended, and what is resident is saved; when nothing is left, the request is
done. (DESIGN CHOICE, log entry 6.) -/
def execPreemptDeadline (p : Nat) (s : State) : Host.Outcome State Fault Refusal :=
  .next (
    let x := getPart s p
    let ts := preTargets s p x.preTarget
    if x.preState = 1 ∨ x.preState = 2 then
      if ts.isEmpty then endPreempt s p 3
      else stopSkeins (setPart s p { x with preState := 2 }) ts .preempt
    else s)

/-- The context whose slice has run while another one waits: of those with placed skeins the one that came to run first (14 R262).
(DEDUCED, log entry 23.) -/
def sliceTarget (s : State) (p : Nat) : Option Nat :=
  let waiting := (s.launches.filter (fun l => l.part == p && (placeable s l || (skeinsOf s l.num).any (restorable s)))).map (fun l => l.ctx)
  (getPart s p).running.find? (fun c => runsOn s p c && waiting.any (fun w => w != c))

/-- SLICE_EXPIRY (14 R262): the running context is pre-empted. (DESIGN CHOICE, log entry 6; DEDUCED, log entry 23.) -/
def execSliceExpiry (p : Nat) (s : State) : Host.Outcome State Fault Refusal :=
  .next (
    let x := getPart s p
    if x.sliceLen = 0 || x.preReq then s
    else
      match sliceTarget s p with
      | none => s
      | some c => setPart s p { x with preReq := true, preState := 1, preSaved := 0, preHeld := x.preHeld ++ [c], preTarget := c, preSlice := true })

/-- DBGCTL_HALT (14 R263): every resident skein of the launch is saved and held. -/
def execDbgctlHalt (p : Nat) (w : DWord) (s : State) : Host.Outcome State Fault Refusal :=
  .next (dbgctlSet s p (w ||| 0x1000000))

/-- DBGCTL_RELEASE (14 R263). -/
def execDbgctlRelease (p : Nat) (w : DWord) (s : State) : Host.Outcome State Fault Refusal :=
  .next (dbgctlSet s p (w &&& ~~~ 0x1000000))

/-- HALT_STOP_TIMEOUT (14 R267): an agent that has not stopped gets an unclean record. (DESIGN CHOICE, log entry 6.) -/
def execHaltStopTimeout (p agent : Nat) (s : State) : Host.Outcome State Fault Refusal :=
  let x := getPart s p
  .next (if x.halted && (agentsOf s p).contains agent && !(x.stopWritten.contains agent) then stopRecord s p agent false else s)

/-- Whether a strand has a POISON trap to take and stands at an instruction boundary: not inside an instruction that has begun, or a
wait that its instruction ends with (14 R265, 15 R276). -/
def poisonDue (s : State) (sid : Nat) (t : Strand) : Bool :=
  t.alive && (t.newDead != 0 || t.foldBad.isSome) && (getSkein s sid).place == .resident && !t.wait.sleeps && !t.wait.begun

/-- POISON_TRAP (14 R265): lanes of a strand have died, and if it has a live lane it traps at its instruction boundary; or a DGST.FOLD
has read poison, and its active lanes trap (15 R276). -/
def execPoisonTrap (sid ply n : Nat) (s : State) : Host.Outcome State Fault Refusal :=
  let key := strandKey sid ply n
  let t := getStrand s key
  .next (if !(poisonDue s sid t) then s
  else if t.newDead ≠ 0 then
    let a := setStrand s key { t with newDead := 0, poisonAddr := 0 }
    trapOne a sid ply n { trapOf t.newDead .poison t.pc t.poisonAddr with top := ~~~ t.dead }
  else
    let a := setStrand s key { t with foldBad := none }
    trapOne a sid ply n { trapOf t.liveLanes .poison t.pc (t.foldBad.getD 0) with top := ~~~ t.dead })

end Sys2Proof.Machine
end

