-- ==== Sys2Proof/Machine/Package.lean ====
section
/-! DEFINITION. The package as the host, Ozona and the fabric see it: the migration engines and channel retirement (01 R22
to R31), the memory-control and configuration registers with rows of their own (04 R90, R91; 16 R284 to R293), the
load/store window, bring-up and reset (16 R294, R295), and what the fabric's links do (11 R195, 02 R56, 03 R77). -/

namespace Sys2Proof.Machine

/-! ## The migration engines (01 R22 to R26) -/

/-- Whether a halted partition has stopped a die's migration engine (14 R267). (DEDUCED, log entry 18.) -/
def engineStopped (s : State) (die : Nat) : Bool :=
  (List.range 8).any (fun p => (getPart s p).halted && (getPart s p).stopWritten.contains (240 + die))

/-- Whether a die's engine takes descriptors: its ring runs, the keys are released, and no halt has stopped it. -/
def engineRuns (s : State) (die : Nat) : Bool := s.keys && (getIo s die).runs && !(engineStopped s die)

/-- HEAD advances, modulo the ring. -/
def IoDie.advance (d : IoDie) : IoDie := { d with migHead := (d.migHead + 1) % 2 ^ d.log2n }

/-- Whether a frame's address lies in the range of the capacity tier (01 R8). -/
def tierRange (pa : Nat) : Bool := decide (tierBase ≤ pa) && decide (pa < 0x50000000000)

/-- The code that ends a descriptor without a move, if there is one: 4 for a bad descriptor, 3 for a frame that is not
populated (01 R20, R23). (DEDUCED, log entry 41.) -/
def descriptorCode (s : State) (src dst ctl : Nat) : Option Nat :=
  let dir := fieldOf ctl 0 2
  if src % 0x10000 ≠ 0 ∨ dst % 0x10000 ≠ 0 ∨ ctl / 8 ≠ 0 ∨ dir = 3 then some 4
  else if !(populated s dst) || (tierRange src && !(populated s src)) then some 3
  else if (inTier s src != (dir == 0)) || (inTier s dst != (dir == 1)) || !(populated s src) then some 4
  else none

/-- The status word of a finished descriptor: a tier frame that was compressed reports its length (01 R23, R25). -/
def descriptorStatus (s : State) (code dir : Nat) : Nat :=
  let c := (Config.compressed s.ticks).toNat
  code + (if (code = 1 ∨ code = 2) ∧ dir = 1 ∧ c ≤ 240 then 256 * c else 0)

/-- MIGRATION_DESCRIPTOR_TAKE (01 R24): the descriptor at HEAD, unless its status word is nonzero. (DEDUCED, log entry 9; DESIGN CHOICE, log entry 27.) -/
def execMigrationDescriptorTake (die : Nat) (s : State) : Host.Outcome State Fault Refusal :=
  .next (
    let d := getIo s die
    if die ≥ 2 || !(engineRuns s die) || d.migBusy || d.migHead == d.migTail then s
    else
      let pa := d.migBase.toNat + 32 * d.migHead
      if !(populated s pa) then { s with badPa := some pa }
      else
        let ws := bytesDwords 4 (readBytes s pa 32)
        if fieldOf (ws.getD 3 0).toNat 0 8 ≠ 0 then setIo s die { d with migErr := true }.advance
        else setIo s die { d with migBusy := true, migPa := pa, migDesc := ws })

/-- The partition that event 6 of a descriptor goes to (16 R287). (DEDUCED, log entry 41.) -/
def migrationOwner (s : State) (src dst : Nat) : Nat :=
  if inHbm dst then frameOwner s (dst / 0x10000) else if inHbm src then frameOwner s (src / 0x10000) else 8

/-- A frame's bytes with their poison go to another frame (01 R25); a field frame takes none of them (03 R63). (DEDUCED, log entry 41.) -/
def moveFrame (s : State) (src dst : Nat) : State :=
  if isField s dst then homePut s dst [] else
  let vals := s.mem.filter (fun e => decide (src ≤ e.1) && decide (e.1 < src + 0x10000))
  let bads := (s.bad.filter (fun e => decide (src / 8 ≤ e.1) && decide (e.1 < src / 8 + 8192))).map (fun e => e.1 - src / 8)
  let bads := bads.flatMap (fun w => rangeFrom ((dst / 8 + w) / 4 * 4) 4)
  { s with mem := vals.foldl (fun m e => Tbl.set 0 m (dst + (e.1 - src)) e.2) (Tbl.clear s.mem dst (dst + 0x10000)),
           bad := bads.foldl (fun m w => Tbl.set false m w true) (Tbl.clear s.bad (dst / 8) (dst / 8 + 8192)),
           mere := Tbl.clear s.mere (dst / 64) (dst / 64 + 1024) }

/-- Whether a frame holds poison. -/
def frameBad (s : State) (pa : Nat) : Bool := s.bad.any (fun e => decide (pa / 8 ≤ e.1) && decide (e.1 < pa / 8 + 8192))

/-- The descriptor ends: status word, event, HEAD, and a write of MIGBASE or MIGSIZE that waited (01 R23, R24). -/
def endDescriptor (s : State) (die code : Nat) : State :=
  let d := getIo s die
  let w (i : Nat) : Nat := (d.migDesc.getD i 0).toNat
  let st := descriptorStatus s code (fieldOf (w 2) 0 2)
  let a := writeDwords s (d.migPa + 0x18) [dw st]
  let d' := { d with migBusy := false, migDesc := [], migPa := 0, migErr := d.migErr || decide (code ≠ 1) }.advance
  let d' := match d.migPend with
    | some (b, z) => d'.rebase b z
    | none => d'
  let a := setIo a die d'
  let p := migrationOwner s (w 0) (w 1)
  if bitOf (w 2) 2 && decide (p < 8) then postEvent a { part := p, type := 6, w1 := dw d.migPa, w2 := dw st, w3 := 0 } else a

/-- MIGRATION_MOVE_DONE (01 R23): the move of the descriptor taken has ended; poison travels with it and is reported. (DEDUCED, log entry 41.) -/
def execMigrationMoveDone (die : Nat) (s : State) : Host.Outcome State Fault Refusal :=
  .next (
    let d := getIo s die
    if die ≥ 2 || !d.migBusy || engineStopped s die then s
    else
      let src := (d.migDesc.getD 0 0).toNat
      let dst := (d.migDesc.getD 1 0).toNat
      match descriptorCode s src dst (d.migDesc.getD 2 0).toNat with
      | some c => endDescriptor s die c
      | none => endDescriptor (moveFrame s src dst) die (if frameBad s src then 2 else 1))

/-- MIGBASE_WRITE (01 R24): MIGBASE at offset 0, MIGSIZE at offset 8. -/
def execMigbaseWrite (die off : Nat) (w : DWord) (s : State) : Host.Outcome State Fault Refusal := .next (migWrite s die off w)

/-- MIGTAIL_WRITE (01 R24). -/
def execMigtailWrite (die : Nat) (w : DWord) (s : State) : Host.Outcome State Fault Refusal := .next (migTail s die w)

/-- CHRET_WRITE (01 R29, R31). -/
def execChretWrite (die word : Nat) (w : DWord) (s : State) : Host.Outcome State Fault Refusal := .next (chretSet s die word w)

/-- FRMOVE_WRITE (01 R27, R28). -/
def execFrmoveWrite (die : Nat) (w : DWord) (s : State) : Host.Outcome State Fault Refusal := .next (frmoveSet s die w)

/-! ## Register reads and writes with rows of their own -/

/-- The answer to a register read is on the bus. -/
def onBus (r : DWord × State) : State := { r.2 with bus := r.1 }

/-- RETRYCNT_READ (01 R29). -/
def execRetrycntRead (die : Nat) (s : State) : Host.Outcome State Fault Refusal := .next (onBus (ctlRead s die 0x050))

/-- ATMCTL_WRITE (04 R90). -/
def execAtmctlWrite (w : DWord) (s : State) : Host.Outcome State Fault Refusal := .next (atmctlSet s w)

/-- ATMCNT_READ (04 R90). -/
def execAtmcntRead (s : State) : Host.Outcome State Fault Refusal := .next (onBus (ctlRead s 0 0x088))

/-- HOMEBASE_WRITE (04 R91). -/
def execHomebaseWrite (w : DWord) (s : State) : Host.Outcome State Fault Refusal := .next (homebaseSet s w)

/-- TOKBASE_WRITE (04 R91). -/
def execTokbaseWrite (part : Nat) (w : DWord) (s : State) : Host.Outcome State Fault Refusal := .next (tokbaseSet s part w)

/-- COLLDROP_READ (11 R198). -/
def execColldropRead (part : Nat) (s : State) : Host.Outcome State Fault Refusal :=
  let x := getPart s part
  .next (onBus (dw x.collDrop, setPart s part { x with collDrop := 0 }))

/-- EVLOST_READ (16 R285). -/
def execEvlostRead (part : Nat) (s : State) : Host.Outcome State Fault Refusal :=
  let x := getPart s part
  .next (onBus (dw x.evLost, setPart s part { x with evLost := 0 }))

/-- REPLAYS_READ (16 R293). -/
def execReplaysRead (die : Nat) (s : State) : Host.Outcome State Fault Refusal :=
  .next (onBus (dw (Tbl.get 0 s.replays die), { s with replays := Tbl.set 0 s.replays die 0 }))

/-- MQPUSH_WORD0 (16 R286). -/
def execMqpushWord0 (part q : Nat) (w : DWord) (s : State) : Host.Outcome State Fault Refusal :=
  .next (if q < 32 then pushWord0 s part q w else s)

/-- MQPUSH_WORD1 (16 R286). -/
def execMqpushWord1 (part q : Nat) (w : DWord) (s : State) : Host.Outcome State Fault Refusal :=
  .next (if q < 32 then pushWord1 s part q w else s)

/-- EVCTL_WRITE (16 R287). -/
def execEvctlWrite (part : Nat) (w : DWord) (s : State) : Host.Outcome State Fault Refusal := .next (evctlSet s part w)

/-- EVHEAD_WRITE (16 R287). -/
def execEvheadWrite (part : Nat) (w : DWord) (s : State) : Host.Outcome State Fault Refusal := .next (evheadSet s part w)

/-- EVENT_INTERRUPT_TIMER (16 R288): an interrupt covers the events written since the last one. -/
def execEventInterruptTimer (part : Nat) (s : State) : Host.Outcome State Fault Refusal :=
  let x := getPart s part
  .next (if x.evUncovered = 0 then s
    else { setPart s part { x with evUncovered := 0 } with hostOut := s.hostOut ++ [HostOut.interrupt part] })

/-- REGISTER_WRITE (00 R7): a register without a row of its own takes its writable fields. -/
def execRegisterWrite (reg : RegAddr) (w : DWord) (s : State) : Host.Outcome State Fault Refusal :=
  .next (match reg with
    | .ctl die off => if die < 2 then ctlWrite s die off w else s
    | .cfg off => cfgWrite s off w)

/-- CHANNEL_EVENT (16 R287 type 12). -/
def execChannelEvent (stack channel : Nat) (failed : Bool) (s : State) : Host.Outcome State Fault Refusal :=
  .next (postEvent s { part := 0, type := 12, w1 := dw stack, w2 := dw channel, w3 := if failed then 1 else 0 })

/-- SHADOW_LATCH_REPEAT (15 R283, 16 R293): time passes, and the die counts the repeat. (DEDUCED, log entry 47.) -/
def execShadowLatchRepeat (die : Nat) (s : State) : Host.Outcome State Fault Refusal :=
  .next { tick s with replays := Tbl.set 0 s.replays die (min (Tbl.get 0 s.replays die + 1) 0xFFFFFFFF) }

/-! ## The load/store window (16 R284) -/

/-- A range cut at frame boundaries: address and length of each piece. -/
def framePieces : Nat → Nat → Nat → List (Nat × Nat)
  | 0, _, _ => []
  | f + 1, va, n =>
    if n = 0 then []
    else
      let m := min n (0x10000 - va % 0x10000)
      (va, m) :: framePieces f (va + m) (n - m)

/-- The host's access is refused: an error completion. -/
def hostRefuse (s : State) : State := { s with hostOut := s.hostOut ++ [.refused] }

/-- The host reads pieces that have passed their checks; poison gives an error completion. (DEDUCED, log entry 43.) -/
def hostRead (s : State) (ps : List ((Nat × Nat) × Xl)) : State :=
  let bs := ps.flatMap (fun e => homeRead s e.2.pa e.1.2)
  if bs.any (fun b => b.bad) then hostRefuse s else { s with hostOut := s.hostOut ++ [.answer (bs.map (fun b => b.val))] }

/-- The spots of a host's pieces: what each is called, where it lies, and its length. -/
def hostSpots (ps : List ((Nat × Nat) × Xl)) : List (Nat × Nat × Nat × Bool) := ps.map (fun e => (e.1.1, e.2.pa, e.1.2, false))

/-- A host's write at spots that have passed their checks; none while a gate holds one. -/
def hostPut (bytes : List Byte) : Nat → List (Nat × Nat × Nat × Bool) → State → Option State
  | _, [], s => some { s with hostOut := s.hostOut ++ [.answer []] }
  | n, x :: t, s => (homeWrite s outsideAgent x.2.1 (clean ((bytes.drop n).take x.2.2.1))).bind (hostPut bytes (n + x.2.2.1) t)

/-- A host's write waits before a gate, and is taken again by the same event (15 R282). (DEDUCED, log entry 43.) -/
def hostHeld (s : State) (h : Held) (bytes : List Byte) : State :=
  if h.ready s then ((hostPut bytes 0 h.spots s).map (fun a => unhold a h.body)).getD s else s

/-- The bytes of a host access. -/
def accSize (acc : HostAcc) : Nat :=
  match acc with
  | .read n => n
  | .write bs => bs.length

/-- Whether a host access writes. -/
def accWrites (acc : HostAcc) : Bool :=
  match acc with
  | .read _ => false
  | .write _ => true

/-- A host's access whose pieces have been judged: refused where one is, not performed yet where a hand-off or a moving frame holds
one, and otherwise performed, or a write kept before a gate. -/
def hostPieces (s : State) (part ctx off : Nat) (acc : HostAcc) (sides : List ((Nat × Nat) × Side × Bool)) : State :=
  if sides.any (fun e => match e.2.1 with
    | .fails _ _ _ => true
    | _ => false) then hostRefuse s
  else
    let ok := sides.filterMap (fun e => match e.2 with
      | (.inGlobal t, moves) => if moves && accWrites acc then none else some (e.1, t)
      | _ => none)
    if ok.length ≠ sides.length then s
    else
      match acc with
      | .read _ => hostRead s ok
      | .write bs => (hostPut bs 0 (hostSpots ok) s).getD (holdIn s part ctx (here s) (.host part off bs) (hostSpots ok))

/-- HOST_WINDOW_ACCESS (16 R284): checked as the copy agent of the window's context, in U mode; an access that a hand-off or
a moving frame holds is not performed yet. (DESIGN CHOICE, log entry 5; DEDUCED, log entry 43.) -/
def execHostWindowAccess (part off : Nat) (acc : HostAcc) (s : State) : Host.Outcome State Fault Refusal :=
  let x := getPart s part
  let n := accSize acc
  let held := match acc with
    | .read _ => none
    | .write bs => (heldOf s (.host part off bs)).map (fun h => (h, bs))
  .next (
    if closed s x || !(x.lswBase.getLsbD 0) || decide (2 ^ 36 < off + n) || n == 0 then
      hostRefuse ((held.map (fun h => unhold s h.1.body)).getD s)
    else
      match held with
      | some (h, bs) => hostHeld s h bs
      | none =>
        let va := fieldOf x.lswBase.toNat 16 41 * 0x10000 + off
        hostPieces s part x.lswCtx.toNat off acc ((framePieces (n / 0x10000 + 2) va n).map (fun e =>
          (e, outsideSide s part x.lswCtx.toNat .copyAgent e.1 e.2 (accWrites acc)))))

/-! ## Bring-up, keys and measurement (16 R294; 01 R30, R31) -/

/-- Whether Ozona's settings describe partitions: numbers and granules in range and disjoint, at most 4 TiB of tier. (DESIGN CHOICE, log entry 8.) -/
def bringUpOk (cfg : BringUp) : Bool :=
  cfg.genuine && decide (cfg.tierMiB ≤ 0x400000) && !(cfg.parts.isEmpty) &&
    cfg.parts.all (fun c => decide (c.num < 8) && c.gran != 0) &&
    decide ((cfg.parts.map (fun c => c.num)).eraseDups.length = cfg.parts.length) &&
    (List.range 8).all (fun g => decide ((cfg.parts.filter (fun c => c.gran.getLsbD g)).length ≤ 1))

/-- The granules of a configuration. -/
def granulesOf (c : PartCfg) : List Nat := (List.range 8).filter (fun g => c.gran.getLsbD g)

/-- Its fabric ports: where none is named, ports 2g and 2g + 1 of each granule g (16 R290). -/
def portSet (c : PartCfg) : BitVec 16 :=
  if c.ports = 0 then (granulesOf c).foldl (fun m g => m ||| (BitVec.ofNat 16 3 <<< (2 * g))) 0 else c.ports

/-- Its HBM channels: where none is named, the 32 channels of stack g of each granule g (16 R290). -/
def channelSet (c : PartCfg) : Nat :=
  if c.chans = 0 then ((granulesOf c).map (fun g => (2 ^ 32 - 1) * 2 ^ (32 * g))).sum else c.chans

/-- What the Ozona controller sets of a partition (16 R290, R291). (DESIGN CHOICE, log entry 8.) -/
def Partition.configured (x : Partition) (c : PartCfg) : Partition :=
  { x with spid := c.spid, ports := portSet c, gran := c.gran, chans := channelSet c, members := c.members }

/-- A partition as Ozona sets it: its registers at reset, with an equal share of the power (16 R285, R292). (DESIGN CHOICE, log entry 8.) -/
def freshPart (c : PartCfg) (n : Nat) : Partition :=
  { Partition.reset with present := true, pcap := 2000 / n, pcapNext := 2000 / n }.configured c

/-- Whether no two partitions have a granule in common. -/
def disjointParts (s : State) : Bool := (List.range 8).all (fun g => decide (((List.range 8).filter (fun p => hasGran s p g)).length ≤ 1))

/-- The Ozona controller sets partitions that are held in reset; it changes no other (16 R290, R291). (DESIGN CHOICE, log entry 8.) -/
def configure (s : State) (cs : List PartCfg) : State :=
  let a := cs.foldl (fun a c =>
    if (getPart s c.num).busy && c.gran != 0 then setPart a c.num ((getPart a c.num).configured c) else a) s
  if disjointParts a then a else s

/-- POWER_ON (16 R294 steps 1 and 2): every register at its reset value, and the partitions set; a signature that does
not hold leaves the package in reset. (DESIGN CHOICE, log entries 7 and 8; DEDUCED, log entry 44.) -/
def execPowerOn (cfg : BringUp) (s : State) : Host.Outcome State Fault Refusal :=
  .next (if s.powered || !(bringUpOk cfg) then s
  else
    { State.reset with
        powered := true, package := cfg.package, tierMiB := cfg.tierMiB,
        parts := cfg.parts.foldl (fun m c => Tbl.set Partition.reset m c.num (freshPart c cfg.parts.length)) [],
        ticks := s.ticks, agenda := s.agenda, hostOut := s.hostOut, fabricOut := s.fabricOut })

/-- POWER_LOSS (16 R294): no state is kept. What was sent before is with those it was sent to. (DEDUCED, log entry 44.) -/
def execPowerLoss (s : State) : Host.Outcome State Fault Refusal :=
  .next { State.reset with ticks := s.ticks, agenda := s.agenda, hostOut := s.hostOut, fabricOut := s.fabricOut }

/-- KEY_RELEASE (01 R30, R31; 16 R294): only once blocks 1 to 4 have been measured. (DESIGN CHOICE, log entry 7.) -/
def execKeyRelease (s : State) : Host.Outcome State Fault Refusal :=
  .next (if s.powered && (rangeFrom 1 4).all s.measured.contains then { s with keys := true } else s)

/-- What a measurement block covers (01 R30): the firmware; the populated ranges; the repairs as the health monitors report
them, with CHRET of both dies; the keys. What no
register shows is a free value. (DESIGN CHOICE, log entry 3.) -/
def measuredWords (s : State) (block : Nat) : List Nat :=
  match block with
  | 2 => [s.tierMiB]
  | 3 => [s.io0.chret0, s.io0.chret1, s.io1.chret0, s.io1.chret1, s.health.repair].map (fun w => w.toNat) ++ [Config.measuredContent 3 0]
  | 4 => (List.range 8).map (fun p => if (getPart s p).present then Config.measuredContent 4 (8 * (getPart s p).keyGen + p) else 0)
  | n => [Config.measuredContent n 0]

/-- The health monitors report (16 R293): other repairs than before change measurement block 3, which event 5 says (01 R31). -/
def monitor (s : State) (h : Health) : State :=
  let a := { s with health := h }
  if h.repair = s.health.repair then a else postEvent a { part := 0, type := 5, w1 := 3, w2 := 0, w3 := 0 }

/-- A measurement as it is reported: the eight words of the SHA3-512 value, then those of the ML-DSA-87 signature of them (01 R30). -/
def measurement (s : State) (block : Nat) : List DWord :=
  let h := (List.range 8).map (Config.sha3 (measuredWords s block))
  h ++ (List.range 579).map (Config.signature h)

/-- SPDM_MEASUREMENT_REQUEST (01 R30): one of the blocks 1 to 4. -/
def execSpdmMeasurementRequest (block : Nat) (s : State) : Host.Outcome State Fault Refusal :=
  .next (if s.powered && decide (1 ≤ block) && decide (block ≤ 4) then
      { s with hostOut := s.hostOut ++ [.measurement block (measurement s block)],
               measured := if s.measured.contains block then s.measured else s.measured ++ [block] }
    else s)

/-- PBOOT_WRITE (16 R294 step 5): Ozona's launch of the dispatcher, if its record can be read and has PRIO 31 and S = 1; a
hand-off that holds the record's bytes makes it wait. (DESIGN CHOICE, log entry 7; DEDUCED, log entry 42.) -/
def execPbootWrite (part : Nat) (w : DWord) (s : State) : Host.Outcome State Fault Refusal :=
  .next (
    let rec_ := keep w 6 56
    let x := { getPart s part with pbootRec := rec_, pbootWait := false }
    let a := setPart s part x
    if closed s x || a.launches.any (fun l => l.part == part && l.dispatcher) then a
    else
      match judgeMessage a part rec_ (x.lswCtx.setWidth 64) 0 0 with
      | .held => setPart a part { x with pbootWait := true }
      | .refused _ => a
      | .accepted l => if l.prio = 31 ∧ l.super then acceptLaunch a { l with dispatcher := true } else a)

/-! ## Partition reset (16 R295) -/

/-- The line is raised, and every agent of the partition stops with its record; while no key is released, memory takes none (01 R31).
(DEDUCED, log entry 18.) -/
def resetHalt (s : State) (p : Nat) : State :=
  let x := getPart s p
  let x := if x.halted then x else { x with halted := true, raiser := none, stopWritten := [] }
  let a := setPart s p { x with busy := true }
  if !s.keys then setPart a p { getPart a p with stopWritten := agentsOf a p } else
  (agentsOf a p).foldl (fun b i => if (getPart b p).stopWritten.contains i then b else stopRecord b p i true) a

/-- Every skein of the partition is killed; its launches end, and its collective entries are freed. (DEDUCED, log entry 45.) -/
def resetKill (s : State) (p : Nat) : State :=
  let sids := (s.skeins.filter (fun e => e.2.part == p)).map (fun e => e.1)
  let a := sids.foldl (fun b sid => killSkein b sid 0 false) s
  judgeLaunches { a with launches := a.launches.filter (fun l => l.part != p), colls := a.colls.filter (fun e => e.1 / 64 != p) }

/-- Whether an item in flight belongs to a partition. -/
def Item.ofPart (s : State) (p : Nat) (i : Item) : Bool :=
  let org (o : Origin) : Bool := if o.core = remoteCore then o.ply == p else partOf s o.core == p
  match i with
  | .gatherHome k => org k.org
  | .gatherStack k => org k.org
  | .gatherReply _ k => org k.org
  | .atomic r => r.lanes.all (fun l => org l.org)
  | .atomReply r _ => r.lanes.all (fun l => org l.org)
  | .grantAsk core _ _ _ q _ _ _ => q == p || partOf s core == p
  | .grantGive g _ => g.part == p
  | .revoke _ q _ _ _ => q == p
  | .tokenOp _ q _ _ _ _ _ _ _ => q == p
  | .debit x => x.dom / 4096 == p
  | .credit d _ _ _ => d / 4096 == p
  | .creditAck d _ _ _ => d / 4096 == p
  | .creditRefuse d _ _ _ _ => d / 4096 == p
  | .fieldAsk o _ _ _ _ _ _ => org o
  | .totalAsk _ sid _ _ _ _ _ => (getSkein s sid).plies == 0
  | .fence f => partOf s f.core == p
  | .half h => org h.org

/-- The partition's stores are zeroed, and what was cached or on its way goes with them. (DEDUCED, log entry 45.) -/
def resetZero (s : State) (p : Nat) : State :=
  let mine (pa : Nat) : Bool := inHbm pa && ownsFrame s p (pa / 0x10000)
  let ours (core : Nat) : Bool := partOf s core == p
  { s with
      mem := s.mem.filter (fun e => !(mine e.1)), bad := s.bad.filter (fun e => !(mine (8 * e.1))),
      mere := s.mere.filter (fun e => !(mine (64 * e.1))), regions := s.regions.filter (fun r => r.part != p),
      grants := s.grants.filter (fun g => g.part != p), tlb := s.tlb.filter (fun e => e.part != p),
      l1 := s.l1.filter (fun l => !(ours l.core)), icache := s.icache.filter (fun l => !(ours l.core)),
      flight := s.flight.filter (fun i => !(i.ofPart s p)), domains := s.domains.filter (fun d => d.part != p),
      transits := s.transits.filter (fun t => t.dom / 4096 != p), fieldFrames := s.fieldFrames.filter (fun e => (e.2 - 1) / 4096 != p),
      orders := s.orders.filter (fun e => e.part != p), heldPkts := s.heldPkts.filter (fun h => h.part != p),
      slotsAway := s.slotsAway.filter (fun e => e.1 != p) }

/-- A partition's memory key is replaced. -/
def newKey (s : State) (p : Nat) : State := setPart s p { getPart s p with keyGen := (getPart s p).keyGen + 1 }

/-- PRST_RESET (16 R295 steps 1 to 4): halt, kill, zero, and a new key with event 5 for measurement block 4. (DEDUCED, log entry 45.) -/
def execPrstReset (part : Nat) (w : DWord) (s : State) : Host.Outcome State Fault Refusal :=
  .next (if !(w.getLsbD 0) || (getPart s part).busy || !(getPart s part).present then s
  else postEvent (newKey (resetZero (resetKill (resetHalt s part) part) part) part) { part := part, type := 5, w1 := 4, w2 := 0, w3 := 0 })

/-- PARTITION_RESET_DONE (16 R295 step 5): BUSY clears, and the partition is halted no longer. (DEDUCED, log entry 45.) -/
def execPartitionResetDone (part : Nat) (s : State) : Host.Outcome State Fault Refusal :=
  let x := getPart s part
  .next (if x.busy then setPart s part { x with busy := false, halted := false, raiser := none, stopWritten := [] } else s)

/-! ## Links and lost packages (11 R195) -/

/-- PORT_DOWN_TIMEOUT: the port leaves the routing. (DEDUCED, log entry 47.) -/
def execPortDownTimeout (port : Nat) (s : State) : Host.Outcome State Fault Refusal :=
  .next (if port < 16 && !(s.portsGone.contains port) then { s with portsGone := s.portsGone ++ [port] } else s)

/-- FLIT_CRC_REPLAY: the flit goes again; nothing but time passes. (DEDUCED, log entry 47.) -/
def execFlitCrcReplay (_port : Nat) (s : State) : Host.Outcome State Fault Refusal := .next (tick s)

/-- Regions whose holder is on a lost package are lost, and shares held there are dropped (02 R56); one event for each
context. (DEDUCED, log entry 46.) -/
def loseHolders (s : State) (q : Nat) : State :=
  let held (r : Region) : Bool := r.holder.package == q && !r.lost
  let hit := s.regions.filter held
  let a := { s with regions := s.regions.map (fun r =>
    let r := { r with sharers := r.sharers.map (fun h => if h.1.package = q then (h.1, 0) else h) }
    if r.holder.package = q then { r with lost := true } else r) }
  (hit.map (fun r => (r.part, r.ctx))).eraseDups.foldl (fun b c =>
    postEvent b { part := c.1, type := 2, w1 := dw c.2, w2 := dw (hit.filter (fun r => r.part == c.1 && r.ctx == c.2)).length, w3 := 0 })
    (revokeLost a)

/-- The blocks of a domain that lived on a lost package are lost (03 R77). -/
def Domain.lose (d : Domain) (q : Nat) : Domain :=
  let n := (d.count - 1) / 2 ^ d.blk + 1
  let own := (d.owners.zipIdx.filter (fun e => e.1 == q)).map (fun e => e.2)
  let rest := if d.declarer = q then rangeFrom d.owners.length (n - d.owners.length) else []
  { d with lostBlocks := d.lostBlocks ++ (own ++ rest).filter (fun b => !(d.lostBlocks.contains b)) }

/-- One record that was addressed to a lost package: refunded, deleted, and reported as 03 R74 describes. -/
def refundRecord (s : State) (t : Transit) : State :=
  let a := refundCell (dropTransit s t.dom t.home t.record t.org) t.dom t.record.fromCell t.record.amount
  domainStep (settleLane a t.org t.record.lane Cause.prot.code) t.dom

/-- Each debit home refunds its records to a lost package, with one field-loss event for each domain (03 R77). (DEDUCED, log entry 46.) -/
def refundAll (s : State) (q : Nat) : State :=
  let ts := s.transits.filter (fun t => t.sent && t.record.package == q)
  let a := ts.foldl refundRecord s
  (ts.map (fun t => (t.home, t.dom))).eraseDups.foldl (fun b hd =>
    let mine := ts.filter (fun t => t.home == hd.1 && t.dom == hd.2)
    postEvent b { part := hd.2 / 4096, type := 4, w1 := dw (hd.2 % 4096), w2 := dw mine.length,
                  w3 := dw (mine.map (fun t => t.record.amount)).sum }) a

/-- Whether a packet with a tag was sent to a package. -/
def sentTo (s : State) (q tag : Nat) : Bool :=
  s.fabricOut.any (fun o => match o with
    | .packet d p => d == q && p.tag == tag
    | _ => false)

/-- What becomes of one item that depends on a lost package: a transfer fails, a debit that it asked for is not done, a read of a cell
gives zero, and a read of totals traps. (DEDUCED, log entry 46.) -/
def loseItem (q : Nat) (s : State) (i : Item) : State :=
  let out (s : State) : State := { s with flight := s.flight.erase i }
  match i with
  | .debit x =>
    if x.stage = 3 then (if x.org.sid = q then out s else s)
    else
      match findDomain s x.dom with
      | none => s
      | some d =>
        if x.stage = 2 ∧ d.owner x.fromCell = q then domainStep (settleLane (out s) x.org x.lane Cause.prot.code) x.dom
        else if (x.stage = 1 ∧ d.owner x.fromCell = q) ∨ (x.stage = 0 ∧ (d.lostCell x.fromCell ∨ d.lostCell x.toCell)) then
          domainStep (decideLane (out s) x d.wide (.fail .prot) true) x.dom
        else s
  | .fieldAsk o acc _ _ _ (c :: _) sent => if sent && c.package == q then ingressValue s (o.tag * 32 + acc.lane) (acc.va + acc.data.length) 0 else s
  | .totalAsk g _ _ _ _ _ _ => if sentTo s q (g * 32) then refuseTotal s i else s
  | _ => s

/-- A copy that has asked a lost package for a cell reads zero (03 R78). -/
def loseAsked (s : State) (q : Nat) : State :=
  (s.copies.filter (fun c => c.state == .asked)).foldl (fun a c =>
    match s.fabricOut.find? (fun o => match o with
      | .packet d p => d == q && p.tag == c.ask
      | _ => false) with
    | some (.packet _ p) => copyValue a p.tag p.off 0
    | _ => a) s

/-- Copies that wait for a lost package stop with PROT (11 R195). -/
def loseCopies (s : State) (q : Nat) : State :=
  (s.copies.filter (fun c => c.state == .sent && fieldOf c.dst.toNat 39 21 == q)).foldl (fun a c => stopCopy a c .prot c.here_.2) s

/-- The state of an answered meaning, or the state it was given. -/
def nextOr (s : State) (o : Host.Outcome State Fault Refusal) : State :=
  match o with
  | .next t => t
  | _ => s

/-- COLLs that wait for a lost package stop with PROT (11 R195). -/
def loseColls (s : State) (q : Nat) : State :=
  (s.collWaits.filter (fun c => c.peers.contains q)).foldl (fun a c =>
    nextOr a (execCollPacketAck c.tag q (.refused Cause.prot.code 0) a)) s

/-- A domain's declaration or retirement waits for a lost package no longer. -/
def loseAcks (s : State) (q : Nat) : State :=
  (s.domains.map (fun d => d.key)).foldl (fun a k => match findDomain a k with
    | some d => domainStep (setDomain a { d with awaiting := d.awaiting.filter (fun x => x != q), agreed := d.agreed.filter (fun x => x != q) }) k
    | none => a) s

/-- Copies that wait for a word of their lost declarer: one that would have been declared is undone, one that would have been released
is gone. -/
def loseDeclarer (s : State) (q : Nat) : State :=
  (s.domains.filter (fun d => d.declarer == q)).foldl (fun a d => match d.stage with
    | .agreed => finishUndo a d
    | .releasing => finishRetire a d
    | _ => a) s

/-- PACKAGE_LOST (11 R195, 02 R56, 03 R77). (DEDUCED, log entry 46.) -/
def execPackageLost (package : Nat) (s : State) : Host.Outcome State Fault Refusal :=
  .next (if package = here s || s.lostPkgs.contains package then s
  else
    let a := { s with lostPkgs := s.lostPkgs ++ [package], domains := s.domains.map (fun d => d.lose package),
                      heldCredits := s.heldCredits.filter (fun h => h.1 != package) }
    let a := refundAll (loseHolders a package) package
    let a := a.flight.foldl (loseItem package) a
    loseDeclarer (loseAcks (loseColls (loseCopies (loseAsked a package) package) package) package) package)

end Sys2Proof.Machine
end

