-- ==== Sys2Proof/Machine/System.lean ====
section
/-! DEFINITION. Handlers, caches and queues (22 R379 to R390): SYSC, TRET, HCALL, HRET, BRK, HALT, TLBI, CFLU, MSGS and
MSGR; and the digest and order-log instructions DGST and ORDR (15 R276, R280, R281). -/

namespace Sys2Proof.Machine

/-! ## System calls and returns (14 R248 to R251) -/

/-- SYSC (14 R248): strands with an active lane trap behind the instruction, the others pass over it. -/
def execSysc (g : Guard) (i : BitVec 8) (s : State) : Host.Outcome State Fault Refusal :=
  let f : LaneForm := { instr := .sysc g i, guard := g, len := 4, mode := .user, blocks := [], src := [], dst := [],
                        base := none, far := .none }
  .next (laneEnter f s (fun s =>
    let act n := (curStrand s n).active g
    let pass := (grp s).filter (fun n => act n == 0)
    let a := mapStrands s s.cur.sid s.cur.ply pass (fun _ t => { t with pc := t.pc + 4, wait := .none })
    if pass.length = (grp s).length then tick a
    else trapGroup a (fun n => if act n = 0 then none else some (trapOf (act n) .sysc ((curStrand s n).pc + 4) (i.setWidth 64)))))

/-- TRET (14 R249, 22 R379): a strand that a DIGEST trap took to its handler has its digest accepted, and waits for its
skein's commit (15 R278). -/
def execTret (s : State) : Host.Outcome State Fault Refusal :=
  .next (uniEnter .tret .supervisor [] [] [] [] s (fun s =>
    if (grp s).any (fun n => (curStrand s n).mode == .hypervisor || (curStrand s n).edepth == 0) then
      trapAll s .illegal (instrWord .tret)
    else
      let k := curSkein s
      let commits (t : Strand) : Bool := k.accept && t.trapSet.eaddr == dw (k.phase * 2 ^ 32 + k.index) &&
        (t.trapSet.emask == 0 || lowestCause t.trapSet.emask t.trapSet.ecause == Cause.digest.code)
      steer s (fun _ t => { tretStrand t with wait := if commits t then .phase else .none })))

/-- HCALL (14 R251, 22 R380). -/
def execHcall (n : BitVec 8) (s : State) : Host.Outcome State Fault Refusal :=
  .next (uniEnter (.hcall n) .supervisor [] [] [] [] s (fun s =>
    if (grp s).any (fun m => (curStrand s m).mode == .hypervisor) then trapAll s .illegal (instrWord (.hcall n))
    else steer s (fun _ t => hEntry t 0x20 0 n.toNat (t.pc + 4))))

/-- Whether both stacks of a strand hold an entry marked H. -/
def Strand.entered (t : Strand) : Bool := t.masks.any (fun m => m.getLsbD 5) && t.calls.any (fun c => c.getLsbD 1)

/-- HRET (14 R251, 22 R381): after an entry with NEST it kills the skein. -/
def execHret (s : State) : Host.Outcome State Fault Refusal :=
  .next (uniEnter .hret .hypervisor [] [] [] [] s (fun s =>
    if (grp s).any (fun n => !(curStrand s n).entered) then trapAll s .illegal (instrWord .hret)
    else
      match (grp s).find? (fun n => (curStrand s n).hcause.toNat % 256 == Cause.nest.code) with
      | some n => tick (killSkein s s.cur.sid ((curStrand s n).hcause.toNat / 256 % 256) false)
      | none => steer s (fun _ t => hretStrand t)))

/-- BRK (22 R386). -/
def execBrk (n : BitVec 9) (s : State) : Host.Outcome State Fault Refusal :=
  .next (uniEnter (.brk n) .user [] [] [] [] s (fun s => trapAll s .brk (n.setWidth 64)))

/-- HALT (22 R387, 14 R267). -/
def execHalt (s : State) : Host.Outcome State Fault Refusal :=
  .next (uniEnter .halt .hypervisor [] [] [] [] s (fun s => tick (raiseHalt s (curKey s ((grp s).headD 0)) true)))

/-! ## TLBI (02 R38, R39; 22 R385) -/

/-- The base and size of a TLBI range word, if it is well formed. -/
def rangeWord (w : DWord) : Option (Nat × Nat) :=
  let k := fieldOf w.toNat 0 6
  let base := fieldOf w.toNat 16 48 * 0x10000
  if 16 ≤ k ∧ k ≤ 57 ∧ fieldOf w.toNat 6 10 = 0 ∧ base < 2 ^ 57 ∧ base % 2 ^ k = 0 then some (base, k) else none

/-- The context of a context word, if it is well formed: 0xFFFF is the issuing one. -/
def contextWord (k : Skein) (w : DWord) : Option Nat :=
  if w.toNat < 0xFFFF then some w.toNat else if w.toNat = 0xFFFF then some k.ctx else none

/-- What a TLBI names: a partition, a context or all of them, and a range. -/
structure Named where
  part : Nat
  ctx : Option Nat
  base : Nat
  len : Nat
  deriving DecidableEq, Repr

/-- Whether it names some bytes of a context. -/
def Named.has (x : Named) (p ctx va n : Nat) : Bool :=
  x.part == p && (match x.ctx with
    | some c => c == ctx
    | none => true) && overlap x.base x.len va n

/-- Whether an access made before a place in time, which may use a removed translation, is still to be performed (02 R39), one from
outside that waits before a gate included. (DEDUCED, log entry 35.) -/
def undrained (s : State) (x : Named) (since : Nat) : Bool :=
  let old (o : Origin) (va n : Nat) : Bool := decide (o.tag < since) && x.has (partOf s o.core) o.ctx va n
  s.flight.any (fun i => match i with
    | .fieldAsk o l _ _ _ _ _ => old o l.va l.size
    | i => i.pending.any (fun e => old e.1 e.2.va e.2.size)) ||
  s.heldPkts.any (fun h => h.spots.all (fun e => !e.2.2.2) && h.spots.any (fun e => x.has h.part h.ctx e.1 e.2.2.1))

/-- Whether a copy has a chunk under way, some of it read, in what a TLBI names. -/
def Copy.begunIn (s : State) (x : Named) (c : Copy) : Bool :=
  let k := getSkein s c.sid
  let side (a : DWord) (n : Nat) : Bool := spaceOf a == 0 && x.has k.part k.ctx a.toNat n
  c.state == .asked && (side c.src c.spans.1 || side c.dst c.spans.2)

/-- The translations that a TLBI names go, and instruction words fetched by them; bytes stored in an L1 under one of them reach their
home, and a copy that has read only some of a chunk under them reads it afresh; it completes once every access made under them has been
performed at its home (02 R39). -/
def invalidate (x : Named) (s : State) : State :=
  let since := match (curStrand s ((grp s).headD 0)).wait with
    | .drain n => n
    | _ => s.seq
  let a := { s with
    tlb := s.tlb.filter (fun e => !(x.has e.part e.ctx e.base (2 ^ e.k))),
    icache := s.icache.filter (fun l => !(x.has (partOf s l.core) l.ctx l.va 4)),
    copies := s.copies.map (fun c => if c.begunIn s x then { c with state := .running, got := [] } else c) }
  let a := writeBack a (fun l => x.has (partOf a l.core) l.ctx l.va 64)
  if undrained a x since then stall a (.drain since) else retire a 4

/-- TLBI of a range (22 R385). (DESIGN CHOICE, log entry 5; DEDUCED, log entry 35.) -/
def execTlbi (a b : BitVec 5) (s : State) : Host.Outcome State Fault Refusal :=
  .next (uniEnter (.tlbi a b) .supervisor [] [] [a.toNat, b.toNat] [] s (fun s =>
    match rangeWord (wReg s a.toNat), contextWord (curSkein s) (wReg s b.toNat) with
    | none, _ => trapAll s .prot (wReg s a.toNat)
    | some _, none => trapAll s .prot (wReg s b.toNat)
    | some r, some c => invalidate { part := (curSkein s).part, ctx := some c, base := r.1, len := 2 ^ r.2 } s))

/-- TLBI.CTX (22 R385). (DEDUCED, log entry 35.) -/
def execTlbiCtx (b : BitVec 5) (s : State) : Host.Outcome State Fault Refusal :=
  .next (uniEnter (.tlbiCtx b) .supervisor [] [] [b.toNat] [] s (fun s =>
    match contextWord (curSkein s) (wReg s b.toNat) with
    | none => trapAll s .prot (wReg s b.toNat)
    | some c => invalidate { part := (curSkein s).part, ctx := some c, base := 0, len := 2 ^ 57 } s))

/-- TLBI.ALL (22 R385). (DEDUCED, log entry 35.) -/
def execTlbiAll (s : State) : Host.Outcome State Fault Refusal :=
  .next (uniEnter .tlbiAll .supervisor [] [] [] [] s (fun s =>
    invalidate { part := (curSkein s).part, ctx := none, base := 0, len := 2 ^ 57 } s))

/-! ## CFLU (22 R388) -/

/-- A CFLU on a range word; `k` gets base and length. -/
def onRange (w : DWord) (s : State) (k : State → Nat → Nat → State) : State :=
  match regionWord w with
  | none => trapAll s .prot w
  | some (base, n) => k s base (2 ^ n)

/-- The issuing skein's dirty lines in a range reach their homes. -/
def flushOwn (s : State) (base len : Nat) : State :=
  writeBack s (fun l => l.owner == s.cur.sid && l.core == curCore s && l.ctx == (curSkein s).ctx && overlap l.va 64 base len)

/-- CFLU: write back. -/
def execCflu (a : BitVec 5) (s : State) : Host.Outcome State Fault Refusal :=
  .next (uniEnter (.cflu a) .user [] [] [a.toNat] [] s (fun s =>
    onRange (wReg s a.toNat) s (fun s base len => retire (flushOwn s base len) 4)))

/-- CFLU.INV: write back, then every line of the range leaves the core's L1, whoever's it is. (DEDUCED, log entry 35.) -/
def execCfluInv (a : BitVec 5) (s : State) : Host.Outcome State Fault Refusal :=
  .next (uniEnter (.cfluInv a) .user [] [] [a.toNat] [] s (fun s =>
    onRange (wReg s a.toNat) s (fun s base len =>
      let core := curCore s
      let ctx := (curSkein s).ctx
      let b := dropL1 (flushOwn s base len) (fun l => l.core == core && l.ctx == ctx && overlap l.va 64 base len)
      retire (stopFills b core (fun l c => c == ctx && overlap l.va l.size base len)) 4)))

/-- CFLU.I: the instruction words of the range leave every core of the partition. (DESIGN CHOICE, log entry 16.) -/
def execCfluI (a : BitVec 5) (s : State) : Host.Outcome State Fault Refusal :=
  .next (uniEnter (.cfluI a) .user [] [] [a.toNat] [] s (fun s =>
    onRange (wReg s a.toNat) s (fun s base len =>
      let k := curSkein s
      retire { s with icache := s.icache.filter (fun l =>
        !((coresOf s k.part).contains l.core && l.ctx == k.ctx && overlap l.va 4 base len)) } 4)))

/-! ## Message queues (22 R389, R390) -/

/-- MSGS: W[D] is 0 when the message is queued and 1 when it is discarded. -/
def execMsgs (d a b q : BitVec 5) (s : State) : Host.Outcome State Fault Refusal :=
  .next (uniEnter (.msgs d a b q) .supervisor [] [] [a.toNat, b.toNat] [d.toNat] s (fun s =>
    let p := (curSkein s).part
    let x := getPart s p
    if x.busy || decide (64 ≤ (queueOf x q.toNat).length) then
      retire (setWReg (setPart s p { x with lostQ := x.lostQ ||| (1#32 <<< q.toNat) }) d.toNat 1) 4
    else retire (setWReg (setPart s p (enqueue x q.toNat (wReg s a.toNat, wReg s b.toNat, 0, 0))) d.toNat 0) 4))

/-- The highest-numbered selected queue that holds a message, with its oldest message. (DEDUCED, log entry 36.) -/
def pickQueue (x : Partition) (sel : DWord) : Option (Nat × Msg) :=
  ((List.range 33).reverse.filter (fun q => sel.getLsbD q)).findSome? (fun q => (queueOf x q).head?.map (fun m => (q, m)))

/-- The 32 bytes of a message. -/
def msgBytes (m : Msg) : List Byte := dwordBytes [m.1, m.2.1, m.2.2.1, m.2.2.2]

/-- MSGR in both forms: `none_` is what it does when no selected queue holds a message. The message is stored at its home
as one 32-byte store of the group, and only then taken. (DEDUCED, log entry 36.) -/
def receive (d a b : BitVec 5) (none_ : State → State) (s : State) : State :=
  let buf := wReg s a.toNat
  let sel := wReg s b.toNat
  let p := (curSkein s).part
  if sel >>> 33 ≠ 0 then trapAll s .prot sel
  else if buf.toNat % 32 ≠ 0 then trapAll s .misalign buf
  else
    match pickQueue (getPart s p) sel with
    | none => none_ s
    | some (q, m) =>
      accessRange s .store [buf.toNat] 32 32 (fun s xs =>
        match xs with
        | [x] =>
          let o : Origin := { core := curCore s, die := dieOf (curCore s), sid := s.cur.sid, ply := s.cur.ply, tag := 0,
                              ctx := (curSkein s).ctx, pc := curPc s, acq := false, rel := false }
          if mustWait s x 32 then stall s .poll
          else
            match homeWrite (leaveL1 s (curCore s) x.pa) (laneAgent o (4 * (grp s).headD 0)) x.pa (clean (msgBytes m)) with
            | none => stall s (.gate x.pa)
            | some b =>
              let y := getPart b p
              retire (setWReg (setPart b p { y with queues := Tbl.set [] y.queues q ((queueOf y q).drop 1) }) d.toNat (dw q)) 4
        | _ => s)

/-- MSGR (22 R390): it waits for a message. -/
def execMsgr (d a b : BitVec 5) (s : State) : Host.Outcome State Fault Refusal :=
  .next (uniEnter (.msgr d a b) .supervisor [] [] [a.toNat, b.toNat] [d.toNat] s (receive d a b (fun s => stall s .poll)))

/-- MSGR.TRY (22 R390). -/
def execMsgrTry (d a b : BitVec 5) (s : State) : Host.Outcome State Fault Refusal :=
  .next (uniEnter (.msgrTry d a b) .supervisor [] [] [a.toNat, b.toNat] [d.toNat] s (receive d a b (fun s =>
    retire (setWReg s d.toNat 0x8000000000000000) 4)))

/-! ## DGST (15 R276) -/

/-- DGST.READ: the fold of the group's digests as they stand. (DEDUCED, log entry 37.) -/
def execDgstRead (d : BitVec 5) (s : State) : Host.Outcome State Fault Refusal :=
  .next (uniEnter (.dgstRead d) .user [] [] [] [d.toNat] s (fun s =>
    retire (setWReg s d.toNat ((grp s).foldl (fun h n => foldDigest h (dw (8 * s.cur.ply + n)) (curStrand s n).digest) 0)) 4))

/-- Sets the enable bit of the group's strands. -/
def enableDigest (s : State) (on : Bool) : State := mapStrands s s.cur.sid s.cur.ply (grp s) (fun _ t => { t with digestOn := on })

/-- DGST.ON. -/
def execDgstOn (s : State) : Host.Outcome State Fault Refusal :=
  .next (uniEnter .dgstOn .user [] [] [] [] s (fun s => retire (enableDigest s true) 4))

/-- DGST.OFF: refused in a deterministic launch. -/
def execDgstOff (s : State) : Host.Outcome State Fault Refusal :=
  .next (uniEnter .dgstOff .user [] [] [] [] s (fun s =>
    if skeinDet s s.cur.sid then trapAll s .prot 0 else retire (enableDigest s false) 4))

/-- DGST.CLR: refused in a deterministic launch. -/
def execDgstClr (s : State) : Host.Outcome State Fault Refusal :=
  .next (uniEnter .dgstClr .user [] [] [] [] s (fun s =>
    if skeinDet s s.cur.sid then trapAll s .prot 0
    else retire (mapStrands s s.cur.sid s.cur.ply (grp s) (fun _ t => { t with digest := 0 })) 4))

/-- A DGST.FOLD that has passed its checks (15 R276): a block of words takes its place in each strand's digest, those that the L1
holds are there at once, and the others leave for their homes, counting in LD until the last has returned. (DEDUCED, log entry
37.) -/
def issueFold (s : State) (ws : List (Nat × Xl)) : State :=
  let o := origin s 0
  let accs := ws.map (fun w => (groupAcc s w.1 w.2 [], w.2.die))
  let hit (l : LaneAcc) : Bool := (grp s).all (fun n => loadHits s o n l)
  let far := accs.filter (fun l => !hit l.1)
  let a := mapStrands s s.cur.sid s.cur.ply (grp s) (fun _ t =>
    t.drain (t.folds ++ [.block o.tag t.digestOn (ws.map (fun w => (w.1, none)))]))
  let a := (accs.filter (fun l => hit l.1)).foldl (fun a l =>
    let bs := l1Read a o.core o.ctx l.1.va l.1.pa 8
    mapStrands a s.cur.sid s.cur.ply (grp s) (fun _ t => t.settleWord o.tag l.1.va bs)) a
  let a := toHomes a o 0 (far.map (fun l => l.1))
  retire (send (if far.isEmpty then a else expectGroup a o.tag) (readItems s o 0 (some (grp s, none)) far)) 4

/-- DGST.FOLD (15 R276): the words are read as loads, each checked under 02 R37 before any is read. -/
def execDgstFold (a b : BitVec 5) (s : State) : Host.Outcome State Fault Refusal :=
  .next (uniEnter (.dgstFold a b) .user [] [] [a.toNat, b.toNat] [] s (fun s =>
    let va := wReg s a.toNat
    let n := wReg s b.toNat
    if va.toNat % 8 ≠ 0 ∨ n.toNat % 8 ≠ 0 then trapAll s .misalign va
    else if 2 ^ 24 < n.toNat then trapAll s .prot va
    else if (grp s).any (fun m => !(curStrand s m).stores.isEmpty || fullLd s m) then stall s .poll
    else
      let vas := dwordsAt va.toNat (n.toNat / 8)
      accessRange s .load vas 8 8 (fun s xs => issueFold s (vas.zip xs))))

/-! ## ORDR (15 R280, R281) -/

/-- Reads an order-log descriptor; `k` gets its four words. (DEDUCED, log entry 38.) -/
def withDescriptor (h : DWord) (s : State) (k : State → List Nat → State) : State :=
  if h.toNat % 32 ≠ 0 then trapAll s .misalign h
  else readGroup (dwordsAt h.toNat 4) 8 s (fun s bs => k s (bs.map pval))

/-- Whether a descriptor breaks 15 R281. (DEDUCED, log entry 38.) -/
def orderBad (k : Skein) (ws : List Nat) : Bool :=
  let log := ws.getD 1 0
  let cap := fieldOf (ws.getD 2 0) 32 16
  fieldOf (ws.getD 2 0) 48 16 != 0 || fieldOf (ws.getD 3 0) 2 62 != 0 || cap == 0 || decide (16384 < cap) ||
    decide (cap < fieldOf (ws.getD 2 0) 0 32) || log / 0x10000 != (log + 4 * cap - 1) / 0x10000 || decide (131071 < k.index)

/-- The addresses at which a log of `cap` chunks enters a 4 KiB block. (DEDUCED, log entry 38.) -/
def logBlocks (log cap : Nat) : List Nat :=
  log :: (rangeFrom (log / 4096 + 1) ((log + 4 * cap - 1) / 4096 - log / 4096)).map (fun b => 4096 * b)

/-- The lines of a word leave every L1, so that its home performs what comes. (DESIGN CHOICE, log entry 15.) -/
def flushWord (s : State) (pa : Nat) : State :=
  let f (l : L1Line) : Bool := l.pa == pa / 64 * 64
  dropL1 (writeBack s f) f

/-- ORDR.REC and ORDR.PLAY: W[D] is 0 when armed, 1 with no free entry in the home slice, 2 when the word is armed
already. (DEDUCED, log entry 38.) -/
def armOrder (play : Bool) (d a : BitVec 5) (s : State) : State :=
  let h := wReg s a.toNat
  withDescriptor h s (fun s ws =>
    let k := curSkein s
    let word := ws.getD 0 0
    let log := ws.getD 1 0
    if log % 64 ≠ 0 then trapAll s .misalign (dw log)
    else if word % 8 ≠ 0 then trapAll s .misalign (dw word)
    else if orderBad k ws then trapAll s .prot h
    else
      accessRange s .store [word] 8 8 (fun s xw =>
        accessRange s .store (logBlocks log (fieldOf (ws.getD 2 0) 32 16)) 4 4 (fun s xl =>
          let pa := (xw.map (fun x => x.pa)).headD 0
          let lg := (xl.map (fun x => x.pa)).headD 0
          let home := homeOf s pa
          if s.orders.any (fun e => e.pa == pa) then retire (setWReg s d.toNat 2) 4
          else if 4 ≤ (s.orders.filter (fun e => e.home == home)).length then retire (setWReg s d.toNat 1) 4
          else
            let e : OrderEntry := { home := home, part := k.part, ctx := k.ctx, launch := k.launch, sid := s.cur.sid, desc := h.toNat,
                                    pa := pa, log := lg, cap := fieldOf (ws.getD 2 0) 32 16, used := fieldOf (ws.getD 2 0) 0 32,
                                    div := false, full := false, play := play, runAgent := 0, runLen := 0, stopped := false }
            let b := flushWord s pa
            let e := if play then e.atHead b else e
            retire (setWReg (enableDigest { b with orders := b.orders ++ [e] } true) d.toNat 0) 4)))

/-- ORDR.REC (15 R281). -/
def execOrdrRec (d a : BitVec 5) (s : State) : Host.Outcome State Fault Refusal :=
  .next (uniEnter (.ordrRec d a) .user [] [] [a.toNat] [d.toNat] s (armOrder false d a))

/-- ORDR.PLAY (15 R281). -/
def execOrdrPlay (d a : BitVec 5) (s : State) : Host.Outcome State Fault Refusal :=
  .next (uniEnter (.ordrPlay d a) .user [] [] [a.toNat] [d.toNat] s (armOrder true d a))

/-- The entry as ORDR.OFF leaves it, its open chunk written out. -/
def finishOrder (s : State) (e : OrderEntry) : OrderEntry × State :=
  if e.play || e.stopped || e.runLen == 0 then (e, s) else ({ e with used := e.used + 1, runLen := 0 }, closeChunk s e)

/-- ORDR.OFF (15 R281): USED, DIV and FULL go over the descriptor's, and requests that waited are admitted. -/
def execOrdrOff (d a : BitVec 5) (s : State) : Host.Outcome State Fault Refusal :=
  .next (uniEnter (.ordrOff d a) .user [] [] [a.toNat] [d.toNat] s (fun s =>
    let h := wReg s a.toNat
    withDescriptor h s (fun s ws =>
      checkStore [h.toNat + 16, h.toNat + 24] s (fun s =>
        let k := curSkein s
        match s.orders.find? (fun e => e.part == k.part && e.ctx == k.ctx && e.desc == h.toNat) with
        | none => retire (setWReg s d.toNat 0x8000000000000000) 4
        | some e =>
          let x := finishOrder s e
          let w2 := ws.getD 2 0 / 2 ^ 32 * 2 ^ 32 + x.1.used
          let w3 := ws.getD 3 0 / 4 * 4 + (if x.1.div then 2 else 0) + (if x.1.full then 1 else 0)
          let b := storeGroup (h.toNat + 16) [dw w2, dw w3] { x.2 with orders := x.2.orders.erase e }
          retire (setWReg b d.toNat (dw x.1.used)) 4))))

end Sys2Proof.Machine
end

