-- ==== Sys2Proof/Machine/Uniform.lean ====
section
/-! DEFINITION. Uniform arithmetic (21 R349 to R351). -/

namespace Sys2Proof.Machine

/-- NOP (21 R350). -/
def execNop (s : State) : Host.Outcome State Fault Refusal :=
  .next (uniEnter .nop .user [] [] [] [] s (fun s => retire s 4))

/-- UADD (21 R350). -/
def execUadd (d a b : BitVec 5) (s : State) : Host.Outcome State Fault Refusal :=
  .next (uniAlu (.uadd d a b) d.toNat [a.toNat, b.toNat] (fun w => w a.toNat + w b.toNat) s)

/-- USUB (21 R350). -/
def execUsub (d a b : BitVec 5) (s : State) : Host.Outcome State Fault Refusal :=
  .next (uniAlu (.usub d a b) d.toNat [a.toNat, b.toNat] (fun w => w a.toNat - w b.toNat) s)

/-- UMUL (21 R350). -/
def execUmul (d a b : BitVec 5) (s : State) : Host.Outcome State Fault Refusal :=
  .next (uniAlu (.umul d a b) d.toNat [a.toNat, b.toNat] (fun w => w a.toNat * w b.toNat) s)

/-- UAND (21 R350). -/
def execUand (d a b : BitVec 5) (s : State) : Host.Outcome State Fault Refusal :=
  .next (uniAlu (.uand d a b) d.toNat [a.toNat, b.toNat] (fun w => w a.toNat &&& w b.toNat) s)

/-- UOR (21 R350). -/
def execUor (d a b : BitVec 5) (s : State) : Host.Outcome State Fault Refusal :=
  .next (uniAlu (.uor d a b) d.toNat [a.toNat, b.toNat] (fun w => w a.toNat ||| w b.toNat) s)

/-- UXOR (21 R350). -/
def execUxor (d a b : BitVec 5) (s : State) : Host.Outcome State Fault Refusal :=
  .next (uniAlu (.uxor d a b) d.toNat [a.toNat, b.toNat] (fun w => w a.toNat ^^^ w b.toNat) s)

/-- USHL (21 R350). -/
def execUshl (d a : BitVec 5) (n : BitVec 6) (s : State) : Host.Outcome State Fault Refusal :=
  .next (uniAlu (.ushl d a n) d.toNat [a.toNat] (fun w => w a.toNat <<< n.toNat) s)

/-- USHR (21 R350). -/
def execUshr (d a : BitVec 5) (n : BitVec 6) (s : State) : Host.Outcome State Fault Refusal :=
  .next (uniAlu (.ushr d a n) d.toNat [a.toNat] (fun w => w a.toNat >>> n.toNat) s)

/-- USAR (21 R350). -/
def execUsar (d a : BitVec 5) (n : BitVec 6) (s : State) : Host.Outcome State Fault Refusal :=
  .next (uniAlu (.usar d a n) d.toNat [a.toNat] (fun w => (w a.toNat).sshiftRight n.toNat) s)

/-- Whether a value is below another, signed or unsigned (`.U`). -/
def below (u : BitVec 1) (x y : DWord) : Bool := if u = 1 then x.ult y else x.slt y

/-- UMIN (21 R350). -/
def execUmin (d a b : BitVec 5) (u : BitVec 1) (s : State) : Host.Outcome State Fault Refusal :=
  .next (uniAlu (.umin d a b u) d.toNat [a.toNat, b.toNat] (fun w => if below u (w b.toNat) (w a.toNat) then w b.toNat else w a.toNat) s)

/-- UMAX (21 R350). -/
def execUmax (d a b : BitVec 5) (u : BitVec 1) (s : State) : Host.Outcome State Fault Refusal :=
  .next (uniAlu (.umax d a b u) d.toNat [a.toNat, b.toNat] (fun w => if below u (w a.toNat) (w b.toNat) then w b.toNat else w a.toNat) s)

/-- UMOV (21 R350). -/
def execUmov (d a : BitVec 5) (s : State) : Host.Outcome State Fault Refusal :=
  .next (uniAlu (.umov d a) d.toNat [a.toNat] (fun w => w a.toNat) s)

/-- UADDI (21 R351). -/
def execUaddi (d a : BitVec 5) (i : BitVec 14) (s : State) : Host.Outcome State Fault Refusal :=
  .next (uniAlu (.uaddi d a i) d.toNat [a.toNat] (fun w => w a.toNat + i.signExtend 64) s)

/-- UMOVI (21 R351). -/
def execUmovi (d : BitVec 5) (i : BitVec 14) (s : State) : Host.Outcome State Fault Refusal :=
  .next (uniAlu (.umovi d i) d.toNat [] (fun _ => i.signExtend 64) s)

/-- UMOVHI (21 R351): 14 bits at position 2p; the others are kept. -/
def execUmovhi (d p : BitVec 5) (i : BitVec 14) (s : State) : Host.Outcome State Fault Refusal :=
  .next (uniAlu (.umovhi d p i) d.toNat [d.toNat] (fun w =>
    (w d.toNat &&& ~~~ ((0x3FFF : DWord) <<< (2 * p.toNat))) ||| (i.setWidth 64 <<< (2 * p.toNat))) s)

end Sys2Proof.Machine
end

