-- ==== Sys2Proof/Machine/Dispatch.lean ====
section
/-! DEFINITION. One arm for each constructor of Instr: the call of its meaning. -/

namespace Sys2Proof.Machine

/-- What an instruction or an event does. -/
def exec (i : Instr) (s : State) : Host.Outcome State Fault Refusal :=
  match i with
  | .iadd g d a b h => Sys2Proof.Machine.execIadd g d a b h s
  | .iaddi g d a i_ => Sys2Proof.Machine.execIaddi g d a i_ s
  | .isub g d a b h => Sys2Proof.Machine.execIsub g d a b h s
  | .iadds g d a b h => Sys2Proof.Machine.execIadds g d a b h s
  | .imul g d a b h => Sys2Proof.Machine.execImul g d a b h s
  | .imulhs g d a b h => Sys2Proof.Machine.execImulhs g d a b h s
  | .imulhu g d a b h => Sys2Proof.Machine.execImulhu g d a b h s
  | .imad g d a b h => Sys2Proof.Machine.execImad g d a b h s
  | .imins g d a b h => Sys2Proof.Machine.execImins g d a b h s
  | .iminu g d a b h => Sys2Proof.Machine.execIminu g d a b h s
  | .imaxs g d a b h => Sys2Proof.Machine.execImaxs g d a b h s
  | .imaxu g d a b h => Sys2Proof.Machine.execImaxu g d a b h s
  | .and g d a b h => Sys2Proof.Machine.execAnd g d a b h s
  | .or g d a b h => Sys2Proof.Machine.execOr g d a b h s
  | .xor g d a b h => Sys2Proof.Machine.execXor g d a b h s
  | .andn g d a b h => Sys2Proof.Machine.execAndn g d a b h s
  | .andi g d a i_ => Sys2Proof.Machine.execAndi g d a i_ s
  | .ori g d a i_ => Sys2Proof.Machine.execOri g d a i_ s
  | .xori g d a i_ => Sys2Proof.Machine.execXori g d a i_ s
  | .shl g d a b h => Sys2Proof.Machine.execShl g d a b h s
  | .shr g d a b h => Sys2Proof.Machine.execShr g d a b h s
  | .sar g d a b h => Sys2Proof.Machine.execSar g d a b h s
  | .shli g d a i_ => Sys2Proof.Machine.execShli g d a i_ s
  | .shri g d a i_ => Sys2Proof.Machine.execShri g d a i_ s
  | .sari g d a i_ => Sys2Proof.Machine.execSari g d a i_ s
  | .bfx g d a b h => Sys2Proof.Machine.execBfx g d a b h s
  | .bfi g d a b h => Sys2Proof.Machine.execBfi g d a b h s
  | .popc g d a h => Sys2Proof.Machine.execPopc g d a h s
  | .clz g d a h => Sys2Proof.Machine.execClz g d a h s
  | .brev g d a h => Sys2Proof.Machine.execBrev g d a h s
  | .icmps g q c a b h => Sys2Proof.Machine.execIcmps g q c a b h s
  | .icmpu g q c a b h => Sys2Proof.Machine.execIcmpu g q c a b h s
  | .icmpsi g q c a i_ => Sys2Proof.Machine.execIcmpsi g q c a i_ s
  | .sel g d a b s_ => Sys2Proof.Machine.execSel g d a b s_ s
  | .mov g d a h => Sys2Proof.Machine.execMov g d a h s
  | .movi g d i_ => Sys2Proof.Machine.execMovi g d i_ s
  | .movhi g d i_ => Sys2Proof.Machine.execMovhi g d i_ s
  | .srd g d i_ => Sys2Proof.Machine.execSrd g d i_ s
  | .plog g q x y t => Sys2Proof.Machine.execPlog g q x y t s
  | .pmovPack g d => Sys2Proof.Machine.execPmovPack g d s
  | .pmovUnpack g a h => Sys2Proof.Machine.execPmovUnpack g a h s
  | .faddF32 g d a b h => Sys2Proof.Machine.execFaddF32 g d a b h s
  | .fmulF32 g d a b h => Sys2Proof.Machine.execFmulF32 g d a b h s
  | .ffmaF32 g d a b h => Sys2Proof.Machine.execFfmaF32 g d a b h s
  | .fminF32 g d a b h => Sys2Proof.Machine.execFminF32 g d a b h s
  | .fmaxF32 g d a b h => Sys2Proof.Machine.execFmaxF32 g d a b h s
  | .fcmpF32 g q c a b h => Sys2Proof.Machine.execFcmpF32 g q c a b h s
  | .frcpF32 g d a h => Sys2Proof.Machine.execFrcpF32 g d a h s
  | .frsqF32 g d a h => Sys2Proof.Machine.execFrsqF32 g d a h s
  | .fex2F32 g d a h => Sys2Proof.Machine.execFex2F32 g d a h s
  | .flg2F32 g d a h => Sys2Proof.Machine.execFlg2F32 g d a h s
  | .faddBf16x2 g d a b h => Sys2Proof.Machine.execFaddBf16x2 g d a b h s
  | .fmulBf16x2 g d a b h => Sys2Proof.Machine.execFmulBf16x2 g d a b h s
  | .ffmaBf16x2 g d a b h => Sys2Proof.Machine.execFfmaBf16x2 g d a b h s
  | .faddF16x2 g d a b h => Sys2Proof.Machine.execFaddF16x2 g d a b h s
  | .fmulF16x2 g d a b h => Sys2Proof.Machine.execFmulF16x2 g d a b h s
  | .ffmaF16x2 g d a b h => Sys2Proof.Machine.execFfmaF16x2 g d a b h s
  | .faddF64 g d a b => Sys2Proof.Machine.execFaddF64 g d a b s
  | .fmulF64 g d a b => Sys2Proof.Machine.execFmulF64 g d a b s
  | .ffmaF64 g d a b => Sys2Proof.Machine.execFfmaF64 g d a b s
  | .tsumF32 g d a b h => Sys2Proof.Machine.execTsumF32 g d a b h s
  | .cvt g d a f t => Sys2Proof.Machine.execCvt g d a f t s
  | .f2fx g d a q x k => Sys2Proof.Machine.execF2fx g d a q x k s
  | .fx2f g d a q x k => Sys2Proof.Machine.execFx2f g d a q x k s
  | .idp4s g d a b h => Sys2Proof.Machine.execIdp4s g d a b h s
  | .idp4u g d a b h => Sys2Proof.Machine.execIdp4u g d a b h s
  | .tdec g d a f x s_ => Sys2Proof.Machine.execTdec g d a f x s_ s
  | .tenc g d a f x s_ => Sys2Proof.Machine.execTenc g d a f x s_ s
  | .tblo g d a b h => Sys2Proof.Machine.execTblo g d a b h s
  | .tbhi g d a b h => Sys2Proof.Machine.execTbhi g d a b h s
  | .bsel g d a b h => Sys2Proof.Machine.execBsel g d a b h s
  | .shfl g d a b h => Sys2Proof.Machine.execShfl g d a b h s
  | .shfli g d a i_ => Sys2Proof.Machine.execShfli g d a i_ s
  | .vote g d s_ o => Sys2Proof.Machine.execVote g d s_ o s
  | .lred g d a o => Sys2Proof.Machine.execLred g d a o s
  | .lscan g d a e o => Sys2Proof.Machine.execLscan g d a e o s
  | .lprev g d a b h => Sys2Proof.Machine.execLprev g d a b h s
  | .rdi g d a h => Sys2Proof.Machine.execRdi g d a h s
  | .wri g a b h => Sys2Proof.Machine.execWri g a b h s
  | .ldl g d a w s_ => Sys2Proof.Machine.execLdl g d a w s_ s
  | .ldlfe g d a w c s_ => Sys2Proof.Machine.execLdlfe g d a w c s_ s
  | .stl g d a w s_ => Sys2Proof.Machine.execStl g d a w s_ s
  | .stlfe g d a w s_ => Sys2Proof.Machine.execStlfe g d a w s_ s
  | .atoml g d a w s_ => Sys2Proof.Machine.execAtoml g d a w s_ s
  | .ldg g d a w o s_ => Sys2Proof.Machine.execLdg g d a w o s_ s
  | .ldgc g d a w o s_ => Sys2Proof.Machine.execLdgc g d a w o s_ s
  | .stg g d a w o s_ => Sys2Proof.Machine.execStg g d a w o s_ s
  | .atomga g d a w o s_ => Sys2Proof.Machine.execAtomga g d a w o s_ s
  | .atomgb g d a w o s_ => Sys2Proof.Machine.execAtomgb g d a w o s_ s
  | .atomg64 g d a w o s_ => Sys2Proof.Machine.execAtomg64 g d a w o s_ s
  | .redg g d a w o s_ => Sys2Proof.Machine.execRedg g d a w o s_ s
  | .xfer g d a b m => Sys2Proof.Machine.execXfer g d a b m s
  | .fld g d a h => Sys2Proof.Machine.execFld g d a h s
  | .coll g d a b o => Sys2Proof.Machine.execColl g d a b o s
  | .sysc g i_ => Sys2Proof.Machine.execSysc g i_ s
  | .xw r c s_ m t p w => Sys2Proof.Machine.execXw r c s_ m t p w s
  | .nop => Sys2Proof.Machine.execNop s
  | .uadd d a b => Sys2Proof.Machine.execUadd d a b s
  | .uaddi d a i_ => Sys2Proof.Machine.execUaddi d a i_ s
  | .usub d a b => Sys2Proof.Machine.execUsub d a b s
  | .umul d a b => Sys2Proof.Machine.execUmul d a b s
  | .uand d a b => Sys2Proof.Machine.execUand d a b s
  | .uor d a b => Sys2Proof.Machine.execUor d a b s
  | .uxor d a b => Sys2Proof.Machine.execUxor d a b s
  | .ushl d a n => Sys2Proof.Machine.execUshl d a n s
  | .ushr d a n => Sys2Proof.Machine.execUshr d a n s
  | .usar d a n => Sys2Proof.Machine.execUsar d a n s
  | .umin d a b u => Sys2Proof.Machine.execUmin d a b u s
  | .umax d a b u => Sys2Proof.Machine.execUmax d a b u s
  | .umovi d i_ => Sys2Proof.Machine.execUmovi d i_ s
  | .umovhi d p i_ => Sys2Proof.Machine.execUmovhi d p i_ s
  | .umov d a => Sys2Proof.Machine.execUmov d a s
  | .br p c o => Sys2Proof.Machine.execBr p c o s
  | .brs p c o => Sys2Proof.Machine.execBrs p c o s
  | .join => Sys2Proof.Machine.execJoin s
  | .brt i_ t => Sys2Proof.Machine.execBrt i_ t s
  | .call p c o => Sys2Proof.Machine.execCall p c o s
  | .ret => Sys2Proof.Machine.execRet s
  | .callt i_ t => Sys2Proof.Machine.execCallt i_ t s
  | .ubr a b c o => Sys2Proof.Machine.execUbr a b c o s
  | .twist => Sys2Proof.Machine.execTwist s
  | .exit => Sys2Proof.Machine.execExit s
  | .wait l s_ c t x => Sys2Proof.Machine.execWait l s_ c t x s
  | .yield => Sys2Proof.Machine.execYield s
  | .bar n c => Sys2Proof.Machine.execBar n c s
  | .bara n c => Sys2Proof.Machine.execBara n c s
  | .barw n => Sys2Proof.Machine.execBarw n s
  | .sbar l => Sys2Proof.Machine.execSbar l s
  | .fence s_ k c x => Sys2Proof.Machine.execFence s_ k c x s
  | .uld d a i_ => Sys2Proof.Machine.execUld d a i_ s
  | .ust d a i_ => Sys2Proof.Machine.execUst d a i_ s
  | .uown a p => Sys2Proof.Machine.execUown a p s
  | .srdu d i_ => Sys2Proof.Machine.execSrdu d i_ s
  | .swr a i_ => Sys2Proof.Machine.execSwr a i_ s
  | .swrLsmode a => Sys2Proof.Machine.execSwrLsmode a s
  | .swrPcap a => Sys2Proof.Machine.execSwrPcap a s
  | .rgrow a => Sys2Proof.Machine.execRgrow a s
  | .rgtry d a => Sys2Proof.Machine.execRgtry d a s
  | .rshrk a => Sys2Proof.Machine.execRshrk a s
  | .vwbs a => Sys2Proof.Machine.execVwbs a s
  | .copy d a b r e c => Sys2Proof.Machine.execCopy d a b r e c s
  | .copy2d d a b r e c => Sys2Proof.Machine.execCopy2d d a b r e c s
  | .copyp d a b r e c => Sys2Proof.Machine.execCopyp d a b r e c s
  | .trig d a => Sys2Proof.Machine.execTrig d a s
  | .trigCancel d a => Sys2Proof.Machine.execTrigCancel d a s
  | .cntrAdd a c => Sys2Proof.Machine.execCntrAdd a c s
  | .cntrSet a c => Sys2Proof.Machine.execCntrSet a c s
  | .cntrRead d c => Sys2Proof.Machine.execCntrRead d c s
  | .collh a => Sys2Proof.Machine.execCollh a s
  | .collhAbort d => Sys2Proof.Machine.execCollhAbort d s
  | .collhTree d a b c e => Sys2Proof.Machine.execCollhTree d a b c e s
  | .lend d a => Sys2Proof.Machine.execLend d a s
  | .lendShare d a => Sys2Proof.Machine.execLendShare d a s
  | .retn d => Sys2Proof.Machine.execRetn d s
  | .retnRecall d => Sys2Proof.Machine.execRetnRecall d s
  | .retnReclaim d => Sys2Proof.Machine.execRetnReclaim d s
  | .split d => Sys2Proof.Machine.execSplit d s
  | .mend d => Sys2Proof.Machine.execMend d s
  | .tqry d a f => Sys2Proof.Machine.execTqry d a f s
  | .fdom a => Sys2Proof.Machine.execFdom a s
  | .ftot d a f => Sys2Proof.Machine.execFtot d a f s
  | .fdecl d a => Sys2Proof.Machine.execFdecl d a s
  | .fdeclRetire d a => Sys2Proof.Machine.execFdeclRetire d a s
  | .tcfg t f r c => Sys2Proof.Machine.execTcfg t f r c s
  | .tld t a => Sys2Proof.Machine.execTld t a s
  | .tst t a => Sys2Proof.Machine.execTst t a s
  | .macq k => Sys2Proof.Machine.execMacq k s
  | .mrel k => Sys2Proof.Machine.execMrel k s
  | .mma k a b w => Sys2Proof.Machine.execMma k a b w s
  | .mloop k a b w => Sys2Proof.Machine.execMloop k a b w s
  | .amov k a r v => Sys2Proof.Machine.execAmov k a r v s
  | .aqnt k a b c t l f => Sys2Proof.Machine.execAqnt k a b c t l f s
  | .aclr k => Sys2Proof.Machine.execAclr k s
  | .phase => Sys2Proof.Machine.execPhase s
  | .dgstRead d => Sys2Proof.Machine.execDgstRead d s
  | .dgstOn => Sys2Proof.Machine.execDgstOn s
  | .dgstOff => Sys2Proof.Machine.execDgstOff s
  | .dgstClr => Sys2Proof.Machine.execDgstClr s
  | .dgstFold a b => Sys2Proof.Machine.execDgstFold a b s
  | .ordrOff d a => Sys2Proof.Machine.execOrdrOff d a s
  | .ordrRec d a => Sys2Proof.Machine.execOrdrRec d a s
  | .ordrPlay d a => Sys2Proof.Machine.execOrdrPlay d a s
  | .tret => Sys2Proof.Machine.execTret s
  | .hcall n => Sys2Proof.Machine.execHcall n s
  | .hret => Sys2Proof.Machine.execHret s
  | .lnch d a b => Sys2Proof.Machine.execLnch d a b s
  | .sksv d a b => Sys2Proof.Machine.execSksv d a b s
  | .skrs d a b => Sys2Proof.Machine.execSkrs d a b s
  | .tlbi a b => Sys2Proof.Machine.execTlbi a b s
  | .tlbiCtx b => Sys2Proof.Machine.execTlbiCtx b s
  | .tlbiAll => Sys2Proof.Machine.execTlbiAll s
  | .brk n => Sys2Proof.Machine.execBrk n s
  | .halt => Sys2Proof.Machine.execHalt s
  | .cflu a => Sys2Proof.Machine.execCflu a s
  | .cfluInv a => Sys2Proof.Machine.execCfluInv a s
  | .cfluI a => Sys2Proof.Machine.execCfluI a s
  | .msgs d a b q => Sys2Proof.Machine.execMsgs d a b q s
  | .msgr d a b => Sys2Proof.Machine.execMsgr d a b s
  | .msgrTry d a b => Sys2Proof.Machine.execMsgrTry d a b s
  | .gatherPacketAtHome n => Sys2Proof.Machine.execGatherPacketAtHome n s
  | .gatherPacketAtStack n => Sys2Proof.Machine.execGatherPacketAtStack n s
  | .gatherReply n => Sys2Proof.Machine.execGatherReply n s
  | .atomicAtHome n => Sys2Proof.Machine.execAtomicAtHome n s
  | .atomicReply n => Sys2Proof.Machine.execAtomicReply n s
  | .routerCombine n m => Sys2Proof.Machine.execRouterCombine n m s
  | .atmEpochEnd => Sys2Proof.Machine.execAtmEpochEnd s
  | .homeMoveRelease frame => Sys2Proof.Machine.execHomeMoveRelease frame s
  | .grantRequest n => Sys2Proof.Machine.execGrantRequest n s
  | .grantInstall n => Sys2Proof.Machine.execGrantInstall n s
  | .grantRevoke n => Sys2Proof.Machine.execGrantRevoke n s
  | .tokenStateChange n => Sys2Proof.Machine.execTokenStateChange n s
  | .coreFailure core => Sys2Proof.Machine.execCoreFailure core s
  | .xferDebit n => Sys2Proof.Machine.execXferDebit n s
  | .xferCredit n => Sys2Proof.Machine.execXferCredit n s
  | .xferCreditAck n => Sys2Proof.Machine.execXferCreditAck n s
  | .xferCreditRefusal n => Sys2Proof.Machine.execXferCreditRefusal n s
  | .fieldRecordResend package => Sys2Proof.Machine.execFieldRecordResend package s
  | .domainDescriptorCopy msg => Sys2Proof.Machine.execDomainDescriptorCopy msg s
  | .copyChunk n => Sys2Proof.Machine.execCopyChunk n s
  | .copyComplete n => Sys2Proof.Machine.execCopyComplete n s
  | .fabricIngressAccess pkt => Sys2Proof.Machine.execFabricIngressAccess pkt s
  | .fabricRefusal tag cause addr => Sys2Proof.Machine.execFabricRefusal tag cause addr s
  | .triggerEvaluation core => Sys2Proof.Machine.execTriggerEvaluation core s
  | .lsmodeTakesEffect core => Sys2Proof.Machine.execLsmodeTakesEffect core s
  | .ldlfeGranuleFilled sid ply part => Sys2Proof.Machine.execLdlfeGranuleFilled sid ply part s
  | .rgrowGrant core => Sys2Proof.Machine.execRgrowGrant core s
  | .rgrowDeadlockBreak core => Sys2Proof.Machine.execRgrowDeadlockBreak core s
  | .matrixRequestPost sid => Sys2Proof.Machine.execMatrixRequestPost sid s
  | .matrixPassGrant quad => Sys2Proof.Machine.execMatrixPassGrant quad s
  | .mloopStepRetire sid => Sys2Proof.Machine.execMloopStepRetire sid s
  | .matrixRequestComplete sid => Sys2Proof.Machine.execMatrixRequestComplete sid s
  | .collPacketIngress pkt => Sys2Proof.Machine.execCollPacketIngress pkt s
  | .collRetryResend tag package => Sys2Proof.Machine.execCollRetryResend tag package s
  | .skeinPlacement part => Sys2Proof.Machine.execSkeinPlacement part s
  | .placementWaitTimeout part => Sys2Proof.Machine.execPlacementWaitTimeout part s
  | .plySwap core => Sys2Proof.Machine.execPlySwap core s
  | .plyAntiStarvation core => Sys2Proof.Machine.execPlyAntiStarvation core s
  | .powerInterval watts => Sys2Proof.Machine.execPowerInterval watts s
  | .skeinSave sid => Sys2Proof.Machine.execSkeinSave sid s
  | .skeinRestore sid => Sys2Proof.Machine.execSkeinRestore sid s
  | .lateReply n => Sys2Proof.Machine.execLateReply n s
  | .replyLostTimeout n => Sys2Proof.Machine.execReplyLostTimeout n s
  | .saveStopTimeout sid => Sys2Proof.Machine.execSaveStopTimeout sid s
  | .poisonTrap sid ply strand => Sys2Proof.Machine.execPoisonTrap sid ply strand s
  | .prectlReq part w => Sys2Proof.Machine.execPrectlReq part w s
  | .prectlResume part w => Sys2Proof.Machine.execPrectlResume part w s
  | .preemptDeadline part => Sys2Proof.Machine.execPreemptDeadline part s
  | .sliceExpiry part => Sys2Proof.Machine.execSliceExpiry part s
  | .dbgctlHalt part w => Sys2Proof.Machine.execDbgctlHalt part w s
  | .dbgctlRelease part w => Sys2Proof.Machine.execDbgctlRelease part w s
  | .haltStopTimeout part agent => Sys2Proof.Machine.execHaltStopTimeout part agent s
  | .phaseAllCommitted launch => Sys2Proof.Machine.execPhaseAllCommitted launch s
  | .orderGateTimeout n => Sys2Proof.Machine.execOrderGateTimeout n s
  | .shadowLatchRepeat die => Sys2Proof.Machine.execShadowLatchRepeat die s
  | .migbaseWrite die off w => Sys2Proof.Machine.execMigbaseWrite die off w s
  | .migtailWrite die w => Sys2Proof.Machine.execMigtailWrite die w s
  | .migrationDescriptorTake die => Sys2Proof.Machine.execMigrationDescriptorTake die s
  | .migrationMoveDone die => Sys2Proof.Machine.execMigrationMoveDone die s
  | .chretWrite die word w => Sys2Proof.Machine.execChretWrite die word w s
  | .frmoveWrite die w => Sys2Proof.Machine.execFrmoveWrite die w s
  | .movingHoldTimeout n => Sys2Proof.Machine.execMovingHoldTimeout n s
  | .retrycntRead die => Sys2Proof.Machine.execRetrycntRead die s
  | .atmctlWrite w => Sys2Proof.Machine.execAtmctlWrite w s
  | .atmcntRead => Sys2Proof.Machine.execAtmcntRead s
  | .homebaseWrite w => Sys2Proof.Machine.execHomebaseWrite w s
  | .tokbaseWrite part w => Sys2Proof.Machine.execTokbaseWrite part w s
  | .colldropRead part => Sys2Proof.Machine.execColldropRead part s
  | .evlostRead part => Sys2Proof.Machine.execEvlostRead part s
  | .replaysRead die => Sys2Proof.Machine.execReplaysRead die s
  | .mqpushWord0 part q w => Sys2Proof.Machine.execMqpushWord0 part q w s
  | .mqpushWord1 part q w => Sys2Proof.Machine.execMqpushWord1 part q w s
  | .prstReset part w => Sys2Proof.Machine.execPrstReset part w s
  | .partitionResetDone part => Sys2Proof.Machine.execPartitionResetDone part s
  | .pbootWrite part w => Sys2Proof.Machine.execPbootWrite part w s
  | .evctlWrite part w => Sys2Proof.Machine.execEvctlWrite part w s
  | .evheadWrite part w => Sys2Proof.Machine.execEvheadWrite part w s
  | .eventInterruptTimer part => Sys2Proof.Machine.execEventInterruptTimer part s
  | .hostWindowAccess part off acc => Sys2Proof.Machine.execHostWindowAccess part off acc s
  | .channelEvent stack channel failed => Sys2Proof.Machine.execChannelEvent stack channel failed s
  | .keyRelease => Sys2Proof.Machine.execKeyRelease s
  | .spdmMeasurementRequest block => Sys2Proof.Machine.execSpdmMeasurementRequest block s
  | .powerOn cfg => Sys2Proof.Machine.execPowerOn cfg s
  | .portDownTimeout port => Sys2Proof.Machine.execPortDownTimeout port s
  | .packageLost package => Sys2Proof.Machine.execPackageLost package s
  | .flitCrcReplay port => Sys2Proof.Machine.execFlitCrcReplay port s
  | .registerWrite reg w => Sys2Proof.Machine.execRegisterWrite reg w s
  | .copyResendOnRetry tag => Sys2Proof.Machine.execCopyResendOnRetry tag s
  | .collPacketAck tag package ans => Sys2Proof.Machine.execCollPacketAck tag package ans s
  | .powerLoss => Sys2Proof.Machine.execPowerLoss s

end Sys2Proof.Machine
end

