-- ==== Sys2Proof/Machine/Errors.lean ====
section
/-! DEFINITION. Uncorrectable errors: what finding one does to the storage it is found in (01 R11; 04 R81; 14 R261, R265; 15 R283).
Which errors occur, and when, is in the schedule. -/

namespace Sys2Proof.Machine

/-- Marks 8-byte words of memory poisoned. -/
def markBad (s : State) (ws : List Nat) : State := { s with bad := ws.foldl (fun m w => Tbl.set false m w true) s.bad }

/-- A half of a burst in HBM or the tier is found uncorrectable; a line held at its home is not read there (01 R11, R402). -/
def halfError (s : State) (pa : Nat) : State :=
  if populated s pa && !(lineHeld s pa) then markBad s (rangeFrom (pa / 32 * 4) 4) else s

/-- A word of a line held at its home, or of a field frame, whose lines are, is uncorrectable, and is kept poisoned (04 R81). -/
def wordError (s : State) (pa : Nat) : State := if lineHeld s pa || isField s pa then markBad s [pa / 8] else s

/-- A record that can be read in neither slice: its home refunds it as if its package were lost, and reports it (04 R81, 03 R77); a credit
within the package that has not been made is not made any more. (DESIGN CHOICE, log entry 10.) -/
def loseRecord (s : State) (t : Transit) : State :=
  let a := { s with flight := s.flight.filter (fun i => match i with
    | .credit d h r o => !(d == t.dom && h == t.home && r == t.record && o == t.org)
    | .creditRefuse d h r o _ => !(d == t.dom && h == t.home && r == t.record && o == t.org)
    | _ => true) }
  postEvent (refundRecord a t) { part := t.dom / 4096, type := 4, w1 := dw (t.dom % 4096), w2 := 1, w3 := dw t.record.amount }

/-- One copy of a transit record is uncorrectable: the other serves, until the slice repairs it (04 R80, R81). -/
def transitError (s : State) (n : Nat) (mirror : Bool) : State :=
  match s.transits[n]? with
  | none => s
  | some t =>
    let u := if mirror then { t with mirror := false } else { t with own := false }
    let a := { s with transits := s.transits.set n u }
    if u.own || u.mirror then a else loseRecord a u

/-- A slice repairs a copy of a transit record from the other (04 R81). (DESIGN CHOICE, log entry 10.) -/
def repairTransit (s : State) (n : Nat) : State :=
  match s.transits[n]? with
  | none => s
  | some t => { s with transits := s.transits.set n { t with own := true, mirror := true } }

/-- A register of a lane is uncorrectable, and the lane dies (14 R265, 15 R283). -/
def laneError (s : State) (sid ply n lane : Nat) : State :=
  let key := strandKey sid ply n
  let t := getStrand s key
  if t.alive && (getSkein s sid).place == .resident && decide (lane < 4) then setStrand s key (t.kill (laneMask (fun j => j == lane)) t.pc) else s

/-- A W register is uncorrectable, and marked poisoned (14 R265). -/
def uniError (s : State) (sid w : Nat) : State :=
  let k := getSkein s sid
  if k.place == .resident && w != 0 && decide (w < 32) then setSkein s sid { k with wBad := Tbl.set false k.wBad w true } else s

/-- Changes a resident skein. -/
def onResident (s : State) (sid : Nat) (f : Skein → Skein) : State :=
  if (getSkein s sid).place = .resident then setSkein s sid (f (getSkein s sid)) else s

/-- A line of an L1 has a parity error: a clean one is fetched again, and a dirty one is written back poisoned (15 R283). -/
def l1Error (s : State) (core pa : Nat) : State :=
  let hit (l : L1Line) : Bool := l.core == core && l.pa == pa
  let a := { s with l1 := s.l1.map (fun l => if hit l then { l with bad := l.dirty } else l) }
  dropL1 (writeBack a hit) hit

/-- An uncorrectable error is found (15 R283). A word of a control area is fetched again from its HBM, and nothing changes (04 R81).
(DESIGN CHOICE, log entry 10.) -/
def findError (s : State) (e : ErrorAt) : State :=
  match e with
  | .half pa => halfError s pa
  | .word pa => wordError s pa
  | .transit n mirror => transitError s n mirror
  | .repair n => repairTransit s n
  | .control _ => s
  | .laneReg sid ply n lane => laneError s sid ply n lane
  | .uniReg sid w => uniError s sid w
  | .localWord sid w => onResident s sid (fun k => if 4 * w < k.lsSize then { k with lsBad := Tbl.set false k.lsBad w true } else k)
  | .tileWord sid w => onResident s sid (fun k => if w < 1024 * k.tiles then { k with tileBad := Tbl.set false k.tileBad w true } else k)
  | .accWord sid w => onResident s sid (fun k => if w < 4096 * k.accs then { k with accBad := Tbl.set false k.accBad w true } else k)
  | .l1 core pa => l1Error s core pa
  | .image sid => if (getSkein s sid).saving.isSome && (getSkein s sid).place == .resident && skeinDrained s sid then failSave s sid else s

end Sys2Proof.Machine
end

