-- ==== Sys2Proof/Machine/Energy.lean ====
section
/-! DEFINITION. The energy that is charged to the queues of a partition (12 R228): each step charges what its instruction and its events
cost, by fixed coefficients, and the static power of the cycles that have passed; what a queue holds beyond whole microjoules is
carried. (DESIGN CHOICE, log entry 75.) -/

namespace Sys2Proof.Machine

/-! ## Charges -/

/-- A charge to the queue of a launch: the core that caused it, the skein by its number, and how much. -/
structure Charge where
  core : Nat
  sid : Nat
  amount : Nat
  deriving DecidableEq, Repr

/-- The least common multiple of 1 to 64, into which a unit of energy is cut, so that the static power of a core divides by its resident
plies with nothing left. -/
def shareUnits : Nat := (rangeFrom 1 64).foldl Nat.lcm 1

/-- A count of microjoules after a charge: it never decreases (16 R292). -/
def chargeTo (n : DWord) (c : Nat) : DWord := dw (min (n.toNat + c) (2 ^ 64 - 1))

/-- A queue is charged `n` shares of a unit: whole microjoules count, and the rest is carried (12 R228). -/
def Partition.charge (x : Partition) (q n : Nat) : Partition :=
  let d := (Config.energyUnits + 1) * shareUnits
  let f := Tbl.get 0 x.energyFrac q + n
  { x with energy := Tbl.set 0 x.energy q (chargeTo (Tbl.get 0 x.energy q) (f / d)), energyFrac := Tbl.set 0 x.energyFrac q (f % d) }

/-- The queue of a skein's launch. -/
def queueOfSkein (s : State) (sid : Nat) : Nat := Tbl.get 0 s.launchQueue (sid / 0x1000000000000)

/-- Charges a queue of a partition, if there is such a partition. -/
def chargeQueue (ps : Tbl Partition) (p q n : Nat) : Tbl Partition :=
  let x := Tbl.get Partition.reset ps p
  if x.present then Tbl.set Partition.reset ps p (x.charge q n) else ps

/-- Charges of some units are made. -/
def chargeAll (s : State) (cs : List Charge) (ps : Tbl Partition) : Tbl Partition :=
  cs.foldl (fun ps c => if c.core < 192 then chargeQueue ps (partOf s c.core) (queueOfSkein s c.sid) (c.amount * shareUnits) else ps) ps

/-- `n` events of a kind. -/
def eventCharge (core sid : Nat) (k : EnergyEvent) (n : Nat) : List Charge :=
  if n = 0 then [] else [{ core := core, sid := sid, amount := n * Config.eventEnergy k }]

/-! ## What an instruction costs -/

/-- The passes of a local-store instruction whose lanes access `size` bytes at some offsets: the largest number of distinct words of one
bank (06 R112, R113). -/
def storePasses (size : Nat) (offs : List Nat) : Nat :=
  let ws := (offs.flatMap (fun o => rangeFrom (o / 4) ((o + size - 1) / 4 + 1 - o / 4))).eraseDups
  (List.range 32).foldl (fun m b => max m (ws.filter (fun w => w % 32 == b)).length) 0

/-- The passes of an instruction, about to issue. -/
def passesOf (s : State) (i : Instr) : Nat :=
  let of_ (g : Guard) (wb : BitVec 4) (a : BitVec 6) (size : Nat) : Nat := storePasses size ((lsLanes s g wb a).map (fun l => l.2.toNat))
  match i with
  | .ldl g _ a wb sz => of_ g wb a (sizeOf sz)
  | .stl g _ a wb sz => of_ g wb a (sizeOf sz)
  | .ldlfe g _ a wb _ sz => of_ g wb a (sizeOf sz)
  | .stlfe g _ a wb sz => of_ g wb a (sizeOf sz)
  | .atoml g _ a wb _ => of_ g wb a 4
  | _ => 0

/-- Whether the issuing group of `s` has issued its instruction in the step to `t`: it has gone on, has trapped, or waits for an event;
one that stalls issues it again. -/
def hasIssued (s t : State) : Bool :=
  (grp s).any (fun n =>
    let x := curStrand s n
    let y := getStrand t (curKey s n)
    y.wait == .none || y.wait.sleeps || y.pc != x.pc)

/-- The class of an instruction word, with the word behind an XW. -/
def wordClass (w f : Word) : Nat := if opByte w = 0x7F then 256 + opByte f else opByte w

/-- What the instruction of the words `w` and `f`, which the issuing group of `s` has taken to `t`, is charged. -/
def issueCharges (s : State) (w f : Word) (t : State) : List Charge :=
  if hasIssued s t then
    { core := curCore s, sid := s.cur.sid, amount := Config.issueEnergy (wordClass w f) } ::
      (match decodeWords w f with
        | .ok i => eventCharge (curCore s) s.cur.sid .storePass (passesOf s i)
        | .error _ => [])
  else []

/-- The state after an instruction, with its energy charged. -/
def chargeIssue (s : State) (w f : Word) (t : State) : State := { t with parts := chargeAll s (issueCharges s w f t) t.parts }

/-! ## What the events of a step cost -/

/-- The passes that the matrix engines have granted a skein in a step (10 R183). -/
def grantCharges (s t : State) : List Charge :=
  t.skeins.flatMap (fun e =>
    let n (k : Skein) : Nat := (k.queue.filter (fun r => r.stage == .granted)).length
    eventCharge e.2.core e.1 .matrixPass (n e.2 - n (getSkein s e.1)))

/-- The bytes that a copy has moved from `c` to `d`; a chunk for another package counts as it is sent. -/
def Copy.moved (c d : Copy) : Nat :=
  if c.state = .sent then 0 else if d.state = .sent then d.chunk else d.progress - c.progress

/-- The lines at their homes that a copy reads and writes to move `n` bytes. -/
def Copy.lines (c : Copy) (n : Nat) : Nat :=
  let as := if c.kind = .tree then c.slots ++ [c.dst + dw c.progress] else [c.here_.1, c.here_.2]
  if n = 0 then 0
  else ((as.filter (fun a => spaceOf a == 0)).map (fun a => (a.toNat + n - 1) / 64 + 1 - a.toNat / 64)).sum

/-- The bytes that the copies have moved, and their accesses to homes. -/
def copyCharges (s t : State) : List Charge :=
  s.copies.flatMap (fun c => match t.copies.find? (fun d => d.seq == c.seq) with
    | some d => eventCharge c.core c.sid .copiedByte (c.moved d) ++ eventCharge c.core c.sid .mereAccess (c.lines (c.moved d))
    | none => [])

/-- The lane accesses that an item still has to make: who made each, its lane, and its address. -/
def Item.toMake : Item → List (Origin × Nat × Nat)
  | .gatherHome p => p.lanes.map (fun l => (p.org, l.lane, l.pa))
  | .gatherStack p => p.lanes.map (fun l => (p.org, l.lane, l.pa))
  | .atomic r => r.lanes.map (fun l => (l.org, l.lane, r.pa))
  | _ => []

/-- Whether an item stands at the stack. -/
def Item.atStack : Item → Bool
  | .gatherStack _ => true
  | _ => false

/-- The accesses that the homes and the stacks have made, and the bursts of HBM: each line that a stack has read or written for lanes,
and each line that a home has fetched for the request it has served. -/
def accessCharges (s t : State) : List Charge :=
  let left := t.flight.flatMap Item.toMake
  let made (i : Item) : List (Origin × Nat × Nat) := i.toMake.filter (fun e => !(left.contains e))
  let one (k : EnergyEvent) (e : Origin × Nat × Nat) : List Charge := eventCharge e.1.core e.1.sid k 1
  let home := (s.flight.filter (fun i => !i.atStack)).flatMap made
  let stack := (s.flight.filter Item.atStack).flatMap made
  let lines := (stack.map (fun e => (e.1.core, e.1.sid, e.2.2 / 64))).eraseDups
  let fetched := (t.mere.filter (fun e => !(Tbl.get false s.mere e.1))).length
  home.flatMap (one .mereAccess) ++ lines.flatMap (fun l => eventCharge l.1 l.2.1 .hbmBurst 1) ++
    (match home with
      | e :: _ => eventCharge e.1.core e.1.sid .hbmBurst fetched
      | [] => [])

/-- The flits of a packet: its header, and its data in pieces of 64 bytes (11 R196). -/
def flitsOf (bytes : Nat) : Nat := 1 + (bytes + 63) / 64

/-- The core and the skein that a packet with a tag is sent for. -/
def senderOf (s : State) (tag : Nat) : Option (Nat × Nat) :=
  ((s.copies.find? (fun c => c.ask == tag)).map (fun c => (c.core, c.sid))) <|>
    s.flight.findSome? (fun i => match i with
      | .debit x => if x.org.tag * 32 + x.lane = tag then some (x.org.core, x.org.sid) else none
      | .fieldAsk o l _ _ _ _ _ => if o.tag * 32 + l.lane = tag then some (o.core, o.sid) else none
      | .totalAsk g sid _ _ _ _ _ => if g * 32 = tag then some ((getSkein s sid).core, sid) else none
      | _ => none)

/-- The core and the skein that cause what the package sends, if one does, and its flits. -/
def flitCharge (t : State) (o : FabricOut) : List Charge :=
  let of_ (x : Option (Nat × Nat)) (n : Nat) : List Charge := ((x.map (fun e => eventCharge e.1 e.2 .flit n)).getD [])
  match o with
  | .packet _ p =>
    match p.body with
    | .put _ bytes _ _ _ _ => of_ ((t.copies.find? (fun c => c.seq == p.tag / 2 ^ 32)).map (fun c => (c.core, c.sid))) (flitsOf bytes.length)
    | .fieldCredit h r => of_ ((t.transits.find? (fun x => x.home == h && x.record == r)).map (fun x => (x.org.core, x.org.sid))) (flitsOf 64)
    | .fieldRead _ _ => of_ (senderOf t p.tag) (flitsOf 0)
    | .fieldDebit _ _ => of_ (senderOf t p.tag) (flitsOf 64)
    | .fieldTotals _ => of_ (senderOf t p.tag) (flitsOf 0)
    | _ => []
  | .coll _ p => of_ ((t.collWaits.find? (fun c => c.tag == p.tag)).map (fun c => ((getSkein t c.sid).core, c.sid))) (flitsOf (8 * p.elems.length))
  | _ => []

/-- The flits that the package has sent in a step. -/
def flitCharges (s t : State) : List Charge := (t.fabricOut.drop s.fabricOut.length).flatMap (flitCharge t)

/-! ## Static power -/

/-- The static power of a core over `n` cycles: to the queues of its resident skeins, in proportion to their plies, or to queue 0 with
none (12 R228). -/
def chargeStatic (s : State) (n : Nat) (ps : Tbl Partition) (core : Nat) : Tbl Partition :=
  let all := pliesOn s core
  if all = 0 then chargeQueue ps (partOf s core) 0 (n * Config.staticEnergy * shareUnits)
  else (residentOn s core).foldl (fun ps sid =>
    chargeQueue ps (partOf s core) (queueOfSkein s sid) (n * Config.staticEnergy * (getSkein s sid).plies * (shareUnits / all))) ps

/-- What the events of a step from `s` to `t` cost. -/
def stepCharges (s t : State) : List Charge := grantCharges s t ++ copyCharges s t ++ accessCharges s t ++ flitCharges s t

/-- The partitions after a step from `s` to `t`, with the energy of its events and of the cycles that have passed charged. -/
def chargedParts (s t : State) : Tbl Partition :=
  let ps := chargeAll s (stepCharges s t) t.parts
  (List.range 192).foldl (chargeStatic s (t.cycle - s.cycle).toNat) ps

/-- The package after a step, its energy charged. -/
def account (s t : State) : State := { t with parts := if s.powered && t.powered then chargedParts s t else t.parts }

/-- Changes the next state of an outcome. -/
def onNext (f : State → State) (o : Host.Outcome State Fault Refusal) : Host.Outcome State Fault Refusal :=
  match o with
  | .next s => .next (f s)
  | .fault r => .fault r
  | .refused r => .refused r

end Sys2Proof.Machine
end

