-- ==== Sys2Proof/Machine/Schedule.lean ====
section
/-! DEFINITION. What the package does next: the groups that may issue, in their order (12 R214, R223), the events that may be due, and
what must come before everything else. The order among agents, which the spec leaves open, is in `agenda`. -/

namespace Sys2Proof.Machine

/-! ## Which groups may issue -/

/-- Whether a group of a skein that is being saved goes on with an instruction that the save lets complete (10 R193, 22 R372). -/
def completes (s : State) (g : Group) : Bool :=
  let n := g.strands.headD 0
  (getStrand s (strandKey g.sid g.ply n)).wait.begun || matBegun s g.sid g.ply n

/-- Whether a group may issue: its skein is resident, not held, and being saved only as far as an instruction in progress needs it, its
ply active, its core at work, and it waits for nothing that another agent brings. (DESIGN CHOICE, log entry 12; DEDUCED, log entry 50.) -/
def mayIssue (s : State) (g : Group) : Bool :=
  let k := getSkein s g.sid
  let x := getPart s k.part
  s.keys && k.place == .resident && ((k.saving.isNone && !(dbgHeld s k)) || completes s g) && Tbl.get false k.active g.ply &&
    !(getCore s k.core).failed && !(x.halted && x.stopWritten.contains k.core) && !(serialBars s k.part g.sid) && !(g.strands.isEmpty) &&
    (partsOf k g.ply).contains g.strands && !((getStrand s (strandKey g.sid g.ply (g.strands.headD 0))).wait.sleeps)

/-- The parts of a ply in the order of their turns: round, by each part's lowest strand (12 R214). -/
def turnsOf (s : State) (sid ply : Nat) : List Group :=
  let k := getSkein s sid
  let n := Tbl.get 0 k.turn ply
  let ps := partsOf k ply
  (ps.filter (fun p => decide (n ≤ p.headD 0)) ++ ps.filter (fun p => decide (p.headD 0 < n))).map (fun p => { sid := sid, ply := ply, strands := p })

/-- Whether a group stands behind a YIELD, and so may be passed over (21 R362). -/
def yields (s : State) (g : Group) : Bool := (getStrand s (strandKey g.sid g.ply (g.strands.headD 0))).wait == .yielded

/-- The parts of a group's ply whose turn comes before its own, and which may issue. -/
def turnsBefore (s : State) (g : Group) : List Group :=
  ((turnsOf s g.sid g.ply).takeWhile (fun x => x != g)).filter (fun x => mayIssue s x && !(yields s x))

/-- A group takes its ply's turn: the next part comes behind it. -/
def takesTurn (s : State) (g : Group) : State :=
  let k := getSkein s g.sid
  let a := { s with cur := g }
  if (partsOf k g.ply).length < 2 then a
  else setSkein a g.sid { k with turn := Tbl.set 0 k.turn g.ply (g.strands.headD 0 + 1) }

/-- The plies of a core in order of priority and age, and then of number (12 R223). -/
def pliesByAge (s : State) (core : Nat) : List (Nat × Nat) :=
  (sortBy (goesBefore s) (residentOn s core)).flatMap (fun sid => (List.range (getSkein s sid).plies).map (fun p => (sid, p)))

/-- The cores with a resident skein. -/
def busyCores (s : State) : List Nat :=
  ((s.skeins.filter (fun e => e.2.place == .resident)).map (fun e => e.2.core)).eraseDups

/-- The plies of the package, core by core, as a round goes through them. -/
def roundOf (s : State) : List (Nat × Nat) := (busyCores s).flatMap (pliesByAge s)

/-- The part of a ply that issues next. -/
def nextPart (s : State) (e : Nat × Nat) : Option Group := (turnsOf s e.1 e.2).find? (mayIssue s)

/-- What is left of the round behind the ply that has issued last. -/
def roundLeft (s : State) : List (Nat × Nat) :=
  let here_ := (s.cur.sid, s.cur.ply)
  let r := roundOf s
  if s.cur.strands.isEmpty || !(r.contains here_) then r else (r.dropWhile (fun e => e != here_)).drop 1

/-- The cores on which a ply waits for a slot. -/
def pendingCores (s : State) : List Nat :=
  ((s.skeins.filter (fun e => e.2.place == .resident && (List.range e.2.plies).any (fun p => !(Tbl.get false e.2.active p)))).map
    (fun e => e.2.core)).eraseDups

/-! ## What must come next, and what is due -/

/-- What happens before anything else: a trigger unit evaluates in the cycle of a counter's change (05 R107), and a strand
with newly dead lanes, or with a DGST.FOLD that read poison, traps at its boundary (14 R265, 15 R276). (DESIGN CHOICE, log entry 12; DEDUCED, log entry 17.) -/
def mustCome (s : State) : Option Instr :=
  match s.evalPending with
  | c :: _ => some (.triggerEvaluation c)
  | [] =>
    (s.strands.find? (fun e => poisonDue s (e.1 / 128) e.2 && !((getPart s (getSkein s (e.1 / 128)).part).halted))).map
      (fun e => .poisonTrap (e.1 / 128) (e.1 / 8 % 16) (e.1 % 8))

/-- A strand whose lanes are all dead, and which has still to stop (14 R266). -/
def mustSettle (s : State) : Option Nat :=
  (s.strands.find? (fun e => e.2.dead == 0xF && deadWaits s (e.1 / 128) (e.1 / 8 % 16) (e.1 % 8))).map (fun e => e.1)

/-- The agent of a halted partition that stops next (14 R267). -/
def stopNext (s : State) : Option (Nat × Nat) :=
  (List.range 8).findSome? (fun p =>
    if (getPart s p).halted then
      ((agentsOf s p).find? (fun i => !((getPart s p).stopWritten.contains i))).map (fun i => (p, i))
    else none)

/-- The events that may take an item in flight. -/
def itemEvents (n : Nat) (i : Item) : List Instr :=
  match i with
  | .gatherHome _ => [.gatherPacketAtHome n]
  | .gatherStack _ => [.gatherPacketAtStack n]
  | .gatherReply _ _ => [.gatherReply n, .lateReply n]
  | .atomic _ => [.atomicAtHome n]
  | .atomReply _ _ => [.atomicReply n, .lateReply n]
  | .grantAsk _ _ _ _ _ _ _ _ => [.grantRequest n]
  | .grantGive _ _ => [.grantInstall n]
  | .revoke _ _ _ _ _ => [.grantRevoke n]
  | .tokenOp _ _ _ _ _ _ _ _ _ => [.tokenStateChange n]
  | .debit _ => [.xferDebit n]
  | .credit _ _ _ _ => [.xferCredit n]
  | .creditAck _ _ _ _ => [.xferCreditAck n]
  | .creditRefuse _ _ _ _ _ => [.xferCreditRefusal n]
  | .fieldAsk _ _ _ _ _ _ _ => [.gatherPacketAtHome n]
  | .totalAsk _ _ _ _ _ _ _ => []
  | .fence _ => []
  | .half _ => []

/-- The event that takes a held access again. -/
def heldEvent (h : Held) : Instr :=
  match h.body with
  | .put pkt => .fabricIngressAccess pkt
  | .coll pkt => .collPacketIngress pkt
  | .host part off bytes => .hostWindowAccess part off (.write bytes)

/-- A FENCE whose order holds is gone before anything else happens (13 R237 to R239). -/
def fencesDue (s : State) : Option State :=
  if s.flight.any (fun i => match i with
    | .fence _ => true
    | _ => false) then
    (if (settleFences s).flight = s.flight then none else some (settleFences s))
  else none

/-- The events of a resident skein's engine queue, chain, save and RGROW. -/
def skeinEvents (e : Nat × Skein) : List Instr :=
  (if e.2.queue.isEmpty && !e.2.chain.active then []
    else [.matrixRequestPost e.1, .matrixPassGrant (e.2.core / 4), .mloopStepRetire e.1, .matrixRequestComplete e.1]) ++
  (if e.2.saving.isSome then [.skeinSave e.1] else [])

/-- The cores with a strand blocked in RGROW. -/
def growCores (s : State) : List Nat :=
  ((s.strands.filter (fun e => match e.2.wait with
    | .grow _ => true
    | _ => false)).map (fun e => (getSkein s (e.1 / 128)).core)).eraseDups

/-- The partitions whose scheduler has something to place. -/
def waitingParts (s : State) : List Nat :=
  ((s.launches.filter (fun l => decide (l.placed < l.total))).map (fun l => l.part) ++
    (s.skeins.filter (fun e => e.2.place == .saved)).map (fun e => e.2.part)).eraseDups

/-- The events of one partition's registers. -/
def partEvents (e : Nat × Partition) : List Instr :=
  (if e.2.pbootWait then [.pbootWrite e.1 e.2.pbootRec] else []) ++ (if e.2.preState = 2 then [.preemptDeadline e.1] else [])

/-- The partitions whose pre-emption has nothing left to drain. -/
def fullyDrained (s : State) : List Nat :=
  (s.parts.filter (fun e => e.2.preState == 1 && (preTargets s e.1 e.2.preTarget).isEmpty)).map (fun e => e.1)

/-- Events that may be due: each is tried, in this order, and the first that changes the state is the step. (DESIGN CHOICE, log entries 12 and 52.) -/
def dueEvents (s : State) : List Instr :=
  s.flight.zipIdx.flatMap (fun e => itemEvents e.2 e.1) ++
  s.copies.zipIdx.flatMap (fun e => if e.1.state = .running then [.copyChunk e.2, .copyComplete e.2] else []) ++
  s.heldPkts.map heldEvent ++
  s.collWaits.flatMap (fun c => (c.peers.filter s.lostPkgs.contains).map (fun q => .collPacketAck c.tag q (.refused 9 0))) ++
  s.homeMoves.map (fun m => .homeMoveRelease m.1) ++
  (s.cores.filter (fun e => e.2.pend.isSome)).map (fun e => .lsmodeTakesEffect e.1) ++
  (s.skeins.filter (fun e => e.2.place == .resident)).flatMap skeinEvents ++
  (growCores s).flatMap (fun c => [.rgrowGrant c, .rgrowDeadlockBreak c]) ++
  (s.launches.filter Launch.det).map (fun l => .phaseAllCommitted l.num) ++
  (waitingParts s).map .skeinPlacement ++ s.parts.flatMap partEvents ++ (fullyDrained s).map .preemptDeadline ++
  (if s.io0.migBusy then [.migrationMoveDone 0] else if s.io0.runs then [.migrationDescriptorTake 0] else []) ++
  (if s.io1.migBusy then [.migrationMoveDone 1] else if s.io1.runs then [.migrationDescriptorTake 1] else [])

/-- The first half of a 16-byte access that is left to be done in flight (20 R336). -/
def halfDue (s : State) : Option Nat :=
  let n := s.flight.findIdx (fun i => match i with
    | .half _ => true
    | _ => false)
  if n < s.flight.length then some n else none

/-! ## The schedule -/

/-- A cache line is given up: its dirty bytes are written back first (02 R55). (DESIGN CHOICE, log entry 15.) -/
def evict (s : State) (core pa : Nat) : State :=
  let f (l : L1Line) : Bool := l.core == core && l.pa == pa
  dropL1 (writeBack s f) f

/-- Whether a constructor is an event of the package, and no instruction word. (DESIGN CHOICE, log entry 52.) -/
def isEvent (i : Instr) : Bool := (encode i).isEmpty

/-- A cached translation is given up. -/
def evictPage (s : State) (core ctx base : Nat) : State :=
  { s with tlb := s.tlb.filter (fun e => !(e.core == core && e.ctx == ctx && e.base == base)) }

/-- A word of an instruction cache is given up. -/
def evictWord (s : State) (core va : Nat) : State := { s with icache := s.icache.filter (fun l => !(l.core == core && l.va == va)) }

/-- An agent of a halted partition stops, if it has not yet (14 R267). -/
def stopAgent (s : State) (p i : Nat) : State :=
  let x := getPart s p
  if x.halted && (agentsOf s p).contains i && !(x.stopWritten.contains i) then stopRecord s p i true else s

end Sys2Proof.Machine
end

