-- ==== Sys2Proof/Machine/Turn.lean ====
section
/-! DEFINITION. What one step of the package does: what must come next comes first, then the schedule that the state holds, then
work that is due, and otherwise the next issuing group fetches, decodes and executes one instruction (08 R136). The order among
agents, which the spec leaves open, is in `agenda`. -/

namespace Sys2Proof.Machine

/-! ## Fetching and executing -/

/-- Executes the fetched words. -/
def runWords (w f : Word) (s : State) : Host.Outcome State Fault Refusal :=
  onNext (chargeIssue s w f) (match decodeWords w f with
    | .ok i => exec i s
    | .error _ => .next (undecoded s w f))

/-- A group issues: it fetches its word, and the next one when that is XW. -/
def issue (s : State) (g : Group) : Host.Outcome State Fault Refusal :=
  let s := takesTurn s g
  let pc := (curPc s).toNat
  let r := fetchAt s (curSkein s) (curMode s) pc
  match r.1 with
  | .bad c e => .next (fetchFail r.2.2 pc c e)
  | .ok _ =>
    if opByte r.2.1 = 0x7F then
      let q := fetchAt r.2.2 (curSkein r.2.2) (curMode r.2.2) (pc + 4)
      match q.1 with
      | .bad c e => .next (fetchFail q.2.2 (pc + 4) c e)
      | .ok _ => runWords r.2.1 q.2.1 q.2.2
    else runWords r.2.1 0 r.2.2

/-! ## The schedule -/

/-- The state after an event that changes the state. -/
def changed (s : State) (i : Instr) : Option State :=
  match exec i s with
  | .next t => if t = s then none else some t
  | _ => none

/-- Whether a group cannot issue now: it would only wait on (12 R214). -/
def cannotIssue (s : State) (g : Group) : Bool :=
  match issue s g with
  | .next t => !(hasIssued { s with cur := g } t)
  | _ => false

/-- Whether it is a group's turn: it may issue, and every part of its ply that comes before it cannot (12 R214). -/
def itsTurn (s : State) (g : Group) : Bool := mayIssue s g && (turnsBefore s g).all (cannotIssue s)

/-- One entry of the schedule. (DESIGN CHOICE, log entries 12 and 16 and 52.) -/
def takeTurn (t : Turn) (s : State) : Host.Outcome State Fault Refusal :=
  match t with
  | .issue g => if itsTurn s g then issue s g else .next (tick s)
  | .event i =>
    if isEvent i then
      match exec i s with
      | .next a => .next (tick a)
      | o => o
    else .next (tick s)
  | .evictL1 core pa => .next (tick (evict s core pa))
  | .evictTlb core ctx base => .next (tick (evictPage s core ctx base))
  | .evictI core va => .next (tick (evictWord s core va))
  | .evictHome line => .next (tick (dropLine s line))
  | .settle sid ply n => .next (tick (if deadWaits s sid ply n then settleDead s sid ply n else s))
  | .stopAgent p i => .next (tick (stopAgent s p i))
  | .error e => .next (tick (findError s e))
  | .monitor h => .next (tick (monitor s h))
  | .configure cs => .next (tick (configure s cs))
  | .half n => .next (tick (finishHalf s n))
  | .upper on => .next (tick { s with upper := on })
  | .lag sid ply on => .next (tick (lagPly s sid ply on))
  | .see sid ply reg => .next (tick (seeW s sid ply reg))

/-- With nothing else to do, the groups issue in turn; at the end of a round, plies that wait for a slot may take one. (DESIGN CHOICE, log entry 12.) -/
def nextIssue (s : State) : Host.Outcome State Fault Refusal :=
  match (roundLeft s).findSome? (nextPart s) with
  | some g => issue s g
  | none =>
    match pendingCores s, (roundOf s).findSome? (nextPart s) with
    | [], some g => issue s g
    | [], none => .next (tick s)
    | cs, _ => .next (tick { s with cur := { sid := 0, ply := 0, strands := [] }, agenda := cs.map (fun c => .event (.plySwap c)) })

/-- What the package does when the schedule is empty. (DESIGN CHOICE, log entry 12.) -/
def proceed (s : State) : Host.Outcome State Fault Refusal :=
  match stopNext s with
  | some x => .next (tick (stopRecord s x.1 x.2 true))
  | none =>
    match halfDue s with
    | some n => .next (tick (finishHalf s n))
    | none =>
      match (dueEvents s).findSome? (changed s) with
      | some t => .next (tick t)
      | none => nextIssue s

/-- A package without power takes POWER_ON, and nothing else. (DEDUCED, log entry 44.) -/
def unpowered (s : State) : Host.Outcome State Fault Refusal :=
  match s.agenda with
  | .event i :: rest =>
    match i with
    | .powerOn _ => exec i { s with agenda := rest }
    | _ => .next { s with agenda := rest }
  | _ :: rest => .next { s with agenda := rest }
  | [] => .next s

/-- One step of a package with power, before its energy is charged. -/
def act (s : State) : Host.Outcome State Fault Refusal :=
  match mustCome s with
  | some i => exec i s
  | none =>
    match mustSettle s with
    | some key => .next (settleDead s (key / 128) (key / 8 % 16) (key % 8))
    | none =>
      match fencesDue s with
      | some t => .next t
      | none =>
        match s.agenda with
        | t :: rest => takeTurn t { s with agenda := rest }
        | [] => proceed s

end Sys2Proof.Machine
end

