-- ==== Sys2Proof/Machine/Step.lean ====
section
/-! DEFINITION. One step of the package, its energy charged (12 R228), and the state in which a given instruction word is the next that is
fetched. -/

namespace Sys2Proof.Machine

/-- One step. -/
def step (s : State) : Host.Outcome State Fault Refusal :=
  match s.badPa with
  | some pa => .fault (.unpopulated pa)
  | none => if !s.powered then unpowered s else onNext (account s) (act s)

/-! ## An instruction placed for the next step -/

/-- Partition 0 as the placed instruction runs in it: granule 0, every HBM channel of stack 0, context descriptors at 0. (DESIGN CHOICE, log entry 7.) -/
def fetchPart : Partition := { Partition.reset with present := true, gran := 1, chans := 2 ^ 256 - 1 }

/-- The launch that the placed instruction belongs to: one skein, one ply, one strand, 64 registers, supervisor. (DESIGN CHOICE, log entry 7.) -/
def fetchLaunch : Launch :=
  { num := 0, part := 0, ctx := 0, tag := 0, words := [0x10000, 0x100010001, 64, 0, 0x100000, 0, 0, 0], winit := [], evec := 0, hvec := 0,
    met := true, placed := 1, exited := 0, starved := false, dispatcher := false, bound := none, handle := 0, phase := 0, run := 0,
    block := [], reset := false }

/-- Its skein, on core 0. (DESIGN CHOICE, log entry 7.) -/
def fetchSkein : Skein :=
  { Skein.reset with place := .resident, plies := 1, strands := 1, nreg := 64, tiles := 8, accs := 8, parts := [(0, [[0]])],
                     active := [(0, true)] }

/-- Its strand, at the address the word stands at. (DESIGN CHOICE, log entry 7.) -/
def fetchStrand : Strand :=
  { Strand.reset with live := true, pc := 0x10000, masks := [0xF], mode := .supervisor }

/-- The translation of that address: frame 1, readable and executable. (DESIGN CHOICE, log entry 7.) -/
def fetchTlb : TlbEntry := { core := 0, part := 0, ctx := 0, base := 0x10000, k := 16, leaf := 0x1000B, dies := [(1, 0)] }

/-- The state with an instruction of the table stored where the next step fetches it: a skein is resident on core 0 with
its PC at the word, its context is valid, and nothing else is at work. (DESIGN CHOICE, log entry 7.) -/
def State.withFetchWord (s : State) (nbits w : Nat) : State :=
  let a : State :=
    { s with powered := true, keys := true, badPa := none, agenda := [], flight := [], copies := [], triggers := [], evalPending := [],
             heldPkts := [], collWaits := [], homeMoves := [], moving := [], cores := [], icache := [], tlb := [fetchTlb],
             io0 := { s.io0 with migBusy := false, migSize := 0 }, io1 := { s.io1 with migBusy := false, migSize := 0 },
             parts := [(0, fetchPart)], launches := [fetchLaunch], skeins := [(0, fetchSkein)], strands := [(0, fetchStrand)],
             cur := { sid := 0, ply := 0, strands := [] } }
  putBytes (putBytes a 0 (natToBytes 1 64)) 0x10000 (natToBytes (w % 2 ^ nbits) 8)

end Sys2Proof.Machine
end

