-- ==== Sys2Proof/Safety.lean ====
section
/-! DEFINITION. What counts as a safe state and a safe step: the canonical form of memory, aligned PCs, a machine that never
stops but where a register names an address that does not exist; and the words in which statements are made. -/

namespace Sys2Proof.Machine

/-- Memory, its poison and the lines at their homes are in canonical form: keys rise, and no entry holds what an unlisted
key reads as. -/
def memOk (s : State) : Bool := Memory.wf s.mem && Tbl.wf false s.bad && Tbl.wf false s.mere

/-- Every strand's PC is a multiple of 4 (08 R135). -/
def pcsAligned (s : State) : Prop := ∀ key, (getStrand s key).pc.toNat % 4 = 0

/-- A step that goes on. -/
def goesOn (s : State) : Prop := ∃ t, step s = .next t

/-- An answer with a next state that has a property. -/
def answers (o : Host.Outcome State Fault Refusal) (p : State → Prop) : Prop := ∃ t, o = .next t ∧ p t

/-! ## When a word may run, and what it then does -/

/-- Every strand of the group can run a lane-set word (08 R136): one with a live lane has at least the mode `need` and each
operand's registers in range; in its active lanes under the guard, no register that the word writes (`dst`) or reads (`src`)
is still to be written by a reply, and none that it reads is marked lost. -/
def laneFree (s : State) (g : Guard) (need : Mode) (dst src : List (List Nat)) : Prop :=
  ∀ n ∈ grp s, let t := curStrand s n
    (t.liveLanes ≠ 0 → t.mode.reaches need = true ∧ ∀ vs ∈ dst ++ src, t.allowed (curSkein s).nreg vs = true) ∧
      (∀ vs ∈ dst, t.awaits vs (t.active g) = false) ∧ ∀ vs ∈ src, t.awaits vs (t.active g) = false ∧ t.lostLanes vs (t.active g) = 0

/-- In S and H mode the block of each operand of an XW stays on one side of V15 and V16 (07 R120). -/
def blocksUnsplit (s : State) (ops : List (List Nat)) : Prop :=
  ∀ n ∈ grp s, (curStrand s n).liveLanes ≠ 0 → ∀ vs ∈ ops, (curStrand s n).unsplit vs = true

/-- The registers that the group's active lanes read in other lanes (19 R317): V`v` is in range, and in lane `l` of the ply,
where that lane supplies it, no reply is still to write it and it is not lost. -/
def farFree (s : State) (g : Guard) (v : Nat) (l : Nat → Option Nat) : Prop :=
  (∀ n ∈ grp s, (curStrand s n).liveLanes ≠ 0 → (curStrand s n).allowed (curSkein s).nreg [v] = true) ∧
    ∀ j ∈ (activeLanes s g).filterMap l, supplies s j = true → let t := curStrand s (j / 4)
      t.awaits [v] (laneMask (fun k => k == j % 4)) = false ∧ t.lostLanes [v] (laneMask (fun k => k == j % 4)) = 0

/-- RDI and WRI need no reply outstanding on a strand with an active lane, and an index in range in each (19 R334). -/
def rdiReady (s : State) (g : Guard) (a : Nat) : Prop :=
  ∀ n ∈ grp s, (curStrand s n).active g ≠ 0 → (curStrand s n).replies = [] ∧
    ∀ j < 4, ((curStrand s n).active g).getLsbD j = true → ((curStrand s n).v a j).toNat < (curSkein s).nreg - (curStrand s n).vwb

/-- The group can run a uniform-set word: each strand's mode reaches `need`, no W register that it reads is poisoned, the
ply is the writer of those that it writes (08 R136, 07 R127), and no ULD has still to write one of them (20 R346). -/
def uniFree (s : State) (need : Mode) (reads writes : List Nat) : Prop :=
  (∀ n ∈ grp s, (curStrand s n).mode.reaches need = true) ∧ (∀ w ∈ reads, w = 0 ∨ Tbl.get false (curSkein s).wBad w = false) ∧
    (∀ w ∈ writes, (curSkein s).mayWrite s.cur.ply w = true) ∧ ∀ w ∈ reads ++ writes, wAwaited s w = false

/-- The words at some addresses, fetched one after another for the issuing group, with the state that the fetches leave; none
where one of them fails its check (21 R357). -/
def fetched : List Nat → State → Option (List Word × State)
  | [], s => some ([], s)
  | va :: t, s =>
    match fetchAt s (curSkein s) (curMode s) va with
    | (.ok _, w, a) => (fetched t a).map (fun x => (w :: x.1, x.2))
    | _ => none

/-- The uniform base register of a lane-set word is not poisoned (14 R265) and no ULD has still to write it (20 R346), or no
lane uses it. -/
def baseFree (s : State) (g : Guard) (w : Nat) : Prop :=
  acting s g ≠ [] → wAwaited s w = false ∧ Tbl.get false (curSkein s).wBad w = false

/-- No FENCE with CP holds the accesses that some translations are for (13 R239). -/
def unheld (s : State) (write : Bool) (xs : List Xl) : Prop := ∀ x ∈ xs, cpHolds s write (x.kind == .unordered) = false

/-- Every active lane's access passes 02 R37 and R48, and no FENCE with CP holds it: `ok` lists the lanes in order, each with its
translation and whether its region is held write-back. -/
def lanesPass (s : State) (g : Guard) (a : Acc) (size al : Nat) (va : Nat → Nat → Nat) (ok : List (LaneChk × Xl × Bool)) : Prop :=
  laneChecks s g a size al va = ok.map (fun c => c.1) ∧
    (∀ c ∈ ok, c.1.chk = .ok c.2.1 ∧ laneToken s a.writes size c.1 = .allowed c.2.2) ∧ unheld s a.writes (ok.map (fun c => c.2.1))

/-- The group's accesses of `size` bytes at some addresses pass 02 R37 and R48, with the translations `xs`, and no FENCE with CP holds
them. -/
def rangePasses (s : State) (a : Acc) (vas : List Nat) (size al : Nat) (xs : List Xl) : Prop :=
  let k := curSkein s
  let chk (va : Nat) : Chk := checkVa s k.core k.part k.ctx (curMode s) a va size al
  vas.map chk = xs.map Chk.ok ∧ (∀ va ∈ vas, ∀ x, chk va = .ok x → ∃ b c,
    tokenCheck s s.cur.sid va a.writes x = .allowed b ∧ tokenCheck s s.cur.sid (va + size - 1) a.writes x = .allowed c) ∧
    unheld s a.writes xs

/-- The state once the core keeps the translations that the group has used. -/
def keptXl (s : State) (xs : List Xl) : State :=
  xs.foldl (fun b x => fillTlb b (curSkein s).core (curSkein s).part (curSkein s).ctx x) s

/-- The group reads `n` bytes at each of some addresses: the checks pass with the translations `xs`, and no access that must
come first is left. -/
def readsPass (s : State) (vas : List Nat) (n : Nat) (xs : List Xl) : Prop :=
  rangePasses s .load vas n n xs ∧ ∀ x ∈ xs, mustWait (keptXl s xs) x n = false

/-- What these reads give: the bytes at each address, and the state that they leave. -/
def readsGive (s : State) (vas : List Nat) (n : Nat) (xs : List Xl) : List (List PByte) × State := groupReads n (vas.zip xs) (keptXl s xs)

/-- Every active lane's local-store access is aligned and in bounds (06 R110, R111): the sum of `W wb` and `V a`, bits 59 to
0; and no change of banking mode is under way (06 R114). -/
def localPasses (s : State) (g : Guard) (wb : BitVec 4) (a : BitVec 6) (size : Nat) : Prop :=
  (getCore s (curCore s)).pend = none ∧ ∀ n ∈ grp s, ∀ j < 4, ((curStrand s n).active g).getLsbD j = true →
    (lsSum s wb a n j).toNat % 2 ^ 60 % size = 0 ∧ (lsSum s wb a n j).toNat % 2 ^ 60 + size ≤ (curSkein s).lsSize

/-- The active lanes of the group, ascending, each with the local-store offset that it names. -/
def localLanes (s : State) (g : Guard) (wb : BitVec 4) (a : BitVec 6) : List (Nat × Nat) :=
  (grp s).flatMap (fun n => (lanesOf ((curStrand s n).active g)).map (fun j => (4 * n + j, (lsSum s wb a n j).toNat % 2 ^ 60)))

/-- The state after a lane-set word of `len` bytes: in each strand `t` of the group, every lane `j` that is active under the
guard writes `f t j`, computed from the strand as it stood; the group goes on behind the word. -/
def laneResult (s : State) (g : Guard) (len : Nat) (f : Strand → Nat → LaneOut) : State :=
  retire (mapStrands s s.cur.sid s.cur.ply (grp s) (fun _ t => t.lanewise (t.active g) (f t))) len

/-- The state after a lane-set word that reads other lanes: every active lane `l` of the ply, by its number, writes `f l`. -/
def acrossResult (s : State) (g : Guard) (f : Nat → LaneOut) : State :=
  retire (mapStrands s s.cur.sid s.cur.ply (grp s) (fun n t => t.lanewise (t.active g) (fun j => f (4 * n + j)))) 4

/-- A word from its four bytes, byte 0 the lowest. -/
def bytesWord (f : Nat → Nat) : Word := BitVec.ofNat 32 (f 0 + f 1 * 2 ^ 8 + f 2 * 2 ^ 16 + f 3 * 2 ^ 24)

/-- The state after a uniform word that writes `x` to W`d`: the group goes on behind it. -/
def uniResult (s : State) (d : Nat) (x : DWord) : State := retire (setWReg s d x) 4

/-- The state after a uniform word that changes the strands of the group by `f`: the group goes on behind it. -/
def groupResult (s : State) (f : Strand → Strand) : State :=
  retire (mapStrands s s.cur.sid s.cur.ply (grp s) (fun _ t => f t)) 4

end Sys2Proof.Machine
end

