-- ==== Sys2Proof/Certificates/Slice0/Obligations.lean ====
section
/-! DEFINITION. The statements for the provers: one definition each, in the words of Safety.lean. -/

open Sys2Proof Sys2Proof.Machine

/-- 18 R300 without an extension word, for every group that passes the checks of 08 R136: IADDS clamps, the others wrap, the
high products are bits 63 to 32. -/
def Obligations.integer_add_multiply_results : Prop :=
  ∀ (s : State) (g : Guard) (d a b : BitVec 6) (h : BitVec 2), laneFree s g .user [[d.toNat]] [[a.toNat], [b.toNat]] →
    exec (.iadd g d a b h) s = .next (laneResult s g 4 (fun t j =>
      wr [(d.toNat, t.v a.toNat j + t.v b.toNat j)])) ∧
    exec (.isub g d a b h) s = .next (laneResult s g 4 (fun t j =>
      wr [(d.toNat, t.v a.toNat j - t.v b.toNat j)])) ∧
    exec (.iadds g d a b h) s = .next (laneResult s g 4 (fun t j =>
      wr [(d.toNat, BitVec.ofInt 32 (max (-2147483648) (min 2147483647 ((t.v a.toNat j).toInt + (t.v b.toNat j).toInt))))])) ∧
    exec (.imul g d a b h) s = .next (laneResult s g 4 (fun t j =>
      wr [(d.toNat, t.v a.toNat j * t.v b.toNat j)])) ∧
    exec (.imulhs g d a b h) s = .next (laneResult s g 4 (fun t j =>
      wr [(d.toNat, BitVec.ofInt 32 ((t.v a.toNat j).toInt * (t.v b.toNat j).toInt / 4294967296))])) ∧
    exec (.imulhu g d a b h) s = .next (laneResult s g 4 (fun t j =>
      wr [(d.toNat, BitVec.ofNat 32 ((t.v a.toNat j).toNat * (t.v b.toNat j).toNat / 4294967296))])) ∧
    (laneFree s g .user [] [[d.toNat]] → exec (.imad g d a b h) s = .next (laneResult s g 4 (fun t j =>
      wr [(d.toNat, t.v a.toNat j * t.v b.toNat j + t.v d.toNat j)])))

/-- 18 R301: the compare is signed for IMINS and IMAXS and unsigned for the others. -/
def Obligations.integer_min_max_results : Prop :=
  ∀ (s : State) (g : Guard) (d a b : BitVec 6) (h : BitVec 2), laneFree s g .user [[d.toNat]] [[a.toNat], [b.toNat]] →
    exec (.imins g d a b h) s = .next (laneResult s g 4 (fun t j =>
      wr [(d.toNat, if (t.v a.toNat j).toInt ≤ (t.v b.toNat j).toInt then t.v a.toNat j else t.v b.toNat j)])) ∧
    exec (.iminu g d a b h) s = .next (laneResult s g 4 (fun t j =>
      wr [(d.toNat, if (t.v a.toNat j).toNat ≤ (t.v b.toNat j).toNat then t.v a.toNat j else t.v b.toNat j)])) ∧
    exec (.imaxs g d a b h) s = .next (laneResult s g 4 (fun t j =>
      wr [(d.toNat, if (t.v a.toNat j).toInt ≤ (t.v b.toNat j).toInt then t.v b.toNat j else t.v a.toNat j)])) ∧
    exec (.imaxu g d a b h) s = .next (laneResult s g 4 (fun t j =>
      wr [(d.toNat, if (t.v a.toNat j).toNat ≤ (t.v b.toNat j).toNat then t.v b.toNat j else t.v a.toNat j)]))

/-- 18 R302: the immediate is zero-extended, and ANDN is AND NOT. -/
def Obligations.logic_results : Prop :=
  ∀ (s : State) (g : Guard) (d a b : BitVec 6) (h : BitVec 2) (i : BitVec 8), laneFree s g .user [[d.toNat]] [[a.toNat], [b.toNat]] →
    exec (.and g d a b h) s = .next (laneResult s g 4 (fun t j =>
      wr [(d.toNat, t.v a.toNat j &&& t.v b.toNat j)])) ∧
    exec (.or g d a b h) s = .next (laneResult s g 4 (fun t j =>
      wr [(d.toNat, t.v a.toNat j ||| t.v b.toNat j)])) ∧
    exec (.xor g d a b h) s = .next (laneResult s g 4 (fun t j =>
      wr [(d.toNat, t.v a.toNat j ^^^ t.v b.toNat j)])) ∧
    exec (.andn g d a b h) s = .next (laneResult s g 4 (fun t j =>
      wr [(d.toNat, t.v a.toNat j &&& ~~~ (t.v b.toNat j))])) ∧
    exec (.andi g d a i) s = .next (laneResult s g 4 (fun t j =>
      wr [(d.toNat, t.v a.toNat j &&& i.setWidth 32)])) ∧
    exec (.ori g d a i) s = .next (laneResult s g 4 (fun t j =>
      wr [(d.toNat, t.v a.toNat j ||| i.setWidth 32)])) ∧
    exec (.xori g d a i) s = .next (laneResult s g 4 (fun t j =>
      wr [(d.toNat, t.v a.toNat j ^^^ i.setWidth 32)]))

/-- 18 R303: the register forms take bits 4 to 0 of S2; SAR copies bit 31. IADDI (18 R300) adds its sign-extended immediate.
-/
def Obligations.shift_results : Prop :=
  ∀ (s : State) (g : Guard) (d a b : BitVec 6) (h : BitVec 2) (n : BitVec 5) (i : BitVec 8), laneFree s g .user [[d.toNat]] [[a.toNat], [b.toNat]] →
    exec (.shl g d a b h) s = .next (laneResult s g 4 (fun t j =>
      wr [(d.toNat, t.v a.toNat j <<< ((t.v b.toNat j).toNat % 32))])) ∧
    exec (.shr g d a b h) s = .next (laneResult s g 4 (fun t j =>
      wr [(d.toNat, t.v a.toNat j >>> ((t.v b.toNat j).toNat % 32))])) ∧
    exec (.sar g d a b h) s = .next (laneResult s g 4 (fun t j =>
      wr [(d.toNat, (t.v a.toNat j).sshiftRight ((t.v b.toNat j).toNat % 32))])) ∧
    exec (.shli g d a n) s = .next (laneResult s g 4 (fun t j =>
      wr [(d.toNat, t.v a.toNat j <<< n.toNat)])) ∧
    exec (.shri g d a n) s = .next (laneResult s g 4 (fun t j =>
      wr [(d.toNat, t.v a.toNat j >>> n.toNat)])) ∧
    exec (.sari g d a n) s = .next (laneResult s g 4 (fun t j =>
      wr [(d.toNat, (t.v a.toNat j).sshiftRight n.toNat)])) ∧
    exec (.iaddi g d a i) s = .next (laneResult s g 4 (fun t j =>
      wr [(d.toNat, t.v a.toNat j + i.signExtend 32)]))

/-- 18 R304 and R305: pos is S2[4:0] and len is S2[12:8]; POPC counts set bits, CLZ the zeros above the highest, BREV moves
bit k to bit 31 - k. -/
def Obligations.bit_field_results : Prop :=
  ∀ (s : State) (g : Guard) (d a b : BitVec 6) (h : BitVec 2) (e : BitVec 1), laneFree s g .user [[d.toNat]] [[a.toNat], [b.toNat]] →
    exec (.bfx g d a b h) s = .next (laneResult s g 4 (fun t j =>
      wr [(d.toNat, (t.v a.toNat j >>> ((t.v b.toNat j).toNat % 32)) &&& BitVec.ofNat 32 (2 ^ ((t.v b.toNat j).toNat / 256 % 32) - 1))])) ∧
    (laneFree s g .user [] [[d.toNat]] → exec (.bfi g d a b h) s = .next (laneResult s g 4 (fun t j =>
      wr [(d.toNat, (t.v d.toNat j &&& ~~~ (BitVec.ofNat 32 (2 ^ ((t.v b.toNat j).toNat / 256 % 32) - 1) <<< ((t.v b.toNat j).toNat % 32))) |||
        ((t.v a.toNat j &&& BitVec.ofNat 32 (2 ^ ((t.v b.toNat j).toNat / 256 % 32) - 1)) <<< ((t.v b.toNat j).toNat % 32)))]))) ∧
    exec (.popc g d a e) s = .next (laneResult s g 4 (fun t j =>
      wr [(d.toNat, BitVec.ofNat 32 ((List.range 32).countP (fun k => (t.v a.toNat j).getLsbD k)))])) ∧
    exec (.clz g d a e) s = .next (laneResult s g 4 (fun t j =>
      wr [(d.toNat, BitVec.ofNat 32 (((List.range 32).reverse.takeWhile (fun k => !(t.v a.toNat j).getLsbD k)).length))])) ∧
    exec (.brev g d a e) s = .next (laneResult s g 4 (fun t j =>
      wr [(d.toNat, (t.v a.toNat j).reverse)]))

/-- 18 R306: EQ, NE, LT, LE, GT and GE, signed but for ICMPU. A write of P0 is discarded, as `Strand.setPred` says. -/
def Obligations.compare_results : Prop :=
  ∀ (s : State) (g : Guard) (q c : BitVec 3) (a b : BitVec 6) (h : BitVec 2) (i : BitVec 8),
    laneFree s g .user [] [[a.toNat], [b.toNat]] → c.toNat < 6 →
    exec (.icmps g q c a b h) s = .next (laneResult s g 4 (fun t j =>
      wp q.toNat (match c.toNat with | 0 => decide ((t.v a.toNat j).toInt = (t.v b.toNat j).toInt) | 1 => decide ((t.v a.toNat j).toInt ≠ (t.v b.toNat j).toInt) | 2 => decide ((t.v a.toNat j).toInt < (t.v b.toNat j).toInt) | 3 => decide ((t.v a.toNat j).toInt ≤ (t.v b.toNat j).toInt) | 4 => decide ((t.v b.toNat j).toInt < (t.v a.toNat j).toInt) | _ => decide ((t.v b.toNat j).toInt ≤ (t.v a.toNat j).toInt)))) ∧
    exec (.icmpu g q c a b h) s = .next (laneResult s g 4 (fun t j =>
      wp q.toNat (match c.toNat with | 0 => decide ((t.v a.toNat j).toNat = (t.v b.toNat j).toNat) | 1 => decide ((t.v a.toNat j).toNat ≠ (t.v b.toNat j).toNat) | 2 => decide ((t.v a.toNat j).toNat < (t.v b.toNat j).toNat) | 3 => decide ((t.v a.toNat j).toNat ≤ (t.v b.toNat j).toNat) | 4 => decide ((t.v b.toNat j).toNat < (t.v a.toNat j).toNat) | _ => decide ((t.v b.toNat j).toNat ≤ (t.v a.toNat j).toNat)))) ∧
    exec (.icmpsi g q c a i) s = .next (laneResult s g 4 (fun t j =>
      wp q.toNat (match c.toNat with | 0 => decide ((t.v a.toNat j).toInt = i.toInt) | 1 => decide ((t.v a.toNat j).toInt ≠ i.toInt) | 2 => decide ((t.v a.toNat j).toInt < i.toInt) | 3 => decide ((t.v a.toNat j).toInt ≤ i.toInt) | 4 => decide (i.toInt < (t.v a.toNat j).toInt) | _ => decide (i.toInt ≤ (t.v a.toNat j).toInt))))

/-- 18 R307 to R310: the truth table, predicates packed with bit 0 set, the selector P4 to P7, the sign-extended constant
and the upper 14 bits. -/
def Obligations.predicate_and_move_results : Prop :=
  ∀ (s : State) (g : Guard) (q x y : BitVec 3) (u : BitVec 4) (d a b : BitVec 6) (e : BitVec 1) (k : BitVec 2) (i : BitVec 14),
    laneFree s g .user [[d.toNat]] [[a.toNat], [b.toNat]] →
    exec (.plog g q x y u) s = .next (laneResult s g 4 (fun t j =>
      wp q.toNat (u.getLsbD (2 * (t.pred j x.toNat).toNat + (t.pred j y.toNat).toNat)))) ∧
    exec (.pmovPack g d) s = .next (laneResult s g 4 (fun t j =>
      wr [(d.toNat, BitVec.ofNat 32 (((List.range 8).map (fun k => if t.pred j k then 2 ^ k else 0)).sum))])) ∧
    exec (.pmovUnpack g a e) s = .next (laneResult s g 4 (fun t j =>
      { regs := [], preds := (rangeFrom 1 7).map (fun k => (k, (t.v a.toNat j).getLsbD k)), flags := 0 })) ∧
    exec (.sel g d a b k) s = .next (laneResult s g 4 (fun t j =>
      wr [(d.toNat, if t.pred j (4 + k.toNat) then t.v a.toNat j else t.v b.toNat j)])) ∧
    exec (.mov g d a e) s = .next (laneResult s g 4 (fun t j =>
      wr [(d.toNat, t.v a.toNat j)])) ∧
    exec (.movi g d i) s = .next (laneResult s g 4 (fun _ _ =>
      wr [(d.toNat, i.signExtend 32)])) ∧
    (laneFree s g .user [] [[d.toNat]] → exec (.movhi g d i) s = .next (laneResult s g 4 (fun t j =>
      wr [(d.toNat, i ++ (t.v d.toNat j).extractLsb' 0 18)])))

/-- Completion of FADD.F32, FMUL.F32, FFMA.F32, FMIN.F32, FMAX.F32, FRCP.F32, FRSQ.F32, FEX2.F32, FLG2.F32 and TSUM.F32, for every
group that passes the checks of 08 R136. 19 R318 and R324: each active lane writes what fadd, fmul and ffma of Machine/Flags.lean give in
FP32 under rounding to nearest even, and raises their flags in FSTAT; FFMA takes D as its third operand, and TSUM writes the sum to D
and its error to D + 1. 19 R319: FMIN and
FMAX give one of the operands, -0 counting as less than +0, a NaN yielding to a number, two NaNs giving the canonical one, and a
signaling one raising NV. 19 R321: each active lane writes the function of S1; zeros, infinities, negative values and NaNs as the
table of special cases gives them. -/
def Obligations.float_arithmetic_results : Prop :=
  ∀ (s : State) (g : Guard) (d a b : BitVec 6) (h : BitVec 2) (e : BitVec 1), laneFree s g .user [[d.toNat]] [[a.toNat], [b.toNat]] →
    exec (.faddF32 g d a b h) s = .next (laneResult s g 4 (fun t j =>
      wf32 d.toNat (fadd f32 .rne false (t.v a.toNat j).toNat (t.v b.toNat j).toNat))) ∧
    exec (.fmulF32 g d a b h) s = .next (laneResult s g 4 (fun t j =>
      wf32 d.toNat (fmul f32 .rne false (t.v a.toNat j).toNat (t.v b.toNat j).toNat))) ∧
    (laneFree s g .user [] [[d.toNat]] → exec (.ffmaF32 g d a b h) s = .next (laneResult s g 4 (fun t j =>
      wf32 d.toNat (ffma f32 .rne false (t.v a.toNat j).toNat (t.v b.toNat j).toNat (t.v d.toNat j).toNat)))) ∧
    exec (.fminF32 g d a b h) s = .next (laneResult s g 4 (fun t j =>
      wf32 d.toNat (fminmax f32 false (t.v a.toNat j).toNat (t.v b.toNat j).toNat))) ∧
    exec (.fmaxF32 g d a b h) s = .next (laneResult s g 4 (fun t j =>
      wf32 d.toNat (fminmax f32 true (t.v a.toNat j).toNat (t.v b.toNat j).toNat))) ∧
    exec (.frcpF32 g d a e) s = .next (laneResult s g 4 (fun t j =>
      wf32 d.toNat (frcp (t.v a.toNat j).toNat))) ∧
    exec (.frsqF32 g d a e) s = .next (laneResult s g 4 (fun t j =>
      wf32 d.toNat (frsq (t.v a.toNat j).toNat))) ∧
    exec (.fex2F32 g d a e) s = .next (laneResult s g 4 (fun t j =>
      wf32 d.toNat (fex2 (t.v a.toNat j).toNat))) ∧
    exec (.flg2F32 g d a e) s = .next (laneResult s g 4 (fun t j =>
      wf32 d.toNat (flg2 (t.v a.toNat j).toNat))) ∧
    ((Instr.tsumF32 g d a b h).wf = true → laneFree s g .user [[d.toNat, d.toNat + 1]] [] → exec (.tsumF32 g d a b h) s = .next (laneResult s g 4 (fun t j =>
      { regs := [(d.toNat, BitVec.ofNat 32 (fadd f32 .rne false (t.v a.toNat j).toNat (t.v b.toNat j).toNat).1),
                 (d.toNat + 1, BitVec.ofNat 32 (f32.round .rne false (twoSum (t.v a.toNat j).toNat (t.v b.toNat j).toNat).2.2).1)],
        preds := [], flags := (twoSum (t.v a.toNat j).toNat (t.v b.toNat j).toNat).2.1 }))) ∧
    (∀ x y : Word, let mag (w : Word) : Nat := w.toNat % 2 ^ 31
      let nan (w : Word) : Prop := 0x7F800000 < mag w
      let sig (w : Word) : Prop := nan w ∧ w.getLsbD 22 = false
      let place (w : Word) : Int := if w.getLsbD 31 then -1 - (mag w : Int) else mag w
      let neg : Prop := x.getLsbD 31 = true ∧ 0 < mag x ∧ mag x < 0x7F800000
      (¬ nan x → ¬ nan y → (fminmax f32 false x.toNat y.toNat).1 = (if place x ≤ place y then x else y).toNat ∧
        (fminmax f32 true x.toNat y.toNat).1 = (if place y ≤ place x then x else y).toNat) ∧
      (∀ m, (nan x → ¬ nan y → (fminmax f32 m x.toNat y.toNat).1 = y.toNat ∧ (fminmax f32 m y.toNat x.toNat).1 = y.toNat) ∧
        (nan x → nan y → (fminmax f32 m x.toNat y.toNat).1 = 0x7FC00000) ∧
        ((sig x ∨ sig y) → (fminmax f32 m x.toNat y.toNat).2 = fNV) ∧ (¬ (sig x ∨ sig y) → (fminmax f32 m x.toNat y.toNat).2 = 0)) ∧
      (neg → frsq x.toNat = (0x7FC00000, fNV) ∧ flg2 x.toNat = (0x7FC00000, fNV) ∧
        frcp x.toNat = (0x80000000 + (frcp (mag x)).1, (frcp (mag x)).2)) ∧
      (nan x → let v : Nat × BitVec 6 := (0x7FC00000, if x.getLsbD 22 then 0 else fNV)
        frcp x.toNat = v ∧ frsq x.toNat = v ∧ fex2 x.toNat = v ∧ flg2 x.toNat = v)) ∧
    (frcp 0 = (0x7F800000, fDZ) ∧ frcp 0x80000000 = (0xFF800000, fDZ) ∧ frcp 0x7F800000 = (0, 0) ∧ frcp 0xFF800000 = (0x80000000, 0)) ∧
    (frsq 0 = (0x7F800000, fDZ) ∧ frsq 0x80000000 = (0xFF800000, fDZ) ∧ frsq 0x7F800000 = (0, 0) ∧ frsq 0xFF800000 = (0x7FC00000, fNV)) ∧
    (fex2 0 = (0x3F800000, 0) ∧ fex2 0x80000000 = (0x3F800000, 0) ∧ fex2 0x7F800000 = (0x7F800000, 0) ∧ fex2 0xFF800000 = (0, 0)) ∧
    (flg2 0 = (0xFF800000, fDZ) ∧ flg2 0x80000000 = (0xFF800000, fDZ) ∧ flg2 0x7F800000 = (0x7F800000, 0) ∧ flg2 0xFF800000 = (0x7FC00000, fNV))

/-- 19 R322: element 0 in bits 15 to 0 and element 1 in bits 31 to 16, each rounded by itself, the flags of both raised. -/
def Obligations.packed_float_results : Prop :=
  ∀ (s : State) (g : Guard) (d a b : BitVec 6) (h : BitVec 2), laneFree s g .user [[d.toNat]] [[a.toNat], [b.toNat]] →
    exec (.faddBf16x2 g d a b h) s = .next (laneResult s g 4 (fun t j =>
      wf16 d.toNat (fadd bf16 .rne false (half (t.v a.toNat j) 0) (half (t.v b.toNat j) 0)) (fadd bf16 .rne false (half (t.v a.toNat j) 1) (half (t.v b.toNat j) 1)))) ∧
    exec (.fmulBf16x2 g d a b h) s = .next (laneResult s g 4 (fun t j =>
      wf16 d.toNat (fmul bf16 .rne false (half (t.v a.toNat j) 0) (half (t.v b.toNat j) 0)) (fmul bf16 .rne false (half (t.v a.toNat j) 1) (half (t.v b.toNat j) 1)))) ∧
    (laneFree s g .user [] [[d.toNat]] → exec (.ffmaBf16x2 g d a b h) s = .next (laneResult s g 4 (fun t j =>
      wf16 d.toNat (ffma bf16 .rne false (half (t.v a.toNat j) 0) (half (t.v b.toNat j) 0) (half (t.v d.toNat j) 0)) (ffma bf16 .rne false (half (t.v a.toNat j) 1) (half (t.v b.toNat j) 1) (half (t.v d.toNat j) 1))))) ∧
    exec (.faddF16x2 g d a b h) s = .next (laneResult s g 4 (fun t j =>
      wf16 d.toNat (fadd f16 .rne false (half (t.v a.toNat j) 0) (half (t.v b.toNat j) 0)) (fadd f16 .rne false (half (t.v a.toNat j) 1) (half (t.v b.toNat j) 1)))) ∧
    exec (.fmulF16x2 g d a b h) s = .next (laneResult s g 4 (fun t j =>
      wf16 d.toNat (fmul f16 .rne false (half (t.v a.toNat j) 0) (half (t.v b.toNat j) 0)) (fmul f16 .rne false (half (t.v a.toNat j) 1) (half (t.v b.toNat j) 1)))) ∧
    (laneFree s g .user [] [[d.toNat]] → exec (.ffmaF16x2 g d a b h) s = .next (laneResult s g 4 (fun t j =>
      wf16 d.toNat (ffma f16 .rne false (half (t.v a.toNat j) 0) (half (t.v b.toNat j) 0) (half (t.v d.toNat j) 0)) (ffma f16 .rne false (half (t.v a.toNat j) 1) (half (t.v b.toNat j) 1) (half (t.v d.toNat j) 1)))))

/-- 19 R323: the high word stands in the odd register; the pairs must be even, which `Instr.wf` says. -/
def Obligations.double_float_results : Prop :=
  ∀ (s : State) (g : Guard) (d a b : BitVec 6),
    laneFree s g .user [[d.toNat, d.toNat + 1]] [[a.toNat, a.toNat + 1], [b.toNat, b.toNat + 1]] →
    ((Instr.faddF64 g d a b).wf = true → exec (.faddF64 g d a b) s = .next (laneResult s g 4 (fun t j =>
      wf64 d.toNat (fadd f64 .rne false (pairOf (fun r => t.v r j) a.toNat) (pairOf (fun r => t.v r j) b.toNat))))) ∧
    ((Instr.fmulF64 g d a b).wf = true → exec (.fmulF64 g d a b) s = .next (laneResult s g 4 (fun t j =>
      wf64 d.toNat (fmul f64 .rne false (pairOf (fun r => t.v r j) a.toNat) (pairOf (fun r => t.v r j) b.toNat))))) ∧
    (laneFree s g .user [] [[d.toNat, d.toNat + 1]] → ((Instr.ffmaF64 g d a b).wf = true → exec (.ffmaF64 g d a b) s = .next (laneResult s g 4 (fun t j =>
      wf64 d.toNat (ffma f64 .rne false (pairOf (fun r => t.v r j) a.toNat) (pairOf (fun r => t.v r j) b.toNat) (pairOf (fun r => t.v r j) d.toNat))))))

/-- Completion of FCMP.F32, for every group that passes the checks of 08 R136. 19 R320: each active lane sets P[Pd] as the table of the
eight conditions gives, the zeros being equal; a signaling NaN raises NV under every condition, and a quiet one under LT, LE, GT and
GE. A word with Pd = P0 raises its flags all the same. -/
def Obligations.float_compare_result : Prop :=
  ∀ (s : State) (g : Guard) (q c : BitVec 3) (a b : BitVec 6) (h : BitVec 2), laneFree s g .user [] [[a.toNat], [b.toNat]] →
    exec (.fcmpF32 g q c a b h) s = .next (laneResult s g 4 (fun t j =>
      { regs := [], preds := [(q.toNat, (fcmp f32 c.toNat (t.v a.toNat j).toNat (t.v b.toNat j).toNat).1)], flags := (fcmp f32 c.toNat (t.v a.toNat j).toNat (t.v b.toNat j).toNat).2 })) ∧
    (∀ x y : Word, let mag (w : Word) : Nat := w.toNat % 2 ^ 31
      let nan (w : Word) : Prop := 0x7F800000 < mag w
      let sig (w : Word) : Prop := nan w ∧ w.getLsbD 22 = false
      let value (w : Word) : Int := if w.getLsbD 31 then -(mag w : Int) else mag w
      ((nan x ∨ nan y) → (fcmp f32 c.toNat x.toNat y.toNat).1 = decide (c = 1 ∨ c = 7)) ∧
      (¬ (nan x ∨ nan y) → (fcmp f32 c.toNat x.toNat y.toNat).1 = (match c.toNat with
        | 0 => decide (value x = value y) | 1 => decide (value x ≠ value y) | 2 => decide (value x < value y) | 3 => decide (value x ≤ value y)
        | 4 => decide (value y < value x) | 5 => decide (value y ≤ value x) | 6 => true | _ => false)) ∧
      ((sig x ∨ sig y ∨ ((nan x ∨ nan y) ∧ 2 ≤ c.toNat ∧ c.toNat ≤ 5)) → (fcmp f32 c.toNat x.toNat y.toNat).2 = fNV) ∧
      (¬ (sig x ∨ sig y ∨ ((nan x ∨ nan y) ∧ 2 ≤ c.toNat ∧ c.toNat ≤ 5)) → (fcmp f32 c.toNat x.toNat y.toNat).2 = 0))

/-- 18 R312 to R314: a type code of F64 takes a pair; F2FX scales by 2^q and FX2F by 2^-q, rounding once to nearest even. -/
def Obligations.conversion_results : Prop :=
  ∀ (s : State) (g : Guard) (d a : BitVec 6) (m n : BitVec 4) (q x : BitVec 1) (k : BitVec 6),
    ((Instr.cvt g d a m n).wf = true → laneFree s g .user [rangeFrom d.toNat (if n = 11 then 2 else 1)] [rangeFrom a.toNat (if m = 11 then 2 else 1)] →
      exec (.cvt g d a m n) s = .next (laneResult s g 4 (fun t j =>
      let y := cvtWrite .rne n.toNat (cvtRead m.toNat (if m = 11 then (pairOf (fun r => t.v r j) a.toNat) else (t.v a.toNat j).toNat))
      if n = 11 then wf64 d.toNat y else wf32 d.toNat y))) ∧
    ((Instr.f2fx g d a q x k).wf = true → laneFree s g .user [rangeFrom d.toNat (if q = 1 then 2 else 1)] [rangeFrom a.toNat (if x = 1 then 2 else 1)] →
      exec (.f2fx g d a q x k) s = .next (laneResult s g 4 (fun t j =>
      let y := if x = 1 then f64.read (pairOf (fun r => t.v r j) a.toNat) else f32.read (t.v a.toNat j).toNat
      let z := floatToInt .rne (if q = 1 then -(2 ^ 63 : Int) else -(2 ^ 31 : Int)) (if q = 1 then 2 ^ 63 - 1 else 2 ^ 31 - 1)
        (match y with | .fin b u e => .fin b u (e + k.toNat) | v => v)
      if q = 1 then wf64 d.toNat ((BitVec.ofInt 64 z.1).toNat, z.2) else wf32 d.toNat ((BitVec.ofInt 32 z.1).toNat, z.2)))) ∧
    ((Instr.fx2f g d a q x k).wf = true → laneFree s g .user [rangeFrom d.toNat (if x = 1 then 2 else 1)] [rangeFrom a.toNat (if q = 1 then 2 else 1)] →
      exec (.fx2f g d a q x k) s = .next (laneResult s g 4 (fun t j =>
      let n : Int := if q = 1 then (BitVec.ofNat 64 (pairOf (fun r => t.v r j) a.toNat)).toInt else (t.v a.toNat j).toInt
      let y := FNum.fin (decide (n < 0)) n.natAbs (-(k.toNat : Int))
      if x = 1 then wf64 d.toNat (f64.round .rne false y) else wf32 d.toNat (f32.round .rne false y))))

/-- 18 R315, 19 R325 to R328: the dot products of four bytes accumulate into D; TDEC and TENC work on one code, or with X2
on two; TBLO and TBHI look nibbles up in a table of sixteen bytes; BSEL picks among the bytes of S1 and the old D, a
selector of 128 or more giving zero. -/
def Obligations.byte_and_tapered_results : Prop :=
  ∀ (s : State) (g : Guard) (d a b : BitVec 6) (h : BitVec 2) (m x : BitVec 1) (k : BitVec 2),
    laneFree s g .user [[d.toNat]] [[a.toNat], [b.toNat]] →
    (laneFree s g .user [] [[d.toNat]] → exec (.idp4s g d a b h) s = .next (laneResult s g 4 (fun t j =>
      wr [(d.toNat, BitVec.ofInt 32 ((t.v d.toNat j).toInt + ((List.range 4).map (fun k => (byteOf (t.v a.toNat j) k).toInt * (byteOf (t.v b.toNat j) k).toInt)).sum))]))) ∧
    (laneFree s g .user [] [[d.toNat]] → exec (.idp4u g d a b h) s = .next (laneResult s g 4 (fun t j =>
      wr [(d.toNat, BitVec.ofNat 32 ((t.v d.toNat j).toNat + ((List.range 4).map (fun k => (byteOf (t.v a.toNat j) k).toNat * (byteOf (t.v b.toNat j) k).toNat)).sum))]))) ∧
    ((Instr.tdec g d a m x k).wf = true → exec (.tdec g d a m x k) s = .next (laneResult s g 4 (fun t j =>
      let code (n : Nat) : FNum := taperedRead (m == 1) (byteOf (t.v a.toNat j) n).toNat
      wr [(d.toNat, if x = 1 then BitVec.ofNat 32 ((bf16.round .rne false (code k.toNat)).1 +
        (bf16.round .rne false (code (k.toNat + 1))).1 * 65536) else BitVec.ofNat 32 (f32.round .rne false (code k.toNat)).1)]))) ∧
    (laneFree s g .user [] [[d.toNat]] → ((Instr.tenc g d a m x k).wf = true → exec (.tenc g d a m x k) s = .next (laneResult s g 4 (fun t j =>
      let code (v : FNum) : Nat × BitVec 6 := ((taperedWrite (m == 1) v).1, (taperedWrite (m == 1) v).2 ||| flagIf v.signals fNV)
      let p := code (if x = 1 then bf16.read (half (t.v a.toNat j) 0) else f32.read (t.v a.toNat j).toNat)
      let q := code (bf16.read (half (t.v a.toNat j) 1))
      if x = 1 then wrf d.toNat (setByteOf (setByteOf (t.v d.toNat j) k.toNat p.1) (k.toNat + 1) q.1) (p.2 ||| q.2)
      else wrf d.toNat (setByteOf (t.v d.toNat j) k.toNat p.1) p.2)))) ∧
    (laneFree s g .user [] [rangeFrom b.toNat 4] → exec (.tblo g d a b h) s = .next (laneResult s g 4 (fun t j =>
      wr [(d.toNat, bytesWord (fun k => (byteOf (t.v (b.toNat + (t.v a.toNat j).toNat / 2 ^ (8 * k) % 16 / 4) j) ((t.v a.toNat j).toNat / 2 ^ (8 * k) % 16 % 4)).toNat))]))) ∧
    (laneFree s g .user [] [rangeFrom b.toNat 4] → exec (.tbhi g d a b h) s = .next (laneResult s g 4 (fun t j =>
      wr [(d.toNat, bytesWord (fun k => (byteOf (t.v (b.toNat + (t.v a.toNat j).toNat / 2 ^ (8 * k + 4) % 16 / 4) j) ((t.v a.toNat j).toNat / 2 ^ (8 * k + 4) % 16 % 4)).toNat))]))) ∧
    (laneFree s g .user [] [[d.toNat]] → exec (.bsel g d a b h) s = .next (laneResult s g 4 (fun t j =>
      wr [(d.toNat, bytesWord (fun k =>
        let n := (byteOf (t.v b.toNat j) k).toNat
        if 128 ≤ n then 0 else if n % 8 < 4 then (byteOf (t.v a.toNat j) (n % 8)).toNat else (byteOf (t.v d.toNat j) (n % 8 - 4)).toNat))])))

/-- 19 R329 and R333: a source lane outside 0 to 31, one that is dead or one outside the group supplies zero; LPREV shifts
in the last lane of S2. Only the lanes that an active lane reads need their registers, the index of SHFL its own. -/
def Obligations.permute_results : Prop :=
  ∀ (s : State) (g : Guard) (d a b : BitVec 6) (h : BitVec 2) (i : BitVec 8), let ix (l : Nat) : Nat := ((curStrand s (l / 4)).v b.toNat (l % 4)).toNat
    (laneFree s g .user [[d.toNat]] [[b.toNat]] → farFree s g a.toNat (fun l => if ix l < 32 then some (ix l) else none) →
      exec (.shfl g d a b h) s = .next (acrossResult s g (fun l => wr [(d.toNat, if ix l < 32 then supplied s a.toNat (ix l) else 0)]))) ∧
    (laneFree s g .user [[d.toNat]] [] → farFree s g a.toNat (fun l => if 0 ≤ (l : Int) + i.toInt ∧ (l : Int) + i.toInt < 32 then some ((l : Int) + i.toInt).toNat else none) →
      exec (.shfli g d a i) s = .next (acrossResult s g (fun l => wr [(d.toNat, if 0 ≤ (l : Int) + i.toInt ∧ (l : Int) + i.toInt < 32 then supplied s a.toNat ((l : Int) + i.toInt).toNat else 0)]))) ∧
    (laneFree s g .user [[d.toNat]] [] → farFree s g a.toNat (fun l => if l = 0 then none else some (l - 1)) →
      farFree s g b.toNat (fun l => if l = 0 then some (4 * (curSkein s).strands - 1) else none) →
      exec (.lprev g d a b h) s = .next (acrossResult s g (fun l => wr [(d.toNat, if l = 0 then supplied s b.toNat (4 * (curSkein s).strands - 1) else supplied s a.toNat (l - 1))])))

/-- 19 R330 to R332: VOTE gives every active lane the ballot, any, all or count; LRED combines the contributors by the fixed
tree over lane index, LSCAN the aligned nodes that cover the lanes up to or before its own; the flags raised at any node of
the tree, or where an active lane's cover is combined, go to every active strand, which is the model's choice (log entry 21). -/
def Obligations.vote_and_reduction_results : Prop :=
  ∀ (s : State) (g : Guard) (d a : BitVec 6) (q : BitVec 3) (o : BitVec 8) (u : BitVec 4) (e : BitVec 1),
    laneFree s g .user [[d.toNat]] [[a.toNat]] →
    ((Instr.vote g d q o).wf = true → exec (.vote g d q o) s = .next (acrossResult s g (fun _ =>
      let on := (List.range 32).filter (laneOn s g)
      let yes := on.filter (fun l => (curStrand s (l / 4)).pred (l % 4) q.toNat)
      wr [(d.toNat, match o.toNat with
        | 0 => BitVec.ofNat 32 ((yes.map (fun l => 2 ^ l)).sum)
        | 1 => if yes = [] then 0 else 1
        | 2 => if yes = on then 1 else 0
        | _ => BitVec.ofNat 32 yes.length)]))) ∧
    ((Instr.lred g d a u).wf = true → exec (.lred g d a u) s = .next (acrossResult s g (fun _ =>
      let v := redTree u.toNat (contributes s g a.toNat) 5 0
      wrf d.toNat (v.1.getD (redIdentity u.toNat)) v.2))) ∧
    ((Instr.lscan g d a e u).wf = true → exec (.lscan g d a e u) s = .next (acrossResult s g (fun l =>
      let v (l : Nat) : RedVal := redScan u.toNat (contributes s g a.toNat) 6 0 (if e = 1 then l else l + 1) (none, 0)
      wrf d.toNat ((v l).1.getD (redIdentity u.toNat)) (((List.range 32).filter (laneOn s g)).foldl (fun x l => x ||| (v l).2)
        (redTree u.toNat (contributes s g a.toNat) 5 0).2))))

/-- 19 R334: index k in lane i names register VWB + k, once no reply to the strand is outstanding and with every index in
range, and for RDI none of the named registers lost; 18 R311: SRD writes bits 31 to 0 of the special register as the lane
sees it, FSTAT once no earlier AQNT of a strand that reads it is left. -/
def Obligations.indirect_register_results : Prop :=
  ∀ (s : State) (g : Guard) (d a b : BitVec 6) (h : BitVec 2) (e : BitVec 1) (i : BitVec 14),
    (laneFree s g .user [[d.toNat]] [[a.toNat]] → rdiReady s g a.toNat →
      (∀ n ∈ grp s, ∀ j < 4, ((curStrand s n).active g).getLsbD j = true →
        (false, (curStrand s n).vwb + ((curStrand s n).v a.toNat j).toNat, j) ∉ (curStrand s n).lost) →
      exec (.rdi g d a e) s = .next (laneResult s g 4 (fun t j =>
        wr [(d.toNat, t.reg (false, t.vwb + (t.v a.toNat j).toNat) j)]))) ∧
    (laneFree s g .user [] [[a.toNat], [b.toNat]] → rdiReady s g a.toNat → exec (.wri g a b h) s = .next (groupResult s (fun t =>
      (lanesOf (t.active g)).foldl (fun u j => u.setReg (false, t.vwb + (t.v a.toNat j).toNat) j (t.v b.toNat j)) t))) ∧
    ((Instr.srd g d i).wf = true → laneFree s g (srMode i.toNat) [[d.toNat]] [] → (i = 0x018 → ∀ n ∈ acting s g, requantizing s n = false) → exec (.srd g d i) s = .next (acrossResult s g (fun l =>
      wr [(d.toNat, (srRead s i.toNat (l / 4) (l % 4)).setWidth 32)])))

/-- 08 R140 to R144 and 07 R120: element (r, c) stands r * pitch + c registers on, in each operand alike, every source is read first,
SAT, RND and S3 are those of the XW, no operand's block crosses from V15 to V16 in S or H mode, and the group goes on eight
bytes further. The operation of each opcode is that of its
unextended form. -/
def Obligations.extension_word_results : Prop :=
  ∀ (s : State) (r c : BitVec 3) (sx : BitVec 1) (m : BitVec 3) (u : BitVec 6) (p : BitVec 2) (w : Word),
    let x := xwExt r c sx m u p w
    let op := xwOp w
    let reg (lo : Nat) : Nat := (w.extractLsb' lo 6).toNat
    let els := (List.range (r.toNat + 1)).flatMap (fun i => (List.range (c.toNat + 1)).map (fun k =>
      i * (if p = 1 then c.toNat + 1 else if p = 2 then 16 else 8) + k))
    (Instr.xw r c sx m u p w).wf = true →
    laneFree s ⟨w.extractLsb' 21 3, w.extractLsb' 20 1⟩ .user [els.flatMap (fun e => rangeFrom (reg 14 + e) op.1.d)] [els.flatMap (fun e => rangeFrom (reg 8 + e) op.1.a),
      els.flatMap (fun e => rangeFrom (reg 2 + e) op.1.b), els.flatMap (fun e => rangeFrom (x.s3.getD (reg 14) + e) op.1.c)] →
    blocksUnsplit s [els.flatMap (fun e => rangeFrom (reg 14 + e) op.1.d), els.flatMap (fun e => rangeFrom (reg 8 + e) op.1.a),
      els.flatMap (fun e => rangeFrom (reg 2 + e) op.1.b), els.flatMap (fun e => rangeFrom (x.s3.getD (reg 14) + e) op.1.c)] →
    exec (.xw r c sx m u p w) s = .next (laneResult s ⟨w.extractLsb' 21 3, w.extractLsb' 20 1⟩ 8 (fun t j =>
      let out := els.map (fun e => op.2 (sx == 1) (rndOf m.toNat) (reg 14 + e) (reg 8 + e) (reg 2 + e) (x.s3.getD (reg 14) + e)
        (fun v => t.v v j) (fun q => t.pred j q))
      { regs := out.flatMap (fun o => o.regs), preds := out.flatMap (fun o => o.preds),
        flags := out.foldl (fun f o => f ||| o.flags) 0 }))

/-- 21 R350 and R351: 64-bit values, wrapping; immediates are sign-extended; UMOVHI puts 14 bits at position 2p, with p at
most 25 and W[D] readable. W0 discards the write and reads zero, as setWReg and wReg say; the group goes on behind the word
and nothing else changes. -/
def Obligations.uniform_arithmetic_results : Prop :=
  ∀ (s : State) (d a b p : BitVec 5) (n : BitVec 6) (i : BitVec 14) (u : BitVec 1), uniFree s .user [a.toNat, b.toNat] [d.toNat] →
    exec .nop s = .next (retire s 4) ∧
    exec (.uadd d a b) s = .next (uniResult s d.toNat (wReg s a.toNat + wReg s b.toNat)) ∧
    exec (.usub d a b) s = .next (uniResult s d.toNat (wReg s a.toNat - wReg s b.toNat)) ∧
    exec (.umul d a b) s = .next (uniResult s d.toNat (wReg s a.toNat * wReg s b.toNat)) ∧
    exec (.uand d a b) s = .next (uniResult s d.toNat (wReg s a.toNat &&& wReg s b.toNat)) ∧
    exec (.uor d a b) s = .next (uniResult s d.toNat (wReg s a.toNat ||| wReg s b.toNat)) ∧
    exec (.uxor d a b) s = .next (uniResult s d.toNat (wReg s a.toNat ^^^ wReg s b.toNat)) ∧
    exec (.ushl d a n) s = .next (uniResult s d.toNat (BitVec.ofNat 64 ((wReg s a.toNat).toNat * 2 ^ n.toNat))) ∧
    exec (.ushr d a n) s = .next (uniResult s d.toNat (BitVec.ofNat 64 ((wReg s a.toNat).toNat / 2 ^ n.toNat))) ∧
    exec (.usar d a n) s = .next (uniResult s d.toNat (BitVec.ofInt 64 ((wReg s a.toNat).toInt / 2 ^ n.toNat))) ∧
    exec (.umin d a b u) s = .next (uniResult s d.toNat (if u = 1 then (if (wReg s a.toNat).toNat ≤ (wReg s b.toNat).toNat then wReg s a.toNat else wReg s b.toNat) else if (wReg s a.toNat).toInt ≤ (wReg s b.toNat).toInt then wReg s a.toNat else wReg s b.toNat)) ∧
    exec (.umax d a b u) s = .next (uniResult s d.toNat (if u = 1 then (if (wReg s a.toNat).toNat ≤ (wReg s b.toNat).toNat then wReg s b.toNat else wReg s a.toNat) else if (wReg s a.toNat).toInt ≤ (wReg s b.toNat).toInt then wReg s b.toNat else wReg s a.toNat)) ∧
    exec (.umov d a) s = .next (uniResult s d.toNat (wReg s a.toNat)) ∧
    exec (.uaddi d a i) s = .next (uniResult s d.toNat (wReg s a.toNat + BitVec.ofInt 64 i.toInt)) ∧
    exec (.umovi d i) s = .next (uniResult s d.toNat (BitVec.ofInt 64 i.toInt)) ∧
    (p.toNat ≤ 25 → uniFree s .user [d.toNat] [] → exec (.umovhi d p i) s = .next (uniResult s d.toNat ((wReg s d.toNat &&& ~~~ ((0x3FFF : DWord) <<< (2 * p.toNat))) ||| (i.setWidth 64 <<< (2 * p.toNat)))))

/-- 08 R146 to R148 and 21 R353, R356: a strand takes BR by its live lanes (UNC always, ANY if one holds P, ALL if it has
live lanes and all do, NONE if none does), UBR by the condition over two W registers; the target is PC + 4 * offset, else
the next word. `steer` sets the strands and parts the group. -/
def Obligations.branch_results : Prop :=
  ∀ (s : State) (p : BitVec 3) (c : BitVec 2) (o : BitVec 19) (a b : BitVec 5) (k : BitVec 3) (u : BitVec 11) (t : Strand),
    ((c ≠ 0 ∨ p = 0) → uniFree s .user [] [] → exec (.br p c o) s = .next (steer s (fun _ t =>
      { t with wait := .none, pc := if t.taken p c then t.pc + 4 * o.signExtend 64 else t.pc + 4 }))) ∧
    t.taken p 0 = true ∧
    (t.taken p 1 = true ↔ ∃ j, j < 4 ∧ t.liveLanes.getLsbD j = true ∧ t.pred j p.toNat = true) ∧
    (t.taken p 2 = true ↔ (∃ j, j < 4 ∧ t.liveLanes.getLsbD j = true) ∧ ∀ j, j < 4 ∧ t.liveLanes.getLsbD j = true → t.pred j p.toNat = true) ∧
    (t.taken p 3 = true ↔ ∀ j, j < 4 ∧ t.liveLanes.getLsbD j = true → t.pred j p.toNat = false) ∧
    (k.toNat < 6 → uniFree s .user [a.toNat, b.toNat] [] → exec (.ubr a b k u) s = .next (steer s (fun _ t =>
      { t with wait := .none, pc := if (match k.toNat with
          | 0 => decide (wReg s a.toNat = wReg s b.toNat) | 1 => decide (wReg s a.toNat ≠ wReg s b.toNat)
          | 2 => decide ((wReg s a.toNat).toInt < (wReg s b.toNat).toInt) | 3 => decide ((wReg s b.toNat).toInt ≤ (wReg s a.toNat).toInt)
          | 4 => decide ((wReg s a.toNat).toNat < (wReg s b.toNat).toNat) | _ => decide ((wReg s b.toNat).toNat ≤ (wReg s a.toNat).toNat))
        then t.pc + 4 * u.signExtend 64 else t.pc + 4 })))

/-- 21 R353 and R354: a strand that takes CALL pushes the address behind it; BRS pushes the lanes it keeps, or branches when
it keeps none. 14 R246: a push must leave three entries free in U mode and 3 - EDEPTH in S mode, of 16 call and 32 mask
entries; otherwise every strand of the group traps CALLDEPTH with the word in EADDR. -/
def Obligations.call_and_mask_results : Prop :=
  ∀ (s : State) (p : BitVec 3) (c : BitVec 2) (e : BitVec 1) (o : BitVec 19), uniFree s .user [] [] →
    ((c ≠ 0 ∨ p = 0) → (∀ n ∈ grp s, (curStrand s n).taken p c = true → (curStrand s n).calls.length + 1 + (curStrand s n).reserve ≤ 16) →
      exec (.call p c o) s = .next (steer s (fun _ t =>
        if t.taken p c then { t with wait := .none, calls := (t.pc + 4) :: t.calls, pc := t.pc + 4 * o.signExtend 64 }
        else { t with wait := .none, pc := t.pc + 4 }))) ∧
    ((c ≠ 0 ∨ p = 0) → (∃ n ∈ grp s, (curStrand s n).taken p c = true ∧ 16 < (curStrand s n).calls.length + 1 + (curStrand s n).reserve) →
      exec (.call p c o) s = .next (trapAll s .calldepth (instrWord (.call p c o)))) ∧
    ((∀ n ∈ grp s, (curStrand s n).kept p e ≠ 0 → (curStrand s n).masks.length + 1 + (curStrand s n).reserve ≤ 32) →
      exec (.brs p e o) s = .next (steer s (fun _ t =>
        if t.kept p e = 0 then { t with wait := .none, pc := t.pc + 4 * o.signExtend 64 }
        else { t with wait := .none, masks := (t.kept p e).setWidth 8 :: t.masks, pc := t.pc + 4 }))) ∧
    ((∃ n ∈ grp s, (curStrand s n).kept p e ≠ 0 ∧ 32 < (curStrand s n).masks.length + 1 + (curStrand s n).reserve) →
      exec (.brs p e o) s = .next (trapAll s .calldepth (instrWord (.brs p e o)))) ∧
    (∀ (t : Strand) (j : Nat), (t.kept p e).getLsbD j = true ↔ j < 4 ∧ t.liveLanes.getLsbD j = true ∧ (t.pred j p.toNat = true ↔ e = 0)) ∧
    (∀ (t : Strand), t.reserve = if t.mode = .user then 3 else if t.mode = .supervisor then 3 - t.edepth else 0)

/-- 21 R355 and R359: with an unmarked top and next mask JOIN pops the mask and goes on; with an unmarked top call RET goes
to it; a case that ends while its switch has live lanes left goes back to the switch word. Where some strand has no such
frame the whole group traps ILLEGAL. A switch with no lane left goes on at its join point, whose offset is the second word
of the table that the switch word names. -/
def Obligations.join_and_return_results : Prop :=
  ∀ (s : State), uniFree s .user [] [] →
    ((∀ n ∈ grp s, ∃ x y l, (curStrand s n).masks = x :: y :: l ∧ (x.extractLsb' 4 3 : BitVec 3) = 0 ∧ y.getLsbD 6 = false) →
      exec .join s = .next (steer s (fun n _ => let t := curStrand s n; { t with masks := t.masks.drop 1, pc := t.pc + 4, wait := .none }))) ∧
    ((∀ n ∈ grp s, ∃ x y l c q, (curStrand s n).masks = x :: y :: l ∧ (curStrand s n).calls = c :: q ∧ (x.extractLsb' 4 3 : BitVec 3) = 0 ∧
        y.getLsbD 6 = true ∧ c.getLsbD 62 = true ∧ c.getLsbD 61 = false ∧ y.extractLsb' 0 4 &&& ~~~ (curStrand s n).dead ≠ 0) →
      exec .join s = .next (steer s (fun n _ => let t := curStrand s n
        { t with masks := t.masks.drop 1, pc := t.calls.headD 0 &&& 0x01FFFFFFFFFFFFFC, wait := .none }))) ∧
    ((∀ n ∈ grp s, ∃ c q, (curStrand s n).calls = c :: q ∧ (c.extractLsb' 0 2 : BitVec 2) = 0 ∧ c.getLsbD 62 = false) →
      exec .ret s = .next (steer s (fun n _ => let t := curStrand s n
        { t with calls := t.calls.drop 1, pc := t.calls.headD 0 &&& 0x01FFFFFFFFFFFFFC, wait := .none }))) ∧
    (∀ (a b : State) (w o : Nat → Word), let sw (n : Nat) : DWord := (curStrand s n).calls.headD 0 &&& 0x01FFFFFFFFFFFFFC
      let tab (n : Nat) : DWord := sw n + 4 * ((w n).extractLsb' 0 18).signExtend 64
      (∀ n ∈ grp s, ∃ x y l c q, (curStrand s n).masks = x :: y :: l ∧ (curStrand s n).calls = c :: q ∧ (x.extractLsb' 4 3 : BitVec 3) = 0 ∧
        (c.extractLsb' 0 2 : BitVec 2) = 0 ∧ y.getLsbD 6 = true ∧ c.getLsbD 62 = true ∧ c.getLsbD 61 = false ∧
        y.extractLsb' 0 4 &&& ~~~ (curStrand s n).dead = 0) →
      fetched ((grp s).map (fun n => (sw n).toNat)) s = some ((grp s).map w, a) →
      fetched ((grp s).map (fun n => (tab n + 4).toNat)) a = some ((grp s).map o, b) →
      exec .join s = .next (steer b (fun n _ => let t := curStrand s n
        { t with masks := t.masks.drop 2, calls := t.calls.drop 1, wait := .none, pc := tab n + 4 * (o n).signExtend 64 }))) ∧
    (∀ (a b : State) (w o : Nat → Word), let sw (n : Nat) : DWord := (curStrand s n).calls.headD 0 &&& 0x01FFFFFFFFFFFFFC
      let tab (n : Nat) : DWord := sw n + 4 * ((w n).extractLsb' 0 18).signExtend 64
      (∀ n ∈ grp s, ∃ x y l c q, (curStrand s n).masks = x :: y :: l ∧ (curStrand s n).calls = c :: q ∧ (x.extractLsb' 4 3 : BitVec 3) = 0 ∧
        (c.extractLsb' 0 2 : BitVec 2) = 0 ∧ y.getLsbD 6 = true ∧ c.getLsbD 62 = true ∧ c.getLsbD 61 = true ∧
        y.extractLsb' 0 4 &&& ~~~ (curStrand s n).dead = 0) →
      fetched ((grp s).map (fun n => (sw n).toNat)) s = some ((grp s).map w, a) →
      fetched ((grp s).map (fun n => (tab n + 4).toNat)) a = some ((grp s).map o, b) →
      exec .ret s = .next (steer b (fun n _ => let t := curStrand s n
        { t with masks := t.masks.drop 2, calls := t.calls.drop 1, wait := .none, pc := tab n + 4 * (o n).signExtend 64 }))) ∧
    ((∃ n ∈ grp s, (curStrand s n).masks.length < 2 ∨ ∃ x l, (curStrand s n).masks = x :: l ∧ (x.extractLsb' 4 3 : BitVec 3) ≠ 0) →
      exec .join s = .next (trapAll s .illegal (instrWord .join))) ∧
    ((∃ n ∈ grp s, (curStrand s n).calls = [] ∨ ∃ c q, (curStrand s n).calls = c :: q ∧ (c.extractLsb' 0 2 : BitVec 2) ≠ 0) →
      exec .ret s = .next (trapAll s .illegal (instrWord .ret)))

/-- 21 R357 and R358: the count is the table’s first word; a strand with no live lane goes to the join point of word 1,
another to word 2 + k for the index k of its lowest live lane. With a count of 0 or above 65535 every strand that has a live lane
traps BRTAB in its live lanes, and else each strand with a live lane whose index is no less than the count traps BRTAB in those lanes,
the table’s address in EADDR; a stack without room for the next case traps CALLDEPTH (14 R246). Entering a switch pushes the remaining lanes marked with bit
6, the lanes of the case, and the switch’s address marked with bit 62, and bit 61 for CALLT; a strand that comes back to its switch
replaces the remaining lanes and pushes only the lanes of the case; one that comes back with none left drops both entries. -/
def Obligations.table_jump_results : Prop :=
  ∀ (s : State),
    (∀ (x : BitVec 6) (off : BitVec 18) (count : Word) (a b : State) (w : Nat → Word),
      let table := curPc s + 4 * off.signExtend 64
      uniFree s .user [] [] →
      (∀ n ∈ grp s, let t := curStrand s n
        t.allowed (curSkein s).nreg [x.toNat] = true ∧ t.awaits [x.toNat] t.liveLanes = false ∧ t.lostLanes [x.toNat] t.liveLanes = 0 ∧
          (∀ j, t.liveLanes.getLsbD j = true → (t.v x.toNat j).toNat < count.toNat) ∧ t.roomForCase false = true) →
      ((0 < count.toNat ∧ count.toNat < 65536) ∨ ∀ n ∈ grp s, (curStrand s n).liveLanes = 0) → fetched [table.toNat] s = some ([count], a) →
      fetched ((grp s).map (fun n => (table + 4 * dw (match (curStrand s n).caseOf x with
        | some k => 2 + k
        | none => 1)).toNat)) a = some ((grp s).map w, b) →
      exec (.brt x off) s = .next (steer b (fun n t =>
        if t.liveLanes = 0 then t.skipSwitch false (table + 4 * (w n).signExtend 64) else t.dispatch x false (table + 4 * (w n).signExtend 64)))) ∧
    (∀ (x : BitVec 6) (off : BitVec 18) (count : Word) (a b : State) (w : Nat → Word),
      let table := curPc s + 4 * off.signExtend 64
      uniFree s .user [] [] →
      (∀ n ∈ grp s, let t := curStrand s n
        t.allowed (curSkein s).nreg [x.toNat] = true ∧ t.awaits [x.toNat] t.liveLanes = false ∧ t.lostLanes [x.toNat] t.liveLanes = 0 ∧
          (∀ j, t.liveLanes.getLsbD j = true → (t.v x.toNat j).toNat < count.toNat) ∧ t.roomForCase true = true) →
      ((0 < count.toNat ∧ count.toNat < 65536) ∨ ∀ n ∈ grp s, (curStrand s n).liveLanes = 0) → fetched [table.toNat] s = some ([count], a) →
      fetched ((grp s).map (fun n => (table + 4 * dw (match (curStrand s n).caseOf x with
        | some k => 2 + k
        | none => 1)).toNat)) a = some ((grp s).map w, b) →
      exec (.callt x off) s = .next (steer b (fun n t =>
        if t.liveLanes = 0 then t.skipSwitch true (table + 4 * (w n).signExtend 64) else t.dispatch x true (table + 4 * (w n).signExtend 64)))) ∧
    (∀ (x : BitVec 6) (off : BitVec 18) (count : Word) (a : State),
      let table := curPc s + 4 * off.signExtend 64
      let beyond (n : Nat) : BitVec 4 := laneMask (fun j => (curStrand s n).liveLanes.getLsbD j && decide (count.toNat ≤ ((curStrand s n).v x.toNat j).toNat))
      uniFree s .user [] [] →
      (∀ n ∈ grp s, let t := curStrand s n
        t.allowed (curSkein s).nreg [x.toNat] = true ∧ t.awaits [x.toNat] t.liveLanes = false ∧ t.lostLanes [x.toNat] t.liveLanes = 0) →
      fetched [table.toNat] s = some ([count], a) → (∃ n ∈ grp s, (curStrand s n).liveLanes ≠ 0) →
      (count.toNat = 0 ∨ 65535 < count.toNat →
        (exec (.brt x off) s = .next (trapGroup a (fun n => let t := curStrand s n
          if t.liveLanes = 0 then none else some (trapOf t.liveLanes .brtab t.pc table)))) ∧
        (exec (.callt x off) s = .next (trapGroup a (fun n => let t := curStrand s n
          if t.liveLanes = 0 then none else some (trapOf t.liveLanes .brtab t.pc table))))) ∧
      (0 < count.toNat ∧ count.toNat < 65536 → (∃ n ∈ grp s, beyond n ≠ 0) →
        (exec (.brt x off) s = .next (trapGroup a (fun n =>
          if beyond n = 0 then none else some (trapOf (beyond n) .brtab (curStrand s n).pc table)))) ∧
        (exec (.callt x off) s = .next (trapGroup a (fun n =>
          if beyond n = 0 then none else some (trapOf (beyond n) .brtab (curStrand s n).pc table))))) ∧
      (0 < count.toNat ∧ count.toNat < 65536 → (∀ n ∈ grp s, beyond n = 0) →
        ((∃ n ∈ grp s, (curStrand s n).roomForCase false = false) → exec (.brt x off) s = .next (trapAll a .calldepth (instrWord (.brt x off)))) ∧
        ((∃ n ∈ grp s, (curStrand s n).roomForCase true = false) → exec (.callt x off) s = .next (trapAll a .calldepth (instrWord (.callt x off)))))) ∧
    (∀ (t : Strand) (x : BitVec 6) (q : Bool) (dst : DWord) (k : Nat), t.continues q = true → t.caseOf x = some k →
      t.dispatch x q dst = { t with
        masks := (laneMask (fun j => t.liveLanes.getLsbD j && (t.v x.toNat j).toNat == k)).setWidth 8 ::
          ((laneMask (fun j => t.liveLanes.getLsbD j && (t.v x.toNat j).toNat != k)).setWidth 8 ||| 0x40) :: t.masks.drop 1,
        pc := dst, wait := .none }) ∧
    (∀ (t : Strand) (q : Bool) (dst : DWord), t.skipSwitch q dst =
      if t.continues q then { t with masks := t.masks.drop 1, calls := t.calls.drop 1, pc := dst, wait := .none }
      else { t with pc := dst, wait := .none }) ∧
    (∀ (t : Strand) (q : Bool), t.continues q = true ↔ ∃ m ms c cs, t.masks = m :: ms ∧ t.calls = c :: cs ∧ m.getLsbD 6 = true ∧
      c.getLsbD 62 = true ∧ c.getLsbD 61 = q ∧ c &&& 0x01FFFFFFFFFFFFFC = t.pc) ∧
    (∀ (t : Strand) (x : BitVec 6) (q : Bool) (dst : DWord) (k : Nat), t.continues q = false → t.caseOf x = some k →
      t.dispatch x q dst = { t with
        masks := (laneMask (fun j => t.liveLanes.getLsbD j && (t.v x.toNat j).toNat == k)).setWidth 8 ::
          ((laneMask (fun j => t.liveLanes.getLsbD j && (t.v x.toNat j).toNat != k)).setWidth 8 ||| 0x40) :: t.masks,
        calls := (t.pc ||| 0x4000000000000000 ||| (if q then 0x2000000000000000 else 0)) :: t.calls, pc := dst, wait := .none })

/-- 21 R362: a group goes on behind YIELD, and counts as stalled until it issues again. 21 R363: WAIT retires when each field is
at its largest value or no less than its counter, and neither a copy fault nor a field fault that it would deliver is pending.
13 R237 to R239: the group goes on behind FENCE, which stays in flight (the model's choice, log entry 14), after a release has written
the skein’s ordered lines back. While it is there, no later atomic and no later packet of the group that it orders is performed: the
event at the home or at the stack leaves it in flight and memory as it was. One whose order holds already is gone at once: no reply is
outstanding (acquire kinds), no access that it orders is unperformed (release kinds; at CORE scope with neither C nor X a plain store
to a word that no order log or gate watches does not count), no copy or COLL of the group is under way (C), nor a transfer (X); an acquire then invalidates. -/
def Obligations.wait_and_fence_results : Prop :=
  ∀ (s : State) (l st cp : BitVec 4) (tl xf : BitVec 3) (sc : BitVec 3) (k : BitVec 2) (c x : BitVec 1), uniFree s .user [] [] →
    exec .yield s = .next (mapStrands (retire s 4) s.cur.sid s.cur.ply (grp s) (fun _ t => { t with wait := .yielded })) ∧
    ((∀ n ∈ grp s, let t := curStrand s n
        (l = 15 ∨ t.replies.length ≤ l.toNat) ∧ (st = 15 ∨ t.stores.length ≤ st.toNat) ∧ (cp = 15 ∨ t.cp ≤ cp.toNat ∧ t.faults = []) ∧
          (tl = 7 ∨ t.tl ≤ tl.toNat) ∧ (xf = 7 ∨ t.xf ≤ xf.toNat ∧ ∀ y ∈ t.xfers, y.failed = 0)) →
      exec (.wait l st cp tl xf) s = .next (retire s 4)) ∧
    ((∃ n ∈ grp s, let t := curStrand s n
        (l ≠ 15 ∧ l.toNat < t.replies.length) ∨ (st ≠ 15 ∧ st.toNat < t.stores.length) ∨ (cp ≠ 15 ∧ cp.toNat < t.cp) ∨
          (tl ≠ 7 ∧ tl.toNat < t.tl) ∨ (xf ≠ 7 ∧ xf.toNat < t.xf)) →
      (∀ n ∈ grp s, (curStrand s n).faults = [] ∧ ∀ y ∈ (curStrand s n).xfers, y.failed = 0) →
      exec (.wait l st cp tl xf) s = .next (stall s .poll)) ∧
    (sc.toNat < 6 → k ≠ 0 → let full := sc == 5 && k == 3
      let f : Fence := { core := curCore s, sid := s.cur.sid, ply := s.cur.ply, strands := grp s, acq := k != 2, rel := k != 1, wide := sc != 0,
                         all := full, cp := c == 1, xf := x == 1, tag := s.seq }
      let a := if sc ≠ 0 ∧ k ≠ 1 then writeOrdered s full else s
      exec (.fence sc k c x) s = .next (retire (settleFences { a with flight := a.flight ++ [.fence f], seq := a.seq + 1 }) 4) ∧
      ((∀ i ∈ s.flight, match i with
          | .fence _ => False
          | _ => True) → (k ≠ 2 → ∀ n ∈ grp s, (curStrand s n).replies = []) →
        (k ≠ 1 → ∀ i ∈ s.flight, ∀ e ∈ i.pending, f.earlier e = true → sc = 0 ∧ c = 0 ∧ x = 0 ∧ watched s e.2.pa e.2.size = false ∧ (match i with
          | .gatherHome p => p.write = true
          | .gatherStack p => p.write = true
          | _ => False)) →
        (c = 1 → (∀ y ∈ s.copies, f.counts y.sid y.ply y.seq y.lanes = false) ∧ ∀ y ∈ s.collWaits, f.counts y.sid y.ply y.seq y.lanes = false) →
        (x = 1 → ∀ n ∈ grp s, ∀ y ∈ (curStrand s n).xfers, y.undecided = 0 ∧ y.awaiting = 0) →
        exec (.fence sc k c x) s = .next (retire (let b := { a with seq := a.seq + 1 }
          if sc ≠ 0 ∧ k ≠ 2 then acquire b (curCore s) full else b) 4))) ∧
    (∀ (u : State) (f : Fence) (m n : Nat), m < n → u.flight[m]? = some (.fence f) →
      (∀ r : AtomReq, u.flight[n]? = some (.atomic r) → (∃ e ∈ (Item.atomic r).pending, f.holds true e = true) → exec (.atomicAtHome n) u = .next u) ∧
      (∀ p : Packet, u.flight[n]? = some (.gatherStack p) → p.lanes ≠ [] → (p.lanes.map (fun l => l.lane)).Nodup → runTogether u p = none →
        (∀ l ∈ p.lanes, l.finished = false ∧ ∃ e ∈ { p with lanes := [l] }.accesses, f.holds p.write e = true) →
        ∃ t, exec (.gatherPacketAtStack n) u = .next t ∧ t.mem = u.mem ∧ t.flight = u.flight))

/-- 21 R364: BAR arrives for each strand and waits, BARA arrives and goes on, BARW waits while a generation is open; a count
above the skein’s strands, or unlike the open generation’s, traps PROT. Each first waits for the group’s accesses to words that
an order log or gate watches: 13 R240 with 15 R282, as the model performs stores to such words at their home (log entry 15). A
generation completes when its arrivals reach its count less the strands that died before arriving, 1 at least, or with count 0 the
live strands (14 R266); its waiters go on behind their word, and the plies that share it see what the others have written into W
registers (07 R128). -/
def Obligations.named_barrier_results : Prop :=
  ∀ (s : State) (m : BitVec 4) (c : BitVec 10), uniFree s .user [] [] →
    let b := Tbl.get Barrier.reset (curSkein s).bars m.toNat
    let no := (curSkein s).plies * (curSkein s).strands < c.toNat ∨ (b.inUse = true ∧ b.expected ≠ c.toNat)
    ((∃ n ∈ grp s, (curStrand s n).wait ≠ .barrier m.toNat) → ¬ no → watchedAway s = false → exec (.bar m c) s = .next (settleParts ((grp s).foldl (fun a n =>
      arrive (setWait a n (.barrier m.toNat)) a.cur.sid a.cur.ply n m.toNat c.toNat) s))) ∧
    (¬ no → watchedAway s = false → exec (.bara m c) s = .next (let a := (grp s).foldl (fun a n => arrive a a.cur.sid a.cur.ply n m.toNat c.toNat) s
      retire (partAll a a.cur.sid) 4)) ∧
    ((∃ n ∈ grp s, (curStrand s n).wait ≠ .barrier m.toNat) → no → exec (.bar m c) s = .next (trapAll s .prot 0)) ∧
    (no → exec (.bara m c) s = .next (trapAll s .prot 0)) ∧
    ((∃ n ∈ grp s, (curStrand s n).wait ≠ .barrier m.toNat) → watchedAway s = false → b.inUse = false → exec (.barw m) s = .next (retire s 4)) ∧
    ((∃ n ∈ grp s, (curStrand s n).wait ≠ .barrier m.toNat) → watchedAway s = false → b.inUse = true → exec (.barw m) s = .next (stall s (.barrier m.toNat))) ∧
    ((∃ n ∈ grp s, (curStrand s n).wait ≠ .barrier m.toNat) → watchedAway s = true → (¬ no → exec (.bar m c) s = .next (stall s .poll)) ∧
      (¬ no → exec (.bara m c) s = .next (stall s .poll)) ∧ exec (.barw m) s = .next (stall s .poll)) ∧
    (∀ (a : State) (sid ply n : Nat), let o := Tbl.get Barrier.reset (getSkein a sid).bars m.toNat
      let g : Barrier := if o.inUse then { o with arrived := o.arrived + 1, who := o.who ++ [ply * 8 + n] }
        else { arrived := 1, expected := c.toNat, inUse := true, who := [ply * 8 + n] }
      let a' := setBar a sid m.toNat g
      arrive a sid ply n m.toNat c.toNat =
        if needOf a' sid g ≤ g.arrived then (let b := setBar a' sid m.toNat Barrier.reset
          releaseWait (setSkein b sid ((getSkein b sid).meetPlies (meeting a' sid m.toNat g))) sid (.barrier m.toNat)) else a') ∧
    (∀ (a : State) (sid : Nat) (g : Barrier), let all := (List.range (getSkein a sid).plies).flatMap (fun p => (List.range (getSkein a sid).strands).map (fun n => (p, n)))
      let st (e : Nat × Nat) : Strand := getStrand a (strandKey sid e.1 e.2)
      needOf a sid g = if g.expected = 0 then (all.filter (fun e => (st e).live && (st e).dead != 0xF)).length
        else max 1 (g.expected - (all.filter (fun e => (st e).dead == 0xF && !(g.who.contains (e.1 * 8 + e.2)))).length)) ∧
    (∀ (a : State) (sid p n : Nat) (w : Wait), (getSkein a sid).plies ≤ 16 → (getSkein a sid).strands ≤ 8 → p < (getSkein a sid).plies → n < (getSkein a sid).strands →
      let t := getStrand a (strandKey sid p n)
      getStrand (releaseWait a sid w) (strandKey sid p n) = if t.live = true ∧ t.wait = w then { t with wait := .none, pc := t.pc + 4 } else t)

/-- 12 R215: TWIST waits for every live strand of the ply, and then they form one part for each address. 12 R225, 21 R366:
SBAR waits for every member skein, after the release of its lines, and completes with an acquire in each; outside a
co-resident launch, and at level 4 with no handle bound, it traps PROT. That a group stalls before it arrives while an access of it is
unperformed (log entry 14), that each arrival at levels 1 and 2 joins the skeins then placed there, which stay members, and that at
level 4 the members on other packages count as arrived (log entry 30) are the model's choices. 21 R361: EXIT ends strands whose
counters are zero. 21 R367: UOWN hands the named W registers to a ply, which sees them as they are. -/
def Obligations.meeting_and_exit_results : Prop :=
  ∀ (s : State),
    (uniFree s .user [] [] → let a := mapStrands s s.cur.sid s.cur.ply (grp s) (fun _ t => { t with wait := .twist })
      let live := liveOfPly a s.cur.sid s.cur.ply
      exec .twist s = .next (if ∀ n ∈ live, (getStrand a (strandKey s.cur.sid s.cur.ply n)).wait = .twist then
        tick (refocus (mapStrands (setParts a s.cur.sid s.cur.ply (byPc a s.cur.sid s.cur.ply live)) s.cur.sid s.cur.ply live
          (fun _ t => { t with wait := .none, pc := t.pc + 4 })))
      else tick a)) ∧
    (∀ (l : BitVec 3) (la : Launch), 1 ≤ l.toNat ∧ l.toNat ≤ 4 → uniFree s .user [] [] → findLaunch s (curSkein s).launch = some la →
      la.cores = true → (l = 4 → la.handle ≠ 0) → let place := sbarPlace (curSkein s) l.toNat
      let w := Wait.sbar l.toNat place
      let out := writeOrdered s false
      let num := (curSkein s).launch
      let a := mapStrands (if ∀ n ∈ grp s, (curStrand s n).wait = w then out else joinSbar out num l.toNat place)
        s.cur.sid s.cur.ply (grp s) (fun _ t => { t with wait := w })
      let ms := sbarMembers a num l.toNat place
      ((unperformed out s.cur.sid s.cur.ply (grp s) = false ∨ ∀ n ∈ grp s, (curStrand s n).wait = w) → exec (.sbar l) s = .next (tick (refocus
        (if (l.toNat ≤ 2 ∨ la.total ≤ la.placed) ∧ ∀ m ∈ ms, sbarArrived a l.toNat place m = true
          then ms.foldl (fun b m => releaseMember b w m) (dropSbar a num l.toNat place) else a)))) ∧
      (unperformed out s.cur.sid s.cur.ply (grp s) = true → (∃ n ∈ grp s, (curStrand s n).wait ≠ w) → exec (.sbar l) s = .next (stall out .poll))) ∧
    (∀ (l : BitVec 3), 1 ≤ l.toNat ∧ l.toNat ≤ 4 → uniFree s .user [] [] →
      (∀ la, findLaunch s (curSkein s).launch = some la → la.cores = false ∨ (l = 4 ∧ la.handle = 0)) → exec (.sbar l) s = .next (trapAll s .prot 0)) ∧
    (∀ (b : State) (num lv place : Nat), lv ≤ 2 → ∃ g, sbarAt (joinSbar b num lv place) num lv place = some g ∧ ∀ m, m ∈ g.members ↔
      m ∈ placedAt b num lv place ∨ (sbarOpen b num lv place = true ∧ ∃ o, sbarAt b num lv place = some o ∧ m ∈ o.members)) ∧
    (∀ (b : State) (w : Wait) (m : Nat), (getSkein b m).place = .resident →
      releaseMember b w m = (let c := acquire b (getSkein b m).core false
        partAll (releaseWait (setSkein c m { getSkein c m with late := [] }) m w) m)) ∧
    (uniFree s .user [] [] → (∀ n ∈ grp s, (curStrand s n).edepth = 0 ∧ (curStrand s n).mode ≠ .hypervisor ∧ (curStrand s n).faults = [] ∧
        (curStrand s n).idle = true ∧ ∀ y ∈ (curStrand s n).xfers, y.failed = 0) → grp s ≠ [] →
      exec .exit s = .next (tick (let b := endStrands s s.cur.sid s.cur.ply (grp s)
        { b with cur := { b.cur with strands := [] } }))) ∧
    (uniFree s .user [] [] → (∃ n ∈ grp s, (curStrand s n).edepth ≠ 0 ∨ (curStrand s n).mode = .hypervisor) →
      exec .exit s = .next (trapAll s .illegal (instrWord .exit))) ∧
    (∀ (a : BitVec 5) (p : BitVec 4), uniFree s .user [a.toNat] [] → p.toNat < (curSkein s).plies →
      (∀ w, 1 ≤ w → w < 32 → (wReg s a.toNat).getLsbD w = true → Tbl.get 0 (curSkein s).writer w = s.cur.ply) →
      exec (.uown a p) s = .next (retire (setSkein s s.cur.sid { curSkein s with
        writer := ((rangeFrom 1 31).filter (fun w => (wReg s a.toNat).getLsbD w)).foldl (fun m w => Tbl.set 0 m w p.toNat) (curSkein s).writer,
        late := (curSkein s).late.filter (fun e => !(e.ply == p.toNat && ((rangeFrom 1 31).filter (fun w => (wReg s a.toNat).getLsbD w)).contains e.reg)) }) 4))

/-- 07 R123 and R124: a request is a multiple of 8 above zero with at most 1024 registers and the pool’s size in all, else
REGWIN; RGROW is granted when the core’s free registers suffice and blocks otherwise; RGTRY writes 0 or 1; RSHRK removes
registers that no window of a strand, live or not, reaches and no reply still writes, and else traps REGWIN; VWBS takes a multiple of 8 below NREG. -/
def Obligations.register_window_results : Prop :=
  ∀ (s : State) (d a : BitVec 5), uniFree s .user [a.toNat] [] → let k := curSkein s
    let n := (wReg s a.toNat).toNat
    let bad := (n = 0 ∨ n % 8 ≠ 0 ∨ 1024 < k.nreg + n ∨ 131072 < k.plies * k.strands * 4 * (k.nreg + n + 16))
    let fits := poolUsed s k.core + (k.plies * k.strands * 4 * n) ≤ 131072
    let more := setSkein s s.cur.sid { k with nreg := k.nreg + n }
    (¬ bad → fits → exec (.rgrow a) s = .next (retire more 4)) ∧
    (¬ bad → ¬ fits → exec (.rgrow a) s = .next (stall s (.grow n))) ∧
    (bad → exec (.rgrow a) s = .next (trapAll s .regwin (instrWord (.rgrow a)))) ∧
    (uniFree s .user [] [d.toNat] → ¬ bad → exec (.rgtry d a) s = .next (if fits then uniResult more d.toNat 0 else uniResult s d.toNat 1)) ∧
    (uniFree s .user [] [d.toNat] → bad → exec (.rgtry d a) s = .next (trapAll s .regwin (instrWord (.rgtry d a)))) ∧
    (n ≠ 0 → n % 8 = 0 → n + 8 ≤ k.nreg → (∀ p < k.plies, ∀ m < k.strands, let t := getStrand s (strandKey s.cur.sid p m)
        t.vwb < k.nreg - n ∧ ∀ r ∈ t.replies, r.sup = true ∨ r.reg + r.count ≤ k.nreg - n) →
      exec (.rshrk a) s = .next (let b := (skeinAll k).foldl (fun b e => let key := strandKey s.cur.sid e.1 e.2
          setStrand b key ((getStrand b key).shrink (k.nreg - n))) s
        retire (setSkein b s.cur.sid { k with nreg := k.nreg - n }) 4)) ∧
    ((n = 0 ∨ n % 8 ≠ 0 ∨ k.nreg < n + 8 ∨ ∃ p < k.plies, ∃ m < k.strands, k.nreg - n ≤ (getStrand s (strandKey s.cur.sid p m)).vwb) →
      exec (.rshrk a) s = .next (trapAll s .regwin (instrWord (.rshrk a)))) ∧
    (n % 8 = 0 → n < k.nreg → exec (.vwbs a) s = .next (groupResult s (fun t => { t with vwb := n }))) ∧
    ((n % 8 ≠ 0 ∨ k.nreg ≤ n) → exec (.vwbs a) s = .next (trapAll s .regwin (instrWord (.vwbs a))))

/-- 07 R129: registers 100h and above need S mode and those from 200h H mode, else PRIV. 21 R369: FSTAT keeps six bits, EPC,
EVEC, HEPC and HVEC drop bits 1 and 0, EPC and EMASK name the trap-state set of EDEPTH, ESCR registers hold all bits. 06
R114: LSMODE takes effect later; a value above 3 traps ILLEGAL where the change to MODE 0 would trap PROT as well, which is the
model's choice (log entry 67); 16 R292: PCAP is brought into range for the next interval. -/
def Obligations.special_register_results : Prop :=
  ∀ (s : State) (d a : BitVec 5) (i : BitVec 14) (w : DWord), wReg s a.toNat = w →
    (srListed i.toNat = true → uniFree s (srMode i.toNat) [] [d.toNat] → (i = 0x018 → requantizing s ((grp s).headD 0) = false) → exec (.srdu d i) s = .next (uniResult s d.toNat
      (let l := if i = 0 ∨ i = 0x101 then srLane s else ((grp s).headD 0, 0)
       srRead s i.toNat l.1 l.2))) ∧
    (uniFree s .user [a.toNat] [] → (∀ n ∈ grp s, requantizing s n = false) → exec (.swr a 0x018) s = .next (groupResult s (fun t => { t with fstat := w.setWidth 6 }))) ∧
    (uniFree s .supervisor [a.toNat] [] → exec (.swr a 0x100) s = .next (groupResult s (fun t => if t.edepth = 0 then t else if t.edepth = 2 then { t with set2 := { t.set2 with epc := w &&& ~~~ 3 } }
        else { t with set1 := { t.set1 with epc := w &&& ~~~ 3 } })) ∧
      exec (.swr a 0x102) s = .next (groupResult s (fun t => if t.edepth = 0 then t else if t.edepth = 2 then { t with set2 := { t.set2 with emask := w.setWidth 4 } }
        else { t with set1 := { t.set1 with emask := w.setWidth 4 } })) ∧
      exec (.swr a 0x104) s = .next (groupResult s (fun t => { t with evec := w &&& ~~~ 3 })) ∧
      (0x106 ≤ i.toNat → i.toNat ≤ 0x10D → exec (.swr a i) s = .next (groupResult s (fun t => { t with escr := Tbl.set 0 t.escr (i.toNat - 0x106) w }))) ∧
      (w.toNat < 4 → (w.getLsbD 0 = true ∨ slottedOn s (curCore s) = false) →
        exec (.swrLsmode a) s = .next (retire (setCore s (curCore s) { getCore s (curCore s) with pend := some (w.getLsbD 0) }) 4)) ∧
      (4 ≤ w.toNat → exec (.swrLsmode a) s = .next (trapAll s .illegal (instrWord (.swrLsmode a)))) ∧
      (w.toNat < 4 → w.getLsbD 0 = false → slottedOn s (curCore s) = true → exec (.swrLsmode a) s = .next (trapAll s .prot 0))) ∧
    (uniFree s .hypervisor [a.toNat] [] → exec (.swr a 0x201) s = .next (groupResult s (fun t => { t with hepc := w &&& ~~~ 3 })) ∧
      exec (.swr a 0x202) s = .next (groupResult s (fun t => { t with hvec := w &&& ~~~ 3 })) ∧
      (w.toNat < 256 → exec (.swr a 0x205) s = .next (groupResult s (fun t => { t with energySel := w.setWidth 8 }))) ∧
      (256 ≤ w.toNat → exec (.swr a 0x205) s = .next (trapAll s .illegal (instrWord (.swr a 0x205)))) ∧
      exec (.swrPcap a) s = .next (retire (setPart s (curSkein s).part { getPart s (curSkein s).part with
        pcapNext := capOf s (curSkein s).part w.toNat }) 4)) ∧
    (0x100 ≤ i.toNat → srWritable i.toNat = true → i ≠ 0x110 → i ≠ 0x203 → (∃ n ∈ grp s, (curStrand s n).mode = .user) →
      exec (.swr a i) s = .next (trapAll s .priv (instrWord (.swr a i))))

/-- 06 R110 and R111: each active lane names the offset in bits 59 to 0 of W[WB] + V[A]; once every lane is aligned and in
bounds, loads deliver the bytes of the store, and stores are made in ascending lane order, so that the highest lane remains.
An LDL or STL of 16 bytes makes one half now, the upper one where the schedule has it first, and the group waits for the other, which
finishHalf makes (20 R336, log entry 58). LDLFE needs every granule full and with C empties it; STLFE fills it. ATOML reads and writes lane after lane. -/
def Obligations.local_store_results : Prop :=
  ∀ (s : State) (g : Guard) (d a : BitVec 6) (wb : BitVec 4) (sz : BitVec 2) (c : BitVec 1), let size := Machine.sizeOf sz
    let ds := rangeFrom d.toNat (regsOf sz)
    let ls := localLanes s g wb a
    let k := curSkein s
    let near := if s.upper = true then 8 else 0
    let far := if s.upper = true then 0 else 8
    let got := ls.foldl (fun b l => deliverLane b d.toNat (regsOf sz) l.1 (lsRead k l.2 size)) s
    laneFree s g .user [] [[a.toNat]] → baseFree s g wb.toNat →
    ((Instr.ldl g d a wb sz).wf = true → laneFree s g .user [ds] [] → localPasses s g wb a size → (∀ n ∈ acting s g, (curStrand s n).replies.length < 63) →
      (sz ≠ 2 ∨ ls = [] → exec (.ldl g d a wb sz) s = .next (retire got 4)) ∧
      (sz = 2 → ls ≠ [] → exec (.ldl g d a wb sz) s = .next (beginHalf
        (ls.foldl (fun b l => deliverHalf b (origin s 0) (localHalf s d.toNat near [] l) (lsRead k (l.2 + near) 8)) s)
        { org := origin s 0, strands := grp s, near := true, write := false, lanes := ls.map (localHalf s d.toNat far []) }))) ∧
    ((Instr.ldlfe g d a wb c sz).wf = true → laneFree s g .user [ds] [] → localPasses s g wb a size → (∀ n ∈ acting s g, (curStrand s n).replies.length < 63) →
      (∀ l ∈ ls, Tbl.get false k.full (l.2 / 16) = true) → exec (.ldlfe g d a wb c sz) s = .next (retire (if c = 1 then
        setSkein got got.cur.sid (ls.foldl (fun k l => { k with full := Tbl.set false k.full (l.2 / 16) false }) (curSkein got)) else got) 4)) ∧
    ((Instr.ldlfe g d a wb c sz).wf = true → laneFree s g .user [ds] [] → localPasses s g wb a size → (∀ n ∈ acting s g, (curStrand s n).replies.length < 63) →
      (∃ l ∈ ls, Tbl.get false k.full (l.2 / 16) = false) → exec (.ldlfe g d a wb c sz) s = .next (stall s .fullEmpty)) ∧
    ((Instr.stl g d a wb sz).wf = true → laneFree s g .user [] [ds] → localPasses s g wb a size → (∀ n ∈ acting s g, (curStrand s n).stores.length < 63) →
      (sz ≠ 2 ∨ ls = [] → exec (.stl g d a wb sz) s = .next (retire (setSkein s s.cur.sid
        (ls.foldl (fun k l => lsWrite k l.2 (storeBytes s d.toNat size l.1)) k)) 4)) ∧
      (sz = 2 → ls ≠ [] → exec (.stl g d a wb sz) s = .next (beginHalf (setSkein s s.cur.sid
        (ls.foldl (fun k l => lsWrite k (l.2 + near) (((storeBytes s d.toNat 16 l.1).drop near).take 8)) k))
        { org := origin s 0, strands := grp s, near := true, write := true,
          lanes := ls.map (fun l => localHalf s d.toNat far (((storeBytes s d.toNat 16 l.1).drop far).take 8) l) }))) ∧
    ((Instr.stlfe g d a wb sz).wf = true → laneFree s g .user [] [ds] → localPasses s g wb a size → (∀ n ∈ acting s g, (curStrand s n).stores.length < 63) →
      exec (.stlfe g d a wb sz) s = .next (retire (setSkein s s.cur.sid
        (ls.foldl (fun k l => setFull (lsWrite k l.2 (storeBytes s d.toNat size l.1)) l.2 size) k)) 4)) ∧
    ((Instr.atoml g d a wb sz).wf = true → laneFree s g .user [[d.toNat]] [rangeFrom d.toNat (if sz = 3 then 2 else 1)] →
      localPasses s g wb a 4 → (∀ n ∈ acting s g, (curStrand s n).replies.length < 63) → exec (.atoml g d a wb sz) s = .next (retire (ls.foldl (fun b l =>
        let t := curStrand b (l.1 / 4)
        let old := lsRead (curSkein b) l.2 4
        let w : Word := BitVec.ofNat 32 (bytesToNat (old.map (fun p => p.val)))
        let v := t.v d.toNat (l.1 % 4)
        let new := if sz = 0 then w + v else if sz = 1 then w ||| v else if sz = 2 then v
          else if w = v then t.v (d.toNat + 1) (l.1 % 4) else w
        let b' := if old.any (fun p => p.bad) then b else setSkein b b.cur.sid (lsWrite (curSkein b) l.2 (clean (natToBytes new.toNat 4)))
        deliverLane b' d.toNat 1 l.1 old) s) 4))

/-- 20 R341 and R342: when every active lane’s check passes, LDG and LDGC deliver what the L1 holds and send packets for the
rest, which a reply entry of each strand awaits; STG sends the bytes of V[D] onwards, or places them in the L1 of a region
held write-back, and folds them into the digests. An access of 16 bytes goes in two halves, of which the schedule picks the first (20 R336, log entry 58). The issue
itself is `issueLoads` and `issueStores` of Machine/Global.lean.
-/
def Obligations.global_access_results : Prop :=
  ∀ (s : State) (g : Guard) (d a : BitVec 6) (wb : BitVec 4) (ord sz : BitVec 2) (ok : List (LaneChk × Xl × Bool)), let va := vaOf s wb a
    let ds := rangeFrom d.toNat (regsOf sz)
    laneFree s g .user [] [[a.toNat]] → baseFree s g wb.toNat →
    ((Instr.ldg g d a wb ord sz).wf = true → laneFree s g .user [ds] [] → (∀ n ∈ acting s g, (curStrand s n).replies.length < 63) →
      lanesPass s g .load (Machine.sizeOf sz) (Machine.sizeOf sz) va ok → exec (.ldg g d a wb ord sz) s = .next (issueLoads d.toNat (regsOf sz) (Machine.sizeOf sz) ord 0 (keptXl s (ok.map (fun c => c.2.1))) ok)) ∧
    ((Instr.ldgc g d a wb ord sz).wf = true → laneFree s g .user [[d.toNat]] [] → (∀ c ∈ ok, c.2.1.cnv ≠ 0) → (∀ n ∈ acting s g, (curStrand s n).replies.length < 63) →
      lanesPass s g .conv 4 4 va ok → exec (.ldgc g d a wb ord sz) s = .next (issueLoads d.toNat 1 4 ord sz (keptXl s (ok.map (fun c => c.2.1))) ok)) ∧
    ((Instr.stg g d a wb ord sz).wf = true → laneFree s g .user [] [ds] → (∀ n ∈ acting s g, (curStrand s n).stores.length < 63) →
      lanesPass s g .store (Machine.sizeOf sz) (Machine.sizeOf sz) va ok → exec (.stg g d a wb ord sz) s = .next (issueStores d.toNat (Machine.sizeOf sz) ord (keptXl s (ok.map (fun c => c.2.1))) ok))

/-- 20 R343 and R345: SZ selects the operation; ATOMGB.CAS and ATOMG64.CAS take the replacement from the registers behind
the operand; REDG’s pair covers 8 bytes at a multiple of 4. Every lane’s check counts as a store; lanes on one word travel
in ascending order. `issueAtomics` builds the requests, one for each word that the lanes name, which is the model's choice (log
entry 28). -/
def Obligations.atomic_issue_results : Prop :=
  ∀ (s : State) (g : Guard) (d a : BitVec 6) (wb : BitVec 4) (ord sz : BitVec 2) (ok : List (LaneChk × Xl × Bool)), let va := vaOf s wb a
    laneFree s g .user [] [[a.toNat]] → baseFree s g wb.toNat →
    ((Instr.atomga g d a wb ord sz).wf = true → laneFree s g .user [rangeFrom d.toNat 1] [rangeFrom d.toNat (1 * (if false then 2 else 1))] → (∀ n ∈ acting s g, (curStrand s n).replies.length < 63) →
      lanesPass s g .atomic (4) 4 va ok → exec (.atomga g d a wb ord sz) s = .next (issueAtomics
        { op := (if sz = 0 then .add else if sz = 1 then .mins else if sz = 2 then .maxs else .exch), width := 4, align := 4, regs := 1, repl := false, reply := true } d.toNat ord (keptXl s (ok.map (fun c => c.2.1))) ok)) ∧
    ((Instr.atomgb g d a wb ord sz).wf = true → laneFree s g .user [rangeFrom d.toNat 1] [rangeFrom d.toNat (1 * (if (sz == 3) then 2 else 1))] → (∀ n ∈ acting s g, (curStrand s n).replies.length < 63) →
      lanesPass s g .atomic (4) 4 va ok → exec (.atomgb g d a wb ord sz) s = .next (issueAtomics
        { op := (if sz = 0 then .and else if sz = 1 then .or else if sz = 2 then .xor else .cas), width := 4, align := 4, regs := 1, repl := (sz == 3), reply := true } d.toNat ord (keptXl s (ok.map (fun c => c.2.1))) ok)) ∧
    ((Instr.atomg64 g d a wb ord sz).wf = true → laneFree s g .user [rangeFrom d.toNat 2] [rangeFrom d.toNat (2 * (if (sz == 2) then 2 else 1))] → (∀ n ∈ acting s g, (curStrand s n).replies.length < 63) →
      lanesPass s g .atomic (8) 8 va ok → exec (.atomg64 g d a wb ord sz) s = .next (issueAtomics
        { op := (if sz = 0 then .add else if sz = 1 then .exch else if sz = 2 then .cas else .maxu), width := 8, align := 8, regs := 2, repl := (sz == 2), reply := true } d.toNat ord (keptXl s (ok.map (fun c => c.2.1))) ok)) ∧
    ((Instr.redg g d a wb ord sz).wf = true → laneFree s g .user [] [rangeFrom d.toNat (1 * (if false then 2 else 1))] → (∀ n ∈ acting s g, (curStrand s n).stores.length < 63) →
      lanesPass s g .atomic (if sz = 1 then 8 else 4) 4 va ok → exec (.redg g d a wb ord sz) s = .next (issueAtomics
        { op := (if sz = 0 then .add else if sz = 1 then .pair else if sz = 2 then .mins else .maxs), width := if sz = 1 then 8 else 4, align := 4, regs := 1, repl := false, reply := false } d.toNat ord (keptXl s (ok.map (fun c => c.2.1))) ok))

/-- 20 R346: the address is W[A] + 8 * the signed offset. A ULD that the L1 serves writes W[D] at once, or marks it where the bytes are
poisoned; another leaves as a packet, which counts in each strand’s LD until its reply. 20 R347: a UST of W[D] folds into each
strand’s digest; it stays in the L1 of a region held write-back, and else leaves and counts in each strand’s ST. -/
def Obligations.uniform_access_results : Prop :=
  ∀ (s : State) (d a : BitVec 5) (i : BitVec 14) (x : Xl), let va := (wReg s a.toNat + 8 * i.signExtend 64).toNat
    let s1 := keptXl s [x]
    let o := origin s1 0
    (uniFree s .user [a.toNat] [d.toNat] → (∀ n ∈ grp s, (curStrand s n).replies.length < 63) → rangePasses s .load [va] 8 8 [x] →
      let l := groupAcc s1 va x []
      ((∀ n ∈ grp s, loadHits s1 o n l = true) → exec (.uld d a i) s = .next (retire (setSkein s1 s.cur.sid
        ((getSkein s s.cur.sid).takeW s.cur.ply d.toNat (l1Read s1 o.core o.ctx va x.pa 8))) 4)) ∧
      ((∃ n ∈ grp s, loadHits s1 o n l = false) → exec (.uld d a i) s = .next (retire (send (expectGroup (toHomes s1 o 0 [l]) o.tag)
        (readItems s1 o 0 (some (grp s, some d.toNat)) [(l, x.die)])) 4))) ∧
    (∀ (k : Skein) (ply : Nat) (bs : List PByte), k.takeW ply d.toNat bs =
      if d = 0 then k else if bs.any (fun b => b.bad) then { k with wBad := Tbl.set false k.wBad d.toNat true }
        else k.setW ply d.toNat (BitVec.ofNat 64 (bytesToNat (bs.map (fun b => b.val))))) ∧
    (uniFree s .user [a.toNat, d.toNat] [] → (∀ n ∈ grp s, (curStrand s n).stores.length < 63) → rangePasses s .store [va] 8 8 [x] →
      ∀ back, tokenCheck s1 s.cur.sid va true x = .allowed back →
      let bs := natToBytes (wReg s d.toNat).toNat 8
      let l := groupAcc s1 va x (clean bs)
      let b := mapStrands s1 s.cur.sid s.cur.ply (grp s) (fun _ t => t.fold (storeFolds va bs))
      ((∀ n ∈ grp s, storeStays s1 o back n l = true) → exec (.ust d a i) s = .next (retire (keepStore b o l) 4)) ∧
      ((∃ n ∈ grp s, storeStays s1 o back n l = false) → exec (.ust d a i) s = .next (retire (send (expectGroupStore (toHomes b o 0 [l]) o.tag)
        (packetsOf o true 0 (some (grp s, none)) [(l, x.die)])) 4)))

/-- 03 R70 to R78: once every active lane’s cells pass their checks, XFER sends one debit for each lane that moves something
between two cells and the group waits for them; FLD sends a read of each cell, at home here or through the fabric, which a
reply entry awaits. FDOM sets DOM to a declared handle, or to 0 for W0; that one of a domain whose total home is lost traps PROT is the model's reading of
R77 (log entry 62). -/
def Obligations.field_transfer_results : Prop :=
  ∀ (s : State) (g : Guard) (d a b : BitVec 6) (m : BitVec 1) (h : BitVec 2) (w : BitVec 5),
    (laneFree s g .user [] [cellRegs s d, [a.toNat], [b.toNat]] → (∀ n ∈ acting s g, (curStrand s n).xf < 63) →
      heldByFence s (fun f => f.cp && f.xf) s.cur.sid s.cur.ply s.seq (grp s) = false →
      (∀ n ∈ grp s, ∀ j < 4, ((curStrand s n).active g).getLsbD j = true → cellFault s n j d [a, b] true (instrWord (.xfer g d a b m)) = none) →
      let xs := xferLanes s g d a b (m == 1)
      exec (.xfer g d a b m) s = .next (mapStrands (retire { s with flight := s.flight ++ xs.map Item.debit, seq := s.seq + 1 } 4)
        s.cur.sid s.cur.ply (grp s) (fun n t =>
          let ls := laneMask (fun j => xs.any (fun x => x.lane == 4 * n + j))
          if xs = [] then t
          else { t with wait := .debit, xfers := if ls = 0 then t.xfers else t.xfers ++ [⟨s.seq, t.pc - 4, ls, ls, 0, 0, 0, 0⟩] }))) ∧
    (h.toNat < 2 → laneFree s g .user [cellRegs s d] [[a.toNat]] → (∀ n ∈ acting s g, (curStrand s n).replies.length < 63) → cpHolds s false false = false →
      (∀ n ∈ grp s, ∀ j < 4, ((curStrand s n).active g).getLsbD j = true → cellFault s n j d [a] false (instrWord (.fld g d a h)) = none) →
      let o := origin s 0
      let ls := fldLanes s g a
      exec (.fld g d a h) s = .next (retire (send (expectReplies s o.tag d.toNat (fun n => if wideOf s n then 2 else 1) (ls.map (fun l => l.1)))
        (packetsOf o false 0 none ((ls.filter (fun l => l.2.2.isNone)).map (fun l => (l.1, l.2.1))) ++
          ls.filterMap (fun l => l.2.2.map (fun c => .fieldAsk o l.1 none (curSkein s).part c.1 c.2 false)))) 4)) ∧
    (uniFree s .user [w.toNat] [] → w ≠ 0 → (∃ dm, domainOf s (curSkein s) (wReg s w.toNat) = some dm ∧ dm.totalLost = false) →
      exec (.fdom w) s = .next (groupResult s (fun t => { t with dom := wReg s w.toNat }))) ∧
    (uniFree s .user [] [] → exec (.fdom 0) s = .next (groupResult s (fun t => { t with dom := 0 }))) ∧
    (uniFree s .user [w.toNat] [] → w ≠ 0 → (∀ dm, domainOf s (curSkein s) (wReg s w.toNat) = some dm → dm.totalLost = true) →
      exec (.fdom w) s = .next (trapAll s .prot (wReg s w.toNat)))

/-- 14 R248: strands with an active lane take a SYSC trap with EPC behind the word and the immediate in EADDR, the others
pass over it; BRK traps every strand with its number in EADDR. 11 R207 to R209: with a bound handle, lanes that pass R208
and member packages that pass R203, COLL sends to each distinct destination; with no active lane it only advances. -/
def Obligations.system_call_and_collective_results : Prop :=
  ∀ (s : State) (g : Guard) (i : BitVec 8) (m : BitVec 9) (d a b : BitVec 6) (o : BitVec 2),
    (laneFree s g .user [] [] → acting s g ≠ [] → exec (.sysc g i) s = .next (trapGroup
      (mapStrands s s.cur.sid s.cur.ply ((grp s).filter (fun n => (curStrand s n).active g == 0)) (fun _ t => { t with pc := t.pc + 4, wait := .none }))
      (fun n => let t := curStrand s n
        if t.active g = 0 then none else some (trapOf (t.active g) .sysc (t.pc + 4) (i.setWidth 64))))) ∧
    (laneFree s g .user [] [] → acting s g = [] → exec (.sysc g i) s = .next (retire s 4)) ∧
    (uniFree s .user [] [] → exec (.brk m) s = .next (trapGroup s (fun n => let t := curStrand s n
      some (trapOf t.liveLanes .brk t.pc (m.setWidth 64))))) ∧
    (laneFree s g .user [] [[d.toNat], [a.toNat], [b.toNat]] → acting s g = [] → exec (.coll g d a b o) s = .next (retire s 4)) ∧
    (∀ (e : CollEntry) (ok : List (LaneChk × Xl × Bool)), let ls := collLanes s g d a b
      let s1 := keptXl s (ok.map (fun c => c.2.1))
      let r := groupReads 4 (ok.map (fun c => (c.1.va, c.2.1))) s1
      let pkgs := r.1.map (fun bs => bytesToNat (bs.map (fun p => p.val)))
      laneFree s g .user [] [[d.toNat], [a.toNat], [b.toNat]] → acting s g ≠ [] → (∀ n ∈ acting s g, (curStrand s n).cp < 63) → cpHolds s true false = false →
      boundColl s (curSkein s) = some e → (∀ l ∈ ls, collFault e o l.2.1 l.2.2.1 = none) →
      lanesPass s g .load 4 4 (fun n j => e.list + 4 * ((curStrand s n).v a.toNat j).toNat) ok →
      (∀ c ∈ ok, mustWait s1 c.2.1 4 = false) → (∀ q ∈ pkgs, q < 0x200000 ∧ inPartition r.2 (curSkein s).part q = true) →
      exec (.coll g d a b o) s = .next (sendColl r.2 g e o ls pkgs))

/-- 05 R92 to R94: the operands are destination W[D], source W[A] and parameters W[B] (COPY2D also W[B + 1]); a failing
check traps with nothing started; otherwise CP of each strand rises and the copy enters behind those whose footprint it
meets, or the group waits while the core holds 128 copies or CP is 63. -/
def Obligations.copy_issue_results : Prop :=
  ∀ (s : State) (d a b : BitVec 5) (r : BitVec 2) (e : BitVec 1) (c : BitVec 6),
    (uniFree s .user [d.toNat, a.toNat, b.toNat] [] → let x := newCopy s .copy (r ++ e ++ c) (wReg s d.toNat) (wReg s a.toNat) (wReg s b.toNat) 0
      (∀ f, copyRefused s (curSkein s) x = some f → exec (.copy d a b r e c) s = .next (trapAll s f.1 f.2)) ∧
      (copyRefused s (curSkein s) x = none → copyFull s = false → exec (.copy d a b r e c) s = .next (retire (enterCopy (raiseCp s) x) 4)) ∧
      (copyRefused s (curSkein s) x = none → copyFull s = true → exec (.copy d a b r e c) s = .next (stall s .poll))) ∧
    ((Instr.copy2d d a b r e c).wf = true → uniFree s .user [d.toNat, a.toNat, b.toNat, b.toNat + 1] [] → let x := newCopy s .copy2d (r ++ e ++ c) (wReg s d.toNat) (wReg s a.toNat) (wReg s b.toNat) (wReg s (b.toNat + 1))
      (∀ f, copyRefused s (curSkein s) x = some f → exec (.copy2d d a b r e c) s = .next (trapAll s f.1 f.2)) ∧
      (copyRefused s (curSkein s) x = none → copyFull s = false → exec (.copy2d d a b r e c) s = .next (retire (enterCopy (raiseCp s) x) 4)) ∧
      (copyRefused s (curSkein s) x = none → copyFull s = true → exec (.copy2d d a b r e c) s = .next (stall s .poll))) ∧
    (uniFree s .user [d.toNat, a.toNat, b.toNat] [] → let x := newCopy s .copyp (r ++ e ++ c) (wReg s d.toNat) (wReg s a.toNat) (wReg s b.toNat) 0
      (∀ f, copyRefused s (curSkein s) x = some f → exec (.copyp d a b r e c) s = .next (trapAll s f.1 f.2)) ∧
      (copyRefused s (curSkein s) x = none → copyFull s = false → exec (.copyp d a b r e c) s = .next (retire (enterCopy (raiseCp s) x) 4)) ∧
      (copyRefused s (curSkein s) x = none → copyFull s = true → exec (.copyp d a b r e c) s = .next (stall s .poll)))

/-- 05 R106: TRIG reads the 64-byte record at W[A] in the local store, checks it as 05 R105 and R94 say (the tag bits of its address ignored, log entry 72), and with a free
slot arms it, raises CP, has the core evaluate it and writes 0; without one it writes 1; while a change of banking mode is under
way it waits (06 R114). TRIG.CANCEL disarms the oldest
record armed from that address and writes 1, or 0. 05 R104: the counters are 32 bits wide and wrap; 22
R375: ADD and SET order what is performed at CORE scope; with 15 R282 they wait for the group’s accesses to words that an order log or
gate watches, as the model performs these at their home (log entry 15). -/
def Obligations.trigger_and_counter_results : Prop :=
  ∀ (s : State) (d a : BitVec 5) (c : BitVec 6), let w := wReg s a.toNat
    let k := curSkein s
    let words := bytesDwords 8 ((lsRead k (lsOffset w) 64).map (fun b => b.val))
    (uniFree s .user [a.toNat] [d.toNat] → banksShut s (curCore s) = false → lsOffset w % 64 ≠ 0 → exec (.trig d a) s = .next (trapAll s .misalign w)) ∧
    (uniFree s .user [a.toNat] [d.toNat] → banksShut s (curCore s) = false → lsOffset w % 64 = 0 → k.lsSize < lsOffset w + 64 → exec (.trig d a) s = .next (trapAll s .lsbound w)) ∧
    (uniFree s .user [a.toNat] [d.toNat] → banksShut s (curCore s) = false → lsOffset w % 64 = 0 → lsOffset w + 64 ≤ k.lsSize → recordBad words = true → exec (.trig d a) s = .next (trapAll s .prot w)) ∧
    (uniFree s .user [a.toNat] [d.toNat] → banksShut s (curCore s) = false → lsOffset w % 64 = 0 → lsOffset w + 64 ≤ k.lsSize → recordBad words = false → ∀ t : Trigger,
      t.core = k.core → t.sid = s.cur.sid → t.ply = s.cur.ply → t.lanes = groupLanes s → t.addr = lsOffset w → t.seq = s.seq →
      t.mode = curMode s → t.words = words → copyRefused s k t.action = none →
      (freeTrigger s k.core = none → exec (.trig d a) s = .next (uniResult s d.toNat 1)) ∧
      (freeTrigger s k.core = some t.slot → (∀ n ∈ grp s, (curStrand s n).cp < 63) →
        exec (.trig d a) s = .next (uniResult (judgeTriggers (raiseCp { s with triggers := s.triggers ++ [t], seq := s.seq + 1 }) k.core) d.toNat 0))) ∧
    (uniFree s .user [a.toNat] [d.toNat] → banksShut s (curCore s) = true → exec (.trig d a) s = .next (stall s .poll)) ∧
    (uniFree s .user [a.toNat] [d.toNat] → (∀ t ∈ s.triggers, ¬ (t.sid = s.cur.sid ∧ t.addr = lsOffset w)) → exec (.trigCancel d a) s = .next (uniResult s d.toNat 0)) ∧
    (uniFree s .user [a.toNat] [d.toNat] → ∀ t, oldestTrigger s s.cur.sid (lsOffset w) = some t → exec (.trigCancel d a) s = .next (uniResult
      (lowerCp { s with triggers := s.triggers.filter (fun x => x.seq != t.seq) } t.sid t.ply t.lanes) d.toNat 1)) ∧
    (uniFree s .user [a.toNat] [] → watchedAway s = false →
      exec (.cntrAdd a c) s = .next (retire (addCounter s (curCore s) c.toNat (w.setWidth 32)) 4) ∧
      exec (.cntrSet a c) s = .next (retire (setCounter s (curCore s) c.toNat (w.setWidth 32)) 4)) ∧
    (uniFree s .user [a.toNat] [] → watchedAway s = true → exec (.cntrAdd a c) s = .next (stall s .poll) ∧ exec (.cntrSet a c) s = .next (stall s .poll)) ∧
    (uniFree s .user [] [d.toNat] → exec (.cntrRead d c) s = .next (uniResult s d.toNat ((counter s (curCore s) c.toNat).setWidth 64)))

/-- 11 R203 and R204: with no COLL or tree of the group under way that it issued under the bound handle, W0 frees the entry that the launch has bound, and another
register binds the descriptor it names, its table entry and the launch holding it. 11 R205: ABORT adds 1 to the attempt,
drops the group’s pending faults of this handle’s old one and writes the new one. 11 R211: TREE runs as a copy of the group. -/
def Obligations.collective_handle_results : Prop :=
  ∀ (s : State) (d a b : BitVec 5) (c : BitVec 6) (e : BitVec 1),
    (∀ h, boundColl s (curSkein s) = some h → colling s h.bind = true → uniFree s .user [a.toNat] [] → exec (.collh a) s = .next (stall s .poll)) ∧
    (uniFree s .user [] [] → (∀ h, boundColl s (curSkein s) = some h → colling s h.bind = false) → exec (.collh 0) s = .next (retire (unbind s) 4)) ∧
    (∀ (xs : List Xl), let va := wReg s a.toNat
      let u := unbind s
      let r := readsGive u (dwordsAt va.toNat 8) 8 xs
      let k := curSkein r.2
      let h : CollEntry := { launch := k.launch, words := r.1.map (fun b => dw (pval b)), attempt := BitVec.ofNat 16 (pval (r.1.getD 3 [])),
                             bind := r.2.seq }
      uniFree s .user [a.toNat] [] → a ≠ 0 → (∀ h, boundColl s (curSkein s) = some h → colling s h.bind = false) → va.toNat % 64 = 0 →
      readsPass u (dwordsAt va.toNat 8) 8 xs → collBad h = false → (h.ord = true ∨ skeinDet r.2 r.2.cur.sid = false) →
      (∀ x ∈ r.2.colls, x.1 = collKey k.part h.id → x.2.launch = k.launch ∨ findLaunch r.2 x.2.launch = none) →
      ∀ l, findLaunch r.2 k.launch = some l → exec (.collh a) s = .next (retire
        (setLaunch { r.2 with seq := r.2.seq + 1, colls := Tbl.set CollEntry.none r.2.colls (collKey k.part h.id) h } { l with bound := some h.id, handle := va }) 4)) ∧
    (uniFree s .user [] [d.toNat] → boundColl s (curSkein s) = none → exec (.collhAbort d) s = .next (trapAll s .prot 0)) ∧
    (∀ h, uniFree s .user [] [d.toNat] → boundColl s (curSkein s) = some h →
      (∀ w ∈ s.collWaits, w.sid = s.cur.sid → w.ply = s.cur.ply → w.bind = h.bind → w.attempt = h.attempt.toNat → ∀ l ∈ w.lanes, l.1 ∉ grp s) →
      exec (.collhAbort d) s = .next (let t := mapStrands s s.cur.sid s.cur.ply (grp s) (fun _ t => { t with faults := t.faults.filter (fun f => f.att != some (h.bind, h.attempt)) })
        uniResult { t with colls := Tbl.set CollEntry.none t.colls (collKey (curSkein s).part h.id) { h with attempt := h.attempt + 1 } } d.toNat
          ((h.attempt + 1).setWidth 64))) ∧
    (∀ h, let w := wReg s b.toNat
      uniFree s .user [d.toNat, a.toNat, b.toNat] [] → boundColl s (curSkein s) = some h → w.toNat < 2 ^ 33 → w.toNat % 4 = 0 → (wReg s d.toNat).toNat % 4 = 0 →
      (wReg s a.toNat).toNat % 4 = 0 → (wReg s d.toNat).toNat < 2 ^ 57 → (wReg s a.toNat).toNat < 2 ^ 57 → copyFull s = false →
      exec (.collhTree d a b c e) s = .next (retire (enterCopy (raiseCp s) { newCopy s .tree ((0 : BitVec 2) ++ e ++ c) (wReg s d.toNat) (wReg s a.toNat) w
        (dw (h.nrankm1 + 1)) with bind := h.bind }) 4)) ∧
    (∀ n : Nat, colling s n = true ↔
      (∃ x ∈ s.collWaits, x.sid = s.cur.sid ∧ x.ply = s.cur.ply ∧ x.bind = n ∧ ∃ l ∈ x.lanes, l.1 ∈ grp s) ∨
      ∃ x ∈ s.copies, x.kind = .tree ∧ x.sid = s.cur.sid ∧ x.ply = s.cur.ply ∧ x.bind = n ∧ ∃ l ∈ x.lanes, l.1 ∈ grp s)

/-- 02 R50 to R52: with a well-formed word and no hand-off under way there, LEND by the holder cuts the region out, asks the
dies with grants to give them up and starts the hand-off; LEND.SHARE the same for a share; RETN gives back a share, or the
region to the lender before; RECALL is for the one who lent. The group waits for the state change. A malformed region or holder word,
an issuer without the right, a region that is lost, too small, not there or, at LEND, already lent three deep, shared or held by the
new holder, a share too many and a full token table trap TOKEN with the region’s base. That the part cut out, and the halves left,
keep holders, shares and depth is the model's reading (log entry 33). While a hand-off is under way there, the group waits. -/
def Obligations.token_hand_off_results : Prop :=
  ∀ (s : State) (d a : BitVec 5) (base n : Nat), let w := wReg s d.toNat
    let k := curSkein s
    let me := skeinAsker s s.cur.sid
    let no := trapAll s .token (regionBase w)
    (uniFree s .user [d.toNat, a.toNat] [] → regionWord w = none → exec (.lend d a) s = .next no ∧ exec (.lendShare d a) s = .next no) ∧
    (uniFree s .user [d.toNat] [] → regionWord w = none → exec (.retn d) s = .next no ∧ exec (.retnRecall d) s = .next no) ∧
    (uniFree s .user [d.toNat, a.toNat] [] → regionWord w = some (base, n) → handOff s k.part k.ctx base (2 ^ n) = false → ∀ x, holderWord s k (wReg s a.toNat) = some x →
      let r := regionOf s k.part k.ctx base
      let c := halve base n (r.k - n) r
      r.lost = false → n ≤ r.k → tokenRoom s k.part (r.k - n + (if listedRegion s r then 0 else 1)) = true →
      matchesHolder s me k.ctx r.holder = true →
      (r.shares = 0 → r.depth < 3 → r.holder ≠ x → exec (.lend d a) s = .next (startHandOff (cutRegion s r (c.1 :: c.2)) (.lend x) c.1)) ∧
      ((r.shares ≠ 0 ∨ 3 ≤ r.depth ∨ r.holder = x) → exec (.lend d a) s = .next no) ∧
      (r.mayShare x = true → exec (.lendShare d a) s = .next (startHandOff (cutRegion s r (c.1 :: c.2)) (.share x) c.1)) ∧
      (r.mayShare x = false → exec (.lendShare d a) s = .next no)) ∧
    (uniFree s .user [d.toNat, a.toNat] [] → regionWord w = some (base, n) → handOff s k.part k.ctx base (2 ^ n) = false →
      let r := regionOf s k.part k.ctx base
      (holderWord s k (wReg s a.toNat) = none ∨ r.lost = true ∨ r.k < n ∨ tokenRoom s k.part (r.k - n + (if listedRegion s r then 0 else 1)) = false ∨
        matchesHolder s me k.ctx r.holder = false) → exec (.lend d a) s = .next no ∧ exec (.lendShare d a) s = .next no) ∧
    (uniFree s .user [d.toNat, a.toNat] [] → regionWord w = some (base, n) → handOff s k.part k.ctx base (2 ^ n) = true →
      exec (.lend d a) s = .next (stall s .home) ∧ exec (.lendShare d a) s = .next (stall s .home)) ∧
    (uniFree s .user [d.toNat] [] → regionWord w = some (base, n) → handOff s k.part k.ctx base (2 ^ n) = true →
      exec (.retn d) s = .next (stall s .home) ∧ exec (.retnRecall d) s = .next (stall s .home)) ∧
    (uniFree s .user [d.toNat] [] → regionWord w = some (base, n) → handOff s k.part k.ctx base (2 ^ n) = false → wholeRegion s k.part k.ctx base n = none →
      exec (.retn d) s = .next no ∧ exec (.retnRecall d) s = .next no) ∧
    (uniFree s .user [d.toNat] [] → regionWord w = some (base, n) → handOff s k.part k.ctx base (2 ^ n) = false → ∀ r, wholeRegion s k.part k.ctx base n = some r →
      (r.lost = true → exec (.retn d) s = .next no ∧ exec (.retnRecall d) s = .next no) ∧
      (r.lost = false → (shareOf s me r).isSome = true → exec (.retn d) s = .next (startHandOff s .unshare r)) ∧
      (r.lost = false → shareOf s me r = none → matchesHolder s me r.ctx r.holder = true → r.depth ≠ 0 → r.shares = 0 →
        exec (.retn d) s = .next (startHandOff s .retn r)) ∧
      (r.lost = false → matchesHolder s me r.ctx ((r.chain[r.depth - 1]?).getD r.holder) = true → (r.depth ≠ 0 ∨ r.shares ≠ 0) →
        exec (.retnRecall d) s = .next (startHandOff s .recall r)) ∧
      (r.lost = false → shareOf s me r = none → (matchesHolder s me r.ctx r.holder = false ∨ r.depth = 0 ∨ r.shares ≠ 0) → exec (.retn d) s = .next no) ∧
      (r.lost = false → (matchesHolder s me r.ctx ((r.chain[r.depth - 1]?).getD r.holder) = false ∨ (r.depth = 0 ∧ r.shares = 0)) →
        exec (.retnRecall d) s = .next no))

/-- 02 R52: RECLAIM, in H mode, takes a lost region back to the lender before. 02 R53: SPLIT by the holder of an unshared
region above 4 KiB makes two halves with its holders; MEND makes one region of two halves with equal holders and no share.
02 R54: TQRY, with no hand-off under way there, writes the region’s two words, or its holder’s, or a share slot’s, to W[D]
and W[D + 1]; that it waits for a hand-off is the model's choice (log entry 33). -/
def Obligations.token_table_results : Prop :=
  ∀ (s : State) (d a : BitVec 5) (f : BitVec 9) (base n : Nat), let w := wReg s d.toNat
    let k := curSkein s
    let me := skeinAsker s s.cur.sid
    (uniFree s .hypervisor [d.toNat] [] → regionWord w = some (base, n) → handOff s k.part k.ctx base (2 ^ n) = false → ∀ r, wholeRegion s k.part k.ctx base n = some r →
      (r.lost = true → exec (.retnReclaim d) s = .next (retire (putRegion s { r.back with lost := false }) 4)) ∧
      (r.lost = false → exec (.retnReclaim d) s = .next (trapAll s .token (regionBase w)))) ∧
    (uniFree s .hypervisor [d.toNat] [] → regionWord w = some (base, n) → handOff s k.part k.ctx base (2 ^ n) = true →
      exec (.retnReclaim d) s = .next (stall s .home)) ∧
    (uniFree s .user [d.toNat] [] → regionWord w = some (base, n) →
      (handOff s k.part k.ctx base (2 ^ n) = true → exec (.split d) s = .next (stall s .home)) ∧
      (handOff s k.part k.ctx base (2 * 2 ^ n) = true → exec (.mend d) s = .next (stall s .home))) ∧
    ((Instr.tqry d a f).wf = true → uniFree s .user [a.toNat] [d.toNat, d.toNat + 1] → (wReg s a.toNat).toNat < 2 ^ 57 →
      handOff s k.part k.ctx (wReg s a.toNat).toNat 1 = true → exec (.tqry d a f) s = .next (stall s .home)) ∧
    (uniFree s .user [d.toNat] [] → regionWord w = some (base, n) → handOff s k.part k.ctx base (2 ^ n) = false → ∀ r, wholeRegion s k.part k.ctx base n = some r → r.lost = false → matchesHolder s me r.ctx r.holder = true →
      r.shares = 0 → r.k ≠ 12 → tokenRoom s r.part (if listedRegion s r then 1 else 2) = true →
      let c := halve r.base (r.k - 1) 1 r
      exec (.split d) s = .next (retire (cutRegion s r (c.1 :: c.2)) 4)) ∧
    (uniFree s .user [d.toNat] [] → regionWord w = some (base, n) → handOff s k.part k.ctx base (2 * 2 ^ n) = false → ∀ lo hi,
      wholeRegion s k.part k.ctx base n = some lo → wholeRegion s k.part k.ctx (base + 2 ^ n) n = some hi → n ≠ 40 → base / 2 ^ n % 2 = 0 →
      matchesHolder s me k.ctx lo.holder = true → lo.lost = false → hi.lost = false → lo.shares = 0 → hi.shares = 0 → lo.chain = hi.chain →
      exec (.mend d) s = .next (retire (putRegion { s with regions := s.regions.filter (fun x => !x.same lo && !x.same hi) }
        { lo with k := n + 1, sharers := [] }) 4)) ∧
    ((Instr.tqry d a f).wf = true → uniFree s .user [a.toNat] [d.toNat, d.toNat + 1] → (wReg s a.toNat).toNat < 2 ^ 57 →
      handOff s k.part k.ctx (wReg s a.toNat).toNat 1 = false →
      let x := tqryWords (regionOf s k.part k.ctx (wReg s a.toNat).toNat) f.toNat
      exec (.tqry d a f) s = .next (retire (setSkein s s.cur.sid ((k.setW s.cur.ply d.toNat x.1).setW s.cur.ply (d.toNat + 1) x.2)) 4)) ∧
    ((Instr.tqry d a f).wf = true → uniFree s .user [a.toNat] [d.toNat, d.toNat + 1] → 2 ^ 57 ≤ (wReg s a.toNat).toNat → exec (.tqry d a f) s = .next (trapAll s .prot (wReg s a.toNat)))

/-- 03 R68: for the domain that W[A] names, or with W0 the group’s own, and no debit outstanding, FTOT writes the 128-bit total that
F selects to W[D] and W[D + 1] in one instant, where the total home is on this package; with the total home elsewhere it asks and
waits; one that is lost (R77), and a handle that names no domain, trap PROT. 03 R60 and R61: FDECL reads the descriptor, its
package list and its taps table, and once they pass declares the domain in the lowest free slot, which asks the listed packages.
20 R348: FDECL.RETIRE asks the packages with a copy to drain, and elsewhere than on the declarer the declarer to retire, and waits; the
domain goes once they and this one have no record left. That FTOT on a lost total home traps PROT (log entry 62), the form of the
messages to other packages (log entry 31) and the course of declaration and retirement (log entry 32) are the model's. -/
def Obligations.field_declaration_results : Prop :=
  ∀ (s : State) (d a : BitVec 5) (f : BitVec 2), let h := wReg s a.toNat
    let k := curSkein s
    (∀ g : DWord, (Instr.ftot d a f).wf = true → uniFree s .user [a.toNat] [d.toNat, d.toNat + 1] →
      ((a ≠ 0 ∧ g = h) ∨ (a = 0 ∧ g ≠ 0 ∧ grp s ≠ [] ∧ ∀ n ∈ grp s, (curStrand s n).dom = g)) →
      (domainOf s k g = none → exec (.ftot d a f) s = .next (trapAll s .prot g)) ∧
      (∀ m, domainOf s k g = some m → (m.lostCell m.totalCell = true → exec (.ftot d a f) s = .next (trapAll s .prot g)) ∧
        (m.lostCell m.totalCell = false → (∃ n ∈ grp s, (curStrand s n).xf ≠ 0) → exec (.ftot d a f) s = .next (stall s .poll)) ∧
        (m.lostCell m.totalCell = false → (∀ n ∈ grp s, (curStrand s n).xf = 0) →
          (m.owner m.totalCell = here s → exec (.ftot d a f) s = .next (retire (setSkein s s.cur.sid
            (k.setPair s.cur.ply d.toNat (if f = 0 then m.initial + m.injected - m.removed else if f = 1 then m.injected else if f = 2 then m.removed else m.initial))) 4)) ∧
          (m.owner m.totalCell ≠ here s → exec (.ftot d a f) s = .next (stall { send s [Item.totalAsk s.seq s.cur.sid s.cur.ply (grp s) d.toNat f.toNat g] with
            fabricOut := s.fabricOut ++ [FabricOut.packet (m.owner m.totalCell)
              { src := here s, spid := spidOf s m.part, tag := s.seq * 32, off := 0, body := .fieldTotals m.slot }] } .acks))))) ∧
    ((Instr.ftot d 0 f).wf = true → uniFree s .user [0] [d.toNat, d.toNat + 1] → grp s ≠ [] →
      ((∀ n ∈ grp s, (curStrand s n).dom = 0) ∨ ∃ n ∈ grp s, ∃ m ∈ grp s, (curStrand s n).dom ≠ (curStrand s m).dom) →
      exec (.ftot d 0 f) s = .next (trapAll s .prot 0)) ∧
    (∀ (x1 x2 x3 : List Xl) (x4 : Xl), let r1 := readsGive s (dwordsAt h.toNat 8) 8 x1
      let ws := r1.1.map (fun b => dw (pval b))
      let w (i : Nat) : Nat := (ws.getD i 0).toNat
      let b := 2 ^ fieldOf (w 1) 40 6
      let vl := (List.range (if w 2 = 0 then 0 else (fieldOf (w 1) 0 32 + b) / b)).map (fun i => w 2 + 4 * i)
      let r2 := readsGive r1.2 vl 4 x2
      let vt := if w 3 = 0 then [] else (List.range (min 16 (fieldOf (w 4) 0 5))).map (fun i => w 3 + 4 * i) ++
        (List.range (min 16 (fieldOf (w 4) 8 5))).map (fun i => w 3 + 0x40 + 4 * i)
      let r3 := readsGive r2.2 vt 4 x3
      let t := keptXl r3.2 [x4]
      uniFree s .supervisor [a.toNat] [d.toNat] → h.toNat % 64 = 0 → readsPass s (dwordsAt h.toNat 8) 8 x1 → w 2 % 4 = 0 → w 3 % 4 = 0 → readsPass r1.2 vl 4 x2 →
      readsPass r2.2 vt 4 x3 → rangePasses r3.2 .store [h.toNat + 0x28] 8 8 [x4] → underWay t (curSkein t) h = false → ∀ n, freeSlot t (curSkein t).part h = some n →
      let m := domainFrom t (curSkein t).part (curSkein t).ctx n h (here t) ws (r2.1.map pval) (r3.1.map pval)
      declBad t ws m (r2.1.map pval) = false → exec (.fdecl d a) s = .next (declare t d.toNat ws m)) ∧
    (uniFree s .supervisor [a.toNat] [d.toNat] → h.toNat % 64 ≠ 0 → exec (.fdecl d a) s = .next (trapAll s .misalign h) ∧ exec (.fdeclRetire d a) s = .next (trapAll s .misalign h)) ∧
    (∀ (x1 : List Xl) (x2 : Xl) (m : Domain), let r := readsGive s (dwordsAt h.toNat 8) 8 x1
      let t := keptXl r.2 [x2]
      uniFree s .supervisor [a.toNat] [d.toNat] → h.toNat % 64 = 0 → readsPass s (dwordsAt h.toNat 8) 8 x1 → rangePasses r.2 .store [h.toNat + 0x28] 8 8 [x2] →
      domainOf t (curSkein t) h = some m → bitOf (pval (r.1.getD 5 [])) 63 = true → m.retiring = false →
      let q := m.agreed.filter (fun o => !(t.lostPkgs.contains o))
      exec (.fdeclRetire d a) s = .next (domainStep (announce (announce (setDomain (stall t .acks)
        { m with stage := .draining, awaiting := q, agreed := q, waiter := some (t.cur.sid, t.cur.ply, grp t, d.toNat) }) q
        (.drain (here t) (spidOf t m.part) m.slot)) (if m.declarer = here t ∨ t.lostPkgs.contains m.declarer = true then [] else [m.declarer])
        (.retire (here t) (spidOf t m.part) m.slot)) m.key))

/-- 10 R180, R182: TCFG, with the engine’s queue of the skein empty, sets format, rows and columns; else it takes a place in the queue
and waits. 10 R189: TLD and TST check their range in the local store, under the configuration that the queue will have given the tile by
their turn (22 R378), and enter the queue, TL rising. 10 R184: MACQ takes a free
token in ascending order, goes on where the ply holds it and waits where another does; MREL gives it up, its release behind what
the queue holds, and waits while the queue is full; a ply without the token traps ACCTOK. -/
def Obligations.tile_and_accumulator_token_results : Prop :=
  ∀ (s : State) (a : BitVec 5) (tile acc fmt : BitVec 3) (rows : BitVec 6) (cols : BitVec 5), let k := curSkein s
    let w := wReg s a.toNat
    let c : Skein := { k with tileCfg := (k.queue.foldl (fun m r => match r.op with
      | .config t x => Tbl.set 0x0FE7 m t x
      | _ => m) k.tileCfg) }
    ((Instr.tcfg tile fmt rows cols).wf = true → uniFree s .user [] [] → tile.toNat < k.tiles → k.queue = [] → k.chain.active = false → exec (.tcfg tile fmt rows cols) s = .next (retire
      (setSkein s s.cur.sid { k with tileCfg := Tbl.set 0x0FE7 k.tileCfg tile.toNat (fmt ++ rows ++ cols) }) 4)) ∧
    ((Instr.tcfg tile fmt rows cols).wf = true → uniFree s .user [] [] → tile.toNat < k.tiles → k.queue ≠ [] → (∀ r ∈ k.queue, r.mine s (.config tile.toNat (fmt ++ rows ++ cols)) = false) →
      k.chain.active = false → k.queue.length < 8 → exec (.tcfg tile fmt rows cols) s = .next (stall (setSkein s s.cur.sid
        { k with queue := k.queue ++ [{ op := .config tile.toNat (fmt ++ rows ++ cols), ply := s.cur.ply, strands := grp s, stage := .queued, age := 0 }] }) .poll)) ∧
    ((Instr.tcfg tile fmt rows cols).wf = true → uniFree s .user [] [] → k.tiles ≤ tile.toNat → exec (.tcfg tile fmt rows cols) s = .next (trapAll s .regwin (instrWord (.tcfg tile fmt rows cols)))) ∧
    (uniFree s .user [a.toNat] [] → tile.toNat < k.tiles → let off := lsOffset w
      (off % 64 ≠ 0 → exec (.tld tile a) s = .next (trapAll s .misalign w)) ∧
      (off % 64 = 0 → k.lsSize < off + cfgBytes (tileCfgOf c tile.toNat) → exec (.tld tile a) s = .next (trapAll s .lsbound w)) ∧
      (off % 64 = 0 → off + cfgBytes (tileCfgOf c tile.toNat) ≤ k.lsSize → k.chain.active = false → k.queue.length < 8 → (∀ n ∈ grp s, (curStrand s n).tl < 63) →
        exec (.tld tile a) s = .next (enterMat s (.load tile.toNat off)))) ∧
    (uniFree s .user [a.toNat] [] → tile.toNat < k.tiles → let off := lsOffset w
      (off % 64 ≠ 0 → exec (.tst tile a) s = .next (trapAll s .misalign w)) ∧
      (off % 64 = 0 → k.lsSize < off + cfgBytes (tileCfgOf c tile.toNat) → exec (.tst tile a) s = .next (trapAll s .lsbound w)) ∧
      (off % 64 = 0 → off + cfgBytes (tileCfgOf c tile.toNat) ≤ k.lsSize → k.chain.active = false → k.queue.length < 8 → (∀ n ∈ grp s, (curStrand s n).tl < 63) →
        exec (.tst tile a) s = .next (enterMat s (.store tile.toNat off)))) ∧
    (uniFree s .user [] [] → acc.toNat < k.accs → tokenOf k acc.toNat = s.cur.ply + 1 → exec (.macq acc) s = .next (retire s 4)) ∧
    (uniFree s .user [] [] → acc.toNat < k.accs → tokenOf k acc.toNat ≠ s.cur.ply + 1 → (∀ e ∈ k.token, e.2 = s.cur.ply + 1 → e.1 ≤ acc.toNat) →
      (tokenFree s s.cur.sid acc.toNat = true → exec (.macq acc) s = .next (retire (setSkein s s.cur.sid { k with token := Tbl.set 0 k.token acc.toNat (s.cur.ply + 1) }) 4)) ∧
      (tokenFree s s.cur.sid acc.toNat = false → exec (.macq acc) s = .next (stall s (.accToken acc.toNat)))) ∧
    (uniFree s .user [] [] → acc.toNat < k.accs → tokenOf k acc.toNat ≠ s.cur.ply + 1 → (∃ e ∈ k.token, e.2 = s.cur.ply + 1 ∧ acc.toNat < e.1) → exec (.macq acc) s = .next (trapAll s .acctok (dw acc.toNat))) ∧
    (uniFree s .user [] [] → acc.toNat < k.accs → tokenOf k acc.toNat = s.cur.ply + 1 → let out := Tbl.set 0 k.token acc.toNat 0
      (k.queue = [] → exec (.mrel acc) s = .next (retire (setSkein s s.cur.sid { k with token := out }) 4)) ∧
      (k.queue ≠ [] → k.queue.length < 8 → exec (.mrel acc) s = .next (retire (setSkein (setSkein s s.cur.sid { k with token := out }) s.cur.sid
        { k with token := out, queue := k.queue ++ [{ op := .release acc.toNat, ply := s.cur.ply, strands := grp s, stage := .queued, age := 0 }] }) 4)) ∧
      (8 ≤ k.queue.length → exec (.mrel acc) s = .next (stall s (.engine acc.toNat)))) ∧
    (uniFree s .user [] [] → acc.toNat < k.accs → tokenOf k acc.toNat ≠ s.cur.ply + 1 → tokenJudged acc.toNat s = false →
      exec (.mrel acc) s = .next (trapAll s .acctok (dw acc.toNat)))

/-- 10 R186 to R191: with the accumulator’s token held, the shapes fitting and the format or loop block passing its checks, both under the configurations that the queue will have given the tiles by the request's turn (22 R378), a scale base out of alignment giving MISALIGN (log entry 74), no change of
banking mode under way where one is read, and room in the queue, the request enters and TL rises; a chain of no steps ends at once. AMOV, once the engine has performed
everything before it, writes elements 2 l and 2 l + 1 of each row to lane l, and a poisoned one kills the lane. -/
def Obligations.matrix_request_results : Prop :=
  ∀ (s : State) (acc ta tb rows : BitVec 3) (la lb : BitVec 2) (a b : BitVec 5) (v : BitVec 6) (cl tr fm : BitVec 1) (bl : BitVec 2),
    let k := curSkein s
    let w := wReg s a.toNat
    let q : Skein := { k with tileCfg := (k.queue.foldl (fun m r => match r.op with
      | .config t x => Tbl.set 0x0FE7 m t x
      | _ => m) k.tileCfg) }
    acc.toNat < k.accs → (uniFree s .user [a.toNat] [] → ta.toNat < k.tiles → tb.toNat < k.tiles → tokenOf k acc.toNat = s.cur.ply + 1 → shapesFit q ta.toNat tb.toNat = true →
      (a = 0 ∨ (lsOffset w % 32 = 0 ∧ banksShut s (curCore s) = false ∧ formatBad q (lsOffset w) ta.toNat tb.toNat 1 = none)) → k.chain.active = false → k.queue.length < 8 → (∀ n ∈ grp s, (curStrand s n).tl < 63) →
      let x := formatScales q (if a = 0 then none else some (lsOffset w))
      let kn := cfgCols (tileCfgOf q ta.toNat)
      exec (.mma acc ta tb a) s = .next (enterMat s (.mma acc.toNat ta.toNat tb.toNat x.1 x.2
        (readScales q x.1 (cfgRows (tileCfgOf q ta.toNat)) 0 kn, readScales q x.2 (cfgCols (tileCfgOf q tb.toNat)) 0 kn)))) ∧
    (uniFree s .user [a.toNat] [] → la ≠ lb → 2 * la.toNat + 1 < k.tiles → 2 * lb.toNat + 1 < k.tiles → tokenOf k acc.toNat = s.cur.ply + 1 → lsOffset w % 32 = 0 → lsOffset w + 32 ≤ k.lsSize → banksShut s (curCore s) = false →
      let ws := formatWords q (lsOffset w)
      let c := chainOf s q ws acc.toNat (2 * la.toNat) (2 * lb.toNat)
      loopRefused q w ws c = none → k.chain.active = false → k.queue.length < 8 → (∀ n ∈ grp s, (curStrand s n).tl < 63) →
      (c.n = 0 → exec (.mloop acc la lb a) s = .next (retire s 4)) ∧
      (c.n ≠ 0 → exec (.mloop acc la lb a) s = .next (enterMat (setSkein s s.cur.sid { k with chain := c }) .loop))) ∧
    (uniFree s .user [a.toNat] [] → w.toNat < 64 → w.toNat + (rows.toNat + 1) ≤ 64 → tokenOf k acc.toNat = s.cur.ply + 1 → k.queue = [] → k.chain.active = false →
      (∀ n ∈ grp s, let regs := rangeFrom v.toNat (2 * (rows.toNat + 1))
        (curStrand s n).allowed k.nreg regs = true ∧ (curStrand s n).awaits regs (curStrand s n).liveLanes = false) →
      exec (.amov acc a rows v) s = .next (retire (mapStrands s s.cur.sid s.cur.ply (grp s) (fun n t =>
        (lanesOf t.liveLanes).foldl (fun u j => u.takeAcc k j (amovLane acc.toNat w.toNat (rows.toNat + 1) v.toNat (4 * n + j)) t.pc) t)) 4)) ∧
    (uniFree s .user [a.toNat, b.toNat] [] → bl ≠ 3 → tokenOf k acc.toNat = s.cur.ply + 1 → lsOffset w % 64 = 0 → lsOffset w + (if fm = 0 then 3072 else 4096) ≤ k.lsSize →
      lsOffset (wReg s b.toNat) + 4096 / blkLen bl.toNat ≤ k.lsSize → k.chain.active = false → k.queue.length < 8 → (∀ n ∈ grp s, (curStrand s n).tl < 63) →
      exec (.aqnt acc a b cl tr bl fm) s = .next (enterMat s (.quant acc.toNat (lsOffset w) (lsOffset (wReg s b.toNat)) (cl == 1) (tr == 1) bl.toNat fm.toNat))) ∧
    (uniFree s .user [] [] → tokenOf k acc.toNat = s.cur.ply + 1 → k.chain.active = false → k.queue.length < 8 → (∀ n ∈ grp s, (curStrand s n).tl < 63) → exec (.aclr acc) s = .next (enterMat s (.clear acc.toNat))) ∧
    (uniFree s .user [] [] → tokenOf k acc.toNat ≠ s.cur.ply + 1 → tokenJudged acc.toNat s = false → exec (.aclr acc) s = .next (trapAll s .acctok (dw acc.toNat)))

/-- 15 R273: in a deterministic launch, strands whose counters are zero stop in PHASE, and the last one lets the skein
commit; elsewhere it traps PROT. 15 R276: READ writes the fold of the group’s digests, ON sets the enable bits; OFF and CLR
are refused in a deterministic launch; FOLD asks for each doubleword of the range and goes on, counting in LD; once they have all
returned they are folded into the digests that were enabled, which only these strands' are (log entry 37), or where one is poisoned none
is, and the lowest of these is what the POISON trap to come reports, whatever fold waits before it. -/
def Obligations.phase_and_digest_results : Prop :=
  ∀ (s : State) (d a b : BitVec 5),
    (uniFree s .user [] [] → skeinDet s s.cur.sid = true → (curSkein s).committed = false → (∀ n ∈ grp s, (curStrand s n).idle = true) →
      exec (.phase) s = .next (commitSkein (stall s .phase) s.cur.sid)) ∧
    (uniFree s .user [] [] → skeinDet s s.cur.sid = false → exec (.phase) s = .next (trapAll s .prot 0)) ∧
    (uniFree s .user [] [d.toNat] → exec (.dgstRead d) s = .next (uniResult s d.toNat ((grp s).foldl (fun h n => foldDigest h (dw (8 * s.cur.ply + n)) (curStrand s n).digest) 0))) ∧
    (uniFree s .user [] [] → exec (.dgstOn) s = .next (groupResult s (fun t => { t with digestOn := true }))) ∧
    (uniFree s .user [] [] → skeinDet s s.cur.sid = false → exec (.dgstOff) s = .next (groupResult s (fun t => { t with digestOn := false })) ∧
      exec (.dgstClr) s = .next (groupResult s (fun t => { t with digest := 0 }))) ∧
    (uniFree s .user [] [] → skeinDet s s.cur.sid = true → exec (.dgstOff) s = .next (trapAll s .prot 0) ∧ exec (.dgstClr) s = .next (trapAll s .prot 0)) ∧
    (∀ (xs : List Xl), let va := (wReg s a.toNat).toNat
      let n := (wReg s b.toNat).toNat
      let vas := dwordsAt va (n / 8)
      uniFree s .user [a.toNat, b.toNat] [] → va % 8 = 0 → n % 8 = 0 → n ≤ 2 ^ 24 → (∀ m ∈ grp s, (curStrand s m).stores = [] ∧ (curStrand s m).replies.length < 63) →
      rangePasses s .load vas 8 8 xs → exec (.dgstFold a b) s = .next (issueFold (keptXl s xs) (vas.zip xs))) ∧
    (∀ (t : Strand) (tag : Nat) (on : Bool) (ws : List (Nat × DWord × Bool)), let u := t.drain [.block tag on (ws.map (fun w => (w.1, some w.2)))]
      ((∀ w ∈ ws, w.2.2 = false) → u = { t with
        folds := [], digest := if on then ws.foldl (fun h w => foldDigest h (dw w.1 ^^^ 0xFF00000000000000) w.2.1) t.digest else t.digest }) ∧
      ∀ w, ws.find? (fun w => w.2.2) = some w → u = { t with folds := [], foldBad := some (t.foldBad.getD (dw w.1)) })

/-- 15 R281: once the descriptor, its word and its log pass their checks, W[D] is 2 where the word is armed already, 1 where
its home slice has four entries (that a word armed already answers 2 even then is the model's reading, log entry 38), and otherwise 0
with the entry armed and the group’s digests enabled. ORDR.OFF stores USED,
DIV and FULL over the descriptor’s and writes USED, or bit 63 when no entry is armed for it. A descriptor off a multiple of
32 traps MISALIGN. -/
def Obligations.order_log_results : Prop :=
  ∀ (s : State) (d a : BitVec 5), let h := wReg s a.toNat
    let armed (k : Skein) (sid home pa lg : Nat) (ws : List Nat) (play : Bool) : OrderEntry :=
      { home := home, part := k.part, ctx := k.ctx, launch := k.launch, sid := sid, desc := h.toNat,
        pa := pa, log := lg, cap := fieldOf (ws.getD 2 0) 32 16, used := fieldOf (ws.getD 2 0) 0 32,
        div := false, full := false, play := play, runAgent := 0, runLen := 0, stopped := false }
    uniFree s .user [a.toNat] [d.toNat] → (h.toNat % 32 ≠ 0 → exec (.ordrRec d a) s = .next (trapAll s .misalign h) ∧ exec (.ordrPlay d a) s = .next (trapAll s .misalign h) ∧
      exec (.ordrOff d a) s = .next (trapAll s .misalign h)) ∧
    (h.toNat % 32 = 0 → ∀ (x1 xl : List Xl) (xw : Xl), let r := readsGive s (dwordsAt h.toNat 4) 8 x1
      let ws := r.1.map pval
      let t1 := keptXl r.2 [xw]
      let t := keptXl t1 xl
      let k := curSkein r.2
      let lg := ((xl.map (fun x => x.pa)).headD 0)
      readsPass s (dwordsAt h.toNat 4) 8 x1 → ws.getD 1 0 % 64 = 0 → ws.getD 0 0 % 8 = 0 → orderBad k ws = false →
      rangePasses r.2 .store [ws.getD 0 0] 8 8 [xw] → rangePasses t1 .store (logBlocks (ws.getD 1 0) (fieldOf (ws.getD 2 0) 32 16)) 4 4 xl →
      ((∃ e ∈ t.orders, e.pa = xw.pa) → exec (.ordrRec d a) s = .next (uniResult t d.toNat 2)) ∧
      ((∀ e ∈ t.orders, e.pa ≠ xw.pa) → 4 ≤ (t.orders.filter (fun e => e.home == homeOf t xw.pa)).length → exec (.ordrRec d a) s = .next (uniResult t d.toNat 1)) ∧
      ((∀ e ∈ t.orders, e.pa ≠ xw.pa) → (t.orders.filter (fun e => e.home == homeOf t xw.pa)).length < 4 →
        exec (.ordrRec d a) s = .next (let u := flushWord t xw.pa
          uniResult (enableDigest { u with orders := u.orders ++ [armed k t.cur.sid (homeOf t xw.pa) xw.pa lg ws false] } true) d.toNat 0))) ∧
    (h.toNat % 32 = 0 → ∀ (x1 xl : List Xl) (xw : Xl), let r := readsGive s (dwordsAt h.toNat 4) 8 x1
      let ws := r.1.map pval
      let t1 := keptXl r.2 [xw]
      let t := keptXl t1 xl
      let k := curSkein r.2
      let lg := ((xl.map (fun x => x.pa)).headD 0)
      readsPass s (dwordsAt h.toNat 4) 8 x1 → ws.getD 1 0 % 64 = 0 → ws.getD 0 0 % 8 = 0 → orderBad k ws = false →
      rangePasses r.2 .store [ws.getD 0 0] 8 8 [xw] → rangePasses t1 .store (logBlocks (ws.getD 1 0) (fieldOf (ws.getD 2 0) 32 16)) 4 4 xl →
      ((∃ e ∈ t.orders, e.pa = xw.pa) → exec (.ordrPlay d a) s = .next (uniResult t d.toNat 2)) ∧
      ((∀ e ∈ t.orders, e.pa ≠ xw.pa) → 4 ≤ (t.orders.filter (fun e => e.home == homeOf t xw.pa)).length → exec (.ordrPlay d a) s = .next (uniResult t d.toNat 1)) ∧
      ((∀ e ∈ t.orders, e.pa ≠ xw.pa) → (t.orders.filter (fun e => e.home == homeOf t xw.pa)).length < 4 →
        exec (.ordrPlay d a) s = .next (let u := flushWord t xw.pa
          uniResult (enableDigest { u with orders := u.orders ++ [(armed k t.cur.sid (homeOf t xw.pa) xw.pa lg ws true).atHead u] } true) d.toNat 0))) ∧
    (h.toNat % 32 = 0 → ∀ (x1 x2 : List Xl), let r := readsGive s (dwordsAt h.toNat 4) 8 x1
      let t := keptXl r.2 x2
      let ws := r.1.map pval
      readsPass s (dwordsAt h.toNat 4) 8 x1 → rangePasses r.2 .store [h.toNat + 16, h.toNat + 24] 8 8 x2 →
      let o := t.orders.find? (fun e => e.part == (curSkein t).part && e.ctx == (curSkein t).ctx && e.desc == h.toNat)
      (o = none → exec (.ordrOff d a) s = .next (uniResult t d.toNat 0x8000000000000000)) ∧
      (∀ e, o = some e → let y := finishOrder t e
        exec (.ordrOff d a) s = .next (uniResult (storeGroup (h.toNat + 16) [dw (ws.getD 2 0 / 2 ^ 32 * 2 ^ 32 + y.1.used),
          dw (ws.getD 3 0 / 4 * 4 + (if y.1.div then 2 else 0) + (if y.1.full then 1 else 0))] { y.2 with orders := y.2.orders.erase e })
          d.toNat (dw y.1.used))))

/-- 14 R249: TRET, with a trap-state set and not in H mode, restores EPC, masks and stacks of every strand of the group (a
strand that accepts a digest waits for its commit). 14 R251: HCALL saves the PC behind it in HEPC, its number in HCAUSE, and
goes to HVEC in H mode; HRET returns to HEPC, and kills the skein after an entry for a nested trap. 22 R379 to R381 give the
ILLEGAL cases; outside their mode all four trap PRIV. -/
def Obligations.handler_return_results : Prop :=
  ∀ (s : State) (n : BitVec 8),
    (uniFree s .supervisor [] [] → (∀ m ∈ grp s, (curStrand s m).mode ≠ .hypervisor ∧ (curStrand s m).edepth ≠ 0) → (curSkein s).accept = false →
      exec (.tret) s = .next (steer s (fun _ t => { tretStrand t with wait := .none }))) ∧
    (uniFree s .supervisor [] [] → (∃ m ∈ grp s, (curStrand s m).mode = .hypervisor ∨ (curStrand s m).edepth = 0) → exec (.tret) s = .next (trapAll s .illegal (instrWord .tret))) ∧
    (uniFree s .supervisor [] [] → (∀ m ∈ grp s, (curStrand s m).mode ≠ .hypervisor) → exec (.hcall n) s = .next (steer s (fun _ t => hEntry t 0x20 0 n.toNat (t.pc + 4)))) ∧
    (uniFree s .supervisor [] [] → (∃ m ∈ grp s, (curStrand s m).mode = .hypervisor) → exec (.hcall n) s = .next (trapAll s .illegal (instrWord (.hcall n)))) ∧
    (uniFree s .hypervisor [] [] → (∀ m ∈ grp s, (curStrand s m).entered = true) → (∀ m ∈ grp s, (curStrand s m).hcause.toNat % 256 ≠ Cause.nest.code) →
      exec (.hret) s = .next (steer s (fun _ t => hretStrand t))) ∧
    (uniFree s .hypervisor [] [] → (∀ m ∈ grp s, (curStrand s m).entered = true) → ∀ m, (grp s).find? (fun m => (curStrand s m).hcause.toNat % 256 == Cause.nest.code) = some m →
      exec (.hret) s = .next (tick (killSkein s s.cur.sid ((curStrand s m).hcause.toNat / 256 % 256) false))) ∧
    (uniFree s .hypervisor [] [] → (∃ m ∈ grp s, (curStrand s m).entered = false) → exec (.hret) s = .next (trapAll s .illegal (instrWord .hret))) ∧
    (uniFree s .hypervisor [] [] → exec (.halt) s = .next (tick (raiseHalt s (curKey s ((grp s).headD 0)) true))) ∧
    ((∃ m ∈ grp s, (curStrand s m).mode = .user) → exec (.tret) s = .next (trapAll s .priv (instrWord .tret)) ∧
      exec (.hcall n) s = .next (trapAll s .priv (instrWord (.hcall n))) ∧ exec (.hret) s = .next (trapAll s .priv (instrWord .hret)) ∧
      exec (.halt) s = .next (trapAll s .priv (instrWord .halt)))

/-- 22 R382: LNCH judges the record as a launch message and writes the launch number, or bit 63 with the refusal’s code; while a
hand-off holds what it reads it waits. 22
R383: SKSV writes 2 for a launch that is not there, 1 for a skein that is not resident, traps PROT for itself, which in a co-resident
launch is every index of its own (log entry 39), and otherwise has the skein, or all of a co-resident launch, saved or not, held and the
resident ones saved, and waits, to write 0 or 3. 22 R384: SKRS writes 0 and releases the held image, 2 where it is
released already, 1 where there is none. -/
def Obligations.launch_and_save_results : Prop :=
  ∀ (s : State) (d a b : BitVec 5), let x := wReg s a.toNat
    let y := wReg s b.toNat
    let k := curSkein s
    let t := curStrand s ((grp s).headD 0)
    uniFree s .supervisor [a.toNat, b.toNat] [d.toNat] → (∀ l, judgeMessage s k.part x y t.evec t.hvec = .accepted l → exec (.lnch d a b) s = .next (uniResult (acceptLaunch s l) d.toNat (dw l.num))) ∧
    (judgeMessage s k.part x y t.evec t.hvec = .held → exec (.lnch d a b) s = .next (stall s .home)) ∧
    (∀ c, judgeMessage s k.part x y t.evec t.hvec = .refused c → exec (.lnch d a b) s = .next (uniResult s d.toNat (dw (2 ^ 63 + c)))) ∧
    (2 ^ 24 ≤ x.toNat → exec (.sksv d a b) s = .next (trapAll s .prot x)) ∧
    (x.toNat < 2 ^ 24 → waits s .save = false →
      ((∀ l, findLaunch s x.toNat = some l → l.part ≠ k.part ∨ l.total ≤ y.toNat) → exec (.sksv d a b) s = .next (uniResult s d.toNat 2)) ∧
      (∀ l, findLaunch s x.toNat = some l → l.part = k.part → y.toNat < l.total →
        ((x.toNat = k.launch ∧ (y.toNat = k.index ∨ l.cores = true)) → exec (.sksv d a b) s = .next (trapAll s .prot x)) ∧
        (¬ (x.toNat = k.launch ∧ (y.toNat = k.index ∨ l.cores = true)) → (getSkein s (skeinId x.toNat y.toNat)).place ≠ .resident →
          exec (.sksv d a b) s = .next (uniResult s d.toNat 1)) ∧
        (¬ (x.toNat = k.launch ∧ (y.toNat = k.index ∨ l.cores = true)) → (getSkein s (skeinId x.toNat y.toNat)).place = .resident →
          exec (.sksv d a b) s = .next (stall ((sksvTargets s l y.toNat).foldl (fun c i => let z := getSkein c i
            setSkein c i { z with saving := if z.place = .resident then some (z.saving.getD .named) else z.saving, heldSave := true }) s) .save)))) ∧
    (x.toNat < 2 ^ 24 → waits s .save = true → (∀ e ∈ s.skeins, ¬ (e.2.launch = x.toNat ∧ e.2.heldSave = true ∧ e.2.saving.isSome = true)) →
      let gone := (findLaunch s x.toNat).isNone || (getSkein s (skeinId x.toNat y.toNat)).plies == 0
      exec (.sksv d a b) s = .next (uniResult s d.toNat (if gone then 3 else 0))) ∧
    (y.toNat < 2 ^ 16 → let ctx := if y.toNat = 0xFFFF then k.ctx else y.toNat
      let o := s.skeins.find? (fun e => e.2.place == .saved && e.2.part == k.part && e.2.ctx == ctx && imageVa s e.2 == x.toNat)
      (o = none → exec (.skrs d a b) s = .next (uniResult s d.toNat 1)) ∧
      (∀ e, o = some e → (e.2.heldSave || e.2.heldFault) = true →
        exec (.skrs d a b) s = .next (uniResult (setSkein s e.1 { e.2 with heldSave := false, heldFault := false }) d.toNat 0)) ∧
      (∀ e, o = some e → (e.2.heldSave || e.2.heldFault) = false → exec (.skrs d a b) s = .next (uniResult s d.toNat 2))) ∧
    (2 ^ 16 ≤ y.toNat → exec (.skrs d a b) s = .next (trapAll s .prot y))

/-- 02 R39, 22 R385: the translations of the named range and context leave every TLB, and TLBI completes when no access under them that
was made before it is left. That instruction words under them go, dirty lines are written back, a copy that has begun a chunk there
reads it afresh, and which accesses it waits for are the model's reading (log entry 35). 22 R388: CFLU writes the skein’s dirty lines of the range
to their homes, CFLU.INV also drops the range from the core’s L1, and CFLU.I drops its instruction words on every core of the
partition. A malformed word traps PROT; TLBI in U mode traps PRIV. -/
def Obligations.cache_and_translation_results : Prop :=
  ∀ (s : State) (a b : BitVec 5), let k := curSkein s
    let w := wReg s a.toNat
    let since := match (curStrand s ((grp s).headD 0)).wait with
      | .drain n => n
      | _ => s.seq
    let out (x : Named) : State :=
      let v := { s with
        tlb := s.tlb.filter (fun e => !(x.has e.part e.ctx e.base (2 ^ e.k))),
        icache := s.icache.filter (fun l => !(x.has (partOf s l.core) l.ctx l.va 4)),
        copies := s.copies.map (fun c => if c.state = .asked ∧ ((spaceOf c.src = 0 ∧ x.has (getSkein s c.sid).part (getSkein s c.sid).ctx c.src.toNat c.spans.1 = true) ∨
            (spaceOf c.dst = 0 ∧ x.has (getSkein s c.sid).part (getSkein s c.sid).ctx c.dst.toNat c.spans.2 = true))
          then { c with state := .running, got := [] } else c) }
      writeBack v (fun l => x.has (partOf v l.core) l.ctx l.va 64)
    let next (x : Named) : State := if undrained (out x) x since then stall (out x) (.drain since) else retire (out x) 4
    (uniFree s .supervisor [a.toNat, b.toNat] [] →
      (rangeWord w = none → exec (.tlbi a b) s = .next (trapAll s .prot w)) ∧
      (∀ r, rangeWord w = some r → contextWord k (wReg s b.toNat) = none → exec (.tlbi a b) s = .next (trapAll s .prot (wReg s b.toNat))) ∧
      (∀ r c, rangeWord w = some r → contextWord k (wReg s b.toNat) = some c →
        exec (.tlbi a b) s = .next (next { part := k.part, ctx := some c, base := r.1, len := 2 ^ r.2 }))) ∧
    (uniFree s .supervisor [b.toNat] [] → ∀ c, contextWord k (wReg s b.toNat) = some c →
      exec (.tlbiCtx b) s = .next (next { part := k.part, ctx := some c, base := 0, len := 2 ^ 57 })) ∧
    (uniFree s .supervisor [] [] → exec (.tlbiAll) s = .next (next { part := k.part, ctx := none, base := 0, len := 2 ^ 57 })) ∧
    ((∃ m ∈ grp s, (curStrand s m).mode = .user) → exec (.tlbiAll) s = .next (trapAll s .priv (instrWord .tlbiAll))) ∧
    (uniFree s .user [a.toNat] [] → regionWord w = none → exec (.cflu a) s = .next (trapAll s .prot w) ∧ exec (.cfluInv a) s = .next (trapAll s .prot w) ∧ exec (.cfluI a) s = .next (trapAll s .prot w)) ∧
    (uniFree s .user [a.toNat] [] → ∀ base n, regionWord w = some (base, n) →
      let mine (l : L1Line) : Bool := l.core == curCore s && l.ctx == k.ctx && overlap l.va 64 base (2 ^ n)
      let out := writeBack s (fun l => l.owner == s.cur.sid && l.core == curCore s && l.ctx == k.ctx && overlap l.va 64 base (2 ^ n))
      exec (.cflu a) s = .next (retire out 4) ∧
      exec (.cfluInv a) s = .next (retire (stopFills (dropL1 out mine) (curCore s) (fun l c => c == k.ctx && overlap l.va l.size base (2 ^ n))) 4) ∧
      exec (.cfluI a) s = .next (retire { s with icache := s.icache.filter (fun l =>
        !((coresOf s k.part).contains l.core && l.ctx == k.ctx && overlap l.va 4 base (2 ^ n))) } 4))

/-- 22 R389: MSGS writes 0 when the message enters the queue, and 1 with the queue’s lost bit when it holds 64. 22 R390: the
32 bytes go to the buffer at W[A], W[D] gets the queue’s number and the message leaves its queue; with no message MSGR waits
and MSGR.TRY writes bit 63; a selection beyond queue 32 traps PROT and a buffer off a multiple of 32 MISALIGN. That MSGR makes these
checks before it looks for a message, and stores before it takes one, is the model's reading (log entry 36); a store that the gate of
a watched word holds leaves the group waiting there (15 R282). -/
def Obligations.message_queue_results : Prop :=
  ∀ (s : State) (d a b q : BitVec 5), let p := getPart s (curSkein s).part
    let buf := wReg s a.toNat
    let sel := wReg s b.toNat
    let plain (t : State) : Origin := { core := curCore t, die := dieOf (curCore t), sid := t.cur.sid, ply := t.cur.ply, tag := 0,
                                        ctx := (curSkein t).ctx, pc := curPc t, acq := false, rel := false }
    (uniFree s .supervisor [a.toNat, b.toNat] [d.toNat] → p.busy = false → (queueOf p q.toNat).length < 64 →
      exec (.msgs d a b q) s = .next (uniResult (setPart s (curSkein s).part (enqueue p q.toNat (buf, sel, 0, 0))) d.toNat 0)) ∧
    (uniFree s .supervisor [a.toNat, b.toNat] [d.toNat] → (p.busy = true ∨ 64 ≤ (queueOf p q.toNat).length) →
      exec (.msgs d a b q) s = .next (uniResult (setPart s (curSkein s).part { p with lostQ := p.lostQ ||| (1#32 <<< q.toNat) }) d.toNat 1)) ∧
    (uniFree s .supervisor [a.toNat, b.toNat] [d.toNat] →
      (2 ^ 33 ≤ sel.toNat → exec (.msgr d a b) s = .next (trapAll s .prot sel)) ∧
      (sel.toNat < 2 ^ 33 → buf.toNat % 32 ≠ 0 → exec (.msgr d a b) s = .next (trapAll s .misalign buf)) ∧
      (∀ q m x, sel.toNat < 2 ^ 33 → buf.toNat % 32 = 0 → pickQueue p sel = some (q, m) → rangePasses s .store [buf.toNat] 32 32 [x] →
        let t := keptXl s [x]
        mustWait t x 32 = false →
        homeWrite (leaveL1 t (curCore t) x.pa) (laneAgent (plain t) (4 * (grp t).headD 0)) x.pa (clean (msgBytes m)) = none →
        exec (.msgr d a b) s = .next (stall t (.gate x.pa))) ∧
      (sel.toNat < 2 ^ 33 → buf.toNat % 32 = 0 → pickQueue p sel = none → exec (.msgr d a b) s = .next (stall s .poll)) ∧
      (∀ q m x u, sel.toNat < 2 ^ 33 → buf.toNat % 32 = 0 → pickQueue p sel = some (q, m) → rangePasses s .store [buf.toNat] 32 32 [x] →
        let t := keptXl s [x]
        mustWait t x 32 = false →
        homeWrite (leaveL1 t (curCore t) x.pa) (laneAgent (plain t) (4 * (grp t).headD 0)) x.pa (clean (msgBytes m)) = some u →
        let y := getPart u (curSkein s).part
        exec (.msgr d a b) s = .next (uniResult (setPart u (curSkein s).part { y with queues := Tbl.set [] y.queues q ((queueOf y q).drop 1) }) d.toNat (dw q)))) ∧
    (uniFree s .supervisor [a.toNat, b.toNat] [d.toNat] →
      (2 ^ 33 ≤ sel.toNat → exec (.msgrTry d a b) s = .next (trapAll s .prot sel)) ∧
      (sel.toNat < 2 ^ 33 → buf.toNat % 32 ≠ 0 → exec (.msgrTry d a b) s = .next (trapAll s .misalign buf)) ∧
      (∀ q m x, sel.toNat < 2 ^ 33 → buf.toNat % 32 = 0 → pickQueue p sel = some (q, m) → rangePasses s .store [buf.toNat] 32 32 [x] →
        let t := keptXl s [x]
        mustWait t x 32 = false →
        homeWrite (leaveL1 t (curCore t) x.pa) (laneAgent (plain t) (4 * (grp t).headD 0)) x.pa (clean (msgBytes m)) = none →
        exec (.msgrTry d a b) s = .next (stall t (.gate x.pa))) ∧
      (sel.toNat < 2 ^ 33 → buf.toNat % 32 = 0 → pickQueue p sel = none → exec (.msgrTry d a b) s = .next (uniResult s d.toNat 0x8000000000000000)) ∧
      (∀ q m x u, sel.toNat < 2 ^ 33 → buf.toNat % 32 = 0 → pickQueue p sel = some (q, m) → rangePasses s .store [buf.toNat] 32 32 [x] →
        let t := keptXl s [x]
        mustWait t x 32 = false →
        homeWrite (leaveL1 t (curCore t) x.pa) (laneAgent (plain t) (4 * (grp t).headD 0)) x.pa (clean (msgBytes m)) = some u →
        let y := getPart u (curSkein s).part
        exec (.msgrTry d a b) s = .next (uniResult (setPart u (curSkein s).part { y with queues := Tbl.set [] y.queues q ((queueOf y q).drop 1) }) d.toNat (dw q))))

/-- Completion of gatherPacketAtHome, gatherPacketAtStack, gatherReply, lateReply, atomicAtHome, atomicReply, routerCombine,
atmEpochEnd, homeMoveRelease and replyLostTimeout. 01 R16: a packet comes to the next home slice of its lanes, which performs those
that it holds and sends the packet on; with no slice left it is at the stack, which performs the rest. 03 R78: a read of cells
elsewhere sets out. 01 R14: a reply reaches a resident skein’s strands; a saved one’s waits, and the catcher takes it (14 R257), or it
may be declared lost (14 R258). 04 R83: a request’s lanes are performed at the home and answered, with others of its instruction
where these name its word (20 R336); 04 R86: two requests that may combine, and which no earlier item must precede, become one, the
split table having an entry free. 04 R88 and R89: an epoch’s end begins the
home moves whose balance has tipped and halves the counters, and a move ends when the old requests have drained. That the moves are
judged before the counters are halved (log entry 63), the count of epochs since a move (log entry 29), which lanes go together on S
pages (log entry 60), and that an entry of a reply which no request is to answer may be declared lost (log entry 6) are the model's. -/
def Obligations.packet_and_atomic_event_results : Prop :=
  ∀ (s : State) (n m frame : Nat) (p : Packet) (r q : AtomReq) (o : Origin) (fill : Bool) (olds : List (DWord × Bool)),
    (s.flight[n]? = some (.gatherHome p) → runTogether s p = none → nextSlice s p = none → exec (.gatherPacketAtHome n) s = .next (replaceItem s n [.gatherStack p])) ∧
    (∀ t, runTogether s p = some t → (s.flight[n]? = some (.gatherHome p) → exec (.gatherPacketAtHome n) s = .next t) ∧
      (s.flight[n]? = some (.gatherStack p) → exec (.gatherPacketAtStack n) s = .next t)) ∧
    (∀ k, s.flight[n]? = some (.gatherHome p) → runTogether s p = none → nextSlice s p = some k →
      let mine (l : LaneAcc) : Bool := sliceOn s p.die l.pa == k && (answersHere s p l || heldAt s p.die l.pa)
      let x := packetLanes p (fun l => mine l && laneAlone s n p l) s p.lanes
      let rest := x.1.filter (fun l => decide (l.done < l.size))
      let stay := rest.filter mine
      let on := rest.filter (fun l => !mine l)
      exec (.gatherPacketAtHome n) s = .next (answerPacket x.2 n p (x.1.filter (fun l => decide (l.size ≤ l.done)))
        ((if stay.isEmpty then [] else [Item.gatherHome { p with lanes := stay, slice := k }]) ++
          (if on.isEmpty then [] else [Item.gatherHome { p with lanes := on, slice := k + 1 }])))) ∧
    (∀ l uni pt slot cs, s.flight[n]? = some (.fieldAsk o l uni pt slot cs false) → mayPerform s n = true → let x := askCells s o l uni pt slot cs
      exec (.gatherPacketAtHome n) s = .next ({ replaceItem s n [x.1] with fabricOut := s.fabricOut ++ x.2 })) ∧
    (s.flight[n]? = some (.gatherStack p) → runTogether s p = none → let x := packetLanes p (laneAlone s n p) s p.lanes
      let rest := x.1.filter (fun l => decide (l.done < l.size))
      exec (.gatherPacketAtStack n) s = .next (answerPacket x.2 n p (x.1.filter (fun l => decide (l.size ≤ l.done)))
        (if rest.isEmpty then [] else [Item.gatherStack { p with lanes := rest }]))) ∧
    (s.flight[n]? = some (.gatherReply fill p) → (getSkein s p.org.sid).place = .resident → exec (.gatherReply n) s = .next (takeReply (replaceItem s n []) fill p)) ∧
    (s.flight[n]? = some (.gatherReply fill p) → (getSkein s p.org.sid).place = .saved → exec (.gatherReply n) s = .next s ∧
      exec (.lateReply n) s = .next (p.lanes.foldl (fun b l => lateLane b p.org l.lane l.data) (replaceItem s n []))) ∧
    (s.flight[n]? = some (.atomic r) → mayPerform s n = true → heldAt s r.die r.pa = false →
      (r.kind ≠ .sequential ∨ ∀ q, Item.atomic q ∈ s.flight.drop (n + 1) → q.kind = .sequential → sameInstr r q = true → q.pa ≠ r.pa) →
      exec (.atomicAtHome n) s = .next (atomAtHome s r)) ∧
    (∀ a b rest, let mates := (s.flight.drop (n + 1)).filterMap (fun i => match i with
        | .atomic q => if q.kind = .sequential ∧ sameInstr r q = true then some q else none
        | _ => none)
      s.flight[n]? = some (.atomic r) → mayPerform s n = true → heldAt s r.die r.pa = false → r.kind = .sequential → 
      closedRun [] ((r :: mates).zipIdx.map (fun e => (e.2, e.1.pa))) = a :: b :: rest →
      exec (.atomicAtHome n) s = .next ((atomRun ((r :: mates).take (rest.length + 2)) s).getD s)) ∧
    (let x := performAtomic s r
      let got := x.done.filter (fun e => e.1.reply)
      atomAtHome s r = (x.done.filter (fun e => !e.1.reply)).foldl (fun b e => ackStores b e.1.org.sid e.1.org.ply e.1.org.tag [e.1.lane])
        (replaceItem x.state (s.flight.idxOf (.atomic r)) ((if x.left.isEmpty then [] else [Item.atomic { r with lanes := x.left }]) ++
          (if got.isEmpty then [] else [Item.atomReply { r with lanes := got.map (fun e => e.1) } (got.map (fun e => e.2))])))) ∧
    (s.flight[n]? = some (.atomReply r olds) → (∀ l ∈ r.lanes, (getSkein s l.org.sid).place = .resident) →
      exec (.atomicReply n) s = .next ((r.lanes.zip olds).foldl (fun b e =>
        takeOld (if e.1.org.acq && r.kind != .unordered then acquire b (getSkein b e.1.org.sid).core false else b) r e.1 e.2) (replaceItem s n []))) ∧
    (s.flight[n]? = some (.atomic r) → s.flight[m]? = some (.atomic q) → n < m → mayCombine s r q = true →
      meets s n n r = true → meets s n m q = true →
      exec (.routerCombine n m) s = .next (replaceItem (replaceItem s m []) n [.atomic (combined r q)])) ∧
    (∀ a, a = (if s.atmEn = true ∧ s.homeBase.getLsbD 0 = true then (epochFrames s).foldl (fun b f => match moveTo s f with
        | some d => beginMove b f d
        | none => b) s else s) →
      exec .atmEpochEnd s = .next { a with
        atomCount := (a.atomCount.map (fun e => (e.1, e.2 / 2))).filter (fun e => e.2 != 0),
        movedAgo := (a.movedAgo.map (fun e => (e.1, e.2 - 1))).filter (fun e => e.2 != 0) }) ∧
    (∀ d, moveTo s frame = some d → d ≠ homeDie s frame ∧ s.atmThresh.toNat ≤ atomicsOf s frame d ∧
      2 * atomicsOf s frame (homeDie s frame) ≤ atomicsOf s frame d ∧ Tbl.get 0 s.movedAgo frame = 0 ∧ Tbl.get 0 s.fieldFrames frame = 0 ∧
      holdsTokens s frame = false ∧ ∀ x ∈ s.homeMoves, x.1 ≠ frame) ∧
    (∀ old new, s.homeMoves.find? (fun x => x.1 == frame) = some (frame, old, new) →
      ((∀ i ∈ s.flight, i.at_ frame old = false) → answers (exec (.homeMoveRelease frame) s) (fun t => t.atmCnt = min (s.atmCnt + 1) 0xFFFFFFFF ∧
        t.homeMoves = s.homeMoves.filter (fun x => x.1 != frame) ∧ t.mem = s.mem)) ∧
      ((∃ i ∈ s.flight, i.at_ frame old = true) → exec (.homeMoveRelease frame) s = .next s)) ∧
    (∀ i va, s.flight[n]? = some i → i.askers.find? (fun a => acrossSave s a.1) = some (o, va) →
      exec (.replyLostTimeout n) s = .next (postEvent ((List.range 8).foldl (fun b x => loseReplies b o x) { s with flight := s.flight.flatMap (Item.without o) })
        { part := (getSkein s o.sid).part, type := 8, w1 := dw (getSkein s o.sid).launch, w2 := dw (getSkein s o.sid).index, w3 := dw va })) ∧
    (∀ j, s.flight.length ≤ n → (orphans s)[n - s.flight.length]? = some (o, j) →
      exec (.replyLostTimeout n) s = .next (lostEvent (loseReplies s o j) o.sid 0))

/-- Completion of grantRequest, grantInstall, grantRevoke, tokenStateChange, coreFailure, xferDebit, xferCredit, xferCreditAck,
xferCreditRefusal, fieldRecordResend and domainDescriptorCopy. 02 R48: a request is held while a hand-off is under way on its
region, else granted or refused; a revocation takes the grants of a die. 02 R50: the state changes once no revocation and no
access of the holder is left; a share is given back at once (R52). 03 R74: a debit takes the amount at its home and sends the
credit, or is asked of the package of its cell; the credit home credits or refuses; an acknowledgement settles the lane, and a
refusal gives the amount back first. 03 R77: records that were sent and not acknowledged leave again, and a debit that names a cell of a
lost block fails with PROT. 02 R56: a core that fails loses its caches, grants and triggers; its skeins are killed, the regions that
they hold are marked lost and their shares dropped. 03 R61, R64: a listed package takes or refuses a copy of a domain, is declared
with INITIAL, drains and drops it, each with an answer, and answers again what comes again (11 R196). The messages of transfers (log
entry 31) and the course of declaration and retirement (log entry 32) are the model's. -/
def Obligations.grant_and_transfer_event_results : Prop :=
  ∀ (s : State) (n core sid part ctx va base k die ply package home dom c : Nat) (ag : Agent) (wr : Bool) (ns : List Nat) (g : Grant) (op : TokenOp)
    (since : Nat) (x : XferLane) (d : Domain) (r : FieldRec) (o : Origin),
    (s.flight[n]? = some (.grantAsk core sid ag ctx part va wr ns) → let e := regionOf s part ctx va
      (handOff s part ctx va 1 = true → exec (.grantRequest n) s = .next s) ∧
      (handOff s part ctx va 1 = false → tokenAllows s (skeinAsker s sid) ctx e wr = true →
        exec (.grantRequest n) s = .next (replaceItem s n [.grantGive
          { core := core, part := part, package := here s, agent := ag, ctx := ctx, base := e.base, k := e.k,
            write := tokenAllows s (skeinAsker s sid) ctx e true,
            back := e.holder.agent == ag && e.holder.package == here s && decide (e.state ≤ 1) } ns])) ∧
      (handOff s part ctx va 1 = false → tokenAllows s (skeinAsker s sid) ctx e wr = false →
        answers (exec (.grantRequest n) s) (fun t => t.refused = s.refused ++ [(sid, va, if wr then 1 else 0)] ∧ t.grants = s.grants))) ∧
    (s.flight[n]? = some (.grantGive g ns) → answers (exec (.grantInstall n) s) (fun t =>
      t.grants = keepGrants g.core (g :: (dropRegion (replaceItem s n []) g.core g.ctx g.base g.k).grants))) ∧
    (s.flight[n]? = some (.revoke die part ctx base k) → answers (exec (.grantRevoke n) s) (fun t => ∀ e, e ∈ t.grants ↔ e ∈ s.grants ∧
      ¬ (cacheDie e.core = die ∧ e.part = part ∧ e.ctx = ctx ∧ overlap e.base (2 ^ e.k) base (2 ^ k) = true))) ∧
    (s.flight[n]? = some (.tokenOp op part ctx base k sid ply ns since) → let e := regionOf s part ctx base
      s.flight.any (fun i => match i with
        | .revoke _ q c b j => q == part && c == ctx && b == base && j == k
        | _ => false) = false → e.lost = false → (getSkein s sid).plies ≠ 0 →
      (op = .unshare → exec (.tokenStateChange n) s = .next (wakeToken (changeState (replaceItem s n []) op e sid) sid ply ns)) ∧
      (op ≠ .unshare → holderBusy s op e sid since = false →
        exec (.tokenStateChange n) s = .next (wakeToken (changeState (handBack (replaceItem s n []) e) op e sid) sid ply ns)) ∧
      (op ≠ .unshare → holderBusy s op e sid since = true → exec (.tokenStateChange n) s = .next s)) ∧
    (answers (exec (.coreFailure core) s) (fun t => (∀ l ∈ t.l1, l.core ≠ core) ∧ (∀ e ∈ t.tlb, e.core ≠ core) ∧ (∀ l ∈ t.icache, l.core ≠ core) ∧
      (∀ e ∈ t.grants, e.core ≠ core ∧ e.core ≠ engineCache core) ∧ (∀ e ∈ t.triggers, e.core ≠ core) ∧
      ∀ i ∈ residentOn s core, let z := getSkein s i
        let me : Holder := { package := here s, ctx := z.ctx, agent := skeinAgent z }
        (∀ e ∈ t.skeins, e.1 ≠ i) ∧ (∀ e ∈ t.strands, e.1 / 128 ≠ i) ∧ ∀ e ∈ t.regions, e.part = z.part → e.ctx = z.ctx →
          (e.chain.getLast? = some me → e.lost = true) ∧ ∀ h ∈ e.sharers, h.1 = me → h.2 = 0)) ∧
    (s.flight[n]? = some (.debit x) → findDomain s x.dom = some d → x.stage = 0 → debitFirst s n d x = true → xfHeld s x = false →
      (d.owner x.fromCell = here s → homeFull s d x = false → let y := debitHere (replaceItem s n []) d x
        exec (.xferDebit n) s = .next (domainStep (decideLane y.2.2 x d.wide y.1 y.2.1) x.dom)) ∧
      (d.owner x.fromCell = here s → homeFull s d x = true → exec (.xferDebit n) s = .next s) ∧
      (d.owner x.fromCell ≠ here s → exec (.xferDebit n) s = .next (tell (replaceItem s n [.debit { x with stage := 1 }]) (d.owner x.fromCell) d.part
        (x.org.tag * 32 + x.lane) (.fieldDebit { seq := 0, amount := x.mag, toCell := x.toCell, fromCell := x.fromCell, slot := d.slot,
                                                 package := d.owner x.toCell, lane := x.lane, tag := x.org.tag % 2 ^ 24 } x.clip)))) ∧
    (s.flight[n]? = some (.debit x) → findDomain s x.dom = some d → x.stage = 3 → homeFull s d x = false →
      exec (.xferDebit n) s = .next (debitFor (replaceItem s n []) d x)) ∧
    ((d.lostCell x.fromCell || d.lostCell x.toCell) = true → debitHere s d x = (.fail .prot, true, s)) ∧
    (s.flight[n]? = some (.credit dom home r o) → let y := creditHere s dom false r
      exec (.xferCredit n) s = .next (replaceItem y.2 n [if y.1 = 0 then .creditAck dom home r o else .creditRefuse dom home r o y.1])) ∧
    (s.flight[n]? = some (.creditAck dom home r o) → exec (.xferCreditAck n) s = .next (domainStep (settleLane (dropTransit (replaceItem s n []) dom home r o) o r.lane 0) dom)) ∧
    (s.flight[n]? = some (.creditRefuse dom home r o c) → exec (.xferCreditRefusal n) s = .next (domainStep (settleLane
      (refundCell (dropTransit (replaceItem s n []) dom home r o) dom r.fromCell r.amount) o r.lane c) dom)) ∧
    (answers (exec (.fieldRecordResend package) s) (fun t => t.domains = s.domains ∧
      t.transits = s.transits.map (fun t => if t.sent ∧ t.record.package = package then { t with own := true, mirror := true } else t) ∧
      t.fabricOut.length = s.fabricOut.length + (s.transits.filter (fun t => t.sent && t.record.package == package)).length)) ∧
    (∀ src spid slot handle cx ws, partOfSpid s spid = none → exec (.domainDescriptorCopy (.copy src spid slot handle cx ws)) s =
      .next { s with fabricOut := s.fabricOut ++ [.domain src (.refused spid slot (here s) false)] }) ∧
    (∀ src spid slot handle cx ws p nb, partOfSpid s spid = some p →
      nb = (if ws.getD 2 0 = 0 then 0 else (fieldOf (ws.getD 1 0).toNat 0 32 + 2 ^ fieldOf (ws.getD 1 0).toNat 40 6) / 2 ^ fieldOf (ws.getD 1 0).toNat 40 6) →
      let rest := (ws.drop 8).map (fun w => w.toNat)
      let y := { domainFrom s p cx slot (dw handle) src (ws.take 8) (rest.take nb) (rest.drop nb) with awaiting := [], stage := .agreed }
      let sum (t : State) (z : Domain) : Nat := (BitVec.ofInt 128 (sumCells t z z.count 0)).toNat
      (∀ z, findDomain s y.key = some z → exec (.domainDescriptorCopy (.copy src spid slot handle cx ws)) s = .next (announce s [src]
        (if z.declarer = src ∧ z.handle = dw handle then .acked spid slot (here s) 0 (sum s z) else .refused spid slot (here s) true))) ∧
      (findDomain s y.key = none → pageBreaks s y = true →
        exec (.domainDescriptorCopy (.copy src spid slot handle cx ws)) s = .next (announce s [src] (.refused spid slot (here s) false))) ∧
      (findDomain s y.key = none → pageBreaks s y = false → let u := markField { s with domains := s.domains ++ [y] } y
        exec (.domainDescriptorCopy (.copy src spid slot handle cx ws)) s = .next (announce u [src] (.acked spid slot (here s) 0 (sum u y))))) ∧
    (∀ src spid slot sum part,
      (messageDomain s spid slot = some d → d.stage = .agreed → exec (.domainDescriptorCopy (.total src spid slot sum)) s = .next (announce
        (setDomain s { d with stage := .declared, initial := BitVec.ofNat 128 sum }) [src] (.acked spid slot (here s) 1 0))) ∧
      ((∀ z, messageDomain s spid slot = some z → z.stage ≠ .agreed) →
        exec (.domainDescriptorCopy (.total src spid slot sum)) s = .next (announce s [src] (.acked spid slot (here s) 1 0))) ∧
      (messageDomain s spid slot = some d → d.stage = .declared ∨ d.stage = .draining →
        exec (.domainDescriptorCopy (.drain src spid slot)) s = .next (domainStep (setDomain s { d with stage := .draining }) d.key)) ∧
      ((∀ z, messageDomain s spid slot = some z → z.stage ≠ .declared ∧ z.stage ≠ .draining) →
        exec (.domainDescriptorCopy (.drain src spid slot)) s = .next (announce s [src] (.acked spid slot (here s) 2 0))) ∧
      (messageDomain s spid slot = some d → d.declarer = src →
        exec (.domainDescriptorCopy (.release src spid slot)) s = .next (announce (finishRetire s d) [src] (.acked spid slot (here s) 3 0))) ∧
      ((∀ z, messageDomain s spid slot = some z → z.declarer ≠ src) →
        exec (.domainDescriptorCopy (.release src spid slot)) s = .next (announce s [src] (.acked spid slot (here s) 3 0))) ∧
      (messageDomain s spid slot = some d → d.declarer = here s → d.stage = .declared →
        exec (.domainDescriptorCopy (.retire src spid slot)) s = .next (startRetire s d none)) ∧
      (messageDomain s spid slot = some d → package ∈ d.awaiting → let e := { d with awaiting := d.awaiting.filter (fun q => q != package) }
        (d.stage.part = part → exec (.domainDescriptorCopy (.acked spid slot package part sum)) s = .next (domainStep (setDomain s
          (if d.stage = .asking then { e with agreed := d.agreed ++ [package], initial := d.initial + BitVec.ofNat 128 sum } else e)) d.key)) ∧
        (d.stage.part = 0 → exec (.domainDescriptorCopy (.refused spid slot package wr)) s = .next (domainStep (setDomain s { e with refusal := some ((d.refusal.getD wr) && wr) }) d.key))))

/-- Completion of COPY_CHUNK, COPY_COMPLETE, FABRIC_REFUSAL, COPY_RESEND_ON_RETRY, TRIGGER_EVALUATION,
MATRIX_REQUEST_POST, MATRIX_PASS_GRANT, MLOOP_STEP_RETIRE, MATRIX_REQUEST_COMPLETE, FABRIC_INGRESS_ACCESS, MOVING_HOLD_TIMEOUT,
COLL_PACKET_INGRESS, COLL_PACKET_ACK and COLL_RETRY_RESEND. 05 R101 and R96: a chunk that passes its checks is moved, and a copy all
of whose bytes are moved completes, a chunk for this package’s own fabric address once its packets are performed here; a COPYP of no
bytes sends its one packet, and to a lost package stops with PROT (log entry 46); R79 and R102: a field page and a refusal stop it. 05
R107: every record whose predicate holds fires once. 10 R183: a queued request is posted when there is room, and the arbiter grants one; 10 R182 and R188: a granted request is
performed and TL falls, a chain’s step leaves the chain one step further, and the next step is fetched while one runs. 11 R197, 01 R28:
a put is performed, or held at a moving frame or before a gate; that a hold may time out at any moment is the model’s (log entry 6),
and the form of the messages of a field read is too (log entry 31); 14 R267: a partition that takes no access answers a read of a cell
with PROT; 11 R206 and R210: packets are answered, and the last answer ends a COLL. -/
def Obligations.engine_event_results : Prop :=
  ∀ (s : State) (n sid core quad tag package : Nat) (c : Copy) (r : MatReq) (q : List MatReq) (pkt : FabPkt) (cp : CollPkt) (w : CollWait),
    let a := leadQueue s sid
    let k := getSkein a sid
    (s.copies[n]? = some c → copyRuns s c = true → c.state = .running → c.total ≠ 0 → c.progress ≠ c.total →
      (c.progress = 0 → copyOnField s c = none) →
      (c.kind ≠ .tree →
        let src := copySide s c c.here_.1 c.chunk false
        let dst := copySide s c c.here_.2 c.chunk true
        sideAwaits s c c.chunk src = false → exec (.copyChunk n) s = .next ((chunkStops s c [(src, 3), (dst, 4)] (copyPin s c c.here_.2 c.chunk)).getD
          (moveChunk (keepSides s c [(c.here_.1, src), (c.here_.2, dst)]) c src dst))) ∧
      (c.kind = .tree →
        let srcs := c.slots.map (fun x => copySide s c x c.treeChunk false)
        let dst := copySide s c (c.dst + dw c.progress) c.treeChunk true
        (∀ x ∈ srcs, sideAwaits s c c.treeChunk x = false) → exec (.copyChunk n) s = .next ((chunkStops s c (srcs.map (fun x => (x, 3)) ++ [(dst, 4)]) (copyPin s c (c.dst + dw c.progress) c.treeChunk)).getD
          (moveTree (keepSides s c (c.slots.zip srcs ++ [(c.dst + dw c.progress, dst)])) c c.treeChunk srcs dst)))) ∧
    (s.copies[n]? = some c → copyRuns s c = true → c.state = .running → c.total ≠ 0 → c.progress = 0 → ∀ va, copyOnField s c = some va →
      exec (.copyChunk n) s = .next (stopCopy s c .fstore (dw va))) ∧
    (s.copies[n]? = some c → copyRuns s c = true → c.state = .running → c.kind = .copyp → c.total = 0 →
      exec (.copyChunk n) s = .next (if fieldOf c.dst.toNat 39 21 ∈ s.lostPkgs then stopCopy s c .prot c.dst else sendChunk s c c.dst [])) ∧
    (s.copies[n]? = some c → c.state = .sent → (chunkAcked s c = false → exec (.copyComplete n) s = .next s)) ∧
    (s.copies[n]? = some c → c.state = .sent → chunkAcked s c = true →
      (c.progress + c.chunk ≠ c.total → copyRuns s c = true →
        exec (.copyChunk n) s = .next (setCopy s { c with state := .running, progress := c.progress + c.chunk })) ∧
      (c.progress + c.chunk = c.total → exec (.copyComplete n) s = .next (endCopy s c))) ∧
    (s.copies[n]? = some c → c.state = .running → c.kind ≠ .copyp → (c.progress = c.total → exec (.copyComplete n) s = .next (endCopy s c)) ∧
      (c.progress ≠ c.total → exec (.copyComplete n) s = .next s)) ∧
    (∀ cause addr, copyOfTag s tag = some c → exec (.fabricRefusal tag cause addr) s = .next (stopCopy s c (causeAt cause) (dw addr))) ∧
    (copyOfTag s tag = some c → answers (exec (.copyResendOnRetry tag) s) (fun t => t.copies = s.copies ∧ t.mem = s.mem ∧
      (FabricOut.packet package pkt ∈ s.fabricOut → pkt.tag = tag → t.fabricOut.length = s.fabricOut.length + 1))) ∧
    (fieldOf c.dst.toNat 39 21 = s.package.toNat → chunkAcked s c =
      (copyCuts c.here_.2 c.chunk).all (fun x => wasApplied s s.package.toNat 0 (copyTag c (c.progress + x.1)))) ∧
    (exec (.triggerEvaluation core) s = .next ((dueTriggers s core).foldl (fun b t => enterCopy b t.action)
      { s with triggers := s.triggers.filter (fun t => !((dueTriggers s core).any (fun x => x.seq == t.seq))), evalPending := s.evalPending.filter (fun x => x != core) })) ∧
    (k.queue = r :: q → k.place = .resident → (getPart a k.part).halted = false →
      (r.stage = .queued → r.op.byGroup = false → (posted a (k.core / 4)).length < 32 →
        ((posted a (k.core / 4)).filter (fun e => (getSkein a e.1).core == k.core)).length < 8 → let x := setHead k { r with stage := .posted, age := s.cycle.toNat }
        (r.op ≠ .loop → exec (.matrixRequestPost sid) s = .next (setSkein a sid x)) ∧
        (r.op = .loop → k.saving = none → (k.chain.ahead = none → fetchWaits a k k.chain.done = false) →
          exec (.matrixRequestPost sid) s = .next (setSkein a sid (Chain.fetch x)))) ∧
      (r.stage ≠ .queued → r.op = .loop → k.chain.ahead = none → k.chain.done + 1 < k.chain.n → fetchWaits a k (k.chain.done + 1) = false →
        exec (.matrixRequestPost sid) s = .next (setSkein a sid (Chain.prefetch k)))) ∧
    (∀ e es, sortBy (matBefore s) ((posted s quad).filter (fun e => !(getPart s (getSkein s e.1).part).halted)) = e :: es →
      exec (.matrixPassGrant quad) s = .next (setSkein s e.1 (setHead (getSkein s e.1) { e.2 with stage := .granted }))) ∧
    ((getSkein s sid).queue = r :: q → r.op = .loop → r.stage = .granted → (getSkein s sid).place = .resident → (getSkein s sid).chain.ce = false →
      (getSkein s sid).chain.done + 1 < (getSkein s sid).chain.n → answers (exec (.mloopStepRetire sid) s) (fun t =>
        (getSkein t sid).chain.done = (getSkein s sid).chain.done + 1 ∧ (getSkein t sid).chain.active = (getSkein s sid).chain.active)) ∧
    ((getSkein s sid).queue = r :: q → r.op ≠ .loop → r.stage = .granted → (getSkein s sid).place = .resident →
      (r.op.usesBanks = true → banksShut s (getSkein s sid).core = false) →
      exec (.matrixRequestComplete sid) s = .next (endRequest (performMat s sid r) sid r)) ∧
    (∀ slot cell p, pkt.body = .fieldRead slot cell → partOfSpid s pkt.spid = some p →
      (∀ d, closed s (getPart s p) = false → domainAt s pkt.spid slot = some d → exec (.fabricIngressAccess pkt) s = .next (reply s pkt (.fieldValue (cellRead s d cell)))) ∧
      (closed s (getPart s p) = true → exec (.fabricIngressAccess pkt) s = .next (reply s pkt (.fieldMoved 0 Cause.prot.code)))) ∧
    (∀ red bytes last rce rcnt rcore, pkt.body = .put red bytes last rce rcnt rcore →
      (exec (.fabricIngressAccess pkt) s = .next (ingressPut s pkt red.toNat bytes last rce rcnt rcore)) ∧
      (∀ p x moves, partOfSpid s pkt.spid = some p → wasApplied s pkt.src 0 pkt.tag = false → closed s (getPart s p) = false → (rce = true → rcore ∈ coresOf s p) →
        bytes ≠ [] → heldOf s (.put pkt) = none → windowSide s p pkt.src pkt.off bytes.length true = (.inGlobal x, moves) →
        let a := if moves then s else keepPort s p pkt.src pkt.off x
        exec (.fabricIngressAccess pkt) s = .next ((if moves then none else performPut a pkt red.toNat bytes last (if rce then some (rcore, rcnt) else none) (some x.pa)).getD
          (holdAccess a p pkt.src (.put pkt) [((getPart s p).windowVa pkt.off, x.pa, bytes.length, moves)])))) ∧
    (∀ held, s.heldPkts[n]? = some held → held.ready s = true → exec (.movingHoldTimeout n) s = .next s) ∧
    (∀ held, s.heldPkts[n]? = some held → held.ready s = false → (held.body = .put pkt → exec (.movingHoldTimeout n) s = .next (answer s pkt false retryStatus (fabricAddr s pkt.off))) ∧
      (held.body = .coll cp → exec (.movingHoldTimeout n) s = .next (collAnswer s cp .retry))) ∧
    (s.heldPkts.length ≤ n → s.copies[n - s.heldPkts.length]? = some c →
      exec (.movingHoldTimeout n) s = .next (if c.writesMoving s = true then countRetry (setCopy s { c with pin := none }) c.core else s)) ∧
    (partOfSpid s cp.spid = none → exec (.collPacketIngress cp) s = .next (collAnswer s cp (.refused Cause.prot.code 0))) ∧
    (∀ p e, partOfSpid s cp.spid = some p → wasApplied s cp.src 2 cp.tag = false → closed s (getPart s p) = false → heldOf s (.coll cp) = none →
      s.colls.find? (fun x => x.1 == collKey p cp.id) = some e → e.2.attempt = BitVec.ofNat 16 cp.attempt →
      exec (.collPacketIngress cp) s = .next (ingressColl s cp p e.2)) ∧
    (s.collWaits.find? (fun x => x.tag == tag && x.peers.contains package) = some w → w.peers = [package] →
      exec (.collPacketAck tag package .performed) s = .next (lowerCp { s with collWaits := s.collWaits.filter (fun x => x.tag != tag) } w.sid w.ply w.lanes)) ∧
    (∀ x ∈ s.collWaits, x.tag = tag → package ∈ x.peers → answers (exec (.collRetryResend tag package) s) (fun t =>
      t.collWaits = s.collWaits ∧ (FabricOut.coll package cp ∈ s.fabricOut → cp.tag = tag → t.fabricOut.length = s.fabricOut.length + 1)))

/-- Completion of SKEIN_PLACEMENT, SKEIN_RESTORE, PLACEMENT_WAIT_TIMEOUT, PLY_SWAP, PLY_ANTI_STARVATION, LDLFE_GRANULE_FILLED,
RGROW_GRANT, RGROW_DEADLOCK_BREAK, SKEIN_SAVE, SAVE_STOP_TIMEOUT, POISON_TRAP, PRECTL_REQ, PRECTL_RESUME,
PREEMPT_DEADLINE, SLICE_EXPIRY, DBGCTL_HALT, DBGCTL_RELEASE and PHASE_ALL_COMMITTED. 12 R221:
the scheduler’s next act is a placement or a restore. 12 R223: a ready pending ply takes a free slot, or that of a stuck one; against
starvation the one that has waited longest takes a slot that a ply need not keep (which slot, and when, are the model’s: log entry 6).
06 R118: an LDLFE whose granules are full goes on. 07 R125: blocked register requests are granted in order (of the skeins’ ages, log entry 73), and a deadlock saves the
last skein. 14 R256: a
skein that has drained is saved, but on no stopped core; 14 R261: one that does not drain in time fails its save. 14 R260 to
R263: pre-emption, time slices and the debugger stop skeins; that RESUME releases every hold, and the context that has run longest goes
first, are the model’s readings (log entry 23). 14 R265 and 15 R276: a strand with dead lanes, or that folded poison, traps; 15 R273 and
R278: with every skein committed a phase ends. -/
def Obligations.scheduling_and_save_event_results : Prop :=
  ∀ (s : State) (p core sid ply strand part num : Nat) (w : DWord) (k : Skein) (t : Strand),
    (∀ c a, schedule s p = some (c, a) → exec (.skeinPlacement p) s = .next a) ∧
    (∀ a, schedule s (getSkein s sid).part = some (.back sid, a) → exec (.skeinRestore sid) s = .next a) ∧
    (∀ m l, (candidates s p).findSome? (fun c => match c with
        | .fresh m => some m
        | .back _ => none) = some m → findLaunch s m = some l → tryCand s (.fresh l.num) = none →
      exec (.placementWaitTimeout p) s = .next (setLaunch s { l with starved := true })) ∧
    (∀ e, (readyPending s core).head? = some e → (activePlies s core < 8 → exec (.plySwap core) s = .next (takeSlot s e 0)) ∧
      (∀ v, 8 ≤ activePlies s core → (pliesOf s core true).reverse.find? (fun e => plyStuck s e.1 e.2) = some v →
        exec (.plySwap core) s = .next (takeSlot (giveSlot s v) e 0))) ∧
    (∀ e, longestPending s core = some e → (e ∈ readyPending s core ∧ ∀ x ∈ readyPending s core, pendSince s e ≤ pendSince s x) ∧
      (activePlies s core < 8 → exec (.plyAntiStarvation core) s = .next (takeSlot s e (s.cycle + 64))) ∧
      (∀ v, 8 ≤ activePlies s core → (pliesOf s core true).reverse.find? (fun e => !(keepsSlot s e)) = some v →
        exec (.plyAntiStarvation core) s = .next (takeSlot (giveSlot s v) e (s.cycle + 64)))) ∧
    (readyPending s core ≠ [] → ∃ e, longestPending s core = some e) ∧
    (exec (.ldlfeGranuleFilled sid ply part) s = .next (mapStrands s sid ply ((partsOf (getSkein s sid) ply).getD part []) (fun _ t =>
      if t.wait = .fullEmpty then { t with wait := .none } else t))) ∧
    (∀ ns need, growRequests s core = [(sid, ply, strand, need)] → (partsOf (getSkein s sid) ply).find? (fun ns => ns.contains strand) = some ns →
      growBad (getSkein s sid) need = false → (growFits s (getSkein s sid) need = true →
        exec (.rgrowGrant core) s = .next (mapStrands (growBy s sid need) sid ply ns (fun _ t => { t with wait := .none, pc := t.pc + 4 }))) ∧
      (growFits s (getSkein s sid) need = false → exec (.rgrowGrant core) s = .next s)) ∧
    (∀ rs, sortBy (goesBefore s) (residentOn s core) = rs ++ [sid] → (∀ x ∈ residentOn s core, growBlocked s x = true ∧ (getSkein s x).saving = none) →
      exec (.rgrowDeadlockBreak core) s = .next (setSkein s sid { getSkein s sid with saving := some .deadlock })) ∧
    (getSkein s sid = k → k.saving.isSome = true → k.place = .resident → coreStopped s k.core = false → skeinDrained s sid = true →
      exec (.skeinSave sid) s = .next (saveSkein s sid)) ∧
    (getSkein s sid = k → coreStopped s k.core = true → exec (.skeinSave sid) s = .next s) ∧
    (getSkein s sid = k → k.saving.isSome = true → skeinDrained s sid = false → exec (.saveStopTimeout sid) s = .next (failSave s sid)) ∧
    (getStrand s (strandKey sid ply strand) = t → t.alive = true → t.newDead = 0 → t.foldBad.isSome = true → (getSkein s sid).place = .resident →
      t.wait.sleeps = false → t.wait.begun = false → exec (.poisonTrap sid ply strand) s = .next (trapOne (setStrand s (strandKey sid ply strand) { t with foldBad := none }) sid ply strand
        { trapOf t.liveLanes .poison t.pc (t.foldBad.getD 0) with top := ~~~ t.dead })) ∧
    (getStrand s (strandKey sid ply strand) = t → t.alive = true → t.newDead ≠ 0 → (getSkein s sid).place = .resident → t.wait.sleeps = false → t.wait.begun = false →
      exec (.poisonTrap sid ply strand) s = .next (trapOne (setStrand s (strandKey sid ply strand) { t with newDead := 0, poisonAddr := 0 }) sid ply strand
        { trapOf t.newDead .poison t.pc t.poisonAddr with top := ~~~ t.dead })) ∧
    ((getPart s p).preReq = false → answers (exec (.prectlReq p w) s) (fun t => (getPart t p).preReq = true ∧
      (getPart t p).preState = 1 ∧ (getPart t p).preTarget = (w.extractLsb' 32 16).toNat)) ∧
    ((getPart s p).present = true → w.getLsbD 0 = false → answers (exec (.prectlResume p w) s) (fun t => (getPart t p).preHeld = [])) ∧
    (((getPart s p).preState = 1 ∨ (getPart s p).preState = 2) → preTargets s p (getPart s p).preTarget = [] → exec (.preemptDeadline p) s = .next (endPreempt s p 3)) ∧
    (((getPart s p).sliceLen = 0 ∨ (getPart s p).preReq = true) → exec (.sliceExpiry p) s = .next s) ∧
    (∀ c, (getPart s p).sliceLen ≠ 0 → (getPart s p).preReq = false → sliceTarget s p = some c → runsOn s p c = true ∧
      answers (exec (.sliceExpiry p) s) (fun t => (getPart t p).preReq = true ∧ (getPart t p).preTarget = c ∧ (getPart t p).preSlice = true)) ∧
    ((∀ c ∈ (getPart s p).running, runsOn s p c = false) → sliceTarget s p = none) ∧
    (answers (exec (.dbgctlHalt p w) s) (fun t => (getPart t p).dbgHalt = true ∧ (getPart t p).dbgLaunch = w.extractLsb' 0 24 ∧
      ((sid, getSkein s sid) ∈ s.skeins → (getSkein s sid).part = p → (getSkein s sid).launch = (w.extractLsb' 0 24).toNat → (getSkein s sid).place = .resident →
        (getSkein s sid).saving = none → (getSkein t sid).saving = some .debug))) ∧
    ((getPart s p).present = true → answers (exec (.dbgctlRelease p w) s) (fun t => (getPart t p).dbgHalt = false ∧ (getPart t p).dbgLaunch = w.extractLsb' 0 24)) ∧
    (∀ l, let a := ((skeinsOf s num).filter (fun x => (getSkein s x).place == .resident)).foldl commitSkein s
      findLaunch a num = some l → l.det = true → l.total ≤ l.placed → skeinsOf a num ≠ [] → l.phase < l.nphase →
      (∀ x ∈ skeinsOf a num, (getSkein a x).committed = true ∧ (getSkein a x).phase = l.phase) →
      (l.run = 0 → l.detMode = 3 → exec (.phaseAllCommitted num) s = .next (restartPhase a l)) ∧
      ((l.run ≠ 0 ∨ (l.detMode ≠ 2 ∧ l.detMode ≠ 3)) → exec (.phaseAllCommitted num) s = .next (advanceAll (settlePhase a l) num)))

/-- Completion of MIGBASE_WRITE, MIGTAIL_WRITE, CHRET_WRITE, FRMOVE_WRITE, RETRYCNT_READ, ATMCTL_WRITE, ATMCNT_READ,
HOMEBASE_WRITE, TOKBASE_WRITE, COLLDROP_READ, EVLOST_READ, REPLAYS_READ, MQPUSH_WORD0, MQPUSH_WORD1, EVCTL_WRITE, EVHEAD_WRITE,
EVENT_INTERRUPT_TIMER, REGISTER_WRITE, CHANNEL_EVENT, SHADOW_LATCH_REPEAT and LSMODE_TAKES_EFFECT. 06 R114: a change of LSMODE takes
effect. 01 R24: a write of MIGBASE or MIGSIZE with no move in progress sets HEAD and TAIL to 0; 01 R29: bits of CHRET are set
only. 04 R90, R91: ATMCTL, HOMEBASE and TOKBASE keep their fields. 11 R198, 16 R285 and R293: COLLDROP, EVLOST, REPLAYS,
RETRYCNT and ATMCNT answer and clear; that TAIL is taken modulo the ring is log entry 19, that REPLAYS saturates log entry 47, and that
the timer does nothing with no event uncovered log entry 52. 16 R286: MQPUSH’s second word queues a message of two words, or sets LOSTQ. 16 R287
and R288: event slots and interrupts. -/
def Obligations.register_event_results : Prop :=
  ∀ (s : State) (die off part q stack channel core : Nat) (w : DWord) (failed : Bool), let d := getIo s die
    let x := getPart s part
    (∀ m, (getCore s core).pend = some m → exec (.lsmodeTakesEffect core) s = .next (setCore s core { getCore s core with mode := m, pend := none })) ∧
    (d.migBusy = false → d.migPend = none → exec (.migbaseWrite die 0 w) s = .next (setIo s die { d with migBase := keep w 12 51, migHead := 0, migTail := 0, migPend := none }) ∧
      exec (.migbaseWrite die 8 w) s = .next (setIo s die { d with migSize := keep w 0 4, migHead := 0, migTail := 0, migPend := none })) ∧
    (exec (.migtailWrite die w) s = .next (setIo s die { d with migTail := fieldOf w.toNat 0 16 % 2 ^ d.log2n })) ∧
    (d.chret0 ||| w = d.chret0 → exec (.chretWrite die 0 w) s = .next (setIo s die { d with chret0 := d.chret0 ||| w })) ∧
    (d.chret1 ||| w ≠ d.chret1 → exec (.chretWrite die 1 w) s = .next (postEvent (setIo s die { d with chret1 := d.chret1 ||| w }) { part := 0, type := 5, w1 := 3, w2 := 0, w3 := 0 })) ∧
    (d.frMark = none → answers (exec (.frmoveWrite die w) s) (fun t => t.moving = fieldOf w.toNat 16 36 :: s.moving ∧ t.flight = s.flight)) ∧
    (∀ old, d.frMark = some old → answers (exec (.frmoveWrite die w) s) (fun t => t.moving = s.moving.filter (fun x => x != old) ∧ (getIo t die).frMark = none)) ∧
    (answers (exec (.retrycntRead die) s) (fun t => t.bus = dw d.retryCnt ∧ (getIo t die).retryCnt = 0)) ∧
    (exec (.atmctlWrite w) s = .next { s with atmEpoch := w.extractLsb' 28 4, atmThresh := w.extractLsb' 12 16, atmEn := w.getLsbD 0 }) ∧
    (exec .atmcntRead s = .next { s with bus := dw s.atmCnt, atmCnt := 0 }) ∧
    (exec (.homebaseWrite w) s = .next { s with homeBase := keep w 21 51 ||| keep w 0 0 }) ∧
    (x.busy = false → (∃ r ∈ s.regions, r.part = part) → exec (.tokbaseWrite part w) s = .next s) ∧
    ((x.busy = true ∨ ∀ r ∈ s.regions, r.part ≠ part) → let l := fieldOf w.toNat 0 6
      exec (.tokbaseWrite part w) s = .next (setPart s part { x with tokBase := keep w 16 51 ||| dw (if 16 ≤ l ∧ l ≤ 34 then l else 0) })) ∧
    (exec (.colldropRead part) s = .next { setPart s part { x with collDrop := 0 } with bus := dw x.collDrop }) ∧
    (exec (.evlostRead part) s = .next { setPart s part { x with evLost := 0 } with bus := dw x.evLost }) ∧
    (exec (.replaysRead die) s = .next { s with replays := Tbl.set 0 s.replays die 0, bus := dw (Tbl.get 0 s.replays die) }) ∧
    (q < 32 → exec (.mqpushWord0 part q w) s = .next (setPart s part { x with pushWord := Tbl.set 0 x.pushWord q w })) ∧
    (q < 32 → x.busy = false → (queueOf x q).length < 64 → exec (.mqpushWord1 part q w) s = .next (setPart s part (enqueue x q (Tbl.get 0 x.pushWord q, w, 0, 0)))) ∧
    (q < 32 → (x.busy = true ∨ 64 ≤ (queueOf x q).length) → exec (.mqpushWord1 part q w) s = .next (setPart s part { x with lostQ := x.lostQ ||| (1#32 <<< q) })) ∧
    (exec (.evctlWrite part w) s = .next (drainHeld part 256 (coverEvents (setPart s part
      { x with evTime := w.extractLsb' 32 16, evCount := w.extractLsb' 16 16, evLog2n := w.extractLsb' 0 5 }) part))) ∧
    (exec (.evheadWrite part w) s = .next (drainHeld part 256 (setPart s part { x with evHead := w.setWidth 16 }))) ∧
    (x.evUncovered ≠ 0 → answers (exec (.eventInterruptTimer part) s) (fun t => t.hostOut = s.hostOut ++ [HostOut.interrupt part])) ∧
    (x.evUncovered = 0 → exec (.eventInterruptTimer part) s = .next s) ∧
    (0x1000 ≤ off → off < 0x3000 → off % 0x400 = 0x240 → let p := (off - 0x1000) / 0x400
      exec (.registerWrite (.cfg off) w) s = .next (setPart s p { getPart s p with evBase := keep w 12 63 })) ∧
    (exec (.channelEvent stack channel failed) s = .next (postEvent s { part := 0, type := 12, w1 := dw stack, w2 := dw channel, w3 := if failed then 1 else 0 })) ∧
    (exec (.shadowLatchRepeat die) s = .next { tick s with replays := Tbl.set 0 s.replays die (min (Tbl.get 0 s.replays die + 1) 0xFFFFFFFF) })

/-- Completion of MIGRATION_DESCRIPTOR_TAKE, MIGRATION_MOVE_DONE, HOST_WINDOW_ACCESS, KEY_RELEASE, SPDM_MEASUREMENT_REQUEST,
POWER_ON, POWER_LOSS, PBOOT_WRITE, PRST_RESET, PARTITION_RESET_DONE, PORT_DOWN_TIMEOUT, FLIT_CRC_REPLAY, PACKAGE_LOST,
POWER_INTERVAL, HALT_STOP_TIMEOUT and ORDER_GATE_TIMEOUT. 01 R24 and
R23: the engine takes the descriptor at HEAD, and the end of a move writes its status and steps HEAD. 16
R284: a window that is off, or an access beyond it, is refused; so is an access of no bytes, and a write that an order gate holds waits
and is taken again by the same event (both log entry 43). 16 R294: power-on sets every register to reset and the partitions as
configured (log entry 8), a loss of power keeps no state (log entry 44), and PBOOT’s launch has EVEC and HVEC 0 (log entry 42); 01 R31
and R30: keys and measurements. 16 R295: a partition reset stops and zeroes the partition, and ends with BUSY clear, which ends the halt
too (log entry 45). 11 R195: a port leaves the routing, and a lost package is recorded; what is lost with it is log entry 46, and a flit’s
replay is log entry 47. 12 R226: the permit falls and rises with the power drawn, by an amount that stays free (log entry 51). 14 R267:
an agent that has not stopped in time gets an unclean record; 15 R282: a gate that waits too long opens, with an event; when these
times have passed is the model’s (log entry 6). -/
def Obligations.package_event_results : Prop :=
  ∀ (s : State) (die part off port package block p n agent watts : Nat) (acc : HostAcc) (w : DWord) (cfg : BringUp) (xs : List Xl), let d := getIo s die
    let x := getPart s part
    (p < 8 → (getPart s p).present = true → answers (exec (.powerInterval [(p, watts)]) s) (fun t => let x := getPart s p
      let y := getPart t p
      y.pcap = x.pcapNext ∧ (x.pcap = watts → y.permit = x.permit) ∧ (x.pcap < watts → 1 ≤ y.permit ∧ y.permit ≤ max 1 (x.permit - 1)) ∧
        (watts < x.pcap → y.permit ≤ 64 ∧ min 64 (x.permit + 1) ≤ y.permit))) ∧
    ((getPart s p).halted = true → (agentsOf s p).contains agent = true → (getPart s p).stopWritten.contains agent = false →
      exec (.haltStopTimeout p agent) s = .next (stopRecord s p agent false)) ∧
    (∀ e, s.orders[n]? = some e → e.play = true → e.div = false → gateWaits s e = true →
      exec (.orderGateTimeout n) s = .next (postEvent (setOrder s { e with div := true }) { part := e.part, type := 11, w1 := dw e.desc, w2 := dw e.used, w3 := 0 })) ∧
    (die < 2 → engineRuns s die = true → d.migBusy = false → d.migHead ≠ d.migTail → populated s (d.migBase.toNat + 32 * d.migHead) = true →
      let ws := bytesDwords 4 (readBytes s (d.migBase.toNat + 32 * d.migHead) 32)
      (fieldOf (ws.getD 3 0).toNat 0 8 = 0 → exec (.migrationDescriptorTake die) s = .next (setIo s die { d with migBusy := true, migPa := d.migBase.toNat + 32 * d.migHead, migDesc := ws })) ∧
      (fieldOf (ws.getD 3 0).toNat 0 8 ≠ 0 → exec (.migrationDescriptorTake die) s = .next (setIo s die { d with migErr := true, migHead := (d.migHead + 1) % 2 ^ d.log2n }))) ∧
    (die < 2 → d.migBusy = true → engineStopped s die = false → let a := (d.migDesc.getD 0 0).toNat
      let b := (d.migDesc.getD 1 0).toNat
      (∀ c, descriptorCode s a b (d.migDesc.getD 2 0).toNat = some c → exec (.migrationMoveDone die) s = .next (endDescriptor s die c)) ∧
      (descriptorCode s a b (d.migDesc.getD 2 0).toNat = none →
        exec (.migrationMoveDone die) s = .next (endDescriptor (moveFrame s a b) die (if frameBad s a then 2 else 1)))) ∧
    ((closed s x = true ∨ x.lswBase.getLsbD 0 = false ∨ 2 ^ 36 < off + accSize acc ∨ accSize acc = 0) →
      (∀ bs, acc = .write bs → heldOf s (.host part off bs) = none) →
      exec (.hostWindowAccess part off acc) s = .next { s with hostOut := s.hostOut ++ [.refused] }) ∧
    ((closed s x = true ∨ x.lswBase.getLsbD 0 = false ∨ 2 ^ 36 < off + accSize acc ∨ accSize acc = 0) → ∀ bs h, acc = .write bs →
      heldOf s (.host part off bs) = some h → exec (.hostWindowAccess part off acc) s = .next (let a := unhold s h.body
        { a with hostOut := a.hostOut ++ [.refused] })) ∧
    (s.powered = true → (∀ b, 1 ≤ b → b ≤ 4 → b ∈ s.measured) → exec .keyRelease s = .next { s with keys := true }) ∧
    ((s.powered = false ∨ ∃ b, 1 ≤ b ∧ b ≤ 4 ∧ b ∉ s.measured) → exec .keyRelease s = .next s) ∧
    (s.powered = true → 1 ≤ block → block ≤ 4 → answers (exec (.spdmMeasurementRequest block) s) (fun t => block ∈ t.measured ∧
      (∀ b ∈ s.measured, b ∈ t.measured) ∧ (let h := (List.range 8).map (Config.sha3 (measuredWords s block))
        t.hostOut = s.hostOut ++ [.measurement block (h ++ (List.range 579).map (Config.signature h))]))) ∧
    (s.powered = false → bringUpOk cfg = true → answers (exec (.powerOn cfg) s) (fun t => t.powered = true ∧ t.keys = false ∧
      t.package = cfg.package ∧ t.mem = [] ∧ t.strands = [] ∧ t.skeins = [] ∧ t.launches = [] ∧ t.io0 = State.reset.io0 ∧ t.io1 = State.reset.io1 ∧
      t.measured = [] ∧ ∀ c ∈ cfg.parts, getPart t c.num = freshPart c cfg.parts.length)) ∧
    ((s.powered = true ∨ bringUpOk cfg = false) → exec (.powerOn cfg) s = .next s) ∧
    (exec .powerLoss s = .next { State.reset with ticks := s.ticks, agenda := s.agenda, hostOut := s.hostOut, fabricOut := s.fabricOut }) ∧
    (∀ l, let y := { x with pbootRec := keep w 6 56, pbootWait := false }
      closed s y = false → (∀ m ∈ s.launches, ¬ (m.part = part ∧ m.dispatcher = true)) →
      judgeMessage (setPart s part y) part (keep w 6 56) (y.lswCtx.setWidth 64) 0 0 = .accepted l → l.prio = 31 → l.super = true →
      exec (.pbootWrite part w) s = .next (acceptLaunch (setPart s part y) { l with dispatcher := true })) ∧
    ((w.getLsbD 0 = false ∨ x.busy = true ∨ x.present = false) → exec (.prstReset part w) s = .next s) ∧
    (w.getLsbD 0 = true → x.busy = false → x.present = true → exec (.prstReset part w) s = .next (postEvent (newKey (resetZero (resetKill (resetHalt s part) part) part) part)
      { part := part, type := 5, w1 := 4, w2 := 0, w3 := 0 })) ∧
    (x.busy = true → exec (.partitionResetDone part) s = .next (setPart s part { x with busy := false, halted := false, raiser := none, stopWritten := [] })) ∧
    (port < 16 → port ∉ s.portsGone → exec (.portDownTimeout port) s = .next { s with portsGone := s.portsGone ++ [port] }) ∧
    (exec (.flitCrcReplay port) s = .next (tick s)) ∧
    ((package = here s ∨ package ∈ s.lostPkgs) → exec (.packageLost package) s = .next s) ∧
    (package ≠ here s → package ∉ s.lostPkgs → let a := refundAll (loseHolders { s with
        lostPkgs := s.lostPkgs ++ [package], domains := s.domains.map (fun d => d.lose package), heldCredits := s.heldCredits.filter (fun h => h.1 != package) } package) package
      exec (.packageLost package) s = .next (loseDeclarer (loseAcks (loseColls (loseCopies (loseAsked (a.flight.foldl (loseItem package) a)
        package) package) package) package) package)) ∧
    (package ≠ here s → package ∉ s.lostPkgs → s.flight = [] → s.copies = [] → s.collWaits = [] → s.domains = [] → s.transits = [] →
      exec (.packageLost package) s = .next (loseHolders { s with lostPkgs := s.lostPkgs ++ [package], domains := [], heldCredits := s.heldCredits.filter (fun h => h.1 != package) } package)) ∧
    (∀ k, k = accSize acc →
      closed s x = false → x.lswBase.getLsbD 0 = true → off + k ≤ 2 ^ 36 → k ≠ 0 →
      let ps := framePieces (k / 0x10000 + 2) (fieldOf x.lswBase.toNat 16 41 * 0x10000 + off) k
      ps.map (fun e => outsideSide s part x.lswCtx.toNat .copyAgent e.1 e.2 (accWrites acc)) = xs.map (fun x => (Side.inGlobal x, false)) →
      (acc = .read k → exec (.hostWindowAccess part off acc) s = .next (hostRead s (ps.zip xs))) ∧
      (∀ bs, acc = .write bs → heldOf s (.host part off bs) = none → exec (.hostWindowAccess part off acc) s =
        .next ((hostPut bs 0 (hostSpots (ps.zip xs)) s).getD (holdIn s part x.lswCtx.toNat (here s) (.host part off bs) (hostSpots (ps.zip xs)))))) ∧
    (∀ bs h, acc = .write bs → closed s x = false → x.lswBase.getLsbD 0 = true → off + bs.length ≤ 2 ^ 36 → bs.length ≠ 0 →
      heldOf s (.host part off bs) = some h → exec (.hostWindowAccess part off acc) s =
        .next (if h.ready s then ((hostPut bs 0 h.spots s).map (fun a => unhold a h.body)).getD s else s))

/-- The Reset columns of the register maps: ATMCTL holds EPOCH 4, THRESH 0x1000 and EN 1; FWCTL reads LOG2SIZE 16, PRECTL
DEADLINE 1000, LSWCTX 0xFFFF, EVCTL TIMEUS 50 and COUNT 1; the other memory-control registers and the counters read 0.
Launch numbers start at 0 (12 R218). That the rest starts at 0 where the spec gives no value is the model’s (log entry 2), and so is the
canonical form of memory, its poison and the lines at their homes (log entry 1). Every PC is aligned. -/
def Obligations.reset_values : Prop :=
  ((ctlRead State.reset 0 0x080).1 = 0x41000001 ∧ ∀ die < 2, ∀ off ∈ [0x000, 0x008, 0x010, 0x018, 0x020, 0x040, 0x048, 0x050, 0x058, 0x088, 0x090],
      (ctlRead State.reset die off).1 = 0) ∧
    (∀ p < 8, (ctlRead State.reset 0 (0x100 + 0x20 * p)).1 = 0 ∧ (ctlRead State.reset 0 (0x108 + 0x20 * p)).1 = 16 ∧
      (ctlRead State.reset 0 (0x110 + 0x20 * p)).1 = 0 ∧ (ctlRead State.reset 0 (0x400 + 0x10 * p)).1 = 0) ∧
    (∀ p < 8, (ctlRead State.reset 0 (0x200 + 0x40 * p)).1 = 1000 * 2 ^ 8 ∧ ∀ off ∈ [0x208, 0x210, 0x218, 0x220],
      (ctlRead State.reset 0 (off + 0x40 * p)).1 = 0) ∧
    (∀ p < 8, let x := getPart State.reset p
      x.lswCtx = 0xFFFF ∧ x.evTime = 50 ∧ x.evCount = 1 ∧ x.permit = 64 ∧ x.ctxBase = 0 ∧ x.lswBase = 0 ∧ x.lostQ = 0 ∧ x.busy = false ∧
        x.pbootRec = 0 ∧ x.evBase = 0 ∧ x.evLog2n = 0 ∧ x.evHead = 0 ∧ x.evTail = 0 ∧ x.evLost = 0 ∧ x.esel = 0) ∧
    ((∀ core k, counter State.reset core k = 0) ∧ State.reset.nextLaunch = 0 ∧ (∀ die, Tbl.get 0 State.reset.replays die = 0) ∧
      ∀ core, (getCore State.reset core).mode = false ∧ (getCore State.reset core).pend = none) ∧
    (memOk State.reset = true ∧ pcsAligned State.reset)

/-- For every state in which memory, its poison and the lines held at their homes are in canonical form (keys rise, and no
entry holds what an unlisted key reads as), whatever the step is, the next state has that form too: so states that hold the
same bytes are equal data. The canonical form is the model’s own (log entry 1), not a rule of the spec. -/
def Obligations.step_keeps_memory_canonical : Prop :=
  ∀ s t : State, memOk s = true → step s = .next t → memOk t = true

/-- When nothing must come first and the schedule names a group that may issue and whose turn it is, or names nothing and the round
has come to the group, the step issues it, and its energy is charged (12 R228; what is charged for it is log entry 75). Issuing executes the instruction that the word at the PC
decodes to, in the state that the fetch leaves; an XW with the word behind it; a word that decodes to nothing traps ILLEGAL or PRIV; a
failed fetch traps. The group then stands behind the other parts of its ply (12 R214). The order among plies is the model’s choice
(log entry 12). -/
def Obligations.step_runs_the_decoded_word : Prop :=
  ∀ (s b c : State) (g : Group) (x y : Xl) (w f : Word) (i : Instr) (ca : Cause) (e : Nat) (rest : List Turn), let a := takesTurn s g
    let k := curSkein a
    let m := curMode a
    let pc := (curPc a).toNat
    (s.badPa = none → s.powered = true → mustCome s = none → mustSettle s = none → fencesDue s = none → s.agenda = .issue g :: rest →
      itsTurn { s with agenda := rest } g = true → step s = onNext (account s) (issue { s with agenda := rest } g)) ∧
    (s.badPa = none → s.powered = true → mustCome s = none → mustSettle s = none → fencesDue s = none → s.agenda = [] → stopNext s = none →
      halfDue s = none → (dueEvents s).findSome? (changed s) = none → (roundLeft s).findSome? (nextPart s) = some g →
      step s = onNext (account s) (issue s g)) ∧
    (a.cur = g ∧ a.strands = s.strands ∧ a.mem = s.mem ∧ a.parts = s.parts ∧ curPc a = curPc { s with cur := g } ∧
      curMode a = curMode { s with cur := g } ∧ (2 ≤ (partsOf (getSkein s g.sid) g.ply).length → Tbl.get 0 k.turn g.ply = g.strands.headD 0 + 1)) ∧
    (fetchAt a k m pc = (.ok x, w, b) → opByte w ≠ 0x7F → decodeWords w 0 = .ok i → issue s g = onNext (chargeIssue b w 0) (exec i b)) ∧
    (fetchAt a k m pc = (.ok x, w, b) → opByte w = 0x7F → fetchAt b (curSkein b) (curMode b) (pc + 4) = (.ok y, f, c) →
      decodeWords w f = .ok i → issue s g = onNext (chargeIssue c w f) (exec i c)) ∧
    (∀ er, fetchAt a k m pc = (.ok x, w, b) → opByte w ≠ 0x7F → decodeWords w 0 = .error er →
      issue s g = .next (chargeIssue b w 0 (undecoded b w 0))) ∧
    (fetchAt a k m pc = (.bad ca e, w, b) → issue s g = .next (fetchFail b pc ca e)) ∧
    (∀ t u, (exec i b = .next t → onNext (account s) (onNext (chargeIssue b w f) (exec i b)) = .next u →
      u.strands = t.strands ∧ u.skeins = t.skeins ∧ u.mem = t.mem ∧ u.flight = t.flight ∧ u.launches = t.launches ∧ u.cores = t.cores))

/-- The words of the assembly fragment after 08 R154, the word of SYSC in 14 R248, and others made from the formats of 08
R138 to R148 bit by bit, decode to the instructions and operands that the spec gives them; words with a reserved field
decode to nothing. -/
def Obligations.words_decode_to_their_instructions : Prop :=
  decodeWords 0x017146FD 0 = .ok (.iaddi ⟨3, 1⟩ 5 6 0xFD) ∧
    decodeWords 0x530A0245 0 = .ok (.ldg ⟨0, 0⟩ 40 2 4 1 1) ∧
    decodeWords 0x9A0FFFC0 0 = .ok (.wait 0 15 15 7 7) ∧
    decodeWords 0x7F2C0000 0x28021060 = .ok (.xw 1 3 0 0 0 0 0x28021060) ∧
    decodeWords 0x1E048414 0 = .ok (.icmps ⟨0, 0⟩ 2 2 4 5 0) ∧
    decodeWords 0x904FFFFA 0 = .ok (.br 2 1 0x7FFFA) ∧
    decodeWords 0x9719E7F9 0 = .ok (.ubr 3 7 4 0x7F9) ∧
    decodeWords 0x5D400003 0 = .ok (.sysc ⟨2, 0⟩ 3) ∧
    decodeWords 0x80000000 0 = .ok (.nop) ∧
    decodeWords 0xC5000000 0 = .ok (.tret) ∧
    decodeWords 0x81188600 0 = .ok (.uadd 3 2 3) ∧
    decodeWords 0xCB000002 0 = .ok (.tlbiAll) ∧
    decodeWords 0x00048A0C 0 = .ok (.iadd ⟨0, 0⟩ 18 10 3 0) ∧
    (∃ e, decodeWords 0x80000001 0 = .error e) ∧
    (∃ e, decodeWords 0x5E000000 0 = .error e) ∧
    (∃ e, decodeWords 0x5D404003 0 = .error e)

/-- For every well-formed instruction that has a word, at every operand value that its encoding admits, decoding its encoded
words gives the instruction back: no bit of an encoding is dropped. And a word that decodes to an instruction is that
instruction’s encoding: each word has one meaning. An instruction that decodes is well formed. -/
def Obligations.decoding_and_encoding_agree : Prop :=
  ∀ (i : Instr) (w f : Word), (i.wf = true → encode i = [w] → decodeWords w f = .ok i) ∧
    (i.wf = true → encode i = [w, f] → decodeWords w f = .ok i) ∧
    (decodeWords w f = .ok i → i.wf = true ∧ (encode i = [w] ∨ encode i = [w, f]))

/-- 14 R244 and R245: each failing strand saves EPC, EADDR, ECAUSE, EMASK and its mode in the next trap-state set, pushes
both stacks, and goes on in S mode at EVEC; at EDEPTH 2 it enters H mode with NEST, both sets kept. The other strands of the
group, registers and memory stay as they are. In H mode a trap raises the halt line. 08 R154: a privileged word of a group
with a strand in a lower mode traps PRIV. -/
def Obligations.traps_enter_their_handlers : Prop :=
  ∀ (s t : State) (f : Nat → Option TrapInfo) (key : Nat) (x : TrapInfo) (d a b : BitVec 5) (n : BitVec 8) (q : BitVec 5),
    ((getStrand s key).mode = .hypervisor → trapEntry s key x = raiseHalt s key false) ∧
    (t = trapGroup s f → (grp s).Nodup → Tbl.wf Strand.reset s.strands = true → (∀ n ∈ grp s, f n ≠ none → (curStrand s n).mode ≠ .hypervisor) →
      t = { s with strands := t.strands, skeins := t.skeins, cur := t.cur, cycle := t.cycle, ticks := t.ticks } ∧
      (∀ key, key ∉ (grp s).map (curKey s) → getStrand t key = getStrand s key) ∧
      ∀ n ∈ grp s, let u := curStrand s n
        let v := getStrand t (curKey s n)
        (f n = none → v = u) ∧ ∀ x, f n = some x →
          (u.edepth ≠ 2 → v = { u with
            set1 := v.set1, set2 := v.set2, edepth := u.edepth + 1, mode := .supervisor, pc := u.evec, wait := .none,
            masks := (x.top.setWidth 8 ||| 0x10) :: u.masks, calls := 1 :: u.calls } ∧
            (if u.edepth = 0 then v.set1 else v.set2) =
              { epc := x.epc &&& ~~~ 3, eaddr := x.eaddr, ecause := x.causes, emask := x.mask, prev := u.mode } ∧
            (if u.edepth = 0 then v.set2 else v.set1) = (if u.edepth = 0 then u.set2 else u.set1)) ∧
          (u.edepth = 2 → v = { u with
            hepc := x.epc, hcause := v.hcause, masks := (u.top.setWidth 8 ||| 0x20) :: u.masks, calls := 2 :: u.calls,
            mode := .hypervisor, pc := u.hvec, wait := .none } ∧ v.hcause.toNat % 256 = 0x16)) ∧
    ((∃ n ∈ grp s, (curStrand s n).mode = .user) →
      exec (.fdecl d a) s = .next (trapAll s .priv (instrWord (.fdecl d a))) ∧
      exec (.fdeclRetire d a) s = .next (trapAll s .priv (instrWord (.fdeclRetire d a))) ∧
      exec .tret s = .next (trapAll s .priv (instrWord .tret)) ∧
      exec (.hcall n) s = .next (trapAll s .priv (instrWord (.hcall n))) ∧
      exec (.lnch d a b) s = .next (trapAll s .priv (instrWord (.lnch d a b))) ∧
      exec (.sksv d a b) s = .next (trapAll s .priv (instrWord (.sksv d a b))) ∧
      exec (.skrs d a b) s = .next (trapAll s .priv (instrWord (.skrs d a b))) ∧
      exec (.tlbi a b) s = .next (trapAll s .priv (instrWord (.tlbi a b))) ∧
      exec (.tlbiCtx b) s = .next (trapAll s .priv (instrWord (.tlbiCtx b))) ∧
      exec .tlbiAll s = .next (trapAll s .priv (instrWord .tlbiAll)) ∧
      exec (.msgs d a b q) s = .next (trapAll s .priv (instrWord (.msgs d a b q))) ∧
      exec (.msgr d a b) s = .next (trapAll s .priv (instrWord (.msgr d a b))) ∧
      exec (.msgrTry d a b) s = .next (trapAll s .priv (instrWord (.msgrTry d a b))) ∧
      exec (.swrLsmode a) s = .next (trapAll s .priv (instrWord (.swrLsmode a)))) ∧
    ((∃ n ∈ grp s, (curStrand s n).mode ≠ .hypervisor) →
      exec .hret s = .next (trapAll s .priv (instrWord .hret)) ∧
      exec .halt s = .next (trapAll s .priv (instrWord .halt)) ∧
      exec (.swrPcap a) s = .next (trapAll s .priv (instrWord (.swrPcap a))) ∧
      exec (.retnReclaim d) s = .next (trapAll s .priv (instrWord (.retnReclaim d))))

/-- The frame of the lane-set words of statements 1 to 17 (their next state is laneResult, or acrossResult where lanes read each other
and in SRD), of the uniform words that write one W register (uniResult; the other plies may still read its old value, 07 R128) and of
those that change the strands of the group (groupResult, WRI among them): memory, every other strand, every register, predicate and
special register that the word does not name, and every inactive lane stay as they are. A packet or an atomic request that is performed
changes no byte of memory outside the bytes that its lanes name (with a packet or an atomic request to an S page go those of its
instruction that are performed with it: log entry 60), one that reads changes none, and a store’s bytes are then read back, of 16 the half
that goes (log entry 58). -/
def Obligations.words_leave_the_rest_unchanged : Prop :=
  ∀ (s t : State) (i : Instr) (g : Guard) (len d n : Nat) (x : DWord) (f : Strand → Nat → LaneOut) (across : Nat → LaneOut)
    (h : Strand → Strand) (p : Packet) (r : AtomReq),
    (exec i s = .next t → t = laneResult s g len f → Tbl.wf Strand.reset s.strands = true → (grp s).Nodup →
      t = { s with strands := t.strands, cycle := t.cycle, ticks := t.ticks } ∧
      (∀ key, key ∉ (grp s).map (curKey s) → getStrand t key = getStrand s key) ∧
      ∀ n ∈ grp s, let u := curStrand s n
        let v := curStrand t n
        v = { u with
          pc := u.pc + BitVec.ofNat 64 len, wait := .none, preds := v.preds, fstat := v.fstat, user := v.user, sup := v.sup, lost := v.lost } ∧
        (Tbl.wf 0 u.user = true → Tbl.wf 0 u.sup = true → ∀ j < 4, ∀ r,
          ((u.active g).getLsbD j = false ∨ ∀ e ∈ (f u j).regs, e.1 ≠ r) → v.v r j = u.v r j) ∧
        ((∀ j < 4, ∀ e ∈ (f u j).preds, e.1 < 8) → ∀ j < 4, ∀ q < 8,
          ((u.active g).getLsbD j = false ∨ ∀ e ∈ (f u j).preds, e.1 ≠ q) → v.pred j q = u.pred j q)) ∧
    (exec i s = .next t → t = acrossResult s g across → Tbl.wf Strand.reset s.strands = true → (grp s).Nodup →
      t = { s with strands := t.strands, cycle := t.cycle, ticks := t.ticks } ∧
      (∀ key, key ∉ (grp s).map (curKey s) → getStrand t key = getStrand s key) ∧
      ∀ n ∈ grp s, let u := curStrand s n
        let v := curStrand t n
        v = { u with
          pc := u.pc + 4, wait := .none, preds := v.preds, fstat := v.fstat, user := v.user, sup := v.sup, lost := v.lost } ∧
        (Tbl.wf 0 u.user = true → Tbl.wf 0 u.sup = true → ∀ j < 4, ∀ r,
          ((u.active g).getLsbD j = false ∨ ∀ e ∈ (across (4 * n + j)).regs, e.1 ≠ r) → v.v r j = u.v r j) ∧
        ((∀ j < 4, ∀ e ∈ (across (4 * n + j)).preds, e.1 < 8) → ∀ j < 4, ∀ q < 8,
          ((u.active g).getLsbD j = false ∨ ∀ e ∈ (across (4 * n + j)).preds, e.1 ≠ q) → v.pred j q = u.pred j q)) ∧
    (exec i s = .next t → t = groupResult s h → Tbl.wf Strand.reset s.strands = true → (grp s).Nodup →
      t = { s with strands := t.strands, cycle := t.cycle, ticks := t.ticks } ∧
      (∀ key, key ∉ (grp s).map (curKey s) → getStrand t key = getStrand s key) ∧
      ∀ n ∈ grp s, curStrand t n = { h (curStrand s n) with pc := (h (curStrand s n)).pc + 4, wait := .none }) ∧
    (exec i s = .next t → t = uniResult s d x → Tbl.wf Strand.reset s.strands = true → Tbl.wf Skein.reset s.skeins = true → (grp s).Nodup →
      t = { s with strands := t.strands, skeins := t.skeins, cycle := t.cycle, ticks := t.ticks } ∧
      (∀ key, key ∉ (grp s).map (curKey s) → getStrand t key = getStrand s key) ∧
      (∀ n ∈ grp s, curStrand t n = { curStrand s n with pc := (curStrand s n).pc + 4, wait := .none }) ∧
      (∀ sid, sid ≠ s.cur.sid → getSkein t sid = getSkein s sid) ∧
      curSkein t = { curSkein s with w := (curSkein t).w, wBad := (curSkein t).wBad, late := (curSkein t).late } ∧
      (Tbl.wf 0 (curSkein s).w = true → ∀ m, m ≠ d → wReg t m = wReg s m) ∧
      (d ≠ 0 → wReg t d = x)) ∧
    (s.flight[n]? = some (.gatherStack p) → s.orders = [] → memOk s = true → let mine := s.flight.filterMap (fun i => i.packet.filter (fun q => q.org == p.org))
      (∀ q ∈ mine, q.write = p.write ∧ ∀ l ∈ q.lanes, ∀ o ∈ [0, 8], inCtl (l.pa + o) = false ∧ isField s (l.pa + o) = false) →
      exec (.gatherPacketAtStack n) s = .next t → (p.write = false → t.mem = s.mem) ∧
        ∀ a, (∀ q ∈ mine, ∀ l ∈ q.lanes, a < l.pa ∨ l.pa + l.data.length ≤ a) → readByte t a = readByte s a) ∧
    (s.flight[n]? = some (.atomic r) → s.orders = [] → memOk s = true → exec (.atomicAtHome n) s = .next t → ∀ a,
      (∀ q, (q = r ∨ (Item.atomic q ∈ s.flight.drop (n + 1) ∧ r.kind = .sequential ∧ q.kind = .sequential ∧ sameInstr r q = true)) →
        isField s q.pa = false ∧ (a < q.pa ∨ q.pa + q.width ≤ a)) → readByte t a = readByte s a) ∧
    (∀ l, s.flight[n]? = some (.gatherStack p) → s.orders = [] → memOk s = true → p.lanes = [l] → p.write = true → l.data.length = l.size →
      orderedRun s p = [] → let o := if upperNow s l then 8 else 0
      let m := min 8 (l.size - l.done)
      l.done < l.size → (l.size = 16 ∨ l.done = 0) → inCtl (l.pa + o) = false → isField s (l.pa + o) = false → laneMay s n p l = true →
      populated s (l.pa + o) = true → populated s (l.pa + o + m - 1) = true → answers (exec (.gatherPacketAtStack n) s) (fun t =>
        ∀ j b, o ≤ j → j < o + m → l.data[j]? = some b → readByte t (l.pa + j) = b.val))
end

