-- ==== Sys2Proof/Laws/State.lean ====
section
/-! SUPPORT. Each field of the state after each plain update of Machine/Ops.lean. -/

namespace Sys2Proof.Machine

@[simp] theorem setStrand_powered (s : State) (key : Nat) (t : Strand) : (setStrand s key t).powered = s.powered := rfl
@[simp] theorem setStrand_keys (s : State) (key : Nat) (t : Strand) : (setStrand s key t).keys = s.keys := rfl
@[simp] theorem setStrand_measured (s : State) (key : Nat) (t : Strand) : (setStrand s key t).measured = s.measured := rfl
@[simp] theorem setStrand_package (s : State) (key : Nat) (t : Strand) : (setStrand s key t).package = s.package := rfl
@[simp] theorem setStrand_tierMiB (s : State) (key : Nat) (t : Strand) : (setStrand s key t).tierMiB = s.tierMiB := rfl
@[simp] theorem setStrand_mem (s : State) (key : Nat) (t : Strand) : (setStrand s key t).mem = s.mem := rfl
@[simp] theorem setStrand_bad (s : State) (key : Nat) (t : Strand) : (setStrand s key t).bad = s.bad := rfl
@[simp] theorem setStrand_mere (s : State) (key : Nat) (t : Strand) : (setStrand s key t).mere = s.mere := rfl
@[simp] theorem setStrand_skeins (s : State) (key : Nat) (t : Strand) : (setStrand s key t).skeins = s.skeins := rfl
@[simp] theorem setStrand_launches (s : State) (key : Nat) (t : Strand) : (setStrand s key t).launches = s.launches := rfl
@[simp] theorem setStrand_nextLaunch (s : State) (key : Nat) (t : Strand) : (setStrand s key t).nextLaunch = s.nextLaunch := rfl
@[simp] theorem setStrand_launchQueue (s : State) (key : Nat) (t : Strand) : (setStrand s key t).launchQueue = s.launchQueue := rfl
@[simp] theorem setStrand_sbars (s : State) (key : Nat) (t : Strand) : (setStrand s key t).sbars = s.sbars := rfl
@[simp] theorem setStrand_cores (s : State) (key : Nat) (t : Strand) : (setStrand s key t).cores = s.cores := rfl
@[simp] theorem setStrand_counters (s : State) (key : Nat) (t : Strand) : (setStrand s key t).counters = s.counters := rfl
@[simp] theorem setStrand_regions (s : State) (key : Nat) (t : Strand) : (setStrand s key t).regions = s.regions := rfl
@[simp] theorem setStrand_grants (s : State) (key : Nat) (t : Strand) : (setStrand s key t).grants = s.grants := rfl
@[simp] theorem setStrand_refused (s : State) (key : Nat) (t : Strand) : (setStrand s key t).refused = s.refused := rfl
@[simp] theorem setStrand_tlb (s : State) (key : Nat) (t : Strand) : (setStrand s key t).tlb = s.tlb := rfl
@[simp] theorem setStrand_l1 (s : State) (key : Nat) (t : Strand) : (setStrand s key t).l1 = s.l1 := rfl
@[simp] theorem setStrand_icache (s : State) (key : Nat) (t : Strand) : (setStrand s key t).icache = s.icache := rfl
@[simp] theorem setStrand_flight (s : State) (key : Nat) (t : Strand) : (setStrand s key t).flight = s.flight := rfl
@[simp] theorem setStrand_copies (s : State) (key : Nat) (t : Strand) : (setStrand s key t).copies = s.copies := rfl
@[simp] theorem setStrand_triggers (s : State) (key : Nat) (t : Strand) : (setStrand s key t).triggers = s.triggers := rfl
@[simp] theorem setStrand_parked (s : State) (key : Nat) (t : Strand) : (setStrand s key t).parked = s.parked := rfl
@[simp] theorem setStrand_domains (s : State) (key : Nat) (t : Strand) : (setStrand s key t).domains = s.domains := rfl
@[simp] theorem setStrand_transits (s : State) (key : Nat) (t : Strand) : (setStrand s key t).transits = s.transits := rfl
@[simp] theorem setStrand_applied (s : State) (key : Nat) (t : Strand) : (setStrand s key t).applied = s.applied := rfl
@[simp] theorem setStrand_seqs (s : State) (key : Nat) (t : Strand) : (setStrand s key t).seqs = s.seqs := rfl
@[simp] theorem setStrand_heldCredits (s : State) (key : Nat) (t : Strand) : (setStrand s key t).heldCredits = s.heldCredits := rfl
@[simp] theorem setStrand_refusedCredits (s : State) (key : Nat) (t : Strand) : (setStrand s key t).refusedCredits = s.refusedCredits := rfl
@[simp] theorem setStrand_debitsDone (s : State) (key : Nat) (t : Strand) : (setStrand s key t).debitsDone = s.debitsDone := rfl
@[simp] theorem setStrand_slotsAway (s : State) (key : Nat) (t : Strand) : (setStrand s key t).slotsAway = s.slotsAway := rfl
@[simp] theorem setStrand_orders (s : State) (key : Nat) (t : Strand) : (setStrand s key t).orders = s.orders := rfl
@[simp] theorem setStrand_colls (s : State) (key : Nat) (t : Strand) : (setStrand s key t).colls = s.colls := rfl
@[simp] theorem setStrand_collWaits (s : State) (key : Nat) (t : Strand) : (setStrand s key t).collWaits = s.collWaits := rfl
@[simp] theorem setStrand_fabTags (s : State) (key : Nat) (t : Strand) : (setStrand s key t).fabTags = s.fabTags := rfl
@[simp] theorem setStrand_heldPkts (s : State) (key : Nat) (t : Strand) : (setStrand s key t).heldPkts = s.heldPkts := rfl
@[simp] theorem setStrand_fieldFrames (s : State) (key : Nat) (t : Strand) : (setStrand s key t).fieldFrames = s.fieldFrames := rfl
@[simp] theorem setStrand_moving (s : State) (key : Nat) (t : Strand) : (setStrand s key t).moving = s.moving := rfl
@[simp] theorem setStrand_atomCount (s : State) (key : Nat) (t : Strand) : (setStrand s key t).atomCount = s.atomCount := rfl
@[simp] theorem setStrand_movedAgo (s : State) (key : Nat) (t : Strand) : (setStrand s key t).movedAgo = s.movedAgo := rfl
@[simp] theorem setStrand_homeMoves (s : State) (key : Nat) (t : Strand) : (setStrand s key t).homeMoves = s.homeMoves := rfl
@[simp] theorem setStrand_atmEpoch (s : State) (key : Nat) (t : Strand) : (setStrand s key t).atmEpoch = s.atmEpoch := rfl
@[simp] theorem setStrand_atmThresh (s : State) (key : Nat) (t : Strand) : (setStrand s key t).atmThresh = s.atmThresh := rfl
@[simp] theorem setStrand_atmEn (s : State) (key : Nat) (t : Strand) : (setStrand s key t).atmEn = s.atmEn := rfl
@[simp] theorem setStrand_atmCnt (s : State) (key : Nat) (t : Strand) : (setStrand s key t).atmCnt = s.atmCnt := rfl
@[simp] theorem setStrand_homeBase (s : State) (key : Nat) (t : Strand) : (setStrand s key t).homeBase = s.homeBase := rfl
@[simp] theorem setStrand_io0 (s : State) (key : Nat) (t : Strand) : (setStrand s key t).io0 = s.io0 := rfl
@[simp] theorem setStrand_io1 (s : State) (key : Nat) (t : Strand) : (setStrand s key t).io1 = s.io1 := rfl
@[simp] theorem setStrand_parts (s : State) (key : Nat) (t : Strand) : (setStrand s key t).parts = s.parts := rfl
@[simp] theorem setStrand_evalPending (s : State) (key : Nat) (t : Strand) : (setStrand s key t).evalPending = s.evalPending := rfl
@[simp] theorem setStrand_replays (s : State) (key : Nat) (t : Strand) : (setStrand s key t).replays = s.replays := rfl
@[simp] theorem setStrand_health (s : State) (key : Nat) (t : Strand) : (setStrand s key t).health = s.health := rfl
@[simp] theorem setStrand_evHeld (s : State) (key : Nat) (t : Strand) : (setStrand s key t).evHeld = s.evHeld := rfl
@[simp] theorem setStrand_portsGone (s : State) (key : Nat) (t : Strand) : (setStrand s key t).portsGone = s.portsGone := rfl
@[simp] theorem setStrand_lostPkgs (s : State) (key : Nat) (t : Strand) : (setStrand s key t).lostPkgs = s.lostPkgs := rfl
@[simp] theorem setStrand_hostOut (s : State) (key : Nat) (t : Strand) : (setStrand s key t).hostOut = s.hostOut := rfl
@[simp] theorem setStrand_fabricOut (s : State) (key : Nat) (t : Strand) : (setStrand s key t).fabricOut = s.fabricOut := rfl
@[simp] theorem setStrand_badPa (s : State) (key : Nat) (t : Strand) : (setStrand s key t).badPa = s.badPa := rfl
@[simp] theorem setStrand_bus (s : State) (key : Nat) (t : Strand) : (setStrand s key t).bus = s.bus := rfl
@[simp] theorem setStrand_cycle (s : State) (key : Nat) (t : Strand) : (setStrand s key t).cycle = s.cycle := rfl
@[simp] theorem setStrand_ticks (s : State) (key : Nat) (t : Strand) : (setStrand s key t).ticks = s.ticks := rfl
@[simp] theorem setStrand_seq (s : State) (key : Nat) (t : Strand) : (setStrand s key t).seq = s.seq := rfl
@[simp] theorem setStrand_upper (s : State) (key : Nat) (t : Strand) : (setStrand s key t).upper = s.upper := rfl
@[simp] theorem setStrand_cur (s : State) (key : Nat) (t : Strand) : (setStrand s key t).cur = s.cur := rfl
@[simp] theorem setStrand_agenda (s : State) (key : Nat) (t : Strand) : (setStrand s key t).agenda = s.agenda := rfl

@[simp] theorem setSkein_powered (s : State) (sid : Nat) (k : Skein) : (setSkein s sid k).powered = s.powered := rfl
@[simp] theorem setSkein_keys (s : State) (sid : Nat) (k : Skein) : (setSkein s sid k).keys = s.keys := rfl
@[simp] theorem setSkein_measured (s : State) (sid : Nat) (k : Skein) : (setSkein s sid k).measured = s.measured := rfl
@[simp] theorem setSkein_package (s : State) (sid : Nat) (k : Skein) : (setSkein s sid k).package = s.package := rfl
@[simp] theorem setSkein_tierMiB (s : State) (sid : Nat) (k : Skein) : (setSkein s sid k).tierMiB = s.tierMiB := rfl
@[simp] theorem setSkein_mem (s : State) (sid : Nat) (k : Skein) : (setSkein s sid k).mem = s.mem := rfl
@[simp] theorem setSkein_bad (s : State) (sid : Nat) (k : Skein) : (setSkein s sid k).bad = s.bad := rfl
@[simp] theorem setSkein_mere (s : State) (sid : Nat) (k : Skein) : (setSkein s sid k).mere = s.mere := rfl
@[simp] theorem setSkein_strands (s : State) (sid : Nat) (k : Skein) : (setSkein s sid k).strands = s.strands := rfl
@[simp] theorem setSkein_launches (s : State) (sid : Nat) (k : Skein) : (setSkein s sid k).launches = s.launches := rfl
@[simp] theorem setSkein_nextLaunch (s : State) (sid : Nat) (k : Skein) : (setSkein s sid k).nextLaunch = s.nextLaunch := rfl
@[simp] theorem setSkein_launchQueue (s : State) (sid : Nat) (k : Skein) : (setSkein s sid k).launchQueue = s.launchQueue := rfl
@[simp] theorem setSkein_sbars (s : State) (sid : Nat) (k : Skein) : (setSkein s sid k).sbars = s.sbars := rfl
@[simp] theorem setSkein_cores (s : State) (sid : Nat) (k : Skein) : (setSkein s sid k).cores = s.cores := rfl
@[simp] theorem setSkein_counters (s : State) (sid : Nat) (k : Skein) : (setSkein s sid k).counters = s.counters := rfl
@[simp] theorem setSkein_regions (s : State) (sid : Nat) (k : Skein) : (setSkein s sid k).regions = s.regions := rfl
@[simp] theorem setSkein_grants (s : State) (sid : Nat) (k : Skein) : (setSkein s sid k).grants = s.grants := rfl
@[simp] theorem setSkein_refused (s : State) (sid : Nat) (k : Skein) : (setSkein s sid k).refused = s.refused := rfl
@[simp] theorem setSkein_tlb (s : State) (sid : Nat) (k : Skein) : (setSkein s sid k).tlb = s.tlb := rfl
@[simp] theorem setSkein_l1 (s : State) (sid : Nat) (k : Skein) : (setSkein s sid k).l1 = s.l1 := rfl
@[simp] theorem setSkein_icache (s : State) (sid : Nat) (k : Skein) : (setSkein s sid k).icache = s.icache := rfl
@[simp] theorem setSkein_flight (s : State) (sid : Nat) (k : Skein) : (setSkein s sid k).flight = s.flight := rfl
@[simp] theorem setSkein_copies (s : State) (sid : Nat) (k : Skein) : (setSkein s sid k).copies = s.copies := rfl
@[simp] theorem setSkein_triggers (s : State) (sid : Nat) (k : Skein) : (setSkein s sid k).triggers = s.triggers := rfl
@[simp] theorem setSkein_parked (s : State) (sid : Nat) (k : Skein) : (setSkein s sid k).parked = s.parked := rfl
@[simp] theorem setSkein_domains (s : State) (sid : Nat) (k : Skein) : (setSkein s sid k).domains = s.domains := rfl
@[simp] theorem setSkein_transits (s : State) (sid : Nat) (k : Skein) : (setSkein s sid k).transits = s.transits := rfl
@[simp] theorem setSkein_applied (s : State) (sid : Nat) (k : Skein) : (setSkein s sid k).applied = s.applied := rfl
@[simp] theorem setSkein_seqs (s : State) (sid : Nat) (k : Skein) : (setSkein s sid k).seqs = s.seqs := rfl
@[simp] theorem setSkein_heldCredits (s : State) (sid : Nat) (k : Skein) : (setSkein s sid k).heldCredits = s.heldCredits := rfl
@[simp] theorem setSkein_refusedCredits (s : State) (sid : Nat) (k : Skein) : (setSkein s sid k).refusedCredits = s.refusedCredits := rfl
@[simp] theorem setSkein_debitsDone (s : State) (sid : Nat) (k : Skein) : (setSkein s sid k).debitsDone = s.debitsDone := rfl
@[simp] theorem setSkein_slotsAway (s : State) (sid : Nat) (k : Skein) : (setSkein s sid k).slotsAway = s.slotsAway := rfl
@[simp] theorem setSkein_orders (s : State) (sid : Nat) (k : Skein) : (setSkein s sid k).orders = s.orders := rfl
@[simp] theorem setSkein_colls (s : State) (sid : Nat) (k : Skein) : (setSkein s sid k).colls = s.colls := rfl
@[simp] theorem setSkein_collWaits (s : State) (sid : Nat) (k : Skein) : (setSkein s sid k).collWaits = s.collWaits := rfl
@[simp] theorem setSkein_fabTags (s : State) (sid : Nat) (k : Skein) : (setSkein s sid k).fabTags = s.fabTags := rfl
@[simp] theorem setSkein_heldPkts (s : State) (sid : Nat) (k : Skein) : (setSkein s sid k).heldPkts = s.heldPkts := rfl
@[simp] theorem setSkein_fieldFrames (s : State) (sid : Nat) (k : Skein) : (setSkein s sid k).fieldFrames = s.fieldFrames := rfl
@[simp] theorem setSkein_moving (s : State) (sid : Nat) (k : Skein) : (setSkein s sid k).moving = s.moving := rfl
@[simp] theorem setSkein_atomCount (s : State) (sid : Nat) (k : Skein) : (setSkein s sid k).atomCount = s.atomCount := rfl
@[simp] theorem setSkein_movedAgo (s : State) (sid : Nat) (k : Skein) : (setSkein s sid k).movedAgo = s.movedAgo := rfl
@[simp] theorem setSkein_homeMoves (s : State) (sid : Nat) (k : Skein) : (setSkein s sid k).homeMoves = s.homeMoves := rfl
@[simp] theorem setSkein_atmEpoch (s : State) (sid : Nat) (k : Skein) : (setSkein s sid k).atmEpoch = s.atmEpoch := rfl
@[simp] theorem setSkein_atmThresh (s : State) (sid : Nat) (k : Skein) : (setSkein s sid k).atmThresh = s.atmThresh := rfl
@[simp] theorem setSkein_atmEn (s : State) (sid : Nat) (k : Skein) : (setSkein s sid k).atmEn = s.atmEn := rfl
@[simp] theorem setSkein_atmCnt (s : State) (sid : Nat) (k : Skein) : (setSkein s sid k).atmCnt = s.atmCnt := rfl
@[simp] theorem setSkein_homeBase (s : State) (sid : Nat) (k : Skein) : (setSkein s sid k).homeBase = s.homeBase := rfl
@[simp] theorem setSkein_io0 (s : State) (sid : Nat) (k : Skein) : (setSkein s sid k).io0 = s.io0 := rfl
@[simp] theorem setSkein_io1 (s : State) (sid : Nat) (k : Skein) : (setSkein s sid k).io1 = s.io1 := rfl
@[simp] theorem setSkein_parts (s : State) (sid : Nat) (k : Skein) : (setSkein s sid k).parts = s.parts := rfl
@[simp] theorem setSkein_evalPending (s : State) (sid : Nat) (k : Skein) : (setSkein s sid k).evalPending = s.evalPending := rfl
@[simp] theorem setSkein_replays (s : State) (sid : Nat) (k : Skein) : (setSkein s sid k).replays = s.replays := rfl
@[simp] theorem setSkein_health (s : State) (sid : Nat) (k : Skein) : (setSkein s sid k).health = s.health := rfl
@[simp] theorem setSkein_evHeld (s : State) (sid : Nat) (k : Skein) : (setSkein s sid k).evHeld = s.evHeld := rfl
@[simp] theorem setSkein_portsGone (s : State) (sid : Nat) (k : Skein) : (setSkein s sid k).portsGone = s.portsGone := rfl
@[simp] theorem setSkein_lostPkgs (s : State) (sid : Nat) (k : Skein) : (setSkein s sid k).lostPkgs = s.lostPkgs := rfl
@[simp] theorem setSkein_hostOut (s : State) (sid : Nat) (k : Skein) : (setSkein s sid k).hostOut = s.hostOut := rfl
@[simp] theorem setSkein_fabricOut (s : State) (sid : Nat) (k : Skein) : (setSkein s sid k).fabricOut = s.fabricOut := rfl
@[simp] theorem setSkein_badPa (s : State) (sid : Nat) (k : Skein) : (setSkein s sid k).badPa = s.badPa := rfl
@[simp] theorem setSkein_bus (s : State) (sid : Nat) (k : Skein) : (setSkein s sid k).bus = s.bus := rfl
@[simp] theorem setSkein_cycle (s : State) (sid : Nat) (k : Skein) : (setSkein s sid k).cycle = s.cycle := rfl
@[simp] theorem setSkein_ticks (s : State) (sid : Nat) (k : Skein) : (setSkein s sid k).ticks = s.ticks := rfl
@[simp] theorem setSkein_seq (s : State) (sid : Nat) (k : Skein) : (setSkein s sid k).seq = s.seq := rfl
@[simp] theorem setSkein_upper (s : State) (sid : Nat) (k : Skein) : (setSkein s sid k).upper = s.upper := rfl
@[simp] theorem setSkein_cur (s : State) (sid : Nat) (k : Skein) : (setSkein s sid k).cur = s.cur := rfl
@[simp] theorem setSkein_agenda (s : State) (sid : Nat) (k : Skein) : (setSkein s sid k).agenda = s.agenda := rfl

@[simp] theorem setPart_powered (s : State) (p : Nat) (x : Partition) : (setPart s p x).powered = s.powered := rfl
@[simp] theorem setPart_keys (s : State) (p : Nat) (x : Partition) : (setPart s p x).keys = s.keys := rfl
@[simp] theorem setPart_measured (s : State) (p : Nat) (x : Partition) : (setPart s p x).measured = s.measured := rfl
@[simp] theorem setPart_package (s : State) (p : Nat) (x : Partition) : (setPart s p x).package = s.package := rfl
@[simp] theorem setPart_tierMiB (s : State) (p : Nat) (x : Partition) : (setPart s p x).tierMiB = s.tierMiB := rfl
@[simp] theorem setPart_mem (s : State) (p : Nat) (x : Partition) : (setPart s p x).mem = s.mem := rfl
@[simp] theorem setPart_bad (s : State) (p : Nat) (x : Partition) : (setPart s p x).bad = s.bad := rfl
@[simp] theorem setPart_mere (s : State) (p : Nat) (x : Partition) : (setPart s p x).mere = s.mere := rfl
@[simp] theorem setPart_strands (s : State) (p : Nat) (x : Partition) : (setPart s p x).strands = s.strands := rfl
@[simp] theorem setPart_skeins (s : State) (p : Nat) (x : Partition) : (setPart s p x).skeins = s.skeins := rfl
@[simp] theorem setPart_launches (s : State) (p : Nat) (x : Partition) : (setPart s p x).launches = s.launches := rfl
@[simp] theorem setPart_nextLaunch (s : State) (p : Nat) (x : Partition) : (setPart s p x).nextLaunch = s.nextLaunch := rfl
@[simp] theorem setPart_launchQueue (s : State) (p : Nat) (x : Partition) : (setPart s p x).launchQueue = s.launchQueue := rfl
@[simp] theorem setPart_sbars (s : State) (p : Nat) (x : Partition) : (setPart s p x).sbars = s.sbars := rfl
@[simp] theorem setPart_cores (s : State) (p : Nat) (x : Partition) : (setPart s p x).cores = s.cores := rfl
@[simp] theorem setPart_counters (s : State) (p : Nat) (x : Partition) : (setPart s p x).counters = s.counters := rfl
@[simp] theorem setPart_regions (s : State) (p : Nat) (x : Partition) : (setPart s p x).regions = s.regions := rfl
@[simp] theorem setPart_grants (s : State) (p : Nat) (x : Partition) : (setPart s p x).grants = s.grants := rfl
@[simp] theorem setPart_refused (s : State) (p : Nat) (x : Partition) : (setPart s p x).refused = s.refused := rfl
@[simp] theorem setPart_tlb (s : State) (p : Nat) (x : Partition) : (setPart s p x).tlb = s.tlb := rfl
@[simp] theorem setPart_l1 (s : State) (p : Nat) (x : Partition) : (setPart s p x).l1 = s.l1 := rfl
@[simp] theorem setPart_icache (s : State) (p : Nat) (x : Partition) : (setPart s p x).icache = s.icache := rfl
@[simp] theorem setPart_flight (s : State) (p : Nat) (x : Partition) : (setPart s p x).flight = s.flight := rfl
@[simp] theorem setPart_copies (s : State) (p : Nat) (x : Partition) : (setPart s p x).copies = s.copies := rfl
@[simp] theorem setPart_triggers (s : State) (p : Nat) (x : Partition) : (setPart s p x).triggers = s.triggers := rfl
@[simp] theorem setPart_parked (s : State) (p : Nat) (x : Partition) : (setPart s p x).parked = s.parked := rfl
@[simp] theorem setPart_domains (s : State) (p : Nat) (x : Partition) : (setPart s p x).domains = s.domains := rfl
@[simp] theorem setPart_transits (s : State) (p : Nat) (x : Partition) : (setPart s p x).transits = s.transits := rfl
@[simp] theorem setPart_applied (s : State) (p : Nat) (x : Partition) : (setPart s p x).applied = s.applied := rfl
@[simp] theorem setPart_seqs (s : State) (p : Nat) (x : Partition) : (setPart s p x).seqs = s.seqs := rfl
@[simp] theorem setPart_heldCredits (s : State) (p : Nat) (x : Partition) : (setPart s p x).heldCredits = s.heldCredits := rfl
@[simp] theorem setPart_refusedCredits (s : State) (p : Nat) (x : Partition) : (setPart s p x).refusedCredits = s.refusedCredits := rfl
@[simp] theorem setPart_debitsDone (s : State) (p : Nat) (x : Partition) : (setPart s p x).debitsDone = s.debitsDone := rfl
@[simp] theorem setPart_slotsAway (s : State) (p : Nat) (x : Partition) : (setPart s p x).slotsAway = s.slotsAway := rfl
@[simp] theorem setPart_orders (s : State) (p : Nat) (x : Partition) : (setPart s p x).orders = s.orders := rfl
@[simp] theorem setPart_colls (s : State) (p : Nat) (x : Partition) : (setPart s p x).colls = s.colls := rfl
@[simp] theorem setPart_collWaits (s : State) (p : Nat) (x : Partition) : (setPart s p x).collWaits = s.collWaits := rfl
@[simp] theorem setPart_fabTags (s : State) (p : Nat) (x : Partition) : (setPart s p x).fabTags = s.fabTags := rfl
@[simp] theorem setPart_heldPkts (s : State) (p : Nat) (x : Partition) : (setPart s p x).heldPkts = s.heldPkts := rfl
@[simp] theorem setPart_fieldFrames (s : State) (p : Nat) (x : Partition) : (setPart s p x).fieldFrames = s.fieldFrames := rfl
@[simp] theorem setPart_moving (s : State) (p : Nat) (x : Partition) : (setPart s p x).moving = s.moving := rfl
@[simp] theorem setPart_atomCount (s : State) (p : Nat) (x : Partition) : (setPart s p x).atomCount = s.atomCount := rfl
@[simp] theorem setPart_movedAgo (s : State) (p : Nat) (x : Partition) : (setPart s p x).movedAgo = s.movedAgo := rfl
@[simp] theorem setPart_homeMoves (s : State) (p : Nat) (x : Partition) : (setPart s p x).homeMoves = s.homeMoves := rfl
@[simp] theorem setPart_atmEpoch (s : State) (p : Nat) (x : Partition) : (setPart s p x).atmEpoch = s.atmEpoch := rfl
@[simp] theorem setPart_atmThresh (s : State) (p : Nat) (x : Partition) : (setPart s p x).atmThresh = s.atmThresh := rfl
@[simp] theorem setPart_atmEn (s : State) (p : Nat) (x : Partition) : (setPart s p x).atmEn = s.atmEn := rfl
@[simp] theorem setPart_atmCnt (s : State) (p : Nat) (x : Partition) : (setPart s p x).atmCnt = s.atmCnt := rfl
@[simp] theorem setPart_homeBase (s : State) (p : Nat) (x : Partition) : (setPart s p x).homeBase = s.homeBase := rfl
@[simp] theorem setPart_io0 (s : State) (p : Nat) (x : Partition) : (setPart s p x).io0 = s.io0 := rfl
@[simp] theorem setPart_io1 (s : State) (p : Nat) (x : Partition) : (setPart s p x).io1 = s.io1 := rfl
@[simp] theorem setPart_evalPending (s : State) (p : Nat) (x : Partition) : (setPart s p x).evalPending = s.evalPending := rfl
@[simp] theorem setPart_replays (s : State) (p : Nat) (x : Partition) : (setPart s p x).replays = s.replays := rfl
@[simp] theorem setPart_health (s : State) (p : Nat) (x : Partition) : (setPart s p x).health = s.health := rfl
@[simp] theorem setPart_evHeld (s : State) (p : Nat) (x : Partition) : (setPart s p x).evHeld = s.evHeld := rfl
@[simp] theorem setPart_portsGone (s : State) (p : Nat) (x : Partition) : (setPart s p x).portsGone = s.portsGone := rfl
@[simp] theorem setPart_lostPkgs (s : State) (p : Nat) (x : Partition) : (setPart s p x).lostPkgs = s.lostPkgs := rfl
@[simp] theorem setPart_hostOut (s : State) (p : Nat) (x : Partition) : (setPart s p x).hostOut = s.hostOut := rfl
@[simp] theorem setPart_fabricOut (s : State) (p : Nat) (x : Partition) : (setPart s p x).fabricOut = s.fabricOut := rfl
@[simp] theorem setPart_badPa (s : State) (p : Nat) (x : Partition) : (setPart s p x).badPa = s.badPa := rfl
@[simp] theorem setPart_bus (s : State) (p : Nat) (x : Partition) : (setPart s p x).bus = s.bus := rfl
@[simp] theorem setPart_cycle (s : State) (p : Nat) (x : Partition) : (setPart s p x).cycle = s.cycle := rfl
@[simp] theorem setPart_ticks (s : State) (p : Nat) (x : Partition) : (setPart s p x).ticks = s.ticks := rfl
@[simp] theorem setPart_seq (s : State) (p : Nat) (x : Partition) : (setPart s p x).seq = s.seq := rfl
@[simp] theorem setPart_upper (s : State) (p : Nat) (x : Partition) : (setPart s p x).upper = s.upper := rfl
@[simp] theorem setPart_cur (s : State) (p : Nat) (x : Partition) : (setPart s p x).cur = s.cur := rfl
@[simp] theorem setPart_agenda (s : State) (p : Nat) (x : Partition) : (setPart s p x).agenda = s.agenda := rfl

@[simp] theorem setCore_powered (s : State) (c : Nat) (x : Core) : (setCore s c x).powered = s.powered := rfl
@[simp] theorem setCore_keys (s : State) (c : Nat) (x : Core) : (setCore s c x).keys = s.keys := rfl
@[simp] theorem setCore_measured (s : State) (c : Nat) (x : Core) : (setCore s c x).measured = s.measured := rfl
@[simp] theorem setCore_package (s : State) (c : Nat) (x : Core) : (setCore s c x).package = s.package := rfl
@[simp] theorem setCore_tierMiB (s : State) (c : Nat) (x : Core) : (setCore s c x).tierMiB = s.tierMiB := rfl
@[simp] theorem setCore_mem (s : State) (c : Nat) (x : Core) : (setCore s c x).mem = s.mem := rfl
@[simp] theorem setCore_bad (s : State) (c : Nat) (x : Core) : (setCore s c x).bad = s.bad := rfl
@[simp] theorem setCore_mere (s : State) (c : Nat) (x : Core) : (setCore s c x).mere = s.mere := rfl
@[simp] theorem setCore_strands (s : State) (c : Nat) (x : Core) : (setCore s c x).strands = s.strands := rfl
@[simp] theorem setCore_skeins (s : State) (c : Nat) (x : Core) : (setCore s c x).skeins = s.skeins := rfl
@[simp] theorem setCore_launches (s : State) (c : Nat) (x : Core) : (setCore s c x).launches = s.launches := rfl
@[simp] theorem setCore_nextLaunch (s : State) (c : Nat) (x : Core) : (setCore s c x).nextLaunch = s.nextLaunch := rfl
@[simp] theorem setCore_launchQueue (s : State) (c : Nat) (x : Core) : (setCore s c x).launchQueue = s.launchQueue := rfl
@[simp] theorem setCore_sbars (s : State) (c : Nat) (x : Core) : (setCore s c x).sbars = s.sbars := rfl
@[simp] theorem setCore_counters (s : State) (c : Nat) (x : Core) : (setCore s c x).counters = s.counters := rfl
@[simp] theorem setCore_regions (s : State) (c : Nat) (x : Core) : (setCore s c x).regions = s.regions := rfl
@[simp] theorem setCore_grants (s : State) (c : Nat) (x : Core) : (setCore s c x).grants = s.grants := rfl
@[simp] theorem setCore_refused (s : State) (c : Nat) (x : Core) : (setCore s c x).refused = s.refused := rfl
@[simp] theorem setCore_tlb (s : State) (c : Nat) (x : Core) : (setCore s c x).tlb = s.tlb := rfl
@[simp] theorem setCore_l1 (s : State) (c : Nat) (x : Core) : (setCore s c x).l1 = s.l1 := rfl
@[simp] theorem setCore_icache (s : State) (c : Nat) (x : Core) : (setCore s c x).icache = s.icache := rfl
@[simp] theorem setCore_flight (s : State) (c : Nat) (x : Core) : (setCore s c x).flight = s.flight := rfl
@[simp] theorem setCore_copies (s : State) (c : Nat) (x : Core) : (setCore s c x).copies = s.copies := rfl
@[simp] theorem setCore_triggers (s : State) (c : Nat) (x : Core) : (setCore s c x).triggers = s.triggers := rfl
@[simp] theorem setCore_parked (s : State) (c : Nat) (x : Core) : (setCore s c x).parked = s.parked := rfl
@[simp] theorem setCore_domains (s : State) (c : Nat) (x : Core) : (setCore s c x).domains = s.domains := rfl
@[simp] theorem setCore_transits (s : State) (c : Nat) (x : Core) : (setCore s c x).transits = s.transits := rfl
@[simp] theorem setCore_applied (s : State) (c : Nat) (x : Core) : (setCore s c x).applied = s.applied := rfl
@[simp] theorem setCore_seqs (s : State) (c : Nat) (x : Core) : (setCore s c x).seqs = s.seqs := rfl
@[simp] theorem setCore_heldCredits (s : State) (c : Nat) (x : Core) : (setCore s c x).heldCredits = s.heldCredits := rfl
@[simp] theorem setCore_refusedCredits (s : State) (c : Nat) (x : Core) : (setCore s c x).refusedCredits = s.refusedCredits := rfl
@[simp] theorem setCore_debitsDone (s : State) (c : Nat) (x : Core) : (setCore s c x).debitsDone = s.debitsDone := rfl
@[simp] theorem setCore_slotsAway (s : State) (c : Nat) (x : Core) : (setCore s c x).slotsAway = s.slotsAway := rfl
@[simp] theorem setCore_orders (s : State) (c : Nat) (x : Core) : (setCore s c x).orders = s.orders := rfl
@[simp] theorem setCore_colls (s : State) (c : Nat) (x : Core) : (setCore s c x).colls = s.colls := rfl
@[simp] theorem setCore_collWaits (s : State) (c : Nat) (x : Core) : (setCore s c x).collWaits = s.collWaits := rfl
@[simp] theorem setCore_fabTags (s : State) (c : Nat) (x : Core) : (setCore s c x).fabTags = s.fabTags := rfl
@[simp] theorem setCore_heldPkts (s : State) (c : Nat) (x : Core) : (setCore s c x).heldPkts = s.heldPkts := rfl
@[simp] theorem setCore_fieldFrames (s : State) (c : Nat) (x : Core) : (setCore s c x).fieldFrames = s.fieldFrames := rfl
@[simp] theorem setCore_moving (s : State) (c : Nat) (x : Core) : (setCore s c x).moving = s.moving := rfl
@[simp] theorem setCore_atomCount (s : State) (c : Nat) (x : Core) : (setCore s c x).atomCount = s.atomCount := rfl
@[simp] theorem setCore_movedAgo (s : State) (c : Nat) (x : Core) : (setCore s c x).movedAgo = s.movedAgo := rfl
@[simp] theorem setCore_homeMoves (s : State) (c : Nat) (x : Core) : (setCore s c x).homeMoves = s.homeMoves := rfl
@[simp] theorem setCore_atmEpoch (s : State) (c : Nat) (x : Core) : (setCore s c x).atmEpoch = s.atmEpoch := rfl
@[simp] theorem setCore_atmThresh (s : State) (c : Nat) (x : Core) : (setCore s c x).atmThresh = s.atmThresh := rfl
@[simp] theorem setCore_atmEn (s : State) (c : Nat) (x : Core) : (setCore s c x).atmEn = s.atmEn := rfl
@[simp] theorem setCore_atmCnt (s : State) (c : Nat) (x : Core) : (setCore s c x).atmCnt = s.atmCnt := rfl
@[simp] theorem setCore_homeBase (s : State) (c : Nat) (x : Core) : (setCore s c x).homeBase = s.homeBase := rfl
@[simp] theorem setCore_io0 (s : State) (c : Nat) (x : Core) : (setCore s c x).io0 = s.io0 := rfl
@[simp] theorem setCore_io1 (s : State) (c : Nat) (x : Core) : (setCore s c x).io1 = s.io1 := rfl
@[simp] theorem setCore_parts (s : State) (c : Nat) (x : Core) : (setCore s c x).parts = s.parts := rfl
@[simp] theorem setCore_evalPending (s : State) (c : Nat) (x : Core) : (setCore s c x).evalPending = s.evalPending := rfl
@[simp] theorem setCore_replays (s : State) (c : Nat) (x : Core) : (setCore s c x).replays = s.replays := rfl
@[simp] theorem setCore_health (s : State) (c : Nat) (x : Core) : (setCore s c x).health = s.health := rfl
@[simp] theorem setCore_evHeld (s : State) (c : Nat) (x : Core) : (setCore s c x).evHeld = s.evHeld := rfl
@[simp] theorem setCore_portsGone (s : State) (c : Nat) (x : Core) : (setCore s c x).portsGone = s.portsGone := rfl
@[simp] theorem setCore_lostPkgs (s : State) (c : Nat) (x : Core) : (setCore s c x).lostPkgs = s.lostPkgs := rfl
@[simp] theorem setCore_hostOut (s : State) (c : Nat) (x : Core) : (setCore s c x).hostOut = s.hostOut := rfl
@[simp] theorem setCore_fabricOut (s : State) (c : Nat) (x : Core) : (setCore s c x).fabricOut = s.fabricOut := rfl
@[simp] theorem setCore_badPa (s : State) (c : Nat) (x : Core) : (setCore s c x).badPa = s.badPa := rfl
@[simp] theorem setCore_bus (s : State) (c : Nat) (x : Core) : (setCore s c x).bus = s.bus := rfl
@[simp] theorem setCore_cycle (s : State) (c : Nat) (x : Core) : (setCore s c x).cycle = s.cycle := rfl
@[simp] theorem setCore_ticks (s : State) (c : Nat) (x : Core) : (setCore s c x).ticks = s.ticks := rfl
@[simp] theorem setCore_seq (s : State) (c : Nat) (x : Core) : (setCore s c x).seq = s.seq := rfl
@[simp] theorem setCore_upper (s : State) (c : Nat) (x : Core) : (setCore s c x).upper = s.upper := rfl
@[simp] theorem setCore_cur (s : State) (c : Nat) (x : Core) : (setCore s c x).cur = s.cur := rfl
@[simp] theorem setCore_agenda (s : State) (c : Nat) (x : Core) : (setCore s c x).agenda = s.agenda := rfl

@[simp] theorem setLaunch_powered (s : State) (l : Launch) : (setLaunch s l).powered = s.powered := rfl
@[simp] theorem setLaunch_keys (s : State) (l : Launch) : (setLaunch s l).keys = s.keys := rfl
@[simp] theorem setLaunch_measured (s : State) (l : Launch) : (setLaunch s l).measured = s.measured := rfl
@[simp] theorem setLaunch_package (s : State) (l : Launch) : (setLaunch s l).package = s.package := rfl
@[simp] theorem setLaunch_tierMiB (s : State) (l : Launch) : (setLaunch s l).tierMiB = s.tierMiB := rfl
@[simp] theorem setLaunch_mem (s : State) (l : Launch) : (setLaunch s l).mem = s.mem := rfl
@[simp] theorem setLaunch_bad (s : State) (l : Launch) : (setLaunch s l).bad = s.bad := rfl
@[simp] theorem setLaunch_mere (s : State) (l : Launch) : (setLaunch s l).mere = s.mere := rfl
@[simp] theorem setLaunch_strands (s : State) (l : Launch) : (setLaunch s l).strands = s.strands := rfl
@[simp] theorem setLaunch_skeins (s : State) (l : Launch) : (setLaunch s l).skeins = s.skeins := rfl
@[simp] theorem setLaunch_nextLaunch (s : State) (l : Launch) : (setLaunch s l).nextLaunch = s.nextLaunch := rfl
@[simp] theorem setLaunch_launchQueue (s : State) (l : Launch) : (setLaunch s l).launchQueue = s.launchQueue := rfl
@[simp] theorem setLaunch_sbars (s : State) (l : Launch) : (setLaunch s l).sbars = s.sbars := rfl
@[simp] theorem setLaunch_cores (s : State) (l : Launch) : (setLaunch s l).cores = s.cores := rfl
@[simp] theorem setLaunch_counters (s : State) (l : Launch) : (setLaunch s l).counters = s.counters := rfl
@[simp] theorem setLaunch_regions (s : State) (l : Launch) : (setLaunch s l).regions = s.regions := rfl
@[simp] theorem setLaunch_grants (s : State) (l : Launch) : (setLaunch s l).grants = s.grants := rfl
@[simp] theorem setLaunch_refused (s : State) (l : Launch) : (setLaunch s l).refused = s.refused := rfl
@[simp] theorem setLaunch_tlb (s : State) (l : Launch) : (setLaunch s l).tlb = s.tlb := rfl
@[simp] theorem setLaunch_l1 (s : State) (l : Launch) : (setLaunch s l).l1 = s.l1 := rfl
@[simp] theorem setLaunch_icache (s : State) (l : Launch) : (setLaunch s l).icache = s.icache := rfl
@[simp] theorem setLaunch_flight (s : State) (l : Launch) : (setLaunch s l).flight = s.flight := rfl
@[simp] theorem setLaunch_copies (s : State) (l : Launch) : (setLaunch s l).copies = s.copies := rfl
@[simp] theorem setLaunch_triggers (s : State) (l : Launch) : (setLaunch s l).triggers = s.triggers := rfl
@[simp] theorem setLaunch_parked (s : State) (l : Launch) : (setLaunch s l).parked = s.parked := rfl
@[simp] theorem setLaunch_domains (s : State) (l : Launch) : (setLaunch s l).domains = s.domains := rfl
@[simp] theorem setLaunch_transits (s : State) (l : Launch) : (setLaunch s l).transits = s.transits := rfl
@[simp] theorem setLaunch_applied (s : State) (l : Launch) : (setLaunch s l).applied = s.applied := rfl
@[simp] theorem setLaunch_seqs (s : State) (l : Launch) : (setLaunch s l).seqs = s.seqs := rfl
@[simp] theorem setLaunch_heldCredits (s : State) (l : Launch) : (setLaunch s l).heldCredits = s.heldCredits := rfl
@[simp] theorem setLaunch_refusedCredits (s : State) (l : Launch) : (setLaunch s l).refusedCredits = s.refusedCredits := rfl
@[simp] theorem setLaunch_debitsDone (s : State) (l : Launch) : (setLaunch s l).debitsDone = s.debitsDone := rfl
@[simp] theorem setLaunch_slotsAway (s : State) (l : Launch) : (setLaunch s l).slotsAway = s.slotsAway := rfl
@[simp] theorem setLaunch_orders (s : State) (l : Launch) : (setLaunch s l).orders = s.orders := rfl
@[simp] theorem setLaunch_colls (s : State) (l : Launch) : (setLaunch s l).colls = s.colls := rfl
@[simp] theorem setLaunch_collWaits (s : State) (l : Launch) : (setLaunch s l).collWaits = s.collWaits := rfl
@[simp] theorem setLaunch_fabTags (s : State) (l : Launch) : (setLaunch s l).fabTags = s.fabTags := rfl
@[simp] theorem setLaunch_heldPkts (s : State) (l : Launch) : (setLaunch s l).heldPkts = s.heldPkts := rfl
@[simp] theorem setLaunch_fieldFrames (s : State) (l : Launch) : (setLaunch s l).fieldFrames = s.fieldFrames := rfl
@[simp] theorem setLaunch_moving (s : State) (l : Launch) : (setLaunch s l).moving = s.moving := rfl
@[simp] theorem setLaunch_atomCount (s : State) (l : Launch) : (setLaunch s l).atomCount = s.atomCount := rfl
@[simp] theorem setLaunch_movedAgo (s : State) (l : Launch) : (setLaunch s l).movedAgo = s.movedAgo := rfl
@[simp] theorem setLaunch_homeMoves (s : State) (l : Launch) : (setLaunch s l).homeMoves = s.homeMoves := rfl
@[simp] theorem setLaunch_atmEpoch (s : State) (l : Launch) : (setLaunch s l).atmEpoch = s.atmEpoch := rfl
@[simp] theorem setLaunch_atmThresh (s : State) (l : Launch) : (setLaunch s l).atmThresh = s.atmThresh := rfl
@[simp] theorem setLaunch_atmEn (s : State) (l : Launch) : (setLaunch s l).atmEn = s.atmEn := rfl
@[simp] theorem setLaunch_atmCnt (s : State) (l : Launch) : (setLaunch s l).atmCnt = s.atmCnt := rfl
@[simp] theorem setLaunch_homeBase (s : State) (l : Launch) : (setLaunch s l).homeBase = s.homeBase := rfl
@[simp] theorem setLaunch_io0 (s : State) (l : Launch) : (setLaunch s l).io0 = s.io0 := rfl
@[simp] theorem setLaunch_io1 (s : State) (l : Launch) : (setLaunch s l).io1 = s.io1 := rfl
@[simp] theorem setLaunch_parts (s : State) (l : Launch) : (setLaunch s l).parts = s.parts := rfl
@[simp] theorem setLaunch_evalPending (s : State) (l : Launch) : (setLaunch s l).evalPending = s.evalPending := rfl
@[simp] theorem setLaunch_replays (s : State) (l : Launch) : (setLaunch s l).replays = s.replays := rfl
@[simp] theorem setLaunch_health (s : State) (l : Launch) : (setLaunch s l).health = s.health := rfl
@[simp] theorem setLaunch_evHeld (s : State) (l : Launch) : (setLaunch s l).evHeld = s.evHeld := rfl
@[simp] theorem setLaunch_portsGone (s : State) (l : Launch) : (setLaunch s l).portsGone = s.portsGone := rfl
@[simp] theorem setLaunch_lostPkgs (s : State) (l : Launch) : (setLaunch s l).lostPkgs = s.lostPkgs := rfl
@[simp] theorem setLaunch_hostOut (s : State) (l : Launch) : (setLaunch s l).hostOut = s.hostOut := rfl
@[simp] theorem setLaunch_fabricOut (s : State) (l : Launch) : (setLaunch s l).fabricOut = s.fabricOut := rfl
@[simp] theorem setLaunch_badPa (s : State) (l : Launch) : (setLaunch s l).badPa = s.badPa := rfl
@[simp] theorem setLaunch_bus (s : State) (l : Launch) : (setLaunch s l).bus = s.bus := rfl
@[simp] theorem setLaunch_cycle (s : State) (l : Launch) : (setLaunch s l).cycle = s.cycle := rfl
@[simp] theorem setLaunch_ticks (s : State) (l : Launch) : (setLaunch s l).ticks = s.ticks := rfl
@[simp] theorem setLaunch_seq (s : State) (l : Launch) : (setLaunch s l).seq = s.seq := rfl
@[simp] theorem setLaunch_upper (s : State) (l : Launch) : (setLaunch s l).upper = s.upper := rfl
@[simp] theorem setLaunch_cur (s : State) (l : Launch) : (setLaunch s l).cur = s.cur := rfl
@[simp] theorem setLaunch_agenda (s : State) (l : Launch) : (setLaunch s l).agenda = s.agenda := rfl

@[simp] theorem setWReg_powered (s : State) (n : Nat) (x : DWord) : (setWReg s n x).powered = s.powered := rfl
@[simp] theorem setWReg_keys (s : State) (n : Nat) (x : DWord) : (setWReg s n x).keys = s.keys := rfl
@[simp] theorem setWReg_measured (s : State) (n : Nat) (x : DWord) : (setWReg s n x).measured = s.measured := rfl
@[simp] theorem setWReg_package (s : State) (n : Nat) (x : DWord) : (setWReg s n x).package = s.package := rfl
@[simp] theorem setWReg_tierMiB (s : State) (n : Nat) (x : DWord) : (setWReg s n x).tierMiB = s.tierMiB := rfl
@[simp] theorem setWReg_mem (s : State) (n : Nat) (x : DWord) : (setWReg s n x).mem = s.mem := rfl
@[simp] theorem setWReg_bad (s : State) (n : Nat) (x : DWord) : (setWReg s n x).bad = s.bad := rfl
@[simp] theorem setWReg_mere (s : State) (n : Nat) (x : DWord) : (setWReg s n x).mere = s.mere := rfl
@[simp] theorem setWReg_strands (s : State) (n : Nat) (x : DWord) : (setWReg s n x).strands = s.strands := rfl
@[simp] theorem setWReg_launches (s : State) (n : Nat) (x : DWord) : (setWReg s n x).launches = s.launches := rfl
@[simp] theorem setWReg_nextLaunch (s : State) (n : Nat) (x : DWord) : (setWReg s n x).nextLaunch = s.nextLaunch := rfl
@[simp] theorem setWReg_launchQueue (s : State) (n : Nat) (x : DWord) : (setWReg s n x).launchQueue = s.launchQueue := rfl
@[simp] theorem setWReg_sbars (s : State) (n : Nat) (x : DWord) : (setWReg s n x).sbars = s.sbars := rfl
@[simp] theorem setWReg_cores (s : State) (n : Nat) (x : DWord) : (setWReg s n x).cores = s.cores := rfl
@[simp] theorem setWReg_counters (s : State) (n : Nat) (x : DWord) : (setWReg s n x).counters = s.counters := rfl
@[simp] theorem setWReg_regions (s : State) (n : Nat) (x : DWord) : (setWReg s n x).regions = s.regions := rfl
@[simp] theorem setWReg_grants (s : State) (n : Nat) (x : DWord) : (setWReg s n x).grants = s.grants := rfl
@[simp] theorem setWReg_refused (s : State) (n : Nat) (x : DWord) : (setWReg s n x).refused = s.refused := rfl
@[simp] theorem setWReg_tlb (s : State) (n : Nat) (x : DWord) : (setWReg s n x).tlb = s.tlb := rfl
@[simp] theorem setWReg_l1 (s : State) (n : Nat) (x : DWord) : (setWReg s n x).l1 = s.l1 := rfl
@[simp] theorem setWReg_icache (s : State) (n : Nat) (x : DWord) : (setWReg s n x).icache = s.icache := rfl
@[simp] theorem setWReg_flight (s : State) (n : Nat) (x : DWord) : (setWReg s n x).flight = s.flight := rfl
@[simp] theorem setWReg_copies (s : State) (n : Nat) (x : DWord) : (setWReg s n x).copies = s.copies := rfl
@[simp] theorem setWReg_triggers (s : State) (n : Nat) (x : DWord) : (setWReg s n x).triggers = s.triggers := rfl
@[simp] theorem setWReg_parked (s : State) (n : Nat) (x : DWord) : (setWReg s n x).parked = s.parked := rfl
@[simp] theorem setWReg_domains (s : State) (n : Nat) (x : DWord) : (setWReg s n x).domains = s.domains := rfl
@[simp] theorem setWReg_transits (s : State) (n : Nat) (x : DWord) : (setWReg s n x).transits = s.transits := rfl
@[simp] theorem setWReg_applied (s : State) (n : Nat) (x : DWord) : (setWReg s n x).applied = s.applied := rfl
@[simp] theorem setWReg_seqs (s : State) (n : Nat) (x : DWord) : (setWReg s n x).seqs = s.seqs := rfl
@[simp] theorem setWReg_heldCredits (s : State) (n : Nat) (x : DWord) : (setWReg s n x).heldCredits = s.heldCredits := rfl
@[simp] theorem setWReg_refusedCredits (s : State) (n : Nat) (x : DWord) : (setWReg s n x).refusedCredits = s.refusedCredits := rfl
@[simp] theorem setWReg_debitsDone (s : State) (n : Nat) (x : DWord) : (setWReg s n x).debitsDone = s.debitsDone := rfl
@[simp] theorem setWReg_slotsAway (s : State) (n : Nat) (x : DWord) : (setWReg s n x).slotsAway = s.slotsAway := rfl
@[simp] theorem setWReg_orders (s : State) (n : Nat) (x : DWord) : (setWReg s n x).orders = s.orders := rfl
@[simp] theorem setWReg_colls (s : State) (n : Nat) (x : DWord) : (setWReg s n x).colls = s.colls := rfl
@[simp] theorem setWReg_collWaits (s : State) (n : Nat) (x : DWord) : (setWReg s n x).collWaits = s.collWaits := rfl
@[simp] theorem setWReg_fabTags (s : State) (n : Nat) (x : DWord) : (setWReg s n x).fabTags = s.fabTags := rfl
@[simp] theorem setWReg_heldPkts (s : State) (n : Nat) (x : DWord) : (setWReg s n x).heldPkts = s.heldPkts := rfl
@[simp] theorem setWReg_fieldFrames (s : State) (n : Nat) (x : DWord) : (setWReg s n x).fieldFrames = s.fieldFrames := rfl
@[simp] theorem setWReg_moving (s : State) (n : Nat) (x : DWord) : (setWReg s n x).moving = s.moving := rfl
@[simp] theorem setWReg_atomCount (s : State) (n : Nat) (x : DWord) : (setWReg s n x).atomCount = s.atomCount := rfl
@[simp] theorem setWReg_movedAgo (s : State) (n : Nat) (x : DWord) : (setWReg s n x).movedAgo = s.movedAgo := rfl
@[simp] theorem setWReg_homeMoves (s : State) (n : Nat) (x : DWord) : (setWReg s n x).homeMoves = s.homeMoves := rfl
@[simp] theorem setWReg_atmEpoch (s : State) (n : Nat) (x : DWord) : (setWReg s n x).atmEpoch = s.atmEpoch := rfl
@[simp] theorem setWReg_atmThresh (s : State) (n : Nat) (x : DWord) : (setWReg s n x).atmThresh = s.atmThresh := rfl
@[simp] theorem setWReg_atmEn (s : State) (n : Nat) (x : DWord) : (setWReg s n x).atmEn = s.atmEn := rfl
@[simp] theorem setWReg_atmCnt (s : State) (n : Nat) (x : DWord) : (setWReg s n x).atmCnt = s.atmCnt := rfl
@[simp] theorem setWReg_homeBase (s : State) (n : Nat) (x : DWord) : (setWReg s n x).homeBase = s.homeBase := rfl
@[simp] theorem setWReg_io0 (s : State) (n : Nat) (x : DWord) : (setWReg s n x).io0 = s.io0 := rfl
@[simp] theorem setWReg_io1 (s : State) (n : Nat) (x : DWord) : (setWReg s n x).io1 = s.io1 := rfl
@[simp] theorem setWReg_parts (s : State) (n : Nat) (x : DWord) : (setWReg s n x).parts = s.parts := rfl
@[simp] theorem setWReg_evalPending (s : State) (n : Nat) (x : DWord) : (setWReg s n x).evalPending = s.evalPending := rfl
@[simp] theorem setWReg_replays (s : State) (n : Nat) (x : DWord) : (setWReg s n x).replays = s.replays := rfl
@[simp] theorem setWReg_health (s : State) (n : Nat) (x : DWord) : (setWReg s n x).health = s.health := rfl
@[simp] theorem setWReg_evHeld (s : State) (n : Nat) (x : DWord) : (setWReg s n x).evHeld = s.evHeld := rfl
@[simp] theorem setWReg_portsGone (s : State) (n : Nat) (x : DWord) : (setWReg s n x).portsGone = s.portsGone := rfl
@[simp] theorem setWReg_lostPkgs (s : State) (n : Nat) (x : DWord) : (setWReg s n x).lostPkgs = s.lostPkgs := rfl
@[simp] theorem setWReg_hostOut (s : State) (n : Nat) (x : DWord) : (setWReg s n x).hostOut = s.hostOut := rfl
@[simp] theorem setWReg_fabricOut (s : State) (n : Nat) (x : DWord) : (setWReg s n x).fabricOut = s.fabricOut := rfl
@[simp] theorem setWReg_badPa (s : State) (n : Nat) (x : DWord) : (setWReg s n x).badPa = s.badPa := rfl
@[simp] theorem setWReg_bus (s : State) (n : Nat) (x : DWord) : (setWReg s n x).bus = s.bus := rfl
@[simp] theorem setWReg_cycle (s : State) (n : Nat) (x : DWord) : (setWReg s n x).cycle = s.cycle := rfl
@[simp] theorem setWReg_ticks (s : State) (n : Nat) (x : DWord) : (setWReg s n x).ticks = s.ticks := rfl
@[simp] theorem setWReg_seq (s : State) (n : Nat) (x : DWord) : (setWReg s n x).seq = s.seq := rfl
@[simp] theorem setWReg_upper (s : State) (n : Nat) (x : DWord) : (setWReg s n x).upper = s.upper := rfl
@[simp] theorem setWReg_cur (s : State) (n : Nat) (x : DWord) : (setWReg s n x).cur = s.cur := rfl
@[simp] theorem setWReg_agenda (s : State) (n : Nat) (x : DWord) : (setWReg s n x).agenda = s.agenda := rfl

@[simp] theorem putBytes_powered (s : State) (pa : Nat) (bs : List Byte) : (putBytes s pa bs).powered = s.powered := rfl
@[simp] theorem putBytes_keys (s : State) (pa : Nat) (bs : List Byte) : (putBytes s pa bs).keys = s.keys := rfl
@[simp] theorem putBytes_measured (s : State) (pa : Nat) (bs : List Byte) : (putBytes s pa bs).measured = s.measured := rfl
@[simp] theorem putBytes_package (s : State) (pa : Nat) (bs : List Byte) : (putBytes s pa bs).package = s.package := rfl
@[simp] theorem putBytes_tierMiB (s : State) (pa : Nat) (bs : List Byte) : (putBytes s pa bs).tierMiB = s.tierMiB := rfl
@[simp] theorem putBytes_bad (s : State) (pa : Nat) (bs : List Byte) : (putBytes s pa bs).bad = s.bad := rfl
@[simp] theorem putBytes_mere (s : State) (pa : Nat) (bs : List Byte) : (putBytes s pa bs).mere = s.mere := rfl
@[simp] theorem putBytes_strands (s : State) (pa : Nat) (bs : List Byte) : (putBytes s pa bs).strands = s.strands := rfl
@[simp] theorem putBytes_skeins (s : State) (pa : Nat) (bs : List Byte) : (putBytes s pa bs).skeins = s.skeins := rfl
@[simp] theorem putBytes_launches (s : State) (pa : Nat) (bs : List Byte) : (putBytes s pa bs).launches = s.launches := rfl
@[simp] theorem putBytes_nextLaunch (s : State) (pa : Nat) (bs : List Byte) : (putBytes s pa bs).nextLaunch = s.nextLaunch := rfl
@[simp] theorem putBytes_launchQueue (s : State) (pa : Nat) (bs : List Byte) : (putBytes s pa bs).launchQueue = s.launchQueue := rfl
@[simp] theorem putBytes_sbars (s : State) (pa : Nat) (bs : List Byte) : (putBytes s pa bs).sbars = s.sbars := rfl
@[simp] theorem putBytes_cores (s : State) (pa : Nat) (bs : List Byte) : (putBytes s pa bs).cores = s.cores := rfl
@[simp] theorem putBytes_counters (s : State) (pa : Nat) (bs : List Byte) : (putBytes s pa bs).counters = s.counters := rfl
@[simp] theorem putBytes_regions (s : State) (pa : Nat) (bs : List Byte) : (putBytes s pa bs).regions = s.regions := rfl
@[simp] theorem putBytes_grants (s : State) (pa : Nat) (bs : List Byte) : (putBytes s pa bs).grants = s.grants := rfl
@[simp] theorem putBytes_refused (s : State) (pa : Nat) (bs : List Byte) : (putBytes s pa bs).refused = s.refused := rfl
@[simp] theorem putBytes_tlb (s : State) (pa : Nat) (bs : List Byte) : (putBytes s pa bs).tlb = s.tlb := rfl
@[simp] theorem putBytes_l1 (s : State) (pa : Nat) (bs : List Byte) : (putBytes s pa bs).l1 = s.l1 := rfl
@[simp] theorem putBytes_icache (s : State) (pa : Nat) (bs : List Byte) : (putBytes s pa bs).icache = s.icache := rfl
@[simp] theorem putBytes_flight (s : State) (pa : Nat) (bs : List Byte) : (putBytes s pa bs).flight = s.flight := rfl
@[simp] theorem putBytes_copies (s : State) (pa : Nat) (bs : List Byte) : (putBytes s pa bs).copies = s.copies := rfl
@[simp] theorem putBytes_triggers (s : State) (pa : Nat) (bs : List Byte) : (putBytes s pa bs).triggers = s.triggers := rfl
@[simp] theorem putBytes_parked (s : State) (pa : Nat) (bs : List Byte) : (putBytes s pa bs).parked = s.parked := rfl
@[simp] theorem putBytes_domains (s : State) (pa : Nat) (bs : List Byte) : (putBytes s pa bs).domains = s.domains := rfl
@[simp] theorem putBytes_transits (s : State) (pa : Nat) (bs : List Byte) : (putBytes s pa bs).transits = s.transits := rfl
@[simp] theorem putBytes_applied (s : State) (pa : Nat) (bs : List Byte) : (putBytes s pa bs).applied = s.applied := rfl
@[simp] theorem putBytes_seqs (s : State) (pa : Nat) (bs : List Byte) : (putBytes s pa bs).seqs = s.seqs := rfl
@[simp] theorem putBytes_heldCredits (s : State) (pa : Nat) (bs : List Byte) : (putBytes s pa bs).heldCredits = s.heldCredits := rfl
@[simp] theorem putBytes_refusedCredits (s : State) (pa : Nat) (bs : List Byte) : (putBytes s pa bs).refusedCredits = s.refusedCredits := rfl
@[simp] theorem putBytes_debitsDone (s : State) (pa : Nat) (bs : List Byte) : (putBytes s pa bs).debitsDone = s.debitsDone := rfl
@[simp] theorem putBytes_slotsAway (s : State) (pa : Nat) (bs : List Byte) : (putBytes s pa bs).slotsAway = s.slotsAway := rfl
@[simp] theorem putBytes_orders (s : State) (pa : Nat) (bs : List Byte) : (putBytes s pa bs).orders = s.orders := rfl
@[simp] theorem putBytes_colls (s : State) (pa : Nat) (bs : List Byte) : (putBytes s pa bs).colls = s.colls := rfl
@[simp] theorem putBytes_collWaits (s : State) (pa : Nat) (bs : List Byte) : (putBytes s pa bs).collWaits = s.collWaits := rfl
@[simp] theorem putBytes_fabTags (s : State) (pa : Nat) (bs : List Byte) : (putBytes s pa bs).fabTags = s.fabTags := rfl
@[simp] theorem putBytes_heldPkts (s : State) (pa : Nat) (bs : List Byte) : (putBytes s pa bs).heldPkts = s.heldPkts := rfl
@[simp] theorem putBytes_fieldFrames (s : State) (pa : Nat) (bs : List Byte) : (putBytes s pa bs).fieldFrames = s.fieldFrames := rfl
@[simp] theorem putBytes_moving (s : State) (pa : Nat) (bs : List Byte) : (putBytes s pa bs).moving = s.moving := rfl
@[simp] theorem putBytes_atomCount (s : State) (pa : Nat) (bs : List Byte) : (putBytes s pa bs).atomCount = s.atomCount := rfl
@[simp] theorem putBytes_movedAgo (s : State) (pa : Nat) (bs : List Byte) : (putBytes s pa bs).movedAgo = s.movedAgo := rfl
@[simp] theorem putBytes_homeMoves (s : State) (pa : Nat) (bs : List Byte) : (putBytes s pa bs).homeMoves = s.homeMoves := rfl
@[simp] theorem putBytes_atmEpoch (s : State) (pa : Nat) (bs : List Byte) : (putBytes s pa bs).atmEpoch = s.atmEpoch := rfl
@[simp] theorem putBytes_atmThresh (s : State) (pa : Nat) (bs : List Byte) : (putBytes s pa bs).atmThresh = s.atmThresh := rfl
@[simp] theorem putBytes_atmEn (s : State) (pa : Nat) (bs : List Byte) : (putBytes s pa bs).atmEn = s.atmEn := rfl
@[simp] theorem putBytes_atmCnt (s : State) (pa : Nat) (bs : List Byte) : (putBytes s pa bs).atmCnt = s.atmCnt := rfl
@[simp] theorem putBytes_homeBase (s : State) (pa : Nat) (bs : List Byte) : (putBytes s pa bs).homeBase = s.homeBase := rfl
@[simp] theorem putBytes_io0 (s : State) (pa : Nat) (bs : List Byte) : (putBytes s pa bs).io0 = s.io0 := rfl
@[simp] theorem putBytes_io1 (s : State) (pa : Nat) (bs : List Byte) : (putBytes s pa bs).io1 = s.io1 := rfl
@[simp] theorem putBytes_parts (s : State) (pa : Nat) (bs : List Byte) : (putBytes s pa bs).parts = s.parts := rfl
@[simp] theorem putBytes_evalPending (s : State) (pa : Nat) (bs : List Byte) : (putBytes s pa bs).evalPending = s.evalPending := rfl
@[simp] theorem putBytes_replays (s : State) (pa : Nat) (bs : List Byte) : (putBytes s pa bs).replays = s.replays := rfl
@[simp] theorem putBytes_health (s : State) (pa : Nat) (bs : List Byte) : (putBytes s pa bs).health = s.health := rfl
@[simp] theorem putBytes_evHeld (s : State) (pa : Nat) (bs : List Byte) : (putBytes s pa bs).evHeld = s.evHeld := rfl
@[simp] theorem putBytes_portsGone (s : State) (pa : Nat) (bs : List Byte) : (putBytes s pa bs).portsGone = s.portsGone := rfl
@[simp] theorem putBytes_lostPkgs (s : State) (pa : Nat) (bs : List Byte) : (putBytes s pa bs).lostPkgs = s.lostPkgs := rfl
@[simp] theorem putBytes_hostOut (s : State) (pa : Nat) (bs : List Byte) : (putBytes s pa bs).hostOut = s.hostOut := rfl
@[simp] theorem putBytes_fabricOut (s : State) (pa : Nat) (bs : List Byte) : (putBytes s pa bs).fabricOut = s.fabricOut := rfl
@[simp] theorem putBytes_badPa (s : State) (pa : Nat) (bs : List Byte) : (putBytes s pa bs).badPa = s.badPa := rfl
@[simp] theorem putBytes_bus (s : State) (pa : Nat) (bs : List Byte) : (putBytes s pa bs).bus = s.bus := rfl
@[simp] theorem putBytes_cycle (s : State) (pa : Nat) (bs : List Byte) : (putBytes s pa bs).cycle = s.cycle := rfl
@[simp] theorem putBytes_ticks (s : State) (pa : Nat) (bs : List Byte) : (putBytes s pa bs).ticks = s.ticks := rfl
@[simp] theorem putBytes_seq (s : State) (pa : Nat) (bs : List Byte) : (putBytes s pa bs).seq = s.seq := rfl
@[simp] theorem putBytes_upper (s : State) (pa : Nat) (bs : List Byte) : (putBytes s pa bs).upper = s.upper := rfl
@[simp] theorem putBytes_cur (s : State) (pa : Nat) (bs : List Byte) : (putBytes s pa bs).cur = s.cur := rfl
@[simp] theorem putBytes_agenda (s : State) (pa : Nat) (bs : List Byte) : (putBytes s pa bs).agenda = s.agenda := rfl

@[simp] theorem tick_powered (s : State) : (tick s).powered = s.powered := rfl
@[simp] theorem tick_keys (s : State) : (tick s).keys = s.keys := rfl
@[simp] theorem tick_measured (s : State) : (tick s).measured = s.measured := rfl
@[simp] theorem tick_package (s : State) : (tick s).package = s.package := rfl
@[simp] theorem tick_tierMiB (s : State) : (tick s).tierMiB = s.tierMiB := rfl
@[simp] theorem tick_mem (s : State) : (tick s).mem = s.mem := rfl
@[simp] theorem tick_bad (s : State) : (tick s).bad = s.bad := rfl
@[simp] theorem tick_mere (s : State) : (tick s).mere = s.mere := rfl
@[simp] theorem tick_strands (s : State) : (tick s).strands = s.strands := rfl
@[simp] theorem tick_skeins (s : State) : (tick s).skeins = s.skeins := rfl
@[simp] theorem tick_launches (s : State) : (tick s).launches = s.launches := rfl
@[simp] theorem tick_nextLaunch (s : State) : (tick s).nextLaunch = s.nextLaunch := rfl
@[simp] theorem tick_launchQueue (s : State) : (tick s).launchQueue = s.launchQueue := rfl
@[simp] theorem tick_sbars (s : State) : (tick s).sbars = s.sbars := rfl
@[simp] theorem tick_cores (s : State) : (tick s).cores = s.cores := rfl
@[simp] theorem tick_counters (s : State) : (tick s).counters = s.counters := rfl
@[simp] theorem tick_regions (s : State) : (tick s).regions = s.regions := rfl
@[simp] theorem tick_grants (s : State) : (tick s).grants = s.grants := rfl
@[simp] theorem tick_refused (s : State) : (tick s).refused = s.refused := rfl
@[simp] theorem tick_tlb (s : State) : (tick s).tlb = s.tlb := rfl
@[simp] theorem tick_l1 (s : State) : (tick s).l1 = s.l1 := rfl
@[simp] theorem tick_icache (s : State) : (tick s).icache = s.icache := rfl
@[simp] theorem tick_flight (s : State) : (tick s).flight = s.flight := rfl
@[simp] theorem tick_copies (s : State) : (tick s).copies = s.copies := rfl
@[simp] theorem tick_triggers (s : State) : (tick s).triggers = s.triggers := rfl
@[simp] theorem tick_parked (s : State) : (tick s).parked = s.parked := rfl
@[simp] theorem tick_domains (s : State) : (tick s).domains = s.domains := rfl
@[simp] theorem tick_transits (s : State) : (tick s).transits = s.transits := rfl
@[simp] theorem tick_applied (s : State) : (tick s).applied = s.applied := rfl
@[simp] theorem tick_seqs (s : State) : (tick s).seqs = s.seqs := rfl
@[simp] theorem tick_heldCredits (s : State) : (tick s).heldCredits = s.heldCredits := rfl
@[simp] theorem tick_refusedCredits (s : State) : (tick s).refusedCredits = s.refusedCredits := rfl
@[simp] theorem tick_debitsDone (s : State) : (tick s).debitsDone = s.debitsDone := rfl
@[simp] theorem tick_slotsAway (s : State) : (tick s).slotsAway = s.slotsAway := rfl
@[simp] theorem tick_orders (s : State) : (tick s).orders = s.orders := rfl
@[simp] theorem tick_colls (s : State) : (tick s).colls = s.colls := rfl
@[simp] theorem tick_collWaits (s : State) : (tick s).collWaits = s.collWaits := rfl
@[simp] theorem tick_fabTags (s : State) : (tick s).fabTags = s.fabTags := rfl
@[simp] theorem tick_heldPkts (s : State) : (tick s).heldPkts = s.heldPkts := rfl
@[simp] theorem tick_fieldFrames (s : State) : (tick s).fieldFrames = s.fieldFrames := rfl
@[simp] theorem tick_moving (s : State) : (tick s).moving = s.moving := rfl
@[simp] theorem tick_atomCount (s : State) : (tick s).atomCount = s.atomCount := rfl
@[simp] theorem tick_movedAgo (s : State) : (tick s).movedAgo = s.movedAgo := rfl
@[simp] theorem tick_homeMoves (s : State) : (tick s).homeMoves = s.homeMoves := rfl
@[simp] theorem tick_atmEpoch (s : State) : (tick s).atmEpoch = s.atmEpoch := rfl
@[simp] theorem tick_atmThresh (s : State) : (tick s).atmThresh = s.atmThresh := rfl
@[simp] theorem tick_atmEn (s : State) : (tick s).atmEn = s.atmEn := rfl
@[simp] theorem tick_atmCnt (s : State) : (tick s).atmCnt = s.atmCnt := rfl
@[simp] theorem tick_homeBase (s : State) : (tick s).homeBase = s.homeBase := rfl
@[simp] theorem tick_io0 (s : State) : (tick s).io0 = s.io0 := rfl
@[simp] theorem tick_io1 (s : State) : (tick s).io1 = s.io1 := rfl
@[simp] theorem tick_parts (s : State) : (tick s).parts = s.parts := rfl
@[simp] theorem tick_evalPending (s : State) : (tick s).evalPending = s.evalPending := rfl
@[simp] theorem tick_replays (s : State) : (tick s).replays = s.replays := rfl
@[simp] theorem tick_health (s : State) : (tick s).health = s.health := rfl
@[simp] theorem tick_evHeld (s : State) : (tick s).evHeld = s.evHeld := rfl
@[simp] theorem tick_portsGone (s : State) : (tick s).portsGone = s.portsGone := rfl
@[simp] theorem tick_lostPkgs (s : State) : (tick s).lostPkgs = s.lostPkgs := rfl
@[simp] theorem tick_hostOut (s : State) : (tick s).hostOut = s.hostOut := rfl
@[simp] theorem tick_fabricOut (s : State) : (tick s).fabricOut = s.fabricOut := rfl
@[simp] theorem tick_badPa (s : State) : (tick s).badPa = s.badPa := rfl
@[simp] theorem tick_bus (s : State) : (tick s).bus = s.bus := rfl
@[simp] theorem tick_seq (s : State) : (tick s).seq = s.seq := rfl
@[simp] theorem tick_upper (s : State) : (tick s).upper = s.upper := rfl
@[simp] theorem tick_cur (s : State) : (tick s).cur = s.cur := rfl
@[simp] theorem tick_agenda (s : State) : (tick s).agenda = s.agenda := rfl

@[simp] theorem tick_ticks (s : State) : (tick s).ticks = s.ticks + 1 := rfl
@[simp] theorem grp_setStrand (s : State) (key : Nat) (t : Strand) : grp (setStrand s key t) = grp s := rfl
@[simp] theorem grp_setSkein (s : State) (sid : Nat) (k : Skein) : grp (setSkein s sid k) = grp s := rfl
@[simp] theorem grp_tick (s : State) : grp (tick s) = grp s := rfl
@[simp] theorem getStrand_tick (s : State) (key : Nat) : getStrand (tick s) key = getStrand s key := rfl
@[simp] theorem getSkein_tick (s : State) (sid : Nat) : getSkein (tick s) sid = getSkein s sid := rfl
@[simp] theorem getPart_tick (s : State) (p : Nat) : getPart (tick s) p = getPart s p := rfl
@[simp] theorem getSkein_setStrand (s : State) (key sid : Nat) (t : Strand) : getSkein (setStrand s key t) sid = getSkein s sid := rfl
@[simp] theorem getStrand_setSkein (s : State) (key sid : Nat) (k : Skein) : getStrand (setSkein s sid k) key = getStrand s key := rfl
@[simp] theorem getPart_setStrand (s : State) (key p : Nat) (t : Strand) : getPart (setStrand s key t) p = getPart s p := rfl
@[simp] theorem getPart_setSkein (s : State) (sid p : Nat) (k : Skein) : getPart (setSkein s sid k) p = getPart s p := rfl
@[simp] theorem curKey_tick (s : State) (n : Nat) : curKey (tick s) n = curKey s n := rfl
@[simp] theorem curStrand_tick (s : State) (n : Nat) : curStrand (tick s) n = curStrand s n := rfl
@[simp] theorem curSkein_tick (s : State) : curSkein (tick s) = curSkein s := rfl
@[simp] theorem curSkein_setStrand (s : State) (key : Nat) (t : Strand) : curSkein (setStrand s key t) = curSkein s := rfl

/-- A change of some strands of a ply changes the strands only. -/
theorem mapStrands_eq (s : State) (sid ply : Nat) (ns : List Nat) (f : Nat → Strand → Strand) :
    mapStrands s sid ply ns f = { s with strands := (mapStrands s sid ply ns f).strands } := by
  unfold mapStrands
  induction ns generalizing s with
  | nil => rfl
  | cons n ns ih => rw [List.foldl_cons, ih]; rfl

@[simp] theorem mapStrands_powered (s : State) (sid ply : Nat) (ns : List Nat) (f : Nat → Strand → Strand) :
    (mapStrands s sid ply ns f).powered = s.powered := by rw [mapStrands_eq]
@[simp] theorem mapStrands_keys (s : State) (sid ply : Nat) (ns : List Nat) (f : Nat → Strand → Strand) :
    (mapStrands s sid ply ns f).keys = s.keys := by rw [mapStrands_eq]
@[simp] theorem mapStrands_measured (s : State) (sid ply : Nat) (ns : List Nat) (f : Nat → Strand → Strand) :
    (mapStrands s sid ply ns f).measured = s.measured := by rw [mapStrands_eq]
@[simp] theorem mapStrands_package (s : State) (sid ply : Nat) (ns : List Nat) (f : Nat → Strand → Strand) :
    (mapStrands s sid ply ns f).package = s.package := by rw [mapStrands_eq]
@[simp] theorem mapStrands_tierMiB (s : State) (sid ply : Nat) (ns : List Nat) (f : Nat → Strand → Strand) :
    (mapStrands s sid ply ns f).tierMiB = s.tierMiB := by rw [mapStrands_eq]
@[simp] theorem mapStrands_mem (s : State) (sid ply : Nat) (ns : List Nat) (f : Nat → Strand → Strand) :
    (mapStrands s sid ply ns f).mem = s.mem := by rw [mapStrands_eq]
@[simp] theorem mapStrands_bad (s : State) (sid ply : Nat) (ns : List Nat) (f : Nat → Strand → Strand) :
    (mapStrands s sid ply ns f).bad = s.bad := by rw [mapStrands_eq]
@[simp] theorem mapStrands_mere (s : State) (sid ply : Nat) (ns : List Nat) (f : Nat → Strand → Strand) :
    (mapStrands s sid ply ns f).mere = s.mere := by rw [mapStrands_eq]
@[simp] theorem mapStrands_skeins (s : State) (sid ply : Nat) (ns : List Nat) (f : Nat → Strand → Strand) :
    (mapStrands s sid ply ns f).skeins = s.skeins := by rw [mapStrands_eq]
@[simp] theorem mapStrands_launches (s : State) (sid ply : Nat) (ns : List Nat) (f : Nat → Strand → Strand) :
    (mapStrands s sid ply ns f).launches = s.launches := by rw [mapStrands_eq]
@[simp] theorem mapStrands_nextLaunch (s : State) (sid ply : Nat) (ns : List Nat) (f : Nat → Strand → Strand) :
    (mapStrands s sid ply ns f).nextLaunch = s.nextLaunch := by rw [mapStrands_eq]
@[simp] theorem mapStrands_launchQueue (s : State) (sid ply : Nat) (ns : List Nat) (f : Nat → Strand → Strand) :
    (mapStrands s sid ply ns f).launchQueue = s.launchQueue := by rw [mapStrands_eq]
@[simp] theorem mapStrands_sbars (s : State) (sid ply : Nat) (ns : List Nat) (f : Nat → Strand → Strand) :
    (mapStrands s sid ply ns f).sbars = s.sbars := by rw [mapStrands_eq]
@[simp] theorem mapStrands_cores (s : State) (sid ply : Nat) (ns : List Nat) (f : Nat → Strand → Strand) :
    (mapStrands s sid ply ns f).cores = s.cores := by rw [mapStrands_eq]
@[simp] theorem mapStrands_counters (s : State) (sid ply : Nat) (ns : List Nat) (f : Nat → Strand → Strand) :
    (mapStrands s sid ply ns f).counters = s.counters := by rw [mapStrands_eq]
@[simp] theorem mapStrands_regions (s : State) (sid ply : Nat) (ns : List Nat) (f : Nat → Strand → Strand) :
    (mapStrands s sid ply ns f).regions = s.regions := by rw [mapStrands_eq]
@[simp] theorem mapStrands_grants (s : State) (sid ply : Nat) (ns : List Nat) (f : Nat → Strand → Strand) :
    (mapStrands s sid ply ns f).grants = s.grants := by rw [mapStrands_eq]
@[simp] theorem mapStrands_refused (s : State) (sid ply : Nat) (ns : List Nat) (f : Nat → Strand → Strand) :
    (mapStrands s sid ply ns f).refused = s.refused := by rw [mapStrands_eq]
@[simp] theorem mapStrands_tlb (s : State) (sid ply : Nat) (ns : List Nat) (f : Nat → Strand → Strand) :
    (mapStrands s sid ply ns f).tlb = s.tlb := by rw [mapStrands_eq]
@[simp] theorem mapStrands_l1 (s : State) (sid ply : Nat) (ns : List Nat) (f : Nat → Strand → Strand) :
    (mapStrands s sid ply ns f).l1 = s.l1 := by rw [mapStrands_eq]
@[simp] theorem mapStrands_icache (s : State) (sid ply : Nat) (ns : List Nat) (f : Nat → Strand → Strand) :
    (mapStrands s sid ply ns f).icache = s.icache := by rw [mapStrands_eq]
@[simp] theorem mapStrands_flight (s : State) (sid ply : Nat) (ns : List Nat) (f : Nat → Strand → Strand) :
    (mapStrands s sid ply ns f).flight = s.flight := by rw [mapStrands_eq]
@[simp] theorem mapStrands_copies (s : State) (sid ply : Nat) (ns : List Nat) (f : Nat → Strand → Strand) :
    (mapStrands s sid ply ns f).copies = s.copies := by rw [mapStrands_eq]
@[simp] theorem mapStrands_triggers (s : State) (sid ply : Nat) (ns : List Nat) (f : Nat → Strand → Strand) :
    (mapStrands s sid ply ns f).triggers = s.triggers := by rw [mapStrands_eq]
@[simp] theorem mapStrands_parked (s : State) (sid ply : Nat) (ns : List Nat) (f : Nat → Strand → Strand) :
    (mapStrands s sid ply ns f).parked = s.parked := by rw [mapStrands_eq]
@[simp] theorem mapStrands_domains (s : State) (sid ply : Nat) (ns : List Nat) (f : Nat → Strand → Strand) :
    (mapStrands s sid ply ns f).domains = s.domains := by rw [mapStrands_eq]
@[simp] theorem mapStrands_transits (s : State) (sid ply : Nat) (ns : List Nat) (f : Nat → Strand → Strand) :
    (mapStrands s sid ply ns f).transits = s.transits := by rw [mapStrands_eq]
@[simp] theorem mapStrands_applied (s : State) (sid ply : Nat) (ns : List Nat) (f : Nat → Strand → Strand) :
    (mapStrands s sid ply ns f).applied = s.applied := by rw [mapStrands_eq]
@[simp] theorem mapStrands_seqs (s : State) (sid ply : Nat) (ns : List Nat) (f : Nat → Strand → Strand) :
    (mapStrands s sid ply ns f).seqs = s.seqs := by rw [mapStrands_eq]
@[simp] theorem mapStrands_heldCredits (s : State) (sid ply : Nat) (ns : List Nat) (f : Nat → Strand → Strand) :
    (mapStrands s sid ply ns f).heldCredits = s.heldCredits := by rw [mapStrands_eq]
@[simp] theorem mapStrands_refusedCredits (s : State) (sid ply : Nat) (ns : List Nat) (f : Nat → Strand → Strand) :
    (mapStrands s sid ply ns f).refusedCredits = s.refusedCredits := by rw [mapStrands_eq]
@[simp] theorem mapStrands_debitsDone (s : State) (sid ply : Nat) (ns : List Nat) (f : Nat → Strand → Strand) :
    (mapStrands s sid ply ns f).debitsDone = s.debitsDone := by rw [mapStrands_eq]
@[simp] theorem mapStrands_slotsAway (s : State) (sid ply : Nat) (ns : List Nat) (f : Nat → Strand → Strand) :
    (mapStrands s sid ply ns f).slotsAway = s.slotsAway := by rw [mapStrands_eq]
@[simp] theorem mapStrands_orders (s : State) (sid ply : Nat) (ns : List Nat) (f : Nat → Strand → Strand) :
    (mapStrands s sid ply ns f).orders = s.orders := by rw [mapStrands_eq]
@[simp] theorem mapStrands_colls (s : State) (sid ply : Nat) (ns : List Nat) (f : Nat → Strand → Strand) :
    (mapStrands s sid ply ns f).colls = s.colls := by rw [mapStrands_eq]
@[simp] theorem mapStrands_collWaits (s : State) (sid ply : Nat) (ns : List Nat) (f : Nat → Strand → Strand) :
    (mapStrands s sid ply ns f).collWaits = s.collWaits := by rw [mapStrands_eq]
@[simp] theorem mapStrands_fabTags (s : State) (sid ply : Nat) (ns : List Nat) (f : Nat → Strand → Strand) :
    (mapStrands s sid ply ns f).fabTags = s.fabTags := by rw [mapStrands_eq]
@[simp] theorem mapStrands_heldPkts (s : State) (sid ply : Nat) (ns : List Nat) (f : Nat → Strand → Strand) :
    (mapStrands s sid ply ns f).heldPkts = s.heldPkts := by rw [mapStrands_eq]
@[simp] theorem mapStrands_fieldFrames (s : State) (sid ply : Nat) (ns : List Nat) (f : Nat → Strand → Strand) :
    (mapStrands s sid ply ns f).fieldFrames = s.fieldFrames := by rw [mapStrands_eq]
@[simp] theorem mapStrands_moving (s : State) (sid ply : Nat) (ns : List Nat) (f : Nat → Strand → Strand) :
    (mapStrands s sid ply ns f).moving = s.moving := by rw [mapStrands_eq]
@[simp] theorem mapStrands_atomCount (s : State) (sid ply : Nat) (ns : List Nat) (f : Nat → Strand → Strand) :
    (mapStrands s sid ply ns f).atomCount = s.atomCount := by rw [mapStrands_eq]
@[simp] theorem mapStrands_movedAgo (s : State) (sid ply : Nat) (ns : List Nat) (f : Nat → Strand → Strand) :
    (mapStrands s sid ply ns f).movedAgo = s.movedAgo := by rw [mapStrands_eq]
@[simp] theorem mapStrands_homeMoves (s : State) (sid ply : Nat) (ns : List Nat) (f : Nat → Strand → Strand) :
    (mapStrands s sid ply ns f).homeMoves = s.homeMoves := by rw [mapStrands_eq]
@[simp] theorem mapStrands_atmEpoch (s : State) (sid ply : Nat) (ns : List Nat) (f : Nat → Strand → Strand) :
    (mapStrands s sid ply ns f).atmEpoch = s.atmEpoch := by rw [mapStrands_eq]
@[simp] theorem mapStrands_atmThresh (s : State) (sid ply : Nat) (ns : List Nat) (f : Nat → Strand → Strand) :
    (mapStrands s sid ply ns f).atmThresh = s.atmThresh := by rw [mapStrands_eq]
@[simp] theorem mapStrands_atmEn (s : State) (sid ply : Nat) (ns : List Nat) (f : Nat → Strand → Strand) :
    (mapStrands s sid ply ns f).atmEn = s.atmEn := by rw [mapStrands_eq]
@[simp] theorem mapStrands_atmCnt (s : State) (sid ply : Nat) (ns : List Nat) (f : Nat → Strand → Strand) :
    (mapStrands s sid ply ns f).atmCnt = s.atmCnt := by rw [mapStrands_eq]
@[simp] theorem mapStrands_homeBase (s : State) (sid ply : Nat) (ns : List Nat) (f : Nat → Strand → Strand) :
    (mapStrands s sid ply ns f).homeBase = s.homeBase := by rw [mapStrands_eq]
@[simp] theorem mapStrands_io0 (s : State) (sid ply : Nat) (ns : List Nat) (f : Nat → Strand → Strand) :
    (mapStrands s sid ply ns f).io0 = s.io0 := by rw [mapStrands_eq]
@[simp] theorem mapStrands_io1 (s : State) (sid ply : Nat) (ns : List Nat) (f : Nat → Strand → Strand) :
    (mapStrands s sid ply ns f).io1 = s.io1 := by rw [mapStrands_eq]
@[simp] theorem mapStrands_parts (s : State) (sid ply : Nat) (ns : List Nat) (f : Nat → Strand → Strand) :
    (mapStrands s sid ply ns f).parts = s.parts := by rw [mapStrands_eq]
@[simp] theorem mapStrands_evalPending (s : State) (sid ply : Nat) (ns : List Nat) (f : Nat → Strand → Strand) :
    (mapStrands s sid ply ns f).evalPending = s.evalPending := by rw [mapStrands_eq]
@[simp] theorem mapStrands_replays (s : State) (sid ply : Nat) (ns : List Nat) (f : Nat → Strand → Strand) :
    (mapStrands s sid ply ns f).replays = s.replays := by rw [mapStrands_eq]
@[simp] theorem mapStrands_health (s : State) (sid ply : Nat) (ns : List Nat) (f : Nat → Strand → Strand) :
    (mapStrands s sid ply ns f).health = s.health := by rw [mapStrands_eq]
@[simp] theorem mapStrands_evHeld (s : State) (sid ply : Nat) (ns : List Nat) (f : Nat → Strand → Strand) :
    (mapStrands s sid ply ns f).evHeld = s.evHeld := by rw [mapStrands_eq]
@[simp] theorem mapStrands_portsGone (s : State) (sid ply : Nat) (ns : List Nat) (f : Nat → Strand → Strand) :
    (mapStrands s sid ply ns f).portsGone = s.portsGone := by rw [mapStrands_eq]
@[simp] theorem mapStrands_lostPkgs (s : State) (sid ply : Nat) (ns : List Nat) (f : Nat → Strand → Strand) :
    (mapStrands s sid ply ns f).lostPkgs = s.lostPkgs := by rw [mapStrands_eq]
@[simp] theorem mapStrands_hostOut (s : State) (sid ply : Nat) (ns : List Nat) (f : Nat → Strand → Strand) :
    (mapStrands s sid ply ns f).hostOut = s.hostOut := by rw [mapStrands_eq]
@[simp] theorem mapStrands_fabricOut (s : State) (sid ply : Nat) (ns : List Nat) (f : Nat → Strand → Strand) :
    (mapStrands s sid ply ns f).fabricOut = s.fabricOut := by rw [mapStrands_eq]
@[simp] theorem mapStrands_badPa (s : State) (sid ply : Nat) (ns : List Nat) (f : Nat → Strand → Strand) :
    (mapStrands s sid ply ns f).badPa = s.badPa := by rw [mapStrands_eq]
@[simp] theorem mapStrands_bus (s : State) (sid ply : Nat) (ns : List Nat) (f : Nat → Strand → Strand) :
    (mapStrands s sid ply ns f).bus = s.bus := by rw [mapStrands_eq]
@[simp] theorem mapStrands_cycle (s : State) (sid ply : Nat) (ns : List Nat) (f : Nat → Strand → Strand) :
    (mapStrands s sid ply ns f).cycle = s.cycle := by rw [mapStrands_eq]
@[simp] theorem mapStrands_ticks (s : State) (sid ply : Nat) (ns : List Nat) (f : Nat → Strand → Strand) :
    (mapStrands s sid ply ns f).ticks = s.ticks := by rw [mapStrands_eq]
@[simp] theorem mapStrands_seq (s : State) (sid ply : Nat) (ns : List Nat) (f : Nat → Strand → Strand) :
    (mapStrands s sid ply ns f).seq = s.seq := by rw [mapStrands_eq]
@[simp] theorem mapStrands_upper (s : State) (sid ply : Nat) (ns : List Nat) (f : Nat → Strand → Strand) :
    (mapStrands s sid ply ns f).upper = s.upper := by rw [mapStrands_eq]
@[simp] theorem mapStrands_cur (s : State) (sid ply : Nat) (ns : List Nat) (f : Nat → Strand → Strand) :
    (mapStrands s sid ply ns f).cur = s.cur := by rw [mapStrands_eq]
@[simp] theorem mapStrands_agenda (s : State) (sid ply : Nat) (ns : List Nat) (f : Nat → Strand → Strand) :
    (mapStrands s sid ply ns f).agenda = s.agenda := by rw [mapStrands_eq]

@[simp] theorem retire_powered (s : State) (len : Nat) : (retire s len).powered = s.powered := by simp [retire]
@[simp] theorem retire_keys (s : State) (len : Nat) : (retire s len).keys = s.keys := by simp [retire]
@[simp] theorem retire_measured (s : State) (len : Nat) : (retire s len).measured = s.measured := by simp [retire]
@[simp] theorem retire_package (s : State) (len : Nat) : (retire s len).package = s.package := by simp [retire]
@[simp] theorem retire_tierMiB (s : State) (len : Nat) : (retire s len).tierMiB = s.tierMiB := by simp [retire]
@[simp] theorem retire_mem (s : State) (len : Nat) : (retire s len).mem = s.mem := by simp [retire]
@[simp] theorem retire_bad (s : State) (len : Nat) : (retire s len).bad = s.bad := by simp [retire]
@[simp] theorem retire_mere (s : State) (len : Nat) : (retire s len).mere = s.mere := by simp [retire]
@[simp] theorem retire_skeins (s : State) (len : Nat) : (retire s len).skeins = s.skeins := by simp [retire]
@[simp] theorem retire_launches (s : State) (len : Nat) : (retire s len).launches = s.launches := by simp [retire]
@[simp] theorem retire_nextLaunch (s : State) (len : Nat) : (retire s len).nextLaunch = s.nextLaunch := by simp [retire]
@[simp] theorem retire_launchQueue (s : State) (len : Nat) : (retire s len).launchQueue = s.launchQueue := by simp [retire]
@[simp] theorem retire_sbars (s : State) (len : Nat) : (retire s len).sbars = s.sbars := by simp [retire]
@[simp] theorem retire_cores (s : State) (len : Nat) : (retire s len).cores = s.cores := by simp [retire]
@[simp] theorem retire_counters (s : State) (len : Nat) : (retire s len).counters = s.counters := by simp [retire]
@[simp] theorem retire_regions (s : State) (len : Nat) : (retire s len).regions = s.regions := by simp [retire]
@[simp] theorem retire_grants (s : State) (len : Nat) : (retire s len).grants = s.grants := by simp [retire]
@[simp] theorem retire_refused (s : State) (len : Nat) : (retire s len).refused = s.refused := by simp [retire]
@[simp] theorem retire_tlb (s : State) (len : Nat) : (retire s len).tlb = s.tlb := by simp [retire]
@[simp] theorem retire_l1 (s : State) (len : Nat) : (retire s len).l1 = s.l1 := by simp [retire]
@[simp] theorem retire_icache (s : State) (len : Nat) : (retire s len).icache = s.icache := by simp [retire]
@[simp] theorem retire_flight (s : State) (len : Nat) : (retire s len).flight = s.flight := by simp [retire]
@[simp] theorem retire_copies (s : State) (len : Nat) : (retire s len).copies = s.copies := by simp [retire]
@[simp] theorem retire_triggers (s : State) (len : Nat) : (retire s len).triggers = s.triggers := by simp [retire]
@[simp] theorem retire_parked (s : State) (len : Nat) : (retire s len).parked = s.parked := by simp [retire]
@[simp] theorem retire_domains (s : State) (len : Nat) : (retire s len).domains = s.domains := by simp [retire]
@[simp] theorem retire_transits (s : State) (len : Nat) : (retire s len).transits = s.transits := by simp [retire]
@[simp] theorem retire_applied (s : State) (len : Nat) : (retire s len).applied = s.applied := by simp [retire]
@[simp] theorem retire_seqs (s : State) (len : Nat) : (retire s len).seqs = s.seqs := by simp [retire]
@[simp] theorem retire_heldCredits (s : State) (len : Nat) : (retire s len).heldCredits = s.heldCredits := by simp [retire]
@[simp] theorem retire_refusedCredits (s : State) (len : Nat) : (retire s len).refusedCredits = s.refusedCredits := by simp [retire]
@[simp] theorem retire_debitsDone (s : State) (len : Nat) : (retire s len).debitsDone = s.debitsDone := by simp [retire]
@[simp] theorem retire_slotsAway (s : State) (len : Nat) : (retire s len).slotsAway = s.slotsAway := by simp [retire]
@[simp] theorem retire_orders (s : State) (len : Nat) : (retire s len).orders = s.orders := by simp [retire]
@[simp] theorem retire_colls (s : State) (len : Nat) : (retire s len).colls = s.colls := by simp [retire]
@[simp] theorem retire_collWaits (s : State) (len : Nat) : (retire s len).collWaits = s.collWaits := by simp [retire]
@[simp] theorem retire_fabTags (s : State) (len : Nat) : (retire s len).fabTags = s.fabTags := by simp [retire]
@[simp] theorem retire_heldPkts (s : State) (len : Nat) : (retire s len).heldPkts = s.heldPkts := by simp [retire]
@[simp] theorem retire_fieldFrames (s : State) (len : Nat) : (retire s len).fieldFrames = s.fieldFrames := by simp [retire]
@[simp] theorem retire_moving (s : State) (len : Nat) : (retire s len).moving = s.moving := by simp [retire]
@[simp] theorem retire_atomCount (s : State) (len : Nat) : (retire s len).atomCount = s.atomCount := by simp [retire]
@[simp] theorem retire_movedAgo (s : State) (len : Nat) : (retire s len).movedAgo = s.movedAgo := by simp [retire]
@[simp] theorem retire_homeMoves (s : State) (len : Nat) : (retire s len).homeMoves = s.homeMoves := by simp [retire]
@[simp] theorem retire_atmEpoch (s : State) (len : Nat) : (retire s len).atmEpoch = s.atmEpoch := by simp [retire]
@[simp] theorem retire_atmThresh (s : State) (len : Nat) : (retire s len).atmThresh = s.atmThresh := by simp [retire]
@[simp] theorem retire_atmEn (s : State) (len : Nat) : (retire s len).atmEn = s.atmEn := by simp [retire]
@[simp] theorem retire_atmCnt (s : State) (len : Nat) : (retire s len).atmCnt = s.atmCnt := by simp [retire]
@[simp] theorem retire_homeBase (s : State) (len : Nat) : (retire s len).homeBase = s.homeBase := by simp [retire]
@[simp] theorem retire_io0 (s : State) (len : Nat) : (retire s len).io0 = s.io0 := by simp [retire]
@[simp] theorem retire_io1 (s : State) (len : Nat) : (retire s len).io1 = s.io1 := by simp [retire]
@[simp] theorem retire_parts (s : State) (len : Nat) : (retire s len).parts = s.parts := by simp [retire]
@[simp] theorem retire_evalPending (s : State) (len : Nat) : (retire s len).evalPending = s.evalPending := by simp [retire]
@[simp] theorem retire_replays (s : State) (len : Nat) : (retire s len).replays = s.replays := by simp [retire]
@[simp] theorem retire_health (s : State) (len : Nat) : (retire s len).health = s.health := by simp [retire]
@[simp] theorem retire_evHeld (s : State) (len : Nat) : (retire s len).evHeld = s.evHeld := by simp [retire]
@[simp] theorem retire_portsGone (s : State) (len : Nat) : (retire s len).portsGone = s.portsGone := by simp [retire]
@[simp] theorem retire_lostPkgs (s : State) (len : Nat) : (retire s len).lostPkgs = s.lostPkgs := by simp [retire]
@[simp] theorem retire_hostOut (s : State) (len : Nat) : (retire s len).hostOut = s.hostOut := by simp [retire]
@[simp] theorem retire_fabricOut (s : State) (len : Nat) : (retire s len).fabricOut = s.fabricOut := by simp [retire]
@[simp] theorem retire_badPa (s : State) (len : Nat) : (retire s len).badPa = s.badPa := by simp [retire]
@[simp] theorem retire_bus (s : State) (len : Nat) : (retire s len).bus = s.bus := by simp [retire]
@[simp] theorem retire_seq (s : State) (len : Nat) : (retire s len).seq = s.seq := by simp [retire]
@[simp] theorem retire_upper (s : State) (len : Nat) : (retire s len).upper = s.upper := by simp [retire]
@[simp] theorem retire_cur (s : State) (len : Nat) : (retire s len).cur = s.cur := by simp [retire]
@[simp] theorem retire_agenda (s : State) (len : Nat) : (retire s len).agenda = s.agenda := by simp [retire]

@[simp] theorem stall_powered (s : State) (w : Wait) : (stall s w).powered = s.powered := by simp [stall]
@[simp] theorem stall_keys (s : State) (w : Wait) : (stall s w).keys = s.keys := by simp [stall]
@[simp] theorem stall_measured (s : State) (w : Wait) : (stall s w).measured = s.measured := by simp [stall]
@[simp] theorem stall_package (s : State) (w : Wait) : (stall s w).package = s.package := by simp [stall]
@[simp] theorem stall_tierMiB (s : State) (w : Wait) : (stall s w).tierMiB = s.tierMiB := by simp [stall]
@[simp] theorem stall_mem (s : State) (w : Wait) : (stall s w).mem = s.mem := by simp [stall]
@[simp] theorem stall_bad (s : State) (w : Wait) : (stall s w).bad = s.bad := by simp [stall]
@[simp] theorem stall_mere (s : State) (w : Wait) : (stall s w).mere = s.mere := by simp [stall]
@[simp] theorem stall_skeins (s : State) (w : Wait) : (stall s w).skeins = s.skeins := by simp [stall]
@[simp] theorem stall_launches (s : State) (w : Wait) : (stall s w).launches = s.launches := by simp [stall]
@[simp] theorem stall_nextLaunch (s : State) (w : Wait) : (stall s w).nextLaunch = s.nextLaunch := by simp [stall]
@[simp] theorem stall_launchQueue (s : State) (w : Wait) : (stall s w).launchQueue = s.launchQueue := by simp [stall]
@[simp] theorem stall_sbars (s : State) (w : Wait) : (stall s w).sbars = s.sbars := by simp [stall]
@[simp] theorem stall_cores (s : State) (w : Wait) : (stall s w).cores = s.cores := by simp [stall]
@[simp] theorem stall_counters (s : State) (w : Wait) : (stall s w).counters = s.counters := by simp [stall]
@[simp] theorem stall_regions (s : State) (w : Wait) : (stall s w).regions = s.regions := by simp [stall]
@[simp] theorem stall_grants (s : State) (w : Wait) : (stall s w).grants = s.grants := by simp [stall]
@[simp] theorem stall_refused (s : State) (w : Wait) : (stall s w).refused = s.refused := by simp [stall]
@[simp] theorem stall_tlb (s : State) (w : Wait) : (stall s w).tlb = s.tlb := by simp [stall]
@[simp] theorem stall_l1 (s : State) (w : Wait) : (stall s w).l1 = s.l1 := by simp [stall]
@[simp] theorem stall_icache (s : State) (w : Wait) : (stall s w).icache = s.icache := by simp [stall]
@[simp] theorem stall_flight (s : State) (w : Wait) : (stall s w).flight = s.flight := by simp [stall]
@[simp] theorem stall_copies (s : State) (w : Wait) : (stall s w).copies = s.copies := by simp [stall]
@[simp] theorem stall_triggers (s : State) (w : Wait) : (stall s w).triggers = s.triggers := by simp [stall]
@[simp] theorem stall_parked (s : State) (w : Wait) : (stall s w).parked = s.parked := by simp [stall]
@[simp] theorem stall_domains (s : State) (w : Wait) : (stall s w).domains = s.domains := by simp [stall]
@[simp] theorem stall_transits (s : State) (w : Wait) : (stall s w).transits = s.transits := by simp [stall]
@[simp] theorem stall_applied (s : State) (w : Wait) : (stall s w).applied = s.applied := by simp [stall]
@[simp] theorem stall_seqs (s : State) (w : Wait) : (stall s w).seqs = s.seqs := by simp [stall]
@[simp] theorem stall_heldCredits (s : State) (w : Wait) : (stall s w).heldCredits = s.heldCredits := by simp [stall]
@[simp] theorem stall_refusedCredits (s : State) (w : Wait) : (stall s w).refusedCredits = s.refusedCredits := by simp [stall]
@[simp] theorem stall_debitsDone (s : State) (w : Wait) : (stall s w).debitsDone = s.debitsDone := by simp [stall]
@[simp] theorem stall_slotsAway (s : State) (w : Wait) : (stall s w).slotsAway = s.slotsAway := by simp [stall]
@[simp] theorem stall_orders (s : State) (w : Wait) : (stall s w).orders = s.orders := by simp [stall]
@[simp] theorem stall_colls (s : State) (w : Wait) : (stall s w).colls = s.colls := by simp [stall]
@[simp] theorem stall_collWaits (s : State) (w : Wait) : (stall s w).collWaits = s.collWaits := by simp [stall]
@[simp] theorem stall_fabTags (s : State) (w : Wait) : (stall s w).fabTags = s.fabTags := by simp [stall]
@[simp] theorem stall_heldPkts (s : State) (w : Wait) : (stall s w).heldPkts = s.heldPkts := by simp [stall]
@[simp] theorem stall_fieldFrames (s : State) (w : Wait) : (stall s w).fieldFrames = s.fieldFrames := by simp [stall]
@[simp] theorem stall_moving (s : State) (w : Wait) : (stall s w).moving = s.moving := by simp [stall]
@[simp] theorem stall_atomCount (s : State) (w : Wait) : (stall s w).atomCount = s.atomCount := by simp [stall]
@[simp] theorem stall_movedAgo (s : State) (w : Wait) : (stall s w).movedAgo = s.movedAgo := by simp [stall]
@[simp] theorem stall_homeMoves (s : State) (w : Wait) : (stall s w).homeMoves = s.homeMoves := by simp [stall]
@[simp] theorem stall_atmEpoch (s : State) (w : Wait) : (stall s w).atmEpoch = s.atmEpoch := by simp [stall]
@[simp] theorem stall_atmThresh (s : State) (w : Wait) : (stall s w).atmThresh = s.atmThresh := by simp [stall]
@[simp] theorem stall_atmEn (s : State) (w : Wait) : (stall s w).atmEn = s.atmEn := by simp [stall]
@[simp] theorem stall_atmCnt (s : State) (w : Wait) : (stall s w).atmCnt = s.atmCnt := by simp [stall]
@[simp] theorem stall_homeBase (s : State) (w : Wait) : (stall s w).homeBase = s.homeBase := by simp [stall]
@[simp] theorem stall_io0 (s : State) (w : Wait) : (stall s w).io0 = s.io0 := by simp [stall]
@[simp] theorem stall_io1 (s : State) (w : Wait) : (stall s w).io1 = s.io1 := by simp [stall]
@[simp] theorem stall_parts (s : State) (w : Wait) : (stall s w).parts = s.parts := by simp [stall]
@[simp] theorem stall_evalPending (s : State) (w : Wait) : (stall s w).evalPending = s.evalPending := by simp [stall]
@[simp] theorem stall_replays (s : State) (w : Wait) : (stall s w).replays = s.replays := by simp [stall]
@[simp] theorem stall_health (s : State) (w : Wait) : (stall s w).health = s.health := by simp [stall]
@[simp] theorem stall_evHeld (s : State) (w : Wait) : (stall s w).evHeld = s.evHeld := by simp [stall]
@[simp] theorem stall_portsGone (s : State) (w : Wait) : (stall s w).portsGone = s.portsGone := by simp [stall]
@[simp] theorem stall_lostPkgs (s : State) (w : Wait) : (stall s w).lostPkgs = s.lostPkgs := by simp [stall]
@[simp] theorem stall_hostOut (s : State) (w : Wait) : (stall s w).hostOut = s.hostOut := by simp [stall]
@[simp] theorem stall_fabricOut (s : State) (w : Wait) : (stall s w).fabricOut = s.fabricOut := by simp [stall]
@[simp] theorem stall_badPa (s : State) (w : Wait) : (stall s w).badPa = s.badPa := by simp [stall]
@[simp] theorem stall_bus (s : State) (w : Wait) : (stall s w).bus = s.bus := by simp [stall]
@[simp] theorem stall_seq (s : State) (w : Wait) : (stall s w).seq = s.seq := by simp [stall]
@[simp] theorem stall_upper (s : State) (w : Wait) : (stall s w).upper = s.upper := by simp [stall]
@[simp] theorem stall_cur (s : State) (w : Wait) : (stall s w).cur = s.cur := by simp [stall]
@[simp] theorem stall_agenda (s : State) (w : Wait) : (stall s w).agenda = s.agenda := by simp [stall]

@[simp] theorem getSkein_mapStrands (s : State) (sid ply : Nat) (ns : List Nat) (f : Nat → Strand → Strand) (k : Nat) :
    getSkein (mapStrands s sid ply ns f) k = getSkein s k := by simp [getSkein]
@[simp] theorem getPart_mapStrands (s : State) (sid ply : Nat) (ns : List Nat) (f : Nat → Strand → Strand) (k : Nat) :
    getPart (mapStrands s sid ply ns f) k = getPart s k := by simp [getPart]
@[simp] theorem getSkein_retire (s : State) (len k : Nat) : getSkein (retire s len) k = getSkein s k := by simp [getSkein]
@[simp] theorem getSkein_stall (s : State) (w : Wait) (k : Nat) : getSkein (stall s w) k = getSkein s k := by simp [getSkein]

end Sys2Proof.Machine
end

