-- ==== Sys2Proof/Laws/Operands.lean ====
section
/-! SUPPORT. What the shared entries of a word do once its checks pass. -/

namespace Sys2Proof.Machine

@[simp] theorem laneMask_false : laneMask (fun _ => false) = 0 := by decide

/-- A mask of no lane. -/
theorem laneMask_eq_zero {f : Nat → Bool} : laneMask f = 0 ↔ f 0 = false ∧ f 1 = false ∧ f 2 = false ∧ f 3 = false := by
  cases h0 : f 0 <;> cases h1 : f 1 <;> cases h2 : f 2 <;> cases h3 : f 3 <;> simp [laneMask, h0, h1, h2, h3]

/-- An active lane is not dead. -/
theorem active_alive (t : Strand) (g : Guard) : t.active g &&& ~~~ t.dead = t.active g := by
  apply BitVec.eq_of_getLsbD_eq
  intro i hi
  obtain h | h | h | h : i = 0 ∨ i = 1 ∨ i = 2 ∨ i = 3 := by omega
  all_goals
    subst h
    simp only [Strand.active, Strand.liveLanes, laneMask, BitVec.getLsbD_and, BitVec.getLsbD_not, BitVec.getLsbD_append,
      BitVec.getLsbD_ofBool]
    simp [Bool.and_comm, Bool.and_left_comm]

/-- No register of a list is awaited if each lies in an operand of which none is, in at least the same lanes. -/
theorem awaits_cover {t : Strand} {ops : List (List Nat)} {l : List Nat} {m r : BitVec 4} (hm : m &&& r = m)
    (h : ∀ vs ∈ ops, t.awaits vs r = false) (hl : ∀ v ∈ l, ∃ vs ∈ ops, v ∈ vs) : t.awaits l m = false := by
  simp only [Strand.awaits, List.any_eq_false, Bool.and_eq_true, List.any_eq_true, bne_iff_ne, not_and, not_exists] at h ⊢
  intro x hx hz v hv
  obtain ⟨vs, hvs, hin⟩ := hl v hv
  refine h vs hvs x hx (fun hr => hz ?_) v hin
  rw [← hm, BitVec.and_comm m r, ← BitVec.and_assoc, hr]; exact BitVec.zero_and

/-- No lane has lost a register of a list if each lies in an operand of which none is lost, in at least the same lanes. -/
theorem lostLanes_cover {t : Strand} {ops : List (List Nat)} {l : List Nat} {m r : BitVec 4} (hm : m &&& r = m)
    (h : ∀ vs ∈ ops, t.lostLanes vs r = 0) (hl : ∀ v ∈ l, ∃ vs ∈ ops, v ∈ vs) : t.lostLanes l m = 0 := by
  have key : ∀ j, (∀ vs ∈ ops, (r.getLsbD j && vs.any (fun v => t.lost.contains ((t.place v).1, (t.place v).2, j))) = false) →
      (m.getLsbD j && l.any (fun v => t.lost.contains ((t.place v).1, (t.place v).2, j))) = false := by
    intro j hj
    rw [Bool.and_eq_false_iff]
    by_cases hmj : m.getLsbD j = true
    · right
      rw [List.any_eq_false]
      intro v hv
      obtain ⟨vs, hvs, hin⟩ := hl v hv
      have hr : r.getLsbD j = true := by rw [← hm, BitVec.getLsbD_and] at hmj; exact (Bool.and_eq_true_iff.mp hmj).2
      have := hj vs hvs
      rw [hr, Bool.true_and, List.any_eq_false] at this
      exact this v hin
    · left; simpa using hmj
  have h' := fun vs hvs => laneMask_eq_zero.mp (h vs hvs)
  exact laneMask_eq_zero.mpr ⟨key 0 fun vs hvs => (h' vs hvs).1, key 1 fun vs hvs => (h' vs hvs).2.1,
    key 2 fun vs hvs => (h' vs hvs).2.2.1, key 3 fun vs hvs => (h' vs hvs).2.2.2⟩

/-- A strand that meets the checks of a lane-set word does not refuse it. -/
theorem refuse_none {f : LaneForm} {nreg : Nat} {t : Strand} (hw : f.instr.wf = true)
    (h : t.liveLanes ≠ 0 → t.mode.reaches f.mode = true ∧ ∀ vs ∈ f.blocks, t.allowed nreg vs = true ∧ (f.len = 8 → t.unsplit vs = true)) :
    f.refuse nreg t = none := by
  by_cases hl : t.liveLanes = 0
  · simp [LaneForm.refuse, hl]
  · have hb : f.blocks.all (t.allowed nreg) = true := List.all_eq_true.mpr (fun vs hv => ((h hl).2 vs hv).1)
    have hu : (f.len == 8 && !(f.blocks.all t.unsplit)) = false := by
      by_cases h8 : f.len = 8
      · have : f.blocks.all t.unsplit = true := List.all_eq_true.mpr (fun vs hv => ((h hl).2 vs hv).2 h8)
        simp [this]
      · simp [h8]
    simp [LaneForm.refuse, (h hl).1, hw, hb, hu]

/-- No register is allowed whatever the window. -/
@[simp] theorem allowed_nil (t : Strand) (n : Nat) : t.allowed n [] = true := by simp [Strand.allowed]

/-- Uniform register `w` of the form is not poisoned and not still to be written, or the form reads none. -/
def baseClean (s : State) (b : Option Nat) : Prop := ∀ w, b = some w → wAwaited s w = false ∧ Tbl.get false (curSkein s).wBad w = false

/-- What a form's register lists must be for `dst` and `src` to be its operands. -/
structure LaneForm.Covers (f : LaneForm) (dst src : List (List Nat)) : Prop where
  blocks : ∀ vs ∈ f.blocks, vs = [] ∨ vs ∈ dst ++ src
  dst : ∀ v ∈ f.dst, ∃ vs ∈ dst, v ∈ vs
  src : ∀ v ∈ f.src, ∃ vs ∈ src, v ∈ vs

/-- A lane-set word that meets its checks goes on to its own effect. -/
theorem laneEnter_ready {f : LaneForm} {s : State} (k : State → State) (hw : f.instr.wf = true)
    (ha : ∀ n ∈ grp s, let t := curStrand s n
      t.liveLanes ≠ 0 → t.mode.reaches f.mode = true ∧ ∀ vs ∈ f.blocks, t.allowed (curSkein s).nreg vs = true ∧ (f.len = 8 → t.unsplit vs = true))
    (hd : ∀ n ∈ grp s, (curStrand s n).awaits f.dst ((curStrand s n).active f.guard) = false)
    (hr : ∀ n ∈ grp s, ∀ e ∈ f.reads s n, (curStrand s n).awaits e.1 e.2 = false ∧ (curStrand s n).lostLanes e.1 e.2 = 0)
    (hb : baseClean s f.base) : laneEnter f s k = k s := by
  have h1 : (grp s).any (fun n => (f.refuse (curSkein s).nreg (curStrand s n)).isSome) = false := by
    rw [List.any_eq_false]; intro n hn; rw [refuse_none hw (ha n hn)]; simp
  have h2 : (grp s).any (fun n => (f.reads s n).any (fun e => (curStrand s n).awaits e.1 e.2) ||
      (curStrand s n).awaits f.dst ((curStrand s n).active f.guard)) = false := by
    rw [List.any_eq_false]
    intro n hn
    rw [hd n hn, Bool.or_false, Bool.not_eq_true, List.any_eq_false]
    intro e he; rw [(hr n hn e he).1]; simp
  have h4 : ∀ (t : Strand) (l : List (List Nat × BitVec 4)), (∀ e ∈ l, t.lostLanes e.1 e.2 = 0) →
      l.foldl (fun m e => m ||| t.lostLanes e.1 e.2) 0 = 0 := by
    intro t l
    induction l with
    | nil => intro _; rfl
    | cons e l ih =>
      intro h
      rw [List.foldl_cons, h e List.mem_cons_self, BitVec.or_self]
      exact ih (fun e he => h e (List.mem_cons_of_mem _ he))
  have h3 : (grp s).any (fun n => (f.reads s n).foldl (fun m e => m ||| (curStrand s n).lostLanes e.1 e.2) 0 != 0) = false := by
    rw [List.any_eq_false]; intro n hn; rw [h4 _ _ (fun e he => (hr n hn e he).2)]; simp
  unfold laneEnter
  simp only [h1, h2, h3, Bool.false_eq_true, if_false]
  cases hf : f.base with
  | none => rfl
  | some w => simp [(hb w hf).1, (hb w hf).2]

/-- Conditions on operands add up. -/
theorem laneFree_join {s : State} {g : Guard} {m : Mode} {d d' a a' : List (List Nat)} (h : laneFree s g m d a) (k : laneFree s g m d' a') :
    laneFree s g m (d ++ d') (a ++ a') := by
  intro n hn
  obtain ⟨h1, h2, h3⟩ := h n hn
  obtain ⟨k1, k2, k3⟩ := k n hn
  refine ⟨fun hl => ⟨(h1 hl).1, fun vs hv => ?_⟩, fun vs hv => ?_, fun vs hv => ?_⟩
  · rw [List.mem_append] at hv
    rcases hv with hv | hv <;> rw [List.mem_append] at hv <;> rcases hv with hv | hv
    · exact (h1 hl).2 vs (List.mem_append_left _ hv)
    · exact (k1 hl).2 vs (List.mem_append_left _ hv)
    · exact (h1 hl).2 vs (List.mem_append_right _ hv)
    · exact (k1 hl).2 vs (List.mem_append_right _ hv)
  · exact (List.mem_append.mp hv).elim (h2 vs) (k2 vs)
  · exact (List.mem_append.mp hv).elim (h3 vs) (k3 vs)

/-- What a word that reads no other lane reads. -/
theorem reads_near {f : LaneForm} (h : f.far = .none) (s : State) (n : Nat) :
    f.reads s n = [(f.src, (curStrand s n).active f.guard)] := by
  have : (activeLanes s f.guard).filterMap (f.far.source s) = [] := by
    rw [h, List.filterMap_eq_nil_iff]
    intro _ _; rfl
  simp [LaneForm.reads, this]

/-- A word that reads its own lanes only; an XW's blocks stay on one side of V15 and V16. -/
theorem laneEnter_free {f : LaneForm} {s : State} {dst src : List (List Nat)} (k : State → State) (hw : f.instr.wf = true)
    (hc : f.Covers dst src) (h : laneFree s f.guard f.mode dst src) (hx : f.far = .none)
    (hu : f.len = 8 → blocksUnsplit s (dst ++ src)) (hb : baseClean s f.base) : laneEnter f s k = k s := by
  refine laneEnter_ready k hw (fun n hn hl => ⟨((h n hn).1 hl).1, fun vs hv => ?_⟩) (fun n hn => ?_) (fun n hn e he => ?_) hb
  · rcases hc.blocks vs hv with rfl | hv
    · exact ⟨by simp, fun _ => by simp [Strand.unsplit]⟩
    · exact ⟨((h n hn).1 hl).2 vs hv, fun h8 => hu h8 n hn hl vs hv⟩
  · exact awaits_cover BitVec.and_self (h n hn).2.1 hc.dst
  · rw [reads_near hx, List.mem_singleton] at he
    subst he
    exact ⟨awaits_cover BitVec.and_self (fun vs hv => ((h n hn).2.2 vs hv).1) hc.src,
      lostLanes_cover BitVec.and_self (fun vs hv => ((h n hn).2.2 vs hv).2) hc.src⟩

/-- A uniform-set word that meets its checks goes on to its own effect. -/
theorem uniEnter_free {i : Instr} {need : Mode} {tiles accs reads writes : List Nat} {s : State} (k : State → State)
    (hw : i.wf = true) (h : uniFree s need reads writes) (ht : ∀ t ∈ tiles, t < (curSkein s).tiles) (ha : ∀ a ∈ accs, a < (curSkein s).accs) :
    uniEnter i need tiles accs reads writes s k = k s := by
  have h1 : (grp s).any (fun n => !((curStrand s n).mode.reaches need)) = false := by
    rw [List.any_eq_false]; intro n hn; simp [h.1 n hn]
  have h2 : (tiles.any (fun t => decide ((curSkein s).tiles ≤ t)) || accs.any (fun a => decide ((curSkein s).accs ≤ a))) = false := by
    rw [Bool.or_eq_false_iff, List.any_eq_false, List.any_eq_false]
    exact ⟨fun t x => by simpa using ht t x, fun a x => by simpa using ha a x⟩
  have h3 : reads.filter (fun w => w != 0 && Tbl.get false (curSkein s).wBad w) = [] := by
    rw [List.filter_eq_nil_iff]; intro w x; rcases h.2.1 w x with hz | hz <;> simp [hz]
  have h4 : writes.filter (fun w => !((curSkein s).mayWrite s.cur.ply w)) = [] := by
    rw [List.filter_eq_nil_iff]; intro w x; simp [h.2.2.1 w x]
  have h5 : (reads ++ writes).any (wAwaited s) = false := by
    rw [List.any_eq_false]; intro w x; simp [h.2.2.2 w x]
  unfold uniEnter
  simp only [h1, h2, h3, h4, h5, hw, Bool.false_eq_true, if_false, Bool.not_true, List.head?_nil]

@[simp] theorem rangeFrom_zero (n : Nat) : rangeFrom n 0 = [] := rfl
@[simp] theorem rangeFrom_one (n : Nat) : rangeFrom n 1 = [n] := rfl
@[simp] theorem plain_s3 (d : Nat) : Ext.plain.s3.getD d = d := rfl
@[simp] theorem offsets_plain : Ext.plain.offsets = [0] := rfl

@[simp] theorem blockRegs_plain (r n : Nat) : blockRegs Ext.plain r n = rangeFrom r n := by
  simp [blockRegs]

/-- Without an extension word a block is one element. -/
@[simp] theorem blockOut_plain (op : Alu) (d a b c : Nat) (v : Nat → Word) (p : Nat → Bool) :
    blockOut Ext.plain op d a b c v p = op false .rne d a b c v p := by
  simp [blockOut, wr, Ext.plain]
  simp [Ext.offsets]

/-- An arithmetic word that meets its checks: every active lane computes its block. -/
theorem alu_free {i : Instr} {g : Guard} {len : Nat} {x : Ext} {sh : Shape} {d a b : Nat} {op : Alu} {s : State}
    {dst src : List (List Nat)} (hw : i.wf = true) (h : laneFree s g .user dst src) (hu : len = 8 → blocksUnsplit s (dst ++ src))
    (hd : blockRegs x d sh.d = [] ∨ blockRegs x d sh.d ∈ dst) (ha : blockRegs x a sh.a = [] ∨ blockRegs x a sh.a ∈ src)
    (hb : blockRegs x b sh.b = [] ∨ blockRegs x b sh.b ∈ src)
    (hc : blockRegs x (x.s3.getD d) sh.c = [] ∨ blockRegs x (x.s3.getD d) sh.c ∈ src) :
    alu i g len x sh d a b op s =
      laneResult s g len (fun t j => blockOut x op d a b (x.s3.getD d) (fun r => t.v r j) (fun q => t.pred j q)) := by
  unfold alu
  have cov : ∀ {l : List Nat} {ops : List (List Nat)}, l = [] ∨ l ∈ ops → ∀ v ∈ l, ∃ vs ∈ ops, v ∈ vs := by
    intro l ops hl v hv
    rcases hl with rfl | hl
    · cases hv
    · exact ⟨l, hl, hv⟩
  rw [laneEnter_free (dst := dst) (src := src) _ hw ⟨?_, ?_, ?_⟩ h rfl hu (by intro w hw; cases hw)]
  · rfl
  · intro vs hvs
    simp only [aluForm, List.mem_cons, List.not_mem_nil, or_false] at hvs
    rcases hvs with rfl | rfl | rfl | rfl
    · exact hd.imp_right (List.mem_append_left _)
    · exact ha.imp_right (List.mem_append_right _)
    · exact hb.imp_right (List.mem_append_right _)
    · exact hc.imp_right (List.mem_append_right _)
  · exact cov hd
  · intro v hv
    simp only [aluForm, List.mem_append] at hv
    rcases hv with (hv | hv) | hv
    · exact cov ha v hv
    · exact cov hb v hv
    · exact cov hc v hv

/-- A uniform arithmetic word that meets its checks. -/
theorem uniAlu_free {i : Instr} {d : Nat} {reads : List Nat} {f : (Nat → DWord) → DWord} {s : State} (hw : i.wf = true)
    (h : uniFree s .user reads [d]) : uniAlu i d reads f s = uniResult s d (f (wReg s)) := by
  unfold uniAlu
  rw [uniEnter_free _ hw h (by simp) (by simp)]
  rfl

end Sys2Proof.Machine
end

