-- ==== Sys2Proof/Laws/Access.lean ====
section
/-! SUPPORT. The group's accesses once their checks pass: what reading, checking and loading a range go on with. -/

namespace Sys2Proof.Machine

/-- Keeping a translation touches the TLB only. -/
theorem fillTlb_eq (s : State) (core part ctx : Nat) (x : Xl) : ∃ l, fillTlb s core part ctx x = { s with tlb := l } := by
  simp only [fillTlb]
  split
  · exact ⟨s.tlb, rfl⟩
  · split <;> exact ⟨_, rfl⟩

/-- Keeping translations touches the TLB only. -/
theorem keptXl_eq (s : State) (xs : List Xl) : ∃ l, keptXl s xs = { s with tlb := l } := by
  have e : ∀ (xs : List Xl) (b : State), (∃ l, b = { s with tlb := l }) →
      ∃ l, xs.foldl (fun b x => fillTlb b (curSkein s).core (curSkein s).part (curSkein s).ctx x) b = { s with tlb := l } := by
    intro xs
    induction xs with
    | nil => intro b h; exact h
    | cons x t ih =>
      intro b h
      obtain ⟨l, rfl⟩ := h
      obtain ⟨m, hm⟩ := fillTlb_eq { s with tlb := l } (curSkein s).core (curSkein s).part (curSkein s).ctx x
      exact ih _ ⟨m, hm⟩
  exact e xs s ⟨s.tlb, rfl⟩

/-- A checked range goes on with its translations, which the core keeps. -/
theorem accessRange_passes {s : State} {a : Acc} {vas : List Nat} {size al : Nat} {xs : List Xl} (k : State → List Xl → State)
    (h : rangePasses s a vas size al xs) : accessRange s a vas size al k = k (keptXl s xs) xs := by
  let chk (va : Nat) : Chk := checkVa s (curSkein s).core (curSkein s).part (curSkein s).ctx (curMode s) a va size al
  let c (va : Nat) : LaneChk := { lane := 4 * (grp s).headD 0, va := va, chk := chk va }
  have hok : ∀ va ∈ vas, ∃ x, chk va = .ok x := by
    intro va hv
    have : chk va ∈ xs.map Chk.ok := h.1 ▸ List.mem_map_of_mem hv
    obtain ⟨x, _, e⟩ := List.mem_map.1 this
    exact ⟨x, e.symm⟩
  have hfind : (vas.map c).find? (fun c => (laneCause s a.writes size c).isSome || laneToken s a.writes size c == .ask) = none := by
    rw [List.find?_eq_none]
    intro e he
    obtain ⟨va, hv, rfl⟩ := List.mem_map.1 he
    obtain ⟨x, hx⟩ := hok va hv
    obtain ⟨b, d, hb, hd⟩ := h.2.1 va hv x hx
    have ht : laneToken s a.writes size (c va) = .allowed b := by simp only [laneToken, c, hx, hb, hd]
    have hc : laneCause s a.writes size (c va) = none := by
      simp only [laneCause, ht]; simp only [c, hx]
    simp [hc, ht]
  have hxs : ∀ g : LaneChk → Option Xl, (∀ l x, l.chk = .ok x → g l = some x) → (vas.map c).filterMap g = xs := by
    intro g hg
    have e : ∀ (vs : List Nat) (ys : List Xl), vs.map chk = ys.map Chk.ok → (vs.map c).filterMap g = ys := by
      intro vs
      induction vs with
      | nil => intro ys h; cases ys with
        | nil => rfl
        | cons y t => cases h
      | cons v t ih =>
        intro ys h
        cases ys with
        | nil => cases h
        | cons y u =>
          simp only [List.map_cons, List.cons.injEq] at h
          have h1 : g (c v) = some y := hg (c v) y h.1
          simp only [List.map_cons, List.filterMap_cons, h1, ih u h.2]
    exact e vas xs h.1
  unfold accessRange
  simp only []
  change (match (vas.map c).find? _ with | some _ => _ | none => _) = _
  rw [hfind]
  change (if ((vas.map c).filterMap _).any _ = true then _ else k (((vas.map c).filterMap _).foldl _ s) ((vas.map c).filterMap _)) = _
  rw [hxs _ (fun l x e => by simp only [e]), if_neg (by rw [List.any_eq_true]; rintro ⟨x, hx, hc⟩; rw [h.2.2 x hx] at hc; cases hc)]
  rfl

/-- Checked reads go on with what they give. -/
theorem readGroup_passes {s : State} {vas : List Nat} {n : Nat} {xs : List Xl} (k : State → List (List PByte) → State)
    (h : readsPass s vas n xs) : readGroup vas n s k = k (readsGive s vas n xs).2 (readsGive s vas n xs).1 := by
  unfold readGroup
  rw [accessRange_passes _ h.1]
  have : xs.any (fun x => mustWait (keptXl s xs) x n) = false := by
    rw [List.any_eq_false]; intro x hx; simp [h.2 x hx]
  simp only [this]
  rfl

/-- A checked store goes on with nothing stored. -/
theorem checkStore_passes {s : State} {vas : List Nat} {xs : List Xl} (k : State → State) (h : rangePasses s .store vas 8 8 xs) :
    checkStore vas s k = k (keptXl s xs) := accessRange_passes _ h

/-- A word whose base register is clean where a lane uses it. -/
theorem laneEnter_based {f : LaneForm} {s : State} {dst src : List (List Nat)} {w : Nat} (k : State → State) (hw : f.instr.wf = true)
    (hc : f.Covers dst src) (h : laneFree s f.guard f.mode dst src) (hx : f.far = .none) (h4 : f.len = 4) (hf : f.base = some w) (hb : baseFree s f.guard w) :
    laneEnter f s k = k s := by
  have e : laneEnter f s k = laneEnter { f with base := none } s k := by
    unfold laneEnter
    simp only [hf]
    by_cases ha : acting s f.guard = []
    · have : (grp s).any (fun n => (curStrand s n).active f.guard != 0) = false := by
        rw [List.any_eq_false]
        intro n hn hz
        have : n ∈ acting s f.guard := List.mem_filter.2 ⟨hn, hz⟩
        rw [ha] at this; cases this
      simp only [this, Bool.and_false, Bool.false_eq_true, if_false]
      rfl
    · simp only [(hb ha).1, (hb ha).2, Bool.false_and, Bool.false_eq_true, if_false]
      rfl
  rw [e]
  exact laneEnter_free (f := { f with base := none }) k hw ⟨hc.blocks, hc.dst, hc.src⟩ h hx (fun h8 => by rw [show f.len = 4 from h4] at h8; cases h8) (fun w h => by cases h)

/-- A group's accesses that pass their checks go on with the translations. -/
theorem accessLanes_passes {s : State} {g : Guard} {a : Acc} {size al : Nat} {va : Nat → Nat → Nat} {ok : List (LaneChk × Xl × Bool)}
    {extra : LaneChk → Option Cause} (k : State → List (LaneChk × Xl × Bool) → State) (h : lanesPass s g a size al va ok)
    (hx : ∀ c ∈ ok, extra c.1 = none) :
    accessLanes s a size (laneChecks s g a size al va) extra k = k (keptXl s (ok.map (fun c => c.2.1))) ok := by
  have h1 : (laneChecks s g a size al va).any (fun c => (extra c).isNone && laneToken s a.writes size c == .ask) = false := by
    rw [h.1, List.any_eq_false]
    intro c hc
    obtain ⟨e, he, rfl⟩ := List.mem_map.1 hc
    simp [(h.2.1 e he).2]
  have h2 : ∀ f : LaneChk → LaneChk × Option Cause, (∀ c, extra c = none → laneCause s a.writes size c = none → (f c).2 = none) →
      ((laneChecks s g a size al va).map f).any (fun c => c.2.isSome) = false := by
    intro f hf
    rw [h.1, List.any_eq_false]
    intro c hc
    simp only [List.map_map, List.mem_map, Function.comp_def] at hc
    obtain ⟨e, he, rfl⟩ := hc
    have : laneCause s a.writes size e.1 = none := by simp only [laneCause, (h.2.1 e he).1, (h.2.1 e he).2]
    simp [hf e.1 (hx e he) this]
  have h3 : ∀ f : LaneChk → Option (LaneChk × Xl × Bool), (∀ c x b, c.chk = .ok x → laneToken s a.writes size c = .allowed b → f c = some (c, x, b)) →
      (laneChecks s g a size al va).filterMap f = ok := by
    intro f hf
    rw [h.1]
    have e : ∀ l : List (LaneChk × Xl × Bool), (∀ c ∈ l, c ∈ ok) → (l.map (fun c => c.1)).filterMap f = l := by
      intro l
      induction l with
      | nil => intro _; rfl
      | cons c t ih =>
        intro hl
        have hc := h.2.1 c (hl c List.mem_cons_self)
        simp only [List.map_cons, List.filterMap_cons, hf c.1 c.2.1 c.2.2 hc.1 hc.2, ih (fun d hd => hl d (List.mem_cons_of_mem _ hd))]
    exact e ok (fun _ h => h)
  unfold accessLanes
  simp only [h1, Bool.false_eq_true, if_false]
  rw [if_neg (by rw [h2 _ (fun c e1 e2 => by simp only [e1, e2])]; exact Bool.false_ne_true), h3 _ (fun c x b e1 e2 => by simp only [e1, e2])]
  have h4 : ok.any (fun c => cpHolds s a.writes (c.2.1.kind == .unordered)) = false := by
    rw [List.any_eq_false]; intro c hc; simp [h.2.2 c.2.1 (List.mem_map_of_mem (f := fun c => c.2.1) hc)]
  simp only [h4, Bool.false_eq_true, if_false, keptXl, List.foldl_map]

/-- An offset is bits 59 to 0 of the sum. -/
theorem lsOffset_eq (x : DWord) : lsOffset x = x.toNat % 2 ^ 60 := by simp [lsOffset, fieldOf]

/-- A lane's local-store check passes exactly when it is aligned and in bounds (06 R111). -/
theorem lsCheck_none {k : Skein} {size : Nat} {x : DWord} (h1 : x.toNat % 2 ^ 60 % size = 0) (h2 : x.toNat % 2 ^ 60 + size ≤ k.lsSize) :
    lsCheck k size x = none := by
  unfold lsCheck
  rw [lsOffset_eq, if_neg (by rw [h1]; exact Bool.false_ne_true), if_neg (by omega)]

/-- A local-store word that passes its checks goes on with its lanes and their offsets. -/
theorem localEnter_passes {f : LaneForm} {s : State} {wb : BitVec 4} {a : BitVec 6} {size : Nat} {loads : Bool} {dst src : List (List Nat)}
    (k : State → List (Nat × Nat) → State) (hw : f.instr.wf = true) (hc : f.Covers dst src) (h : laneFree s f.guard f.mode dst src)
    (hx : f.far = .none) (h4 : f.len = 4) (hf : f.base = some wb.toNat) (hb : baseFree s f.guard wb.toNat) (hp : localPasses s f.guard wb a size)
    (hn : ∀ n ∈ acting s f.guard, (if loads then (curStrand s n).replies.length else (curStrand s n).stores.length) < 63) :
    localEnter f wb a size loads s k = k s (localLanes s f.guard wb a) := by
  have h1 : (acting s f.guard).any (fun n =>
      decide (63 ≤ (if loads then (curStrand s n).replies.length else (curStrand s n).stores.length))) = false := by
    rw [List.any_eq_false]; intro n hm; have := hn n hm; simp only [decide_eq_true_eq]; omega
  have h2 : (lsLanes s f.guard wb a).any (fun l => (lsCheck (curSkein s) size l.2).isSome) = false := by
    rw [List.any_eq_false]
    intro l hl
    simp only [lsLanes, List.mem_flatMap, List.mem_map, lanesOf, List.mem_filter] at hl
    obtain ⟨n, hm, j, hj, rfl⟩ := hl
    have h4 : j < 4 := by
      have := hj.1
      simp only [List.mem_cons, List.not_mem_nil, or_false] at this
      omega
    have := hp.2 n hm j h4 hj.2
    rw [lsCheck_none this.1 this.2]; simp
  have h3 : (lsLanes s f.guard wb a).map (fun l => (l.1, lsOffset l.2)) = localLanes s f.guard wb a := by
    unfold lsLanes localLanes
    rw [List.map_flatMap]
    congr 1; funext n
    rw [List.map_map]
    simp only [Function.comp_def, lsOffset_eq]
  unfold localEnter
  rw [laneEnter_based _ hw hc h hx h4 hf hb]
  simp only [banksShut, hp.1, Option.isSome_none, Bool.false_eq_true, if_false, h1, h2, h3]

end Sys2Proof.Machine
end

