-- ==== Sys2Proof/Laws/Table.lean ====
section
/-! SUPPORT. The sparse table: read after write, and that each operation keeps the canonical form. -/

namespace Sys2Proof

variable {α : Type}

theorem Tbl.get_nil (d : α) (i : Nat) : Tbl.get d [] i = d := rfl

theorem Tbl.get_put_self (d x : α) (t : Tbl α) (i : Nat) : Tbl.get d (Tbl.put x t i) i = x := by
  induction t with
  | nil => simp [Tbl.put, Tbl.get]
  | cons e t ih =>
    obtain ⟨k, v⟩ := e
    by_cases h : i = k
    · simp [Tbl.put, Tbl.get, h]
    · by_cases h2 : i < k <;> simp [Tbl.put, Tbl.get, h, h2, ih]

theorem Tbl.get_put_ne (d x : α) (t : Tbl α) {i j : Nat} (hne : j ≠ i) :
    Tbl.get d (Tbl.put x t i) j = Tbl.get d t j := by
  induction t with
  | nil =>
    simp only [Tbl.put, Tbl.get, if_neg hne, ite_self]
  | cons e t ih =>
    obtain ⟨k, v⟩ := e
    by_cases h : i = k
    · subst h; simp [Tbl.put, Tbl.get, hne]
    · by_cases h2 : i < k
      · by_cases h3 : j < i
        · have h4 : j ≠ k := by omega
          have h5 : j < k := by omega
          simp [Tbl.put, Tbl.get, h, h2, hne, h3, h4, h5]
        · simp [Tbl.put, Tbl.get, h, h2, hne, h3]
      · by_cases h3 : j = k
        · simp [Tbl.put, Tbl.get, h, h2, h3]
        · by_cases h4 : j < k
          · simp [Tbl.put, Tbl.get, h, h2, h3, h4]
          · simp [Tbl.put, Tbl.get, h, h2, h3, h4, ih]

variable [DecidableEq α]

theorem Tbl.wfFrom_mono {d : α} {t : Tbl α} {m n : Nat} (h : Tbl.wfFrom d n t = true) (hm : m ≤ n) : Tbl.wfFrom d m t = true := by
  cases t with
  | nil => rfl
  | cons e t =>
    simp only [Tbl.wfFrom, Bool.and_eq_true, decide_eq_true_eq] at h ⊢
    exact ⟨⟨by omega, h.1.2⟩, h.2⟩

theorem Tbl.get_below {d : α} {t : Tbl α} {n i : Nat} (h : Tbl.wfFrom d n t = true) (hi : i < n) : Tbl.get d t i = d := by
  cases t with
  | nil => rfl
  | cons e t =>
    obtain ⟨k, v⟩ := e
    simp only [Tbl.wfFrom, Bool.and_eq_true, decide_eq_true_eq] at h
    have h1 : i ≠ k := by omega
    have h2 : i < k := by omega
    simp [Tbl.get, h1, h2]

theorem Tbl.wfFrom_put {d x : α} (hx : x ≠ d) (t : Tbl α) {n i : Nat} (h : Tbl.wfFrom d n t = true) (hi : n ≤ i) :
    Tbl.wfFrom d n (Tbl.put x t i) = true := by
  induction t generalizing n with
  | nil => simp [Tbl.put, Tbl.wfFrom, hx, hi]
  | cons e t ih =>
    obtain ⟨k, v⟩ := e
    simp only [Tbl.wfFrom, Bool.and_eq_true, decide_eq_true_eq] at h
    by_cases h1 : i = k
    · subst h1
      simp [Tbl.put, Tbl.wfFrom, hx, hi, h.2]
    · by_cases h2 : i < k
      · have h3 : i + 1 ≤ k := by omega
        simp [Tbl.put, Tbl.wfFrom, h1, h2, hx, hi, h3, h.1.2, h.2]
      · have h3 : k + 1 ≤ i := by omega
        simp [Tbl.put, Tbl.wfFrom, h1, h2, h.1.1, h.1.2, ih h.2 h3]

theorem Tbl.wfFrom_erase {d : α} (t : Tbl α) {n : Nat} (i : Nat) (h : Tbl.wfFrom d n t = true) :
    Tbl.wfFrom d n (Tbl.erase t i) = true := by
  induction t generalizing n with
  | nil => rfl
  | cons e t ih =>
    obtain ⟨k, v⟩ := e
    have h' := h
    simp only [Tbl.wfFrom, Bool.and_eq_true, decide_eq_true_eq] at h
    by_cases h1 : i = k
    · simp only [Tbl.erase, if_pos h1]
      exact Tbl.wfFrom_mono h.2 (by omega)
    · by_cases h2 : i < k
      · simp only [Tbl.erase, if_neg h1, if_pos h2]; exact h'
      · simp [Tbl.erase, h1, h2, Tbl.wfFrom, h.1.1, h.1.2, ih h.2]

/-- Every write keeps the canonical form. -/
theorem Tbl.wf_set {d : α} {t : Tbl α} (h : Tbl.wf d t = true) (i : Nat) (x : α) : Tbl.wf d (Tbl.set d t i x) = true := by
  unfold Tbl.set
  split
  · exact Tbl.wfFrom_erase t i h
  · exact Tbl.wfFrom_put ‹_› t h (Nat.zero_le _)

theorem Tbl.wf_erase {d : α} {t : Tbl α} (h : Tbl.wf d t = true) (i : Nat) : Tbl.wf d (Tbl.erase t i) = true :=
  Tbl.wfFrom_erase t i h

theorem Tbl.wfFrom_filter {d : α} (f : Nat × α → Bool) (t : Tbl α) {n : Nat} (h : Tbl.wfFrom d n t = true) :
    Tbl.wfFrom d n (t.filter f) = true := by
  induction t generalizing n with
  | nil => rfl
  | cons e t ih =>
    obtain ⟨k, v⟩ := e
    simp only [Tbl.wfFrom, Bool.and_eq_true, decide_eq_true_eq] at h
    by_cases hf : f (k, v) = true
    · simp [List.filter, hf, Tbl.wfFrom, h.1.1, h.1.2, ih h.2]
    · simp only [List.filter, hf]
      exact Tbl.wfFrom_mono (ih h.2) (by omega)

/-- Dropping entries keeps the canonical form. -/
theorem Tbl.wf_filter {d : α} {t : Tbl α} (h : Tbl.wf d t = true) (f : Nat × α → Bool) : Tbl.wf d (t.filter f) = true :=
  Tbl.wfFrom_filter f t h

theorem Tbl.wf_clear {d : α} {t : Tbl α} (h : Tbl.wf d t = true) (lo hi : Nat) : Tbl.wf d (Tbl.clear t lo hi) = true :=
  Tbl.wf_filter h _

/-- Writes in a row keep the canonical form. -/
theorem Tbl.wf_foldl {β : Type} {d : α} (key : β → Nat) (val : β → α) (l : List β) {t : Tbl α} (h : Tbl.wf d t = true) :
    Tbl.wf d (l.foldl (fun m e => Tbl.set d m (key e) (val e)) t) = true := by
  induction l generalizing t with
  | nil => exact h
  | cons e l ih => exact ih (Tbl.wf_set h _ _)

theorem Tbl.get_erase_self {d : α} {t : Tbl α} {n : Nat} (h : Tbl.wfFrom d n t = true) (i : Nat) : Tbl.get d (Tbl.erase t i) i = d := by
  induction t generalizing n with
  | nil => rfl
  | cons e t ih =>
    obtain ⟨k, v⟩ := e
    simp only [Tbl.wfFrom, Bool.and_eq_true, decide_eq_true_eq] at h
    by_cases h1 : i = k
    · simp only [Tbl.erase, if_pos h1]; exact Tbl.get_below h.2 (by omega)
    · by_cases h2 : i < k
      · simp [Tbl.erase, Tbl.get, h1, h2]
      · simp [Tbl.erase, Tbl.get, h1, h2, ih h.2]

theorem Tbl.get_erase_ne {d : α} {t : Tbl α} {n i j : Nat} (h : Tbl.wfFrom d n t = true) (hne : j ≠ i) :
    Tbl.get d (Tbl.erase t i) j = Tbl.get d t j := by
  induction t generalizing n with
  | nil => rfl
  | cons e t ih =>
    obtain ⟨k, v⟩ := e
    simp only [Tbl.wfFrom, Bool.and_eq_true, decide_eq_true_eq] at h
    by_cases h1 : i = k
    · subst h1
      simp only [Tbl.erase, if_true, Tbl.get, if_neg hne]
      by_cases h2 : j < i
      · simp only [if_pos h2]; exact Tbl.get_below h.2 (by omega)
      · simp [h2]
    · by_cases h2 : i < k
      · simp [Tbl.erase, h1, h2]
      · simp only [Tbl.erase, if_neg h1, if_neg h2, Tbl.get, ih h.2]

/-- A read of the key just written gives what was written. -/
theorem Tbl.get_set_self {d : α} {t : Tbl α} (h : Tbl.wf d t = true) (i : Nat) (x : α) : Tbl.get d (Tbl.set d t i x) i = x := by
  unfold Tbl.set
  split
  · rename_i hx; rw [hx]; exact Tbl.get_erase_self h i
  · exact Tbl.get_put_self d x t i

/-- A write leaves every other key alone. -/
theorem Tbl.get_set_ne {d : α} {t : Tbl α} (h : Tbl.wf d t = true) {i j : Nat} (hne : j ≠ i) (x : α) :
    Tbl.get d (Tbl.set d t i x) j = Tbl.get d t j := by
  unfold Tbl.set
  split
  · exact Tbl.get_erase_ne h hne
  · exact Tbl.get_put_ne d x t hne

/-- Writes to other keys leave a key alone. -/
theorem Tbl.get_foldl_ne {β : Type} {d : α} (key : β → Nat) (val : β → α) (l : List β) {t : Tbl α} (h : Tbl.wf d t = true)
    {j : Nat} (hj : ∀ e ∈ l, j ≠ key e) :
    Tbl.get d (l.foldl (fun m e => Tbl.set d m (key e) (val e)) t) j = Tbl.get d t j := by
  induction l generalizing t with
  | nil => rfl
  | cons e l ih =>
    simp only [List.foldl_cons]
    rw [ih (Tbl.wf_set h _ _) (fun x hx => hj x (List.mem_cons_of_mem _ hx)), Tbl.get_set_ne h (hj e (List.mem_cons_self ..))]

end Sys2Proof
end

