-- ==== Sys2Proof/Laws/Memory.lean ====
section
/-! SUPPORT. Memory: reads after writes, and that every operation keeps the canonical form. -/

namespace Sys2Proof.Machine

theorem memOk_iff (s : State) : memOk s = true ↔ Memory.wf s.mem = true ∧ Tbl.wf false s.bad = true ∧ Tbl.wf false s.mere = true := by
  simp [memOk, and_assoc]

/-- Equal memory, poison and held lines: the canonical form holds of both or of neither. -/
theorem memOk_congr {s t : State} (h1 : t.mem = s.mem) (h2 : t.bad = s.bad) (h3 : t.mere = s.mere) : memOk t = memOk s := by
  simp [memOk, h1, h2, h3]

theorem memOk_reset : memOk State.reset = true := by decide

theorem wf_putBytes {s : State} (h : Memory.wf s.mem = true) (pa : Nat) (bs : List Byte) : Memory.wf (putBytes s pa bs).mem = true := by
  unfold putBytes Memory.wf
  exact Tbl.wf_foldl (fun e : Byte × Nat => pa + e.2) (fun e => e.1) bs.zipIdx h

theorem memOk_putBytes {s : State} (h : memOk s = true) (pa : Nat) (bs : List Byte) : memOk (putBytes s pa bs) = true := by
  rw [memOk_iff] at h ⊢
  exact ⟨wf_putBytes h.1 pa bs, h.2.1, h.2.2⟩

theorem memOk_writeMem {s : State} (h : memOk s = true) (pa : Nat) (data : List PByte) : memOk (writeMem s pa data) = true := by
  unfold writeMem
  split
  · exact h
  · split
    · exact (memOk_congr rfl rfl rfl).trans h
    · rw [memOk_iff] at h ⊢
      refine ⟨wf_putBytes h.1 _ _, ?_, h.2.2⟩
      exact Tbl.wf_foldl (fun w : Nat => w) (fun w => poisonAfter s pa data w) _ h.2.1

/-- A fold of steps that keep the form keeps it. -/
theorem memOk_foldl {β : Type} {f : State → β → State} (hf : ∀ s b, memOk s = true → memOk (f s b) = true) (l : List β) {s : State}
    (h : memOk s = true) : memOk (l.foldl f s) = true := by
  induction l generalizing s with
  | nil => exact h
  | cons b t ih => exact ih (hf s b h)

theorem memOk_setPart {s : State} (h : memOk s = true) (p : Nat) (x : Partition) : memOk (setPart s p x) = true :=
  (memOk_congr rfl rfl rfl).trans h

theorem memOk_writeEvent {s : State} (h : memOk s = true) (p : Nat) (e : Event) : memOk (writeEvent s p e) = true :=
  (memOk_congr rfl rfl rfl).trans h

theorem memOk_postTo {s : State} (h : memOk s = true) (p : Nat) (e : Event) : memOk (postTo s p e) = true := by
  unfold postTo
  simp only []
  split
  · exact memOk_writeEvent h p e
  · split <;> exact (memOk_congr rfl rfl rfl).trans h

theorem memOk_postEvent {s : State} (h : memOk s = true) (e : Event) : memOk (postEvent s e) = true := by
  unfold postEvent
  split
  · exact memOk_foldl (fun a p ha => memOk_postTo ha p e) _ h
  · exact memOk_postTo h e.part e

theorem memOk_homePut {s : State} (h : memOk s = true) (pa : Nat) (data : List PByte) : memOk (homePut s pa data) = true := by
  unfold homePut
  split
  · exact memOk_postEvent h _
  · exact memOk_writeMem h pa data

theorem memOk_writeDwords {s : State} (h : memOk s = true) (pa : Nat) (ws : List DWord) : memOk (writeDwords s pa ws) = true :=
  memOk_homePut h _ _

theorem memOk_dropLine {s : State} (h : memOk s = true) (line : Nat) : memOk (dropLine s line) = true := by
  unfold dropLine
  simp only []
  split
  · rw [memOk_iff] at h ⊢
    refine ⟨h.1, ?_, Tbl.wf_set h.2.2 line false⟩
    exact Tbl.wf_foldl (fun e : Nat × Bool => e.1) (fun e => e.2) _ h.2.1
  · exact h

theorem memOk_fetchLine {s : State} (h : memOk s = true) (pa : Nat) : memOk (fetchLine s pa) = true := by
  have hold : ∀ {a : State}, memOk a = true → memOk { a with mere := Tbl.set false a.mere (pa / 64) true } = true := by
    intro a h
    rw [memOk_iff] at h ⊢
    exact ⟨h.1, h.2.1, Tbl.wf_set h.2.2 (pa / 64) true⟩
  unfold fetchLine
  simp only []
  split
  · exact h
  · split
    · exact hold h
    · exact hold (memOk_dropLine h _)

/-- A byte outside the bytes written reads as before. -/
theorem readByte_putBytes_out {s : State} (h : Memory.wf s.mem = true) (pa : Nat) (bs : List Byte) {a : Nat}
    (ha : a < pa ∨ pa + bs.length ≤ a) : readByte (putBytes s pa bs) a = readByte s a := by
  unfold readByte putBytes
  refine Tbl.get_foldl_ne (fun e : Byte × Nat => pa + e.2) (fun e => e.1) bs.zipIdx h ?_
  intro e he
  have := (List.mem_zipIdx he).2.1
  omega

/-- A byte outside the bytes of a write at the home reads as before. -/
theorem readByte_writeMem_out {s : State} (h : Memory.wf s.mem = true) (pa : Nat) (data : List PByte) {a : Nat}
    (ha : a < pa ∨ pa + data.length ≤ a) : readByte (writeMem s pa data) a = readByte s a := by
  unfold writeMem
  split
  · rfl
  · split
    · rfl
    · exact readByte_putBytes_out h pa _ (by simpa using ha)

/-- A byte written reads as written. -/
theorem readByte_putBytes_in {s : State} (h : Memory.wf s.mem = true) (pa : Nat) (bs : List Byte) {i : Nat} (hi : i < bs.length) :
    readByte (putBytes s pa bs) (pa + i) = bs[i] := by
  unfold readByte putBytes
  have key : ∀ (l : List Byte) (n : Nat) (m : Tbl Byte), Tbl.wf 0 m = true → ∀ j (hj : j < l.length),
      Tbl.get 0 ((l.zipIdx n).foldl (fun m e => Tbl.set 0 m (pa + e.2) e.1) m) (pa + (n + j)) = l[j] := by
    intro l
    induction l with
    | nil => intro n m _ j hj; simp at hj
    | cons b l ih =>
      intro n m hm j hj
      rw [List.zipIdx_cons, List.foldl_cons]
      cases j with
      | zero =>
        rw [Tbl.get_foldl_ne (fun e : Byte × Nat => pa + e.2) (fun e => e.1) _ (Tbl.wf_set hm _ _)]
        · simpa using Tbl.get_set_self hm _ _
        · intro e he
          have := (List.mem_zipIdx he).1
          omega
      | succ j =>
        have := ih (n + 1) _ (Tbl.wf_set hm (pa + n) b) j (by simpa using hj)
        rw [show n + (j + 1) = n + 1 + j by omega]
        simpa using this
  have := key bs 0 s.mem h i hi
  simpa using this

end Sys2Proof.Machine
end

