-- ==== Sys2Proof/Laws/Strands.lean ====
section
/-! SUPPORT. What the operations over strands and skeins can do: a read after a write, and for each shared operation the
parts of the state that it changes and the value that it leaves there. -/

namespace Sys2Proof.Machine

theorem strandKey_inj {sid ply m n : Nat} (h : strandKey sid ply m = strandKey sid ply n) : m = n := by
  unfold strandKey at h; omega

theorem getStrand_setStrand_self {s : State} (h : Tbl.wf Strand.reset s.strands = true) (key : Nat) (t : Strand) :
    getStrand (setStrand s key t) key = t := Tbl.get_set_self h key t

theorem getStrand_setStrand_ne {s : State} (h : Tbl.wf Strand.reset s.strands = true) {key other : Nat} (hne : other ≠ key) (t : Strand) :
    getStrand (setStrand s key t) other = getStrand s other := Tbl.get_set_ne h hne t

theorem wf_setStrand {s : State} (h : Tbl.wf Strand.reset s.strands = true) (key : Nat) (t : Strand) :
    Tbl.wf Strand.reset (setStrand s key t).strands = true := Tbl.wf_set h key t

theorem getSkein_setSkein_self {s : State} (h : Tbl.wf Skein.reset s.skeins = true) (sid : Nat) (k : Skein) :
    getSkein (setSkein s sid k) sid = k := Tbl.get_set_self h sid k

theorem getSkein_setSkein_ne {s : State} (h : Tbl.wf Skein.reset s.skeins = true) {sid other : Nat} (hne : other ≠ sid) (k : Skein) :
    getSkein (setSkein s sid k) other = getSkein s other := Tbl.get_set_ne h hne k

/-- `mapStrands` keeps the table of strands in canonical form. -/
theorem wf_mapStrands {s : State} (h : Tbl.wf Strand.reset s.strands = true) (sid ply : Nat) (ns : List Nat) (f : Nat → Strand → Strand) :
    Tbl.wf Strand.reset (mapStrands s sid ply ns f).strands = true := by
  induction ns generalizing s with
  | nil => exact h
  | cons n t ih => exact ih (wf_setStrand h _ _)

/-- `mapStrands` leaves every strand that it does not name. -/
theorem getStrand_mapStrands_ne {s : State} (h : Tbl.wf Strand.reset s.strands = true) {sid ply key : Nat} {ns : List Nat}
    (f : Nat → Strand → Strand) (hk : key ∉ ns.map (strandKey sid ply)) :
    getStrand (mapStrands s sid ply ns f) key = getStrand s key := by
  induction ns generalizing s with
  | nil => rfl
  | cons n t ih =>
    simp only [List.map_cons, List.mem_cons, not_or] at hk
    exact (ih (wf_setStrand h _ _) hk.2).trans (getStrand_setStrand_ne h hk.1 _)

/-- `mapStrands` applies its function once to each strand that it names. -/
theorem getStrand_mapStrands {s : State} (h : Tbl.wf Strand.reset s.strands = true) {sid ply n : Nat} {ns : List Nat}
    (f : Nat → Strand → Strand) (hd : ns.Nodup) (hn : n ∈ ns) :
    getStrand (mapStrands s sid ply ns f) (strandKey sid ply n) = f n (getStrand s (strandKey sid ply n)) := by
  induction ns generalizing s with
  | nil => cases hn
  | cons m t ih =>
    have hd' := List.nodup_cons.mp hd
    by_cases hm : n = m
    · subst hm
      refine (getStrand_mapStrands_ne (wf_setStrand h _ _) f ?_).trans (getStrand_setStrand_self h _ _)
      intro hc
      obtain ⟨k, hk, he⟩ := List.mem_map.mp hc
      exact hd'.1 (strandKey_inj he ▸ hk)
    · have hn' : n ∈ t := by cases hn with
        | head => exact absurd rfl hm
        | tail _ hx => exact hx
      exact (ih (wf_setStrand h _ _) hd'.2 hn').trans
        (congrArg (f n) (getStrand_setStrand_ne h (fun hc => hm (strandKey_inj hc)) _))

/-- The group goes on behind its word: only its strands and the time change. -/
theorem retire_eq (s : State) (len : Nat) :
    retire s len = { s with strands := (retire s len).strands, cycle := (retire s len).cycle, ticks := (retire s len).ticks } := by
  unfold retire tick
  rw [mapStrands_eq]

theorem getStrand_retire_ne {s : State} (h : Tbl.wf Strand.reset s.strands = true) {key : Nat} (len : Nat)
    (hk : key ∉ (grp s).map (curKey s)) : getStrand (retire s len) key = getStrand s key :=
  getStrand_mapStrands_ne h _ hk

theorem getStrand_retire {s : State} (h : Tbl.wf Strand.reset s.strands = true) {n : Nat} (len : Nat) (hd : (grp s).Nodup) (hn : n ∈ grp s) :
    getStrand (retire s len) (curKey s n) = { curStrand s n with pc := (curStrand s n).pc + BitVec.ofNat 64 len, wait := .none } :=
  getStrand_mapStrands h _ hd hn

/-- A stalled group changes only its waits and the time. -/
theorem stall_eq (s : State) (w : Wait) :
    stall s w = { s with strands := (stall s w).strands, cycle := (stall s w).cycle, ticks := (stall s w).ticks } := by
  unfold stall tick
  rw [mapStrands_eq]

theorem getStrand_stall {s : State} (h : Tbl.wf Strand.reset s.strands = true) {n : Nat} (w : Wait) (hd : (grp s).Nodup) (hn : n ∈ grp s) :
    getStrand (stall s w) (curKey s n) = { curStrand s n with wait := w } :=
  getStrand_mapStrands h _ hd hn

/-! ## What a lane's results change in its strand -/

theorem setReg_eq (t : Strand) (p : Bool × Nat) (lane : Nat) (w : Word) :
    t.setReg p lane w = { t with user := (t.setReg p lane w).user, sup := (t.setReg p lane w).sup, lost := (t.setReg p lane w).lost } := by
  unfold Strand.setReg; split <;> rfl

theorem setPred_eq (t : Strand) (lane p : Nat) (b : Bool) : t.setPred lane p b = { t with preds := (t.setPred lane p b).preds } := by
  unfold Strand.setPred; split <;> rfl

/-- The parts of a strand that a lane's results may change. -/
def lanePart (u v : Strand) : Prop :=
  v = { u with preds := v.preds, fstat := v.fstat, user := v.user, sup := v.sup, lost := v.lost }

theorem lanePart_refl (u : Strand) : lanePart u u := rfl

theorem lanePart_trans {u v w : Strand} (h : lanePart u v) (k : lanePart v w) : lanePart u w := by
  unfold lanePart at *; rw [k, h]

theorem foldl_lanePart {β : Type} (f : Strand → β → Strand) (hf : ∀ u b, lanePart u (f u b)) (l : List β) (u : Strand) :
    lanePart u (l.foldl f u) := by
  induction l generalizing u with
  | nil => rfl
  | cons b t ih => exact lanePart_trans (hf u b) (ih _)

theorem write_lanePart (t : Strand) (lane : Nat) (o : LaneOut) : lanePart t (t.write lane o) := by
  unfold Strand.write
  refine lanePart_trans (foldl_lanePart (fun (u : Strand) (e : Nat × Word) => u.setV e.1 lane e.2) (fun u e => ?_) o.regs t)
    (lanePart_trans (foldl_lanePart (fun (u : Strand) (e : Nat × Bool) => u.setPred lane e.1 e.2) (fun u e => ?_) o.preds _) rfl)
  · unfold lanePart Strand.setV; rw [setReg_eq]
  · unfold lanePart; rw [setPred_eq]

/-- Lanes that write change registers, predicates, sticky flags and lost marks, and nothing else of the strand. -/
theorem lanewise_lanePart (t : Strand) (m : BitVec 4) (op : Nat → LaneOut) : lanePart t (t.lanewise m op) :=
  foldl_lanePart (fun (u : Strand) (j : Nat) => u.write j (op j)) (fun u j => write_lanePart u j (op j)) (lanesOf m) t

/-! ## Traps -/

/-- A trap of a strand that is not in H mode changes that strand alone (14 R244). -/
theorem trapEntry_low {s : State} {key : Nat} {i : TrapInfo} (h : (getStrand s key).mode ≠ .hypervisor) :
    trapEntry s key i = setStrand s key (trapStrand (getStrand s key) i) := by
  unfold trapEntry
  cases hm : (getStrand s key).mode <;> simp only [hm]
  exact absurd hm h

/-- Splitting a part changes the skein's parts and the issuing group's strands. -/
theorem splitPart_eq (s : State) (sid ply : Nat) (ns : List Nat) (ps : List (List Nat)) :
    splitPart s sid ply ns ps = { s with skeins := (splitPart s sid ply ns ps).skeins, cur := (splitPart s sid ply ns ps).cur } := rfl

/-- One trap after another in strands that are not in H mode: they change as `trapStrand` says. -/
theorem trapFold_eq {sid ply : Nat} (f : Nat → Option TrapInfo) (ns : List Nat) {s : State}
    (h : ∀ n ∈ ns, f n ≠ none → (getStrand s (strandKey sid ply n)).mode ≠ .hypervisor) (hd : ns.Nodup)
    (hw : Tbl.wf Strand.reset s.strands = true) :
    ns.foldl (fun b n => match f n with
      | some i => trapEntry b (strandKey sid ply n) i
      | none => b) s =
    mapStrands s sid ply (ns.filter (fun n => (f n).isSome)) (fun n t => match f n with
      | some i => trapStrand t i
      | none => t) := by
  induction ns generalizing s with
  | nil => rfl
  | cons m t ih =>
    have hd' := List.nodup_cons.mp hd
    have hk : ∀ n ∈ t, strandKey sid ply n ≠ strandKey sid ply m := fun n hn hc => hd'.1 (strandKey_inj hc ▸ hn)
    cases hf : f m with
    | none =>
      simp only [List.foldl_cons, hf, List.filter_cons, Option.isSome_none, Bool.false_eq_true, if_false]
      exact ih (fun n hn => h n (List.mem_cons_of_mem _ hn)) hd'.2 hw
    | some i =>
      have hm := h m (List.mem_cons_self ..) (by rw [hf]; exact fun hc => by cases hc)
      simp only [List.foldl_cons, hf, List.filter_cons, Option.isSome_some, if_true, trapEntry_low hm]
      refine (ih (fun n hn hfn => ?_) hd'.2 (wf_setStrand hw _ _)).trans ?_
      · rw [getStrand_setStrand_ne hw (hk n hn)]
        exact h n (List.mem_cons_of_mem _ hn) hfn
      · simp only [mapStrands, List.foldl_cons, hf]

end Sys2Proof.Machine
end

