-- ==== Sys2Proof/Laws/Canonical.lean ====
section
/-! SUPPORT. The shared operations keep memory in canonical form: those that change other state leave it alone, and those that
write it go through writes that keep the form. An entry of a word keeps it if what it goes on to does. -/

namespace Sys2Proof.Machine

/-- Either branch keeps the form. -/
theorem memOk_ite {c : Prop} [Decidable c] {a b : State} (ha : memOk a = true) (hb : memOk b = true) : memOk (if c then a else b) = true := by
  split
  · exact ha
  · exact hb

theorem memOk_setStrand {s : State} (h : memOk s = true) (key : Nat) (t : Strand) : memOk (setStrand s key t) = true :=
  (memOk_congr rfl rfl rfl).trans h

theorem memOk_setSkein {s : State} (h : memOk s = true) (sid : Nat) (k : Skein) : memOk (setSkein s sid k) = true :=
  (memOk_congr rfl rfl rfl).trans h

theorem memOk_setIo {s : State} (h : memOk s = true) (d : Nat) (x : IoDie) : memOk (setIo s d x) = true := by
  unfold setIo; split <;> exact (memOk_congr rfl rfl rfl).trans h

theorem memOk_mapStrands {s : State} (h : memOk s = true) (sid ply : Nat) (ns : List Nat) (f : Nat → Strand → Strand) :
    memOk (mapStrands s sid ply ns f) = true := by
  rw [mapStrands_eq]; exact (memOk_congr rfl rfl rfl).trans h

theorem memOk_tick {s : State} (h : memOk s = true) : memOk (tick s) = true := (memOk_congr rfl rfl rfl).trans h

theorem memOk_retire {s : State} (h : memOk s = true) (len : Nat) : memOk (retire s len) = true := memOk_tick (memOk_mapStrands h _ _ _ _)

theorem memOk_stall {s : State} (h : memOk s = true) (w : Wait) : memOk (stall s w) = true := memOk_tick (memOk_mapStrands h _ _ _ _)

/-! ## Events, counters, stop records -/

theorem memOk_drainHeld (p n : Nat) {s : State} (h : memOk s = true) : memOk (drainHeld p n s) = true := by
  induction n generalizing s with
  | zero => exact h
  | succ n ih =>
    unfold drainHeld
    simp only []
    split
    · split
      · exact h
      · rename_i e _
        exact ih (memOk_writeEvent ((memOk_congr rfl rfl rfl).trans h) p e)
    · exact h

theorem memOk_addCounter {s : State} (h : memOk s = true) (core k : Nat) (w : Word) : memOk (addCounter s core k w) = true :=
  (memOk_congr rfl rfl rfl).trans h

theorem memOk_stopRecord {s : State} (h : memOk s = true) (p i : Nat) (ok : Bool) : memOk (stopRecord s p i ok) = true :=
  memOk_writeDwords (memOk_setPart h _ _) _ _

theorem memOk_raiseHalt {s : State} (h : memOk s = true) (key : Nat) (b : Bool) : memOk (raiseHalt s key b) = true := by
  unfold raiseHalt
  simp only []
  split
  · exact h
  · exact memOk_stopRecord (memOk_setPart h _ _) _ _ _

/-! ## Traps -/

theorem memOk_trapEntry {s : State} (h : memOk s = true) (key : Nat) (i : TrapInfo) : memOk (trapEntry s key i) = true := by
  unfold trapEntry
  simp only []
  split
  · exact memOk_raiseHalt h key false
  · exact memOk_setStrand h _ _

theorem memOk_splitPart {s : State} (h : memOk s = true) (sid ply : Nat) (ns : List Nat) (ps : List (List Nat)) :
    memOk (splitPart s sid ply ns ps) = true := (memOk_congr rfl rfl rfl).trans h

theorem memOk_trapGroup {s : State} (h : memOk s = true) (f : Nat → Option TrapInfo) : memOk (trapGroup s f) = true := by
  unfold trapGroup
  refine memOk_tick (memOk_foldl (fun a n ha => ?_) _ (memOk_splitPart h _ _ _ _))
  cases f n with
  | none => exact ha
  | some i => exact memOk_trapEntry ha _ i

theorem memOk_trapAll {s : State} (h : memOk s = true) (c : Cause) (a : DWord) : memOk (trapAll s c a) = true := memOk_trapGroup h _

/-! ## The entries of a word -/

/-- A lane-set word keeps the form if what follows its checks does. -/
theorem memOk_laneEnter {s : State} (h : memOk s = true) (f : LaneForm) {k : State → State} (hk : memOk (k s) = true) :
    memOk (laneEnter f s k) = true := by
  unfold laneEnter
  refine memOk_ite (memOk_trapGroup h _) (memOk_ite (memOk_stall h _) (memOk_ite (memOk_trapGroup h _) ?_))
  cases f.base with
  | none => exact hk
  | some w => exact memOk_ite (memOk_stall h _) (memOk_ite (memOk_trapGroup h _) hk)

/-- A uniform-set word keeps the form if what follows its checks does. -/
theorem memOk_uniEnter {s : State} (h : memOk s = true) (i : Instr) (need : Mode) (tiles accs reads writes : List Nat) {k : State → State}
    (hk : memOk (k s) = true) : memOk (uniEnter i need tiles accs reads writes s k) = true := by
  unfold uniEnter
  simp only []
  split
  · exact memOk_trapAll h _ _
  · split
    · exact memOk_trapAll h _ _
    · split
      · exact memOk_trapAll h _ _
      · split
        · exact memOk_trapAll h _ _
        · split
          · exact memOk_stall h _
          · split
            · exact memOk_trapGroup h _
            · exact hk

/-- An arithmetic word keeps the form. -/
theorem memOk_alu {s : State} (h : memOk s = true) (i : Instr) (g : Guard) (len : Nat) (x : Ext) (sh : Shape) (d a b : Nat) (op : Alu) :
    memOk (alu i g len x sh d a b op s) = true := memOk_laneEnter h _ (memOk_retire (memOk_mapStrands h _ _ _ _) _)

/-- A uniform arithmetic word keeps the form. -/
theorem memOk_uniAlu {s : State} (h : memOk s = true) (i : Instr) (d : Nat) (reads : List Nat) (f : (Nat → DWord) → DWord) :
    memOk (uniAlu i d reads f s) = true := memOk_uniEnter h _ _ _ _ _ _ (memOk_retire (memOk_setSkein h _ _) 4)

/-! ## Caches, and what the package does to whole frames -/

theorem memOk_writeBackLine {s : State} (h : memOk s = true) (l : L1Line) : memOk (writeBackLine s l) = true :=
  memOk_foldl (fun _ _ ha => memOk_homePut ha _ _) _ h

theorem memOk_writeBack {s : State} (h : memOk s = true) (f : L1Line → Bool) : memOk (writeBack s f) = true :=
  (memOk_congr rfl rfl rfl).trans (memOk_foldl (fun _ l ha => memOk_writeBackLine ha l) _ h)

theorem memOk_moveFrame {s : State} (h : memOk s = true) (src dst : Nat) : memOk (moveFrame s src dst) = true := by
  unfold moveFrame
  split
  · exact memOk_homePut h _ _
  · rw [memOk_iff] at h ⊢
    refine ⟨?_, ?_, Tbl.wf_clear h.2.2 _ _⟩
    · exact Tbl.wf_foldl (fun e : Nat × Byte => dst + (e.1 - src)) (fun e => e.2) _ (Tbl.wf_clear h.1 _ _)
    · exact Tbl.wf_foldl (fun w : Nat => w) (fun _ => true) _ (Tbl.wf_clear h.2.1 _ _)

theorem memOk_resetZero {s : State} (h : memOk s = true) (p : Nat) : memOk (resetZero s p) = true := by
  rw [memOk_iff] at h ⊢
  exact ⟨Tbl.wf_filter h.1 _, Tbl.wf_filter h.2.1 _, Tbl.wf_filter h.2.2 _⟩

end Sys2Proof.Machine
end

