-- ==== Sys2Proof/Laws/Encoding.lean ====
section
/-! SUPPORT. Fields of words: the row that an opcode byte selects, and a word put together again from its fields. -/

namespace Sys2Proof

/-- The row that an opcode byte selects. -/
def rowAt (op : Nat) (w : Word) : Option Instr :=
  if op < 0x10 then decodeOps00 op w
  else if op < 0x20 then decodeOps10 op w
  else if op < 0x30 then decodeOps20 op w
  else if op < 0x40 then decodeOps30 op w
  else if op < 0x50 then decodeOps40 op w
  else if op < 0x60 then decodeOps50 op w
  else if op < 0x80 then none
  else if op < 0x90 then decodeOps80 op w
  else if op < 0xA0 then decodeOps90 op w
  else if op < 0xB0 then decodeOpsA0 op w
  else if op < 0xC0 then decodeOpsB0 op w
  else if op < 0xD0 then decodeOpsC0 op w
  else decodeOpsD0 op w

theorem rowAt_eq {w : Word} {op : Nat} (h : opByte w = op) : decodeRow w = rowAt op w := by subst h; rfl

/-- The opcode byte as bits of the word. -/
theorem opByte_bits {w : Word} {op : Nat} (h : opByte w = op) : BitVec.ofNat 8 op = w.extractLsb' 24 8 := by
  subst h
  exact BitVec.ofNat_toNat _ _

/-- Two fields that meet are one field. -/
theorem fields_join {w : Word} {start start' len len' : Nat} (h : start' = start + len) :
    w.extractLsb' start' len' ++ w.extractLsb' start len = w.extractLsb' start (len' + len) :=
  BitVec.extractLsb'_append_extractLsb'_eq_extractLsb' h

/-- A field within a field. -/
theorem field_within {w : Word} {n k m : Nat} {x : BitVec n} (h : w.extractLsb' 0 n = x) (hk : k + m ≤ n) :
    w.extractLsb' k m = x.extractLsb' k m := by
  subst h
  apply BitVec.eq_of_getLsbD_eq
  intro i hi
  simp only [BitVec.getLsbD_extractLsb', hi, decide_true, Bool.true_and, Nat.zero_add]
  rw [decide_eq_true (by omega), Bool.true_and]

/-- A word's row gives an instruction, once its opcode byte and that row are known. -/
theorem reads {w : Word} {i : Instr} {op : Nat} (ho : opByte w = op) (hx : op ≠ 0x7F) (ha : opAssigned op = true)
    (hr : rowAt op w = some i) : opByte w ≠ 0x7F ∧ opAssigned (opByte w) = true ∧ decodeRow w = some i := by
  subst ho
  exact ⟨hx, ha, hr⟩

end Sys2Proof
end

