-- ==== Sys2Proof/Laws/PerInstr.lean ====
section
/-! SUPPORT. Statements made per instruction. RowReads: the row of the decoder that an instruction's word selects reads the
instruction back, with every operand. -/

namespace Sys2Proof.Laws.RowReads

/-- The word of a well-formed instruction has an assigned opcode, and its row gives the instruction; an XW's row gives it with
its follower. An event of the package has no word. -/
def Statement (i : Instr) : Prop :=
  i.wf = true → (∀ w, encode i = [w] → opByte w ≠ 0x7F ∧ opAssigned (opByte w) = true ∧ decodeRow w = some i) ∧
    ∀ w f, encode i = [w, f] → opByte w = 0x7F ∧ rowXw w f = some i

theorem iadd (g : Guard) (d : BitVec 6) (a : BitVec 6) (b : BitVec 6) (h : BitVec 2) : Statement (.iadd g d a b h) := by
  refine fun hw => ⟨fun w e => ?_, fun _ _ e => (nomatch e)⟩
  cases e
  refine reads (op := 0x00) (by simp (disch := decide) only [opByte, BitVec.extractLsb'_append_eq_of_le, Nat.reduceSub, BitVec.extractLsb'_eq_self]; rfl) (by decide) (by decide) ?_
  show (rowIadd _) = _
  simp (disch := decide) only [rowIadd, BitVec.extractLsb'_append_eq_of_le, BitVec.extractLsb'_append_eq_of_add_le, Nat.reduceSub, BitVec.extractLsb'_eq_self]

theorem iaddi (g : Guard) (d : BitVec 6) (a : BitVec 6) (i : BitVec 8) : Statement (.iaddi g d a i) := by
  refine fun hw => ⟨fun w e => ?_, fun _ _ e => (nomatch e)⟩
  cases e
  refine reads (op := 0x01) (by simp (disch := decide) only [opByte, BitVec.extractLsb'_append_eq_of_le, Nat.reduceSub, BitVec.extractLsb'_eq_self]; rfl) (by decide) (by decide) ?_
  show (rowIaddi _) = _
  simp (disch := decide) only [rowIaddi, BitVec.extractLsb'_append_eq_of_le, BitVec.extractLsb'_append_eq_of_add_le, Nat.reduceSub, BitVec.extractLsb'_eq_self]

theorem isub (g : Guard) (d : BitVec 6) (a : BitVec 6) (b : BitVec 6) (h : BitVec 2) : Statement (.isub g d a b h) := by
  refine fun hw => ⟨fun w e => ?_, fun _ _ e => (nomatch e)⟩
  cases e
  refine reads (op := 0x02) (by simp (disch := decide) only [opByte, BitVec.extractLsb'_append_eq_of_le, Nat.reduceSub, BitVec.extractLsb'_eq_self]; rfl) (by decide) (by decide) ?_
  show (rowIsub _) = _
  simp (disch := decide) only [rowIsub, BitVec.extractLsb'_append_eq_of_le, BitVec.extractLsb'_append_eq_of_add_le, Nat.reduceSub, BitVec.extractLsb'_eq_self]

theorem iadds (g : Guard) (d : BitVec 6) (a : BitVec 6) (b : BitVec 6) (h : BitVec 2) : Statement (.iadds g d a b h) := by
  refine fun hw => ⟨fun w e => ?_, fun _ _ e => (nomatch e)⟩
  cases e
  refine reads (op := 0x03) (by simp (disch := decide) only [opByte, BitVec.extractLsb'_append_eq_of_le, Nat.reduceSub, BitVec.extractLsb'_eq_self]; rfl) (by decide) (by decide) ?_
  show (rowIadds _) = _
  simp (disch := decide) only [rowIadds, BitVec.extractLsb'_append_eq_of_le, BitVec.extractLsb'_append_eq_of_add_le, Nat.reduceSub, BitVec.extractLsb'_eq_self]

theorem imul (g : Guard) (d : BitVec 6) (a : BitVec 6) (b : BitVec 6) (h : BitVec 2) : Statement (.imul g d a b h) := by
  refine fun hw => ⟨fun w e => ?_, fun _ _ e => (nomatch e)⟩
  cases e
  refine reads (op := 0x04) (by simp (disch := decide) only [opByte, BitVec.extractLsb'_append_eq_of_le, Nat.reduceSub, BitVec.extractLsb'_eq_self]; rfl) (by decide) (by decide) ?_
  show (rowImul _) = _
  simp (disch := decide) only [rowImul, BitVec.extractLsb'_append_eq_of_le, BitVec.extractLsb'_append_eq_of_add_le, Nat.reduceSub, BitVec.extractLsb'_eq_self]

theorem imulhs (g : Guard) (d : BitVec 6) (a : BitVec 6) (b : BitVec 6) (h : BitVec 2) : Statement (.imulhs g d a b h) := by
  refine fun hw => ⟨fun w e => ?_, fun _ _ e => (nomatch e)⟩
  cases e
  refine reads (op := 0x05) (by simp (disch := decide) only [opByte, BitVec.extractLsb'_append_eq_of_le, Nat.reduceSub, BitVec.extractLsb'_eq_self]; rfl) (by decide) (by decide) ?_
  show (rowImulhs _) = _
  simp (disch := decide) only [rowImulhs, BitVec.extractLsb'_append_eq_of_le, BitVec.extractLsb'_append_eq_of_add_le, Nat.reduceSub, BitVec.extractLsb'_eq_self]

theorem imulhu (g : Guard) (d : BitVec 6) (a : BitVec 6) (b : BitVec 6) (h : BitVec 2) : Statement (.imulhu g d a b h) := by
  refine fun hw => ⟨fun w e => ?_, fun _ _ e => (nomatch e)⟩
  cases e
  refine reads (op := 0x06) (by simp (disch := decide) only [opByte, BitVec.extractLsb'_append_eq_of_le, Nat.reduceSub, BitVec.extractLsb'_eq_self]; rfl) (by decide) (by decide) ?_
  show (rowImulhu _) = _
  simp (disch := decide) only [rowImulhu, BitVec.extractLsb'_append_eq_of_le, BitVec.extractLsb'_append_eq_of_add_le, Nat.reduceSub, BitVec.extractLsb'_eq_self]

theorem imad (g : Guard) (d : BitVec 6) (a : BitVec 6) (b : BitVec 6) (h : BitVec 2) : Statement (.imad g d a b h) := by
  refine fun hw => ⟨fun w e => ?_, fun _ _ e => (nomatch e)⟩
  cases e
  refine reads (op := 0x07) (by simp (disch := decide) only [opByte, BitVec.extractLsb'_append_eq_of_le, Nat.reduceSub, BitVec.extractLsb'_eq_self]; rfl) (by decide) (by decide) ?_
  show (rowImad _) = _
  simp (disch := decide) only [rowImad, BitVec.extractLsb'_append_eq_of_le, BitVec.extractLsb'_append_eq_of_add_le, Nat.reduceSub, BitVec.extractLsb'_eq_self]

theorem imins (g : Guard) (d : BitVec 6) (a : BitVec 6) (b : BitVec 6) (h : BitVec 2) : Statement (.imins g d a b h) := by
  refine fun hw => ⟨fun w e => ?_, fun _ _ e => (nomatch e)⟩
  cases e
  refine reads (op := 0x08) (by simp (disch := decide) only [opByte, BitVec.extractLsb'_append_eq_of_le, Nat.reduceSub, BitVec.extractLsb'_eq_self]; rfl) (by decide) (by decide) ?_
  show (rowImins _) = _
  simp (disch := decide) only [rowImins, BitVec.extractLsb'_append_eq_of_le, BitVec.extractLsb'_append_eq_of_add_le, Nat.reduceSub, BitVec.extractLsb'_eq_self]

theorem iminu (g : Guard) (d : BitVec 6) (a : BitVec 6) (b : BitVec 6) (h : BitVec 2) : Statement (.iminu g d a b h) := by
  refine fun hw => ⟨fun w e => ?_, fun _ _ e => (nomatch e)⟩
  cases e
  refine reads (op := 0x09) (by simp (disch := decide) only [opByte, BitVec.extractLsb'_append_eq_of_le, Nat.reduceSub, BitVec.extractLsb'_eq_self]; rfl) (by decide) (by decide) ?_
  show (rowIminu _) = _
  simp (disch := decide) only [rowIminu, BitVec.extractLsb'_append_eq_of_le, BitVec.extractLsb'_append_eq_of_add_le, Nat.reduceSub, BitVec.extractLsb'_eq_self]

theorem imaxs (g : Guard) (d : BitVec 6) (a : BitVec 6) (b : BitVec 6) (h : BitVec 2) : Statement (.imaxs g d a b h) := by
  refine fun hw => ⟨fun w e => ?_, fun _ _ e => (nomatch e)⟩
  cases e
  refine reads (op := 0x0A) (by simp (disch := decide) only [opByte, BitVec.extractLsb'_append_eq_of_le, Nat.reduceSub, BitVec.extractLsb'_eq_self]; rfl) (by decide) (by decide) ?_
  show (rowImaxs _) = _
  simp (disch := decide) only [rowImaxs, BitVec.extractLsb'_append_eq_of_le, BitVec.extractLsb'_append_eq_of_add_le, Nat.reduceSub, BitVec.extractLsb'_eq_self]

theorem imaxu (g : Guard) (d : BitVec 6) (a : BitVec 6) (b : BitVec 6) (h : BitVec 2) : Statement (.imaxu g d a b h) := by
  refine fun hw => ⟨fun w e => ?_, fun _ _ e => (nomatch e)⟩
  cases e
  refine reads (op := 0x0B) (by simp (disch := decide) only [opByte, BitVec.extractLsb'_append_eq_of_le, Nat.reduceSub, BitVec.extractLsb'_eq_self]; rfl) (by decide) (by decide) ?_
  show (rowImaxu _) = _
  simp (disch := decide) only [rowImaxu, BitVec.extractLsb'_append_eq_of_le, BitVec.extractLsb'_append_eq_of_add_le, Nat.reduceSub, BitVec.extractLsb'_eq_self]

theorem and (g : Guard) (d : BitVec 6) (a : BitVec 6) (b : BitVec 6) (h : BitVec 2) : Statement (.and g d a b h) := by
  refine fun hw => ⟨fun w e => ?_, fun _ _ e => (nomatch e)⟩
  cases e
  refine reads (op := 0x0C) (by simp (disch := decide) only [opByte, BitVec.extractLsb'_append_eq_of_le, Nat.reduceSub, BitVec.extractLsb'_eq_self]; rfl) (by decide) (by decide) ?_
  show (rowAnd _) = _
  simp (disch := decide) only [rowAnd, BitVec.extractLsb'_append_eq_of_le, BitVec.extractLsb'_append_eq_of_add_le, Nat.reduceSub, BitVec.extractLsb'_eq_self]

theorem or (g : Guard) (d : BitVec 6) (a : BitVec 6) (b : BitVec 6) (h : BitVec 2) : Statement (.or g d a b h) := by
  refine fun hw => ⟨fun w e => ?_, fun _ _ e => (nomatch e)⟩
  cases e
  refine reads (op := 0x0D) (by simp (disch := decide) only [opByte, BitVec.extractLsb'_append_eq_of_le, Nat.reduceSub, BitVec.extractLsb'_eq_self]; rfl) (by decide) (by decide) ?_
  show (rowOr _) = _
  simp (disch := decide) only [rowOr, BitVec.extractLsb'_append_eq_of_le, BitVec.extractLsb'_append_eq_of_add_le, Nat.reduceSub, BitVec.extractLsb'_eq_self]

theorem xor (g : Guard) (d : BitVec 6) (a : BitVec 6) (b : BitVec 6) (h : BitVec 2) : Statement (.xor g d a b h) := by
  refine fun hw => ⟨fun w e => ?_, fun _ _ e => (nomatch e)⟩
  cases e
  refine reads (op := 0x0E) (by simp (disch := decide) only [opByte, BitVec.extractLsb'_append_eq_of_le, Nat.reduceSub, BitVec.extractLsb'_eq_self]; rfl) (by decide) (by decide) ?_
  show (rowXor _) = _
  simp (disch := decide) only [rowXor, BitVec.extractLsb'_append_eq_of_le, BitVec.extractLsb'_append_eq_of_add_le, Nat.reduceSub, BitVec.extractLsb'_eq_self]

theorem andn (g : Guard) (d : BitVec 6) (a : BitVec 6) (b : BitVec 6) (h : BitVec 2) : Statement (.andn g d a b h) := by
  refine fun hw => ⟨fun w e => ?_, fun _ _ e => (nomatch e)⟩
  cases e
  refine reads (op := 0x0F) (by simp (disch := decide) only [opByte, BitVec.extractLsb'_append_eq_of_le, Nat.reduceSub, BitVec.extractLsb'_eq_self]; rfl) (by decide) (by decide) ?_
  show (rowAndn _) = _
  simp (disch := decide) only [rowAndn, BitVec.extractLsb'_append_eq_of_le, BitVec.extractLsb'_append_eq_of_add_le, Nat.reduceSub, BitVec.extractLsb'_eq_self]

theorem andi (g : Guard) (d : BitVec 6) (a : BitVec 6) (i : BitVec 8) : Statement (.andi g d a i) := by
  refine fun hw => ⟨fun w e => ?_, fun _ _ e => (nomatch e)⟩
  cases e
  refine reads (op := 0x10) (by simp (disch := decide) only [opByte, BitVec.extractLsb'_append_eq_of_le, Nat.reduceSub, BitVec.extractLsb'_eq_self]; rfl) (by decide) (by decide) ?_
  show (rowAndi _) = _
  simp (disch := decide) only [rowAndi, BitVec.extractLsb'_append_eq_of_le, BitVec.extractLsb'_append_eq_of_add_le, Nat.reduceSub, BitVec.extractLsb'_eq_self]

theorem ori (g : Guard) (d : BitVec 6) (a : BitVec 6) (i : BitVec 8) : Statement (.ori g d a i) := by
  refine fun hw => ⟨fun w e => ?_, fun _ _ e => (nomatch e)⟩
  cases e
  refine reads (op := 0x11) (by simp (disch := decide) only [opByte, BitVec.extractLsb'_append_eq_of_le, Nat.reduceSub, BitVec.extractLsb'_eq_self]; rfl) (by decide) (by decide) ?_
  show (rowOri _) = _
  simp (disch := decide) only [rowOri, BitVec.extractLsb'_append_eq_of_le, BitVec.extractLsb'_append_eq_of_add_le, Nat.reduceSub, BitVec.extractLsb'_eq_self]

theorem xori (g : Guard) (d : BitVec 6) (a : BitVec 6) (i : BitVec 8) : Statement (.xori g d a i) := by
  refine fun hw => ⟨fun w e => ?_, fun _ _ e => (nomatch e)⟩
  cases e
  refine reads (op := 0x12) (by simp (disch := decide) only [opByte, BitVec.extractLsb'_append_eq_of_le, Nat.reduceSub, BitVec.extractLsb'_eq_self]; rfl) (by decide) (by decide) ?_
  show (rowXori _) = _
  simp (disch := decide) only [rowXori, BitVec.extractLsb'_append_eq_of_le, BitVec.extractLsb'_append_eq_of_add_le, Nat.reduceSub, BitVec.extractLsb'_eq_self]

theorem shl (g : Guard) (d : BitVec 6) (a : BitVec 6) (b : BitVec 6) (h : BitVec 2) : Statement (.shl g d a b h) := by
  refine fun hw => ⟨fun w e => ?_, fun _ _ e => (nomatch e)⟩
  cases e
  refine reads (op := 0x13) (by simp (disch := decide) only [opByte, BitVec.extractLsb'_append_eq_of_le, Nat.reduceSub, BitVec.extractLsb'_eq_self]; rfl) (by decide) (by decide) ?_
  show (rowShl _) = _
  simp (disch := decide) only [rowShl, BitVec.extractLsb'_append_eq_of_le, BitVec.extractLsb'_append_eq_of_add_le, Nat.reduceSub, BitVec.extractLsb'_eq_self]

theorem shr (g : Guard) (d : BitVec 6) (a : BitVec 6) (b : BitVec 6) (h : BitVec 2) : Statement (.shr g d a b h) := by
  refine fun hw => ⟨fun w e => ?_, fun _ _ e => (nomatch e)⟩
  cases e
  refine reads (op := 0x14) (by simp (disch := decide) only [opByte, BitVec.extractLsb'_append_eq_of_le, Nat.reduceSub, BitVec.extractLsb'_eq_self]; rfl) (by decide) (by decide) ?_
  show (rowShr _) = _
  simp (disch := decide) only [rowShr, BitVec.extractLsb'_append_eq_of_le, BitVec.extractLsb'_append_eq_of_add_le, Nat.reduceSub, BitVec.extractLsb'_eq_self]

theorem sar (g : Guard) (d : BitVec 6) (a : BitVec 6) (b : BitVec 6) (h : BitVec 2) : Statement (.sar g d a b h) := by
  refine fun hw => ⟨fun w e => ?_, fun _ _ e => (nomatch e)⟩
  cases e
  refine reads (op := 0x15) (by simp (disch := decide) only [opByte, BitVec.extractLsb'_append_eq_of_le, Nat.reduceSub, BitVec.extractLsb'_eq_self]; rfl) (by decide) (by decide) ?_
  show (rowSar _) = _
  simp (disch := decide) only [rowSar, BitVec.extractLsb'_append_eq_of_le, BitVec.extractLsb'_append_eq_of_add_le, Nat.reduceSub, BitVec.extractLsb'_eq_self]

theorem shli (g : Guard) (d : BitVec 6) (a : BitVec 6) (i : BitVec 5) : Statement (.shli g d a i) := by
  refine fun hw => ⟨fun w e => ?_, fun _ _ e => (nomatch e)⟩
  cases e
  refine reads (op := 0x16) (by simp (disch := decide) only [opByte, BitVec.extractLsb'_append_eq_of_le, Nat.reduceSub, BitVec.extractLsb'_eq_self]; rfl) (by decide) (by decide) ?_
  show (rowShli _) = _
  simp (disch := decide) only [rowShli, BitVec.extractLsb'_append_eq_of_le, BitVec.extractLsb'_append_eq_of_add_le, Nat.reduceSub, BitVec.extractLsb'_eq_self]
  rfl

theorem shri (g : Guard) (d : BitVec 6) (a : BitVec 6) (i : BitVec 5) : Statement (.shri g d a i) := by
  refine fun hw => ⟨fun w e => ?_, fun _ _ e => (nomatch e)⟩
  cases e
  refine reads (op := 0x17) (by simp (disch := decide) only [opByte, BitVec.extractLsb'_append_eq_of_le, Nat.reduceSub, BitVec.extractLsb'_eq_self]; rfl) (by decide) (by decide) ?_
  show (rowShri _) = _
  simp (disch := decide) only [rowShri, BitVec.extractLsb'_append_eq_of_le, BitVec.extractLsb'_append_eq_of_add_le, Nat.reduceSub, BitVec.extractLsb'_eq_self]
  rfl

theorem sari (g : Guard) (d : BitVec 6) (a : BitVec 6) (i : BitVec 5) : Statement (.sari g d a i) := by
  refine fun hw => ⟨fun w e => ?_, fun _ _ e => (nomatch e)⟩
  cases e
  refine reads (op := 0x18) (by simp (disch := decide) only [opByte, BitVec.extractLsb'_append_eq_of_le, Nat.reduceSub, BitVec.extractLsb'_eq_self]; rfl) (by decide) (by decide) ?_
  show (rowSari _) = _
  simp (disch := decide) only [rowSari, BitVec.extractLsb'_append_eq_of_le, BitVec.extractLsb'_append_eq_of_add_le, Nat.reduceSub, BitVec.extractLsb'_eq_self]
  rfl

theorem bfx (g : Guard) (d : BitVec 6) (a : BitVec 6) (b : BitVec 6) (h : BitVec 2) : Statement (.bfx g d a b h) := by
  refine fun hw => ⟨fun w e => ?_, fun _ _ e => (nomatch e)⟩
  cases e
  refine reads (op := 0x19) (by simp (disch := decide) only [opByte, BitVec.extractLsb'_append_eq_of_le, Nat.reduceSub, BitVec.extractLsb'_eq_self]; rfl) (by decide) (by decide) ?_
  show (rowBfx _) = _
  simp (disch := decide) only [rowBfx, BitVec.extractLsb'_append_eq_of_le, BitVec.extractLsb'_append_eq_of_add_le, Nat.reduceSub, BitVec.extractLsb'_eq_self]

theorem bfi (g : Guard) (d : BitVec 6) (a : BitVec 6) (b : BitVec 6) (h : BitVec 2) : Statement (.bfi g d a b h) := by
  refine fun hw => ⟨fun w e => ?_, fun _ _ e => (nomatch e)⟩
  cases e
  refine reads (op := 0x1A) (by simp (disch := decide) only [opByte, BitVec.extractLsb'_append_eq_of_le, Nat.reduceSub, BitVec.extractLsb'_eq_self]; rfl) (by decide) (by decide) ?_
  show (rowBfi _) = _
  simp (disch := decide) only [rowBfi, BitVec.extractLsb'_append_eq_of_le, BitVec.extractLsb'_append_eq_of_add_le, Nat.reduceSub, BitVec.extractLsb'_eq_self]

theorem popc (g : Guard) (d : BitVec 6) (a : BitVec 6) (h : BitVec 1) : Statement (.popc g d a h) := by
  refine fun hw => ⟨fun w e => ?_, fun _ _ e => (nomatch e)⟩
  cases e
  refine reads (op := 0x1B) (by simp (disch := decide) only [opByte, BitVec.extractLsb'_append_eq_of_le, Nat.reduceSub, BitVec.extractLsb'_eq_self]; rfl) (by decide) (by decide) ?_
  show (rowPopc _) = _
  simp (disch := decide) only [rowPopc, BitVec.extractLsb'_append_eq_of_le, BitVec.extractLsb'_append_eq_of_add_le, Nat.reduceSub, BitVec.extractLsb'_eq_self]
  rfl

theorem clz (g : Guard) (d : BitVec 6) (a : BitVec 6) (h : BitVec 1) : Statement (.clz g d a h) := by
  refine fun hw => ⟨fun w e => ?_, fun _ _ e => (nomatch e)⟩
  cases e
  refine reads (op := 0x1C) (by simp (disch := decide) only [opByte, BitVec.extractLsb'_append_eq_of_le, Nat.reduceSub, BitVec.extractLsb'_eq_self]; rfl) (by decide) (by decide) ?_
  show (rowClz _) = _
  simp (disch := decide) only [rowClz, BitVec.extractLsb'_append_eq_of_le, BitVec.extractLsb'_append_eq_of_add_le, Nat.reduceSub, BitVec.extractLsb'_eq_self]
  rfl

theorem brev (g : Guard) (d : BitVec 6) (a : BitVec 6) (h : BitVec 1) : Statement (.brev g d a h) := by
  refine fun hw => ⟨fun w e => ?_, fun _ _ e => (nomatch e)⟩
  cases e
  refine reads (op := 0x1D) (by simp (disch := decide) only [opByte, BitVec.extractLsb'_append_eq_of_le, Nat.reduceSub, BitVec.extractLsb'_eq_self]; rfl) (by decide) (by decide) ?_
  show (rowBrev _) = _
  simp (disch := decide) only [rowBrev, BitVec.extractLsb'_append_eq_of_le, BitVec.extractLsb'_append_eq_of_add_le, Nat.reduceSub, BitVec.extractLsb'_eq_self]
  rfl

theorem icmps (g : Guard) (q : BitVec 3) (c : BitVec 3) (a : BitVec 6) (b : BitVec 6) (h : BitVec 2) : Statement (.icmps g q c a b h) := by
  refine fun hw => ⟨fun w e => ?_, fun _ _ e => (nomatch e)⟩
  cases e
  refine reads (op := 0x1E) (by simp (disch := decide) only [opByte, BitVec.extractLsb'_append_eq_of_le, Nat.reduceSub, BitVec.extractLsb'_eq_self]; rfl) (by decide) (by decide) ?_
  show (rowIcmps _) = _
  simp (disch := decide) only [rowIcmps, BitVec.extractLsb'_append_eq_of_le, BitVec.extractLsb'_append_eq_of_add_le, Nat.reduceSub, BitVec.extractLsb'_eq_self]

theorem icmpu (g : Guard) (q : BitVec 3) (c : BitVec 3) (a : BitVec 6) (b : BitVec 6) (h : BitVec 2) : Statement (.icmpu g q c a b h) := by
  refine fun hw => ⟨fun w e => ?_, fun _ _ e => (nomatch e)⟩
  cases e
  refine reads (op := 0x1F) (by simp (disch := decide) only [opByte, BitVec.extractLsb'_append_eq_of_le, Nat.reduceSub, BitVec.extractLsb'_eq_self]; rfl) (by decide) (by decide) ?_
  show (rowIcmpu _) = _
  simp (disch := decide) only [rowIcmpu, BitVec.extractLsb'_append_eq_of_le, BitVec.extractLsb'_append_eq_of_add_le, Nat.reduceSub, BitVec.extractLsb'_eq_self]

theorem icmpsi (g : Guard) (q : BitVec 3) (c : BitVec 3) (a : BitVec 6) (i : BitVec 8) : Statement (.icmpsi g q c a i) := by
  refine fun hw => ⟨fun w e => ?_, fun _ _ e => (nomatch e)⟩
  cases e
  refine reads (op := 0x20) (by simp (disch := decide) only [opByte, BitVec.extractLsb'_append_eq_of_le, Nat.reduceSub, BitVec.extractLsb'_eq_self]; rfl) (by decide) (by decide) ?_
  show (rowIcmpsi _) = _
  simp (disch := decide) only [rowIcmpsi, BitVec.extractLsb'_append_eq_of_le, BitVec.extractLsb'_append_eq_of_add_le, Nat.reduceSub, BitVec.extractLsb'_eq_self]

theorem sel (g : Guard) (d : BitVec 6) (a : BitVec 6) (b : BitVec 6) (s : BitVec 2) : Statement (.sel g d a b s) := by
  refine fun hw => ⟨fun w e => ?_, fun _ _ e => (nomatch e)⟩
  cases e
  refine reads (op := 0x21) (by simp (disch := decide) only [opByte, BitVec.extractLsb'_append_eq_of_le, Nat.reduceSub, BitVec.extractLsb'_eq_self]; rfl) (by decide) (by decide) ?_
  show (rowSel _) = _
  simp (disch := decide) only [rowSel, BitVec.extractLsb'_append_eq_of_le, BitVec.extractLsb'_append_eq_of_add_le, Nat.reduceSub, BitVec.extractLsb'_eq_self]

theorem mov (g : Guard) (d : BitVec 6) (a : BitVec 6) (h : BitVec 1) : Statement (.mov g d a h) := by
  refine fun hw => ⟨fun w e => ?_, fun _ _ e => (nomatch e)⟩
  cases e
  refine reads (op := 0x22) (by simp (disch := decide) only [opByte, BitVec.extractLsb'_append_eq_of_le, Nat.reduceSub, BitVec.extractLsb'_eq_self]; rfl) (by decide) (by decide) ?_
  show (rowMov _) = _
  simp (disch := decide) only [rowMov, BitVec.extractLsb'_append_eq_of_le, BitVec.extractLsb'_append_eq_of_add_le, Nat.reduceSub, BitVec.extractLsb'_eq_self]
  rfl

theorem movi (g : Guard) (d : BitVec 6) (i : BitVec 14) : Statement (.movi g d i) := by
  refine fun hw => ⟨fun w e => ?_, fun _ _ e => (nomatch e)⟩
  cases e
  refine reads (op := 0x23) (by simp (disch := decide) only [opByte, BitVec.extractLsb'_append_eq_of_le, Nat.reduceSub, BitVec.extractLsb'_eq_self]; rfl) (by decide) (by decide) ?_
  show (rowMovi _) = _
  simp (disch := decide) only [rowMovi, BitVec.extractLsb'_append_eq_of_le, BitVec.extractLsb'_append_eq_of_add_le, Nat.reduceSub, BitVec.extractLsb'_eq_self]

theorem movhi (g : Guard) (d : BitVec 6) (i : BitVec 14) : Statement (.movhi g d i) := by
  refine fun hw => ⟨fun w e => ?_, fun _ _ e => (nomatch e)⟩
  cases e
  refine reads (op := 0x24) (by simp (disch := decide) only [opByte, BitVec.extractLsb'_append_eq_of_le, Nat.reduceSub, BitVec.extractLsb'_eq_self]; rfl) (by decide) (by decide) ?_
  show (rowMovhi _) = _
  simp (disch := decide) only [rowMovhi, BitVec.extractLsb'_append_eq_of_le, BitVec.extractLsb'_append_eq_of_add_le, Nat.reduceSub, BitVec.extractLsb'_eq_self]

theorem srd (g : Guard) (d : BitVec 6) (i : BitVec 14) : Statement (.srd g d i) := by
  refine fun hw => ⟨fun w e => ?_, fun _ _ e => (nomatch e)⟩
  cases e
  refine reads (op := 0x25) (by simp (disch := decide) only [opByte, BitVec.extractLsb'_append_eq_of_le, Nat.reduceSub, BitVec.extractLsb'_eq_self]; rfl) (by decide) (by decide) ?_
  show (rowSrd _) = _
  simp (disch := decide) only [rowSrd, BitVec.extractLsb'_append_eq_of_le, BitVec.extractLsb'_append_eq_of_add_le, Nat.reduceSub, BitVec.extractLsb'_eq_self]

theorem plog (g : Guard) (q : BitVec 3) (x : BitVec 3) (y : BitVec 3) (t : BitVec 4) : Statement (.plog g q x y t) := by
  refine fun hw => ⟨fun w e => ?_, fun _ _ e => (nomatch e)⟩
  cases e
  refine reads (op := 0x26) (by simp (disch := decide) only [opByte, BitVec.extractLsb'_append_eq_of_le, Nat.reduceSub, BitVec.extractLsb'_eq_self]; rfl) (by decide) (by decide) ?_
  show (rowPlog _) = _
  simp (disch := decide) only [rowPlog, BitVec.extractLsb'_append_eq_of_le, BitVec.extractLsb'_append_eq_of_add_le, Nat.reduceSub, BitVec.extractLsb'_eq_self]
  rfl

theorem pmovPack (g : Guard) (d : BitVec 6) : Statement (.pmovPack g d) := by
  refine fun hw => ⟨fun w e => ?_, fun _ _ e => (nomatch e)⟩
  cases e
  refine reads (op := 0x27) (by simp (disch := decide) only [opByte, BitVec.extractLsb'_append_eq_of_le, Nat.reduceSub, BitVec.extractLsb'_eq_self]; rfl) (by decide) (by decide) ?_
  show ((rowPmovPack _).orElse fun _ => (rowPmovUnpack _)) = _
  simp (disch := decide) only [rowPmovPack, rowPmovUnpack, BitVec.extractLsb'_append_eq_of_le, BitVec.extractLsb'_append_eq_of_add_le, Nat.reduceSub, BitVec.extractLsb'_eq_self]
  rfl

theorem pmovUnpack (g : Guard) (a : BitVec 6) (h : BitVec 1) : Statement (.pmovUnpack g a h) := by
  refine fun hw => ⟨fun w e => ?_, fun _ _ e => (nomatch e)⟩
  cases e
  refine reads (op := 0x27) (by simp (disch := decide) only [opByte, BitVec.extractLsb'_append_eq_of_le, Nat.reduceSub, BitVec.extractLsb'_eq_self]; rfl) (by decide) (by decide) ?_
  show ((rowPmovPack _).orElse fun _ => (rowPmovUnpack _)) = _
  simp (disch := decide) only [rowPmovPack, rowPmovUnpack, BitVec.extractLsb'_append_eq_of_le, BitVec.extractLsb'_append_eq_of_add_le, Nat.reduceSub, BitVec.extractLsb'_eq_self]
  rw [if_neg (fun h => absurd (field_within (k := 1) (m := 7) h (by decide))
    (by simp (disch := decide) only [BitVec.extractLsb'_append_eq_of_le, BitVec.extractLsb'_append_eq_of_add_le, Nat.reduceSub, BitVec.extractLsb'_eq_self]; decide))]
  rfl

theorem faddF32 (g : Guard) (d : BitVec 6) (a : BitVec 6) (b : BitVec 6) (h : BitVec 2) : Statement (.faddF32 g d a b h) := by
  refine fun hw => ⟨fun w e => ?_, fun _ _ e => (nomatch e)⟩
  cases e
  refine reads (op := 0x28) (by simp (disch := decide) only [opByte, BitVec.extractLsb'_append_eq_of_le, Nat.reduceSub, BitVec.extractLsb'_eq_self]; rfl) (by decide) (by decide) ?_
  show (rowFaddF32 _) = _
  simp (disch := decide) only [rowFaddF32, BitVec.extractLsb'_append_eq_of_le, BitVec.extractLsb'_append_eq_of_add_le, Nat.reduceSub, BitVec.extractLsb'_eq_self]

theorem fmulF32 (g : Guard) (d : BitVec 6) (a : BitVec 6) (b : BitVec 6) (h : BitVec 2) : Statement (.fmulF32 g d a b h) := by
  refine fun hw => ⟨fun w e => ?_, fun _ _ e => (nomatch e)⟩
  cases e
  refine reads (op := 0x29) (by simp (disch := decide) only [opByte, BitVec.extractLsb'_append_eq_of_le, Nat.reduceSub, BitVec.extractLsb'_eq_self]; rfl) (by decide) (by decide) ?_
  show (rowFmulF32 _) = _
  simp (disch := decide) only [rowFmulF32, BitVec.extractLsb'_append_eq_of_le, BitVec.extractLsb'_append_eq_of_add_le, Nat.reduceSub, BitVec.extractLsb'_eq_self]

theorem ffmaF32 (g : Guard) (d : BitVec 6) (a : BitVec 6) (b : BitVec 6) (h : BitVec 2) : Statement (.ffmaF32 g d a b h) := by
  refine fun hw => ⟨fun w e => ?_, fun _ _ e => (nomatch e)⟩
  cases e
  refine reads (op := 0x2A) (by simp (disch := decide) only [opByte, BitVec.extractLsb'_append_eq_of_le, Nat.reduceSub, BitVec.extractLsb'_eq_self]; rfl) (by decide) (by decide) ?_
  show (rowFfmaF32 _) = _
  simp (disch := decide) only [rowFfmaF32, BitVec.extractLsb'_append_eq_of_le, BitVec.extractLsb'_append_eq_of_add_le, Nat.reduceSub, BitVec.extractLsb'_eq_self]

theorem fminF32 (g : Guard) (d : BitVec 6) (a : BitVec 6) (b : BitVec 6) (h : BitVec 2) : Statement (.fminF32 g d a b h) := by
  refine fun hw => ⟨fun w e => ?_, fun _ _ e => (nomatch e)⟩
  cases e
  refine reads (op := 0x2B) (by simp (disch := decide) only [opByte, BitVec.extractLsb'_append_eq_of_le, Nat.reduceSub, BitVec.extractLsb'_eq_self]; rfl) (by decide) (by decide) ?_
  show (rowFminF32 _) = _
  simp (disch := decide) only [rowFminF32, BitVec.extractLsb'_append_eq_of_le, BitVec.extractLsb'_append_eq_of_add_le, Nat.reduceSub, BitVec.extractLsb'_eq_self]

theorem fmaxF32 (g : Guard) (d : BitVec 6) (a : BitVec 6) (b : BitVec 6) (h : BitVec 2) : Statement (.fmaxF32 g d a b h) := by
  refine fun hw => ⟨fun w e => ?_, fun _ _ e => (nomatch e)⟩
  cases e
  refine reads (op := 0x2C) (by simp (disch := decide) only [opByte, BitVec.extractLsb'_append_eq_of_le, Nat.reduceSub, BitVec.extractLsb'_eq_self]; rfl) (by decide) (by decide) ?_
  show (rowFmaxF32 _) = _
  simp (disch := decide) only [rowFmaxF32, BitVec.extractLsb'_append_eq_of_le, BitVec.extractLsb'_append_eq_of_add_le, Nat.reduceSub, BitVec.extractLsb'_eq_self]

theorem fcmpF32 (g : Guard) (q : BitVec 3) (c : BitVec 3) (a : BitVec 6) (b : BitVec 6) (h : BitVec 2) : Statement (.fcmpF32 g q c a b h) := by
  refine fun hw => ⟨fun w e => ?_, fun _ _ e => (nomatch e)⟩
  cases e
  refine reads (op := 0x2D) (by simp (disch := decide) only [opByte, BitVec.extractLsb'_append_eq_of_le, Nat.reduceSub, BitVec.extractLsb'_eq_self]; rfl) (by decide) (by decide) ?_
  show (rowFcmpF32 _) = _
  simp (disch := decide) only [rowFcmpF32, BitVec.extractLsb'_append_eq_of_le, BitVec.extractLsb'_append_eq_of_add_le, Nat.reduceSub, BitVec.extractLsb'_eq_self]

theorem frcpF32 (g : Guard) (d : BitVec 6) (a : BitVec 6) (h : BitVec 1) : Statement (.frcpF32 g d a h) := by
  refine fun hw => ⟨fun w e => ?_, fun _ _ e => (nomatch e)⟩
  cases e
  refine reads (op := 0x2E) (by simp (disch := decide) only [opByte, BitVec.extractLsb'_append_eq_of_le, Nat.reduceSub, BitVec.extractLsb'_eq_self]; rfl) (by decide) (by decide) ?_
  show (rowFrcpF32 _) = _
  simp (disch := decide) only [rowFrcpF32, BitVec.extractLsb'_append_eq_of_le, BitVec.extractLsb'_append_eq_of_add_le, Nat.reduceSub, BitVec.extractLsb'_eq_self]
  rfl

theorem frsqF32 (g : Guard) (d : BitVec 6) (a : BitVec 6) (h : BitVec 1) : Statement (.frsqF32 g d a h) := by
  refine fun hw => ⟨fun w e => ?_, fun _ _ e => (nomatch e)⟩
  cases e
  refine reads (op := 0x2F) (by simp (disch := decide) only [opByte, BitVec.extractLsb'_append_eq_of_le, Nat.reduceSub, BitVec.extractLsb'_eq_self]; rfl) (by decide) (by decide) ?_
  show (rowFrsqF32 _) = _
  simp (disch := decide) only [rowFrsqF32, BitVec.extractLsb'_append_eq_of_le, BitVec.extractLsb'_append_eq_of_add_le, Nat.reduceSub, BitVec.extractLsb'_eq_self]
  rfl

theorem fex2F32 (g : Guard) (d : BitVec 6) (a : BitVec 6) (h : BitVec 1) : Statement (.fex2F32 g d a h) := by
  refine fun hw => ⟨fun w e => ?_, fun _ _ e => (nomatch e)⟩
  cases e
  refine reads (op := 0x30) (by simp (disch := decide) only [opByte, BitVec.extractLsb'_append_eq_of_le, Nat.reduceSub, BitVec.extractLsb'_eq_self]; rfl) (by decide) (by decide) ?_
  show (rowFex2F32 _) = _
  simp (disch := decide) only [rowFex2F32, BitVec.extractLsb'_append_eq_of_le, BitVec.extractLsb'_append_eq_of_add_le, Nat.reduceSub, BitVec.extractLsb'_eq_self]
  rfl

theorem flg2F32 (g : Guard) (d : BitVec 6) (a : BitVec 6) (h : BitVec 1) : Statement (.flg2F32 g d a h) := by
  refine fun hw => ⟨fun w e => ?_, fun _ _ e => (nomatch e)⟩
  cases e
  refine reads (op := 0x31) (by simp (disch := decide) only [opByte, BitVec.extractLsb'_append_eq_of_le, Nat.reduceSub, BitVec.extractLsb'_eq_self]; rfl) (by decide) (by decide) ?_
  show (rowFlg2F32 _) = _
  simp (disch := decide) only [rowFlg2F32, BitVec.extractLsb'_append_eq_of_le, BitVec.extractLsb'_append_eq_of_add_le, Nat.reduceSub, BitVec.extractLsb'_eq_self]
  rfl

theorem faddBf16x2 (g : Guard) (d : BitVec 6) (a : BitVec 6) (b : BitVec 6) (h : BitVec 2) : Statement (.faddBf16x2 g d a b h) := by
  refine fun hw => ⟨fun w e => ?_, fun _ _ e => (nomatch e)⟩
  cases e
  refine reads (op := 0x32) (by simp (disch := decide) only [opByte, BitVec.extractLsb'_append_eq_of_le, Nat.reduceSub, BitVec.extractLsb'_eq_self]; rfl) (by decide) (by decide) ?_
  show (rowFaddBf16x2 _) = _
  simp (disch := decide) only [rowFaddBf16x2, BitVec.extractLsb'_append_eq_of_le, BitVec.extractLsb'_append_eq_of_add_le, Nat.reduceSub, BitVec.extractLsb'_eq_self]

theorem fmulBf16x2 (g : Guard) (d : BitVec 6) (a : BitVec 6) (b : BitVec 6) (h : BitVec 2) : Statement (.fmulBf16x2 g d a b h) := by
  refine fun hw => ⟨fun w e => ?_, fun _ _ e => (nomatch e)⟩
  cases e
  refine reads (op := 0x33) (by simp (disch := decide) only [opByte, BitVec.extractLsb'_append_eq_of_le, Nat.reduceSub, BitVec.extractLsb'_eq_self]; rfl) (by decide) (by decide) ?_
  show (rowFmulBf16x2 _) = _
  simp (disch := decide) only [rowFmulBf16x2, BitVec.extractLsb'_append_eq_of_le, BitVec.extractLsb'_append_eq_of_add_le, Nat.reduceSub, BitVec.extractLsb'_eq_self]

theorem ffmaBf16x2 (g : Guard) (d : BitVec 6) (a : BitVec 6) (b : BitVec 6) (h : BitVec 2) : Statement (.ffmaBf16x2 g d a b h) := by
  refine fun hw => ⟨fun w e => ?_, fun _ _ e => (nomatch e)⟩
  cases e
  refine reads (op := 0x34) (by simp (disch := decide) only [opByte, BitVec.extractLsb'_append_eq_of_le, Nat.reduceSub, BitVec.extractLsb'_eq_self]; rfl) (by decide) (by decide) ?_
  show (rowFfmaBf16x2 _) = _
  simp (disch := decide) only [rowFfmaBf16x2, BitVec.extractLsb'_append_eq_of_le, BitVec.extractLsb'_append_eq_of_add_le, Nat.reduceSub, BitVec.extractLsb'_eq_self]

theorem faddF16x2 (g : Guard) (d : BitVec 6) (a : BitVec 6) (b : BitVec 6) (h : BitVec 2) : Statement (.faddF16x2 g d a b h) := by
  refine fun hw => ⟨fun w e => ?_, fun _ _ e => (nomatch e)⟩
  cases e
  refine reads (op := 0x35) (by simp (disch := decide) only [opByte, BitVec.extractLsb'_append_eq_of_le, Nat.reduceSub, BitVec.extractLsb'_eq_self]; rfl) (by decide) (by decide) ?_
  show (rowFaddF16x2 _) = _
  simp (disch := decide) only [rowFaddF16x2, BitVec.extractLsb'_append_eq_of_le, BitVec.extractLsb'_append_eq_of_add_le, Nat.reduceSub, BitVec.extractLsb'_eq_self]

theorem fmulF16x2 (g : Guard) (d : BitVec 6) (a : BitVec 6) (b : BitVec 6) (h : BitVec 2) : Statement (.fmulF16x2 g d a b h) := by
  refine fun hw => ⟨fun w e => ?_, fun _ _ e => (nomatch e)⟩
  cases e
  refine reads (op := 0x36) (by simp (disch := decide) only [opByte, BitVec.extractLsb'_append_eq_of_le, Nat.reduceSub, BitVec.extractLsb'_eq_self]; rfl) (by decide) (by decide) ?_
  show (rowFmulF16x2 _) = _
  simp (disch := decide) only [rowFmulF16x2, BitVec.extractLsb'_append_eq_of_le, BitVec.extractLsb'_append_eq_of_add_le, Nat.reduceSub, BitVec.extractLsb'_eq_self]

theorem ffmaF16x2 (g : Guard) (d : BitVec 6) (a : BitVec 6) (b : BitVec 6) (h : BitVec 2) : Statement (.ffmaF16x2 g d a b h) := by
  refine fun hw => ⟨fun w e => ?_, fun _ _ e => (nomatch e)⟩
  cases e
  refine reads (op := 0x37) (by simp (disch := decide) only [opByte, BitVec.extractLsb'_append_eq_of_le, Nat.reduceSub, BitVec.extractLsb'_eq_self]; rfl) (by decide) (by decide) ?_
  show (rowFfmaF16x2 _) = _
  simp (disch := decide) only [rowFfmaF16x2, BitVec.extractLsb'_append_eq_of_le, BitVec.extractLsb'_append_eq_of_add_le, Nat.reduceSub, BitVec.extractLsb'_eq_self]

theorem faddF64 (g : Guard) (d : BitVec 6) (a : BitVec 6) (b : BitVec 6) : Statement (.faddF64 g d a b) := by
  refine fun hw => ⟨fun w e => ?_, fun _ _ e => (nomatch e)⟩
  cases e
  refine reads (op := 0x38) (by simp (disch := decide) only [opByte, BitVec.extractLsb'_append_eq_of_le, Nat.reduceSub, BitVec.extractLsb'_eq_self]; rfl) (by decide) (by decide) ?_
  show (rowFaddF64 _) = _
  simp (disch := decide) only [rowFaddF64, BitVec.extractLsb'_append_eq_of_le, BitVec.extractLsb'_append_eq_of_add_le, Nat.reduceSub, BitVec.extractLsb'_eq_self]
  rfl

theorem fmulF64 (g : Guard) (d : BitVec 6) (a : BitVec 6) (b : BitVec 6) : Statement (.fmulF64 g d a b) := by
  refine fun hw => ⟨fun w e => ?_, fun _ _ e => (nomatch e)⟩
  cases e
  refine reads (op := 0x39) (by simp (disch := decide) only [opByte, BitVec.extractLsb'_append_eq_of_le, Nat.reduceSub, BitVec.extractLsb'_eq_self]; rfl) (by decide) (by decide) ?_
  show (rowFmulF64 _) = _
  simp (disch := decide) only [rowFmulF64, BitVec.extractLsb'_append_eq_of_le, BitVec.extractLsb'_append_eq_of_add_le, Nat.reduceSub, BitVec.extractLsb'_eq_self]
  rfl

theorem ffmaF64 (g : Guard) (d : BitVec 6) (a : BitVec 6) (b : BitVec 6) : Statement (.ffmaF64 g d a b) := by
  refine fun hw => ⟨fun w e => ?_, fun _ _ e => (nomatch e)⟩
  cases e
  refine reads (op := 0x3A) (by simp (disch := decide) only [opByte, BitVec.extractLsb'_append_eq_of_le, Nat.reduceSub, BitVec.extractLsb'_eq_self]; rfl) (by decide) (by decide) ?_
  show (rowFfmaF64 _) = _
  simp (disch := decide) only [rowFfmaF64, BitVec.extractLsb'_append_eq_of_le, BitVec.extractLsb'_append_eq_of_add_le, Nat.reduceSub, BitVec.extractLsb'_eq_self]
  rfl

theorem tsumF32 (g : Guard) (d : BitVec 6) (a : BitVec 6) (b : BitVec 6) (h : BitVec 2) : Statement (.tsumF32 g d a b h) := by
  refine fun hw => ⟨fun w e => ?_, fun _ _ e => (nomatch e)⟩
  cases e
  refine reads (op := 0x3B) (by simp (disch := decide) only [opByte, BitVec.extractLsb'_append_eq_of_le, Nat.reduceSub, BitVec.extractLsb'_eq_self]; rfl) (by decide) (by decide) ?_
  show (rowTsumF32 _) = _
  simp (disch := decide) only [rowTsumF32, BitVec.extractLsb'_append_eq_of_le, BitVec.extractLsb'_append_eq_of_add_le, Nat.reduceSub, BitVec.extractLsb'_eq_self]

theorem cvt (g : Guard) (d : BitVec 6) (a : BitVec 6) (f : BitVec 4) (t : BitVec 4) : Statement (.cvt g d a f t) := by
  refine fun hw => ⟨fun w e => ?_, fun _ _ e => (nomatch e)⟩
  cases e
  refine reads (op := 0x3C) (by simp (disch := decide) only [opByte, BitVec.extractLsb'_append_eq_of_le, Nat.reduceSub, BitVec.extractLsb'_eq_self]; rfl) (by decide) (by decide) ?_
  show (rowCvt _) = _
  simp (disch := decide) only [rowCvt, BitVec.extractLsb'_append_eq_of_le, BitVec.extractLsb'_append_eq_of_add_le, Nat.reduceSub, BitVec.extractLsb'_eq_self]

theorem f2fx (g : Guard) (d : BitVec 6) (a : BitVec 6) (q : BitVec 1) (x : BitVec 1) (k : BitVec 6) : Statement (.f2fx g d a q x k) := by
  refine fun hw => ⟨fun w e => ?_, fun _ _ e => (nomatch e)⟩
  cases e
  refine reads (op := 0x3D) (by simp (disch := decide) only [opByte, BitVec.extractLsb'_append_eq_of_le, Nat.reduceSub, BitVec.extractLsb'_eq_self]; rfl) (by decide) (by decide) ?_
  show (rowF2fx _) = _
  simp (disch := decide) only [rowF2fx, BitVec.extractLsb'_append_eq_of_le, BitVec.extractLsb'_append_eq_of_add_le, Nat.reduceSub, BitVec.extractLsb'_eq_self]

theorem fx2f (g : Guard) (d : BitVec 6) (a : BitVec 6) (q : BitVec 1) (x : BitVec 1) (k : BitVec 6) : Statement (.fx2f g d a q x k) := by
  refine fun hw => ⟨fun w e => ?_, fun _ _ e => (nomatch e)⟩
  cases e
  refine reads (op := 0x3E) (by simp (disch := decide) only [opByte, BitVec.extractLsb'_append_eq_of_le, Nat.reduceSub, BitVec.extractLsb'_eq_self]; rfl) (by decide) (by decide) ?_
  show (rowFx2f _) = _
  simp (disch := decide) only [rowFx2f, BitVec.extractLsb'_append_eq_of_le, BitVec.extractLsb'_append_eq_of_add_le, Nat.reduceSub, BitVec.extractLsb'_eq_self]

theorem idp4s (g : Guard) (d : BitVec 6) (a : BitVec 6) (b : BitVec 6) (h : BitVec 2) : Statement (.idp4s g d a b h) := by
  refine fun hw => ⟨fun w e => ?_, fun _ _ e => (nomatch e)⟩
  cases e
  refine reads (op := 0x3F) (by simp (disch := decide) only [opByte, BitVec.extractLsb'_append_eq_of_le, Nat.reduceSub, BitVec.extractLsb'_eq_self]; rfl) (by decide) (by decide) ?_
  show (rowIdp4s _) = _
  simp (disch := decide) only [rowIdp4s, BitVec.extractLsb'_append_eq_of_le, BitVec.extractLsb'_append_eq_of_add_le, Nat.reduceSub, BitVec.extractLsb'_eq_self]

theorem idp4u (g : Guard) (d : BitVec 6) (a : BitVec 6) (b : BitVec 6) (h : BitVec 2) : Statement (.idp4u g d a b h) := by
  refine fun hw => ⟨fun w e => ?_, fun _ _ e => (nomatch e)⟩
  cases e
  refine reads (op := 0x40) (by simp (disch := decide) only [opByte, BitVec.extractLsb'_append_eq_of_le, Nat.reduceSub, BitVec.extractLsb'_eq_self]; rfl) (by decide) (by decide) ?_
  show (rowIdp4u _) = _
  simp (disch := decide) only [rowIdp4u, BitVec.extractLsb'_append_eq_of_le, BitVec.extractLsb'_append_eq_of_add_le, Nat.reduceSub, BitVec.extractLsb'_eq_self]

theorem tdec (g : Guard) (d : BitVec 6) (a : BitVec 6) (f : BitVec 1) (x : BitVec 1) (s : BitVec 2) : Statement (.tdec g d a f x s) := by
  refine fun hw => ⟨fun w e => ?_, fun _ _ e => (nomatch e)⟩
  cases e
  refine reads (op := 0x41) (by simp (disch := decide) only [opByte, BitVec.extractLsb'_append_eq_of_le, Nat.reduceSub, BitVec.extractLsb'_eq_self]; rfl) (by decide) (by decide) ?_
  show (rowTdec _) = _
  simp (disch := decide) only [rowTdec, BitVec.extractLsb'_append_eq_of_le, BitVec.extractLsb'_append_eq_of_add_le, Nat.reduceSub, BitVec.extractLsb'_eq_self]
  rfl

theorem tenc (g : Guard) (d : BitVec 6) (a : BitVec 6) (f : BitVec 1) (x : BitVec 1) (s : BitVec 2) : Statement (.tenc g d a f x s) := by
  refine fun hw => ⟨fun w e => ?_, fun _ _ e => (nomatch e)⟩
  cases e
  refine reads (op := 0x42) (by simp (disch := decide) only [opByte, BitVec.extractLsb'_append_eq_of_le, Nat.reduceSub, BitVec.extractLsb'_eq_self]; rfl) (by decide) (by decide) ?_
  show (rowTenc _) = _
  simp (disch := decide) only [rowTenc, BitVec.extractLsb'_append_eq_of_le, BitVec.extractLsb'_append_eq_of_add_le, Nat.reduceSub, BitVec.extractLsb'_eq_self]
  rfl

theorem tblo (g : Guard) (d : BitVec 6) (a : BitVec 6) (b : BitVec 6) (h : BitVec 2) : Statement (.tblo g d a b h) := by
  refine fun hw => ⟨fun w e => ?_, fun _ _ e => (nomatch e)⟩
  cases e
  refine reads (op := 0x43) (by simp (disch := decide) only [opByte, BitVec.extractLsb'_append_eq_of_le, Nat.reduceSub, BitVec.extractLsb'_eq_self]; rfl) (by decide) (by decide) ?_
  show (rowTblo _) = _
  simp (disch := decide) only [rowTblo, BitVec.extractLsb'_append_eq_of_le, BitVec.extractLsb'_append_eq_of_add_le, Nat.reduceSub, BitVec.extractLsb'_eq_self]

theorem tbhi (g : Guard) (d : BitVec 6) (a : BitVec 6) (b : BitVec 6) (h : BitVec 2) : Statement (.tbhi g d a b h) := by
  refine fun hw => ⟨fun w e => ?_, fun _ _ e => (nomatch e)⟩
  cases e
  refine reads (op := 0x44) (by simp (disch := decide) only [opByte, BitVec.extractLsb'_append_eq_of_le, Nat.reduceSub, BitVec.extractLsb'_eq_self]; rfl) (by decide) (by decide) ?_
  show (rowTbhi _) = _
  simp (disch := decide) only [rowTbhi, BitVec.extractLsb'_append_eq_of_le, BitVec.extractLsb'_append_eq_of_add_le, Nat.reduceSub, BitVec.extractLsb'_eq_self]

theorem bsel (g : Guard) (d : BitVec 6) (a : BitVec 6) (b : BitVec 6) (h : BitVec 2) : Statement (.bsel g d a b h) := by
  refine fun hw => ⟨fun w e => ?_, fun _ _ e => (nomatch e)⟩
  cases e
  refine reads (op := 0x45) (by simp (disch := decide) only [opByte, BitVec.extractLsb'_append_eq_of_le, Nat.reduceSub, BitVec.extractLsb'_eq_self]; rfl) (by decide) (by decide) ?_
  show (rowBsel _) = _
  simp (disch := decide) only [rowBsel, BitVec.extractLsb'_append_eq_of_le, BitVec.extractLsb'_append_eq_of_add_le, Nat.reduceSub, BitVec.extractLsb'_eq_self]

theorem shfl (g : Guard) (d : BitVec 6) (a : BitVec 6) (b : BitVec 6) (h : BitVec 2) : Statement (.shfl g d a b h) := by
  refine fun hw => ⟨fun w e => ?_, fun _ _ e => (nomatch e)⟩
  cases e
  refine reads (op := 0x46) (by simp (disch := decide) only [opByte, BitVec.extractLsb'_append_eq_of_le, Nat.reduceSub, BitVec.extractLsb'_eq_self]; rfl) (by decide) (by decide) ?_
  show (rowShfl _) = _
  simp (disch := decide) only [rowShfl, BitVec.extractLsb'_append_eq_of_le, BitVec.extractLsb'_append_eq_of_add_le, Nat.reduceSub, BitVec.extractLsb'_eq_self]

theorem shfli (g : Guard) (d : BitVec 6) (a : BitVec 6) (i : BitVec 8) : Statement (.shfli g d a i) := by
  refine fun hw => ⟨fun w e => ?_, fun _ _ e => (nomatch e)⟩
  cases e
  refine reads (op := 0x47) (by simp (disch := decide) only [opByte, BitVec.extractLsb'_append_eq_of_le, Nat.reduceSub, BitVec.extractLsb'_eq_self]; rfl) (by decide) (by decide) ?_
  show (rowShfli _) = _
  simp (disch := decide) only [rowShfli, BitVec.extractLsb'_append_eq_of_le, BitVec.extractLsb'_append_eq_of_add_le, Nat.reduceSub, BitVec.extractLsb'_eq_self]

theorem vote (g : Guard) (d : BitVec 6) (s : BitVec 3) (o : BitVec 8) : Statement (.vote g d s o) := by
  refine fun hw => ⟨fun w e => ?_, fun _ _ e => (nomatch e)⟩
  cases e
  refine reads (op := 0x48) (by simp (disch := decide) only [opByte, BitVec.extractLsb'_append_eq_of_le, Nat.reduceSub, BitVec.extractLsb'_eq_self]; rfl) (by decide) (by decide) ?_
  show (rowVote _) = _
  simp (disch := decide) only [rowVote, BitVec.extractLsb'_append_eq_of_le, BitVec.extractLsb'_append_eq_of_add_le, Nat.reduceSub, BitVec.extractLsb'_eq_self]
  rfl

theorem lred (g : Guard) (d : BitVec 6) (a : BitVec 6) (o : BitVec 4) : Statement (.lred g d a o) := by
  refine fun hw => ⟨fun w e => ?_, fun _ _ e => (nomatch e)⟩
  cases e
  refine reads (op := 0x49) (by simp (disch := decide) only [opByte, BitVec.extractLsb'_append_eq_of_le, Nat.reduceSub, BitVec.extractLsb'_eq_self]; rfl) (by decide) (by decide) ?_
  show (rowLred _) = _
  simp (disch := decide) only [rowLred, BitVec.extractLsb'_append_eq_of_le, BitVec.extractLsb'_append_eq_of_add_le, Nat.reduceSub, BitVec.extractLsb'_eq_self]
  rfl

theorem lscan (g : Guard) (d : BitVec 6) (a : BitVec 6) (e : BitVec 1) (o : BitVec 4) : Statement (.lscan g d a e o) := by
  refine fun hw => ⟨fun w e => ?_, fun _ _ e => (nomatch e)⟩
  cases e
  refine reads (op := 0x4A) (by simp (disch := decide) only [opByte, BitVec.extractLsb'_append_eq_of_le, Nat.reduceSub, BitVec.extractLsb'_eq_self]; rfl) (by decide) (by decide) ?_
  show (rowLscan _) = _
  simp (disch := decide) only [rowLscan, BitVec.extractLsb'_append_eq_of_le, BitVec.extractLsb'_append_eq_of_add_le, Nat.reduceSub, BitVec.extractLsb'_eq_self]
  rfl

theorem lprev (g : Guard) (d : BitVec 6) (a : BitVec 6) (b : BitVec 6) (h : BitVec 2) : Statement (.lprev g d a b h) := by
  refine fun hw => ⟨fun w e => ?_, fun _ _ e => (nomatch e)⟩
  cases e
  refine reads (op := 0x4B) (by simp (disch := decide) only [opByte, BitVec.extractLsb'_append_eq_of_le, Nat.reduceSub, BitVec.extractLsb'_eq_self]; rfl) (by decide) (by decide) ?_
  show (rowLprev _) = _
  simp (disch := decide) only [rowLprev, BitVec.extractLsb'_append_eq_of_le, BitVec.extractLsb'_append_eq_of_add_le, Nat.reduceSub, BitVec.extractLsb'_eq_self]

theorem rdi (g : Guard) (d : BitVec 6) (a : BitVec 6) (h : BitVec 1) : Statement (.rdi g d a h) := by
  refine fun hw => ⟨fun w e => ?_, fun _ _ e => (nomatch e)⟩
  cases e
  refine reads (op := 0x4C) (by simp (disch := decide) only [opByte, BitVec.extractLsb'_append_eq_of_le, Nat.reduceSub, BitVec.extractLsb'_eq_self]; rfl) (by decide) (by decide) ?_
  show (rowRdi _) = _
  simp (disch := decide) only [rowRdi, BitVec.extractLsb'_append_eq_of_le, BitVec.extractLsb'_append_eq_of_add_le, Nat.reduceSub, BitVec.extractLsb'_eq_self]
  rfl

theorem wri (g : Guard) (a : BitVec 6) (b : BitVec 6) (h : BitVec 2) : Statement (.wri g a b h) := by
  refine fun hw => ⟨fun w e => ?_, fun _ _ e => (nomatch e)⟩
  cases e
  refine reads (op := 0x4D) (by simp (disch := decide) only [opByte, BitVec.extractLsb'_append_eq_of_le, Nat.reduceSub, BitVec.extractLsb'_eq_self]; rfl) (by decide) (by decide) ?_
  show (rowWri _) = _
  simp (disch := decide) only [rowWri, BitVec.extractLsb'_append_eq_of_le, BitVec.extractLsb'_append_eq_of_add_le, Nat.reduceSub, BitVec.extractLsb'_eq_self]
  rfl

theorem ldl (g : Guard) (d : BitVec 6) (a : BitVec 6) (w : BitVec 4) (s : BitVec 2) : Statement (.ldl g d a w s) := by
  refine fun hw => ⟨fun w e => ?_, fun _ _ e => (nomatch e)⟩
  cases e
  refine reads (op := 0x4E) (by simp (disch := decide) only [opByte, BitVec.extractLsb'_append_eq_of_le, Nat.reduceSub, BitVec.extractLsb'_eq_self]; rfl) (by decide) (by decide) ?_
  show (rowLdl _) = _
  simp (disch := decide) only [rowLdl, BitVec.extractLsb'_append_eq_of_le, BitVec.extractLsb'_append_eq_of_add_le, Nat.reduceSub, BitVec.extractLsb'_eq_self]
  rfl

theorem ldlfe (g : Guard) (d : BitVec 6) (a : BitVec 6) (w : BitVec 4) (c : BitVec 1) (s : BitVec 2) : Statement (.ldlfe g d a w c s) := by
  refine fun hw => ⟨fun w e => ?_, fun _ _ e => (nomatch e)⟩
  cases e
  refine reads (op := 0x4F) (by simp (disch := decide) only [opByte, BitVec.extractLsb'_append_eq_of_le, Nat.reduceSub, BitVec.extractLsb'_eq_self]; rfl) (by decide) (by decide) ?_
  show (rowLdlfe _) = _
  simp (disch := decide) only [rowLdlfe, BitVec.extractLsb'_append_eq_of_le, BitVec.extractLsb'_append_eq_of_add_le, Nat.reduceSub, BitVec.extractLsb'_eq_self]
  rfl

theorem stl (g : Guard) (d : BitVec 6) (a : BitVec 6) (w : BitVec 4) (s : BitVec 2) : Statement (.stl g d a w s) := by
  refine fun hw => ⟨fun w e => ?_, fun _ _ e => (nomatch e)⟩
  cases e
  refine reads (op := 0x50) (by simp (disch := decide) only [opByte, BitVec.extractLsb'_append_eq_of_le, Nat.reduceSub, BitVec.extractLsb'_eq_self]; rfl) (by decide) (by decide) ?_
  show (rowStl _) = _
  simp (disch := decide) only [rowStl, BitVec.extractLsb'_append_eq_of_le, BitVec.extractLsb'_append_eq_of_add_le, Nat.reduceSub, BitVec.extractLsb'_eq_self]
  rfl

theorem stlfe (g : Guard) (d : BitVec 6) (a : BitVec 6) (w : BitVec 4) (s : BitVec 2) : Statement (.stlfe g d a w s) := by
  refine fun hw => ⟨fun w e => ?_, fun _ _ e => (nomatch e)⟩
  cases e
  refine reads (op := 0x51) (by simp (disch := decide) only [opByte, BitVec.extractLsb'_append_eq_of_le, Nat.reduceSub, BitVec.extractLsb'_eq_self]; rfl) (by decide) (by decide) ?_
  show (rowStlfe _) = _
  simp (disch := decide) only [rowStlfe, BitVec.extractLsb'_append_eq_of_le, BitVec.extractLsb'_append_eq_of_add_le, Nat.reduceSub, BitVec.extractLsb'_eq_self]
  rfl

theorem atoml (g : Guard) (d : BitVec 6) (a : BitVec 6) (w : BitVec 4) (s : BitVec 2) : Statement (.atoml g d a w s) := by
  refine fun hw => ⟨fun w e => ?_, fun _ _ e => (nomatch e)⟩
  cases e
  refine reads (op := 0x52) (by simp (disch := decide) only [opByte, BitVec.extractLsb'_append_eq_of_le, Nat.reduceSub, BitVec.extractLsb'_eq_self]; rfl) (by decide) (by decide) ?_
  show (rowAtoml _) = _
  simp (disch := decide) only [rowAtoml, BitVec.extractLsb'_append_eq_of_le, BitVec.extractLsb'_append_eq_of_add_le, Nat.reduceSub, BitVec.extractLsb'_eq_self]
  rfl

theorem ldg (g : Guard) (d : BitVec 6) (a : BitVec 6) (w : BitVec 4) (o : BitVec 2) (s : BitVec 2) : Statement (.ldg g d a w o s) := by
  refine fun hw => ⟨fun w e => ?_, fun _ _ e => (nomatch e)⟩
  cases e
  refine reads (op := 0x53) (by simp (disch := decide) only [opByte, BitVec.extractLsb'_append_eq_of_le, Nat.reduceSub, BitVec.extractLsb'_eq_self]; rfl) (by decide) (by decide) ?_
  show (rowLdg _) = _
  simp (disch := decide) only [rowLdg, BitVec.extractLsb'_append_eq_of_le, BitVec.extractLsb'_append_eq_of_add_le, Nat.reduceSub, BitVec.extractLsb'_eq_self]

theorem ldgc (g : Guard) (d : BitVec 6) (a : BitVec 6) (w : BitVec 4) (o : BitVec 2) (s : BitVec 2) : Statement (.ldgc g d a w o s) := by
  refine fun hw => ⟨fun w e => ?_, fun _ _ e => (nomatch e)⟩
  cases e
  refine reads (op := 0x54) (by simp (disch := decide) only [opByte, BitVec.extractLsb'_append_eq_of_le, Nat.reduceSub, BitVec.extractLsb'_eq_self]; rfl) (by decide) (by decide) ?_
  show (rowLdgc _) = _
  simp (disch := decide) only [rowLdgc, BitVec.extractLsb'_append_eq_of_le, BitVec.extractLsb'_append_eq_of_add_le, Nat.reduceSub, BitVec.extractLsb'_eq_self]

theorem stg (g : Guard) (d : BitVec 6) (a : BitVec 6) (w : BitVec 4) (o : BitVec 2) (s : BitVec 2) : Statement (.stg g d a w o s) := by
  refine fun hw => ⟨fun w e => ?_, fun _ _ e => (nomatch e)⟩
  cases e
  refine reads (op := 0x55) (by simp (disch := decide) only [opByte, BitVec.extractLsb'_append_eq_of_le, Nat.reduceSub, BitVec.extractLsb'_eq_self]; rfl) (by decide) (by decide) ?_
  show (rowStg _) = _
  simp (disch := decide) only [rowStg, BitVec.extractLsb'_append_eq_of_le, BitVec.extractLsb'_append_eq_of_add_le, Nat.reduceSub, BitVec.extractLsb'_eq_self]

theorem atomga (g : Guard) (d : BitVec 6) (a : BitVec 6) (w : BitVec 4) (o : BitVec 2) (s : BitVec 2) : Statement (.atomga g d a w o s) := by
  refine fun hw => ⟨fun w e => ?_, fun _ _ e => (nomatch e)⟩
  cases e
  refine reads (op := 0x56) (by simp (disch := decide) only [opByte, BitVec.extractLsb'_append_eq_of_le, Nat.reduceSub, BitVec.extractLsb'_eq_self]; rfl) (by decide) (by decide) ?_
  show (rowAtomga _) = _
  simp (disch := decide) only [rowAtomga, BitVec.extractLsb'_append_eq_of_le, BitVec.extractLsb'_append_eq_of_add_le, Nat.reduceSub, BitVec.extractLsb'_eq_self]

theorem atomgb (g : Guard) (d : BitVec 6) (a : BitVec 6) (w : BitVec 4) (o : BitVec 2) (s : BitVec 2) : Statement (.atomgb g d a w o s) := by
  refine fun hw => ⟨fun w e => ?_, fun _ _ e => (nomatch e)⟩
  cases e
  refine reads (op := 0x57) (by simp (disch := decide) only [opByte, BitVec.extractLsb'_append_eq_of_le, Nat.reduceSub, BitVec.extractLsb'_eq_self]; rfl) (by decide) (by decide) ?_
  show (rowAtomgb _) = _
  simp (disch := decide) only [rowAtomgb, BitVec.extractLsb'_append_eq_of_le, BitVec.extractLsb'_append_eq_of_add_le, Nat.reduceSub, BitVec.extractLsb'_eq_self]

theorem atomg64 (g : Guard) (d : BitVec 6) (a : BitVec 6) (w : BitVec 4) (o : BitVec 2) (s : BitVec 2) : Statement (.atomg64 g d a w o s) := by
  refine fun hw => ⟨fun w e => ?_, fun _ _ e => (nomatch e)⟩
  cases e
  refine reads (op := 0x58) (by simp (disch := decide) only [opByte, BitVec.extractLsb'_append_eq_of_le, Nat.reduceSub, BitVec.extractLsb'_eq_self]; rfl) (by decide) (by decide) ?_
  show (rowAtomg64 _) = _
  simp (disch := decide) only [rowAtomg64, BitVec.extractLsb'_append_eq_of_le, BitVec.extractLsb'_append_eq_of_add_le, Nat.reduceSub, BitVec.extractLsb'_eq_self]

theorem redg (g : Guard) (d : BitVec 6) (a : BitVec 6) (w : BitVec 4) (o : BitVec 2) (s : BitVec 2) : Statement (.redg g d a w o s) := by
  refine fun hw => ⟨fun w e => ?_, fun _ _ e => (nomatch e)⟩
  cases e
  refine reads (op := 0x59) (by simp (disch := decide) only [opByte, BitVec.extractLsb'_append_eq_of_le, Nat.reduceSub, BitVec.extractLsb'_eq_self]; rfl) (by decide) (by decide) ?_
  show (rowRedg _) = _
  simp (disch := decide) only [rowRedg, BitVec.extractLsb'_append_eq_of_le, BitVec.extractLsb'_append_eq_of_add_le, Nat.reduceSub, BitVec.extractLsb'_eq_self]

theorem xfer (g : Guard) (d : BitVec 6) (a : BitVec 6) (b : BitVec 6) (m : BitVec 1) : Statement (.xfer g d a b m) := by
  refine fun hw => ⟨fun w e => ?_, fun _ _ e => (nomatch e)⟩
  cases e
  refine reads (op := 0x5A) (by simp (disch := decide) only [opByte, BitVec.extractLsb'_append_eq_of_le, Nat.reduceSub, BitVec.extractLsb'_eq_self]; rfl) (by decide) (by decide) ?_
  show (rowXfer _) = _
  simp (disch := decide) only [rowXfer, BitVec.extractLsb'_append_eq_of_le, BitVec.extractLsb'_append_eq_of_add_le, Nat.reduceSub, BitVec.extractLsb'_eq_self]
  rfl

theorem fld (g : Guard) (d : BitVec 6) (a : BitVec 6) (h : BitVec 2) : Statement (.fld g d a h) := by
  refine fun hw => ⟨fun w e => ?_, fun _ _ e => (nomatch e)⟩
  cases e
  refine reads (op := 0x5B) (by simp (disch := decide) only [opByte, BitVec.extractLsb'_append_eq_of_le, Nat.reduceSub, BitVec.extractLsb'_eq_self]; rfl) (by decide) (by decide) ?_
  show (rowFld _) = _
  simp (disch := decide) only [rowFld, BitVec.extractLsb'_append_eq_of_le, BitVec.extractLsb'_append_eq_of_add_le, Nat.reduceSub, BitVec.extractLsb'_eq_self]
  rfl

theorem coll (g : Guard) (d : BitVec 6) (a : BitVec 6) (b : BitVec 6) (o : BitVec 2) : Statement (.coll g d a b o) := by
  refine fun hw => ⟨fun w e => ?_, fun _ _ e => (nomatch e)⟩
  cases e
  refine reads (op := 0x5C) (by simp (disch := decide) only [opByte, BitVec.extractLsb'_append_eq_of_le, Nat.reduceSub, BitVec.extractLsb'_eq_self]; rfl) (by decide) (by decide) ?_
  show (rowColl _) = _
  simp (disch := decide) only [rowColl, BitVec.extractLsb'_append_eq_of_le, BitVec.extractLsb'_append_eq_of_add_le, Nat.reduceSub, BitVec.extractLsb'_eq_self]

theorem sysc (g : Guard) (i : BitVec 8) : Statement (.sysc g i) := by
  refine fun hw => ⟨fun w e => ?_, fun _ _ e => (nomatch e)⟩
  cases e
  refine reads (op := 0x5D) (by simp (disch := decide) only [opByte, BitVec.extractLsb'_append_eq_of_le, Nat.reduceSub, BitVec.extractLsb'_eq_self]; rfl) (by decide) (by decide) ?_
  show (rowSysc _) = _
  simp (disch := decide) only [rowSysc, BitVec.extractLsb'_append_eq_of_le, BitVec.extractLsb'_append_eq_of_add_le, Nat.reduceSub, BitVec.extractLsb'_eq_self]
  rfl

theorem xw (r : BitVec 3) (c : BitVec 3) (s : BitVec 1) (m : BitVec 3) (t : BitVec 6) (p : BitVec 2) (w : Word) : Statement (.xw r c s m t p w) := by
  refine fun _ => ⟨fun _ e => (nomatch e), fun w f e => ?_⟩
  cases e
  constructor
  · simp (disch := decide) only [opByte, BitVec.extractLsb'_append_eq_of_le, Nat.reduceSub, BitVec.extractLsb'_eq_self]
    rfl
  · simp (disch := decide) only [rowXw, BitVec.extractLsb'_append_eq_of_le, BitVec.extractLsb'_append_eq_of_add_le, Nat.reduceSub, BitVec.extractLsb'_eq_self]
    rfl

theorem nop : Statement .nop := by
  refine fun _ => ⟨fun w e => ?_, fun _ _ e => (nomatch e)⟩
  cases e
  decide

theorem uadd (d : BitVec 5) (a : BitVec 5) (b : BitVec 5) : Statement (.uadd d a b) := by
  refine fun hw => ⟨fun w e => ?_, fun _ _ e => (nomatch e)⟩
  cases e
  refine reads (op := 0x81) (by simp (disch := decide) only [opByte, BitVec.extractLsb'_append_eq_of_le, Nat.reduceSub, BitVec.extractLsb'_eq_self]; rfl) (by decide) (by decide) ?_
  show (rowUadd _) = _
  simp (disch := decide) only [rowUadd, BitVec.extractLsb'_append_eq_of_le, BitVec.extractLsb'_append_eq_of_add_le, Nat.reduceSub, BitVec.extractLsb'_eq_self]
  rfl

theorem uaddi (d : BitVec 5) (a : BitVec 5) (i : BitVec 14) : Statement (.uaddi d a i) := by
  refine fun hw => ⟨fun w e => ?_, fun _ _ e => (nomatch e)⟩
  cases e
  refine reads (op := 0x82) (by simp (disch := decide) only [opByte, BitVec.extractLsb'_append_eq_of_le, Nat.reduceSub, BitVec.extractLsb'_eq_self]; rfl) (by decide) (by decide) ?_
  show (rowUaddi _) = _
  simp (disch := decide) only [rowUaddi, BitVec.extractLsb'_append_eq_of_le, BitVec.extractLsb'_append_eq_of_add_le, Nat.reduceSub, BitVec.extractLsb'_eq_self]

theorem usub (d : BitVec 5) (a : BitVec 5) (b : BitVec 5) : Statement (.usub d a b) := by
  refine fun hw => ⟨fun w e => ?_, fun _ _ e => (nomatch e)⟩
  cases e
  refine reads (op := 0x83) (by simp (disch := decide) only [opByte, BitVec.extractLsb'_append_eq_of_le, Nat.reduceSub, BitVec.extractLsb'_eq_self]; rfl) (by decide) (by decide) ?_
  show (rowUsub _) = _
  simp (disch := decide) only [rowUsub, BitVec.extractLsb'_append_eq_of_le, BitVec.extractLsb'_append_eq_of_add_le, Nat.reduceSub, BitVec.extractLsb'_eq_self]
  rfl

theorem umul (d : BitVec 5) (a : BitVec 5) (b : BitVec 5) : Statement (.umul d a b) := by
  refine fun hw => ⟨fun w e => ?_, fun _ _ e => (nomatch e)⟩
  cases e
  refine reads (op := 0x84) (by simp (disch := decide) only [opByte, BitVec.extractLsb'_append_eq_of_le, Nat.reduceSub, BitVec.extractLsb'_eq_self]; rfl) (by decide) (by decide) ?_
  show (rowUmul _) = _
  simp (disch := decide) only [rowUmul, BitVec.extractLsb'_append_eq_of_le, BitVec.extractLsb'_append_eq_of_add_le, Nat.reduceSub, BitVec.extractLsb'_eq_self]
  rfl

theorem uand (d : BitVec 5) (a : BitVec 5) (b : BitVec 5) : Statement (.uand d a b) := by
  refine fun hw => ⟨fun w e => ?_, fun _ _ e => (nomatch e)⟩
  cases e
  refine reads (op := 0x85) (by simp (disch := decide) only [opByte, BitVec.extractLsb'_append_eq_of_le, Nat.reduceSub, BitVec.extractLsb'_eq_self]; rfl) (by decide) (by decide) ?_
  show (rowUand _) = _
  simp (disch := decide) only [rowUand, BitVec.extractLsb'_append_eq_of_le, BitVec.extractLsb'_append_eq_of_add_le, Nat.reduceSub, BitVec.extractLsb'_eq_self]
  rfl

theorem uor (d : BitVec 5) (a : BitVec 5) (b : BitVec 5) : Statement (.uor d a b) := by
  refine fun hw => ⟨fun w e => ?_, fun _ _ e => (nomatch e)⟩
  cases e
  refine reads (op := 0x86) (by simp (disch := decide) only [opByte, BitVec.extractLsb'_append_eq_of_le, Nat.reduceSub, BitVec.extractLsb'_eq_self]; rfl) (by decide) (by decide) ?_
  show (rowUor _) = _
  simp (disch := decide) only [rowUor, BitVec.extractLsb'_append_eq_of_le, BitVec.extractLsb'_append_eq_of_add_le, Nat.reduceSub, BitVec.extractLsb'_eq_self]
  rfl

theorem uxor (d : BitVec 5) (a : BitVec 5) (b : BitVec 5) : Statement (.uxor d a b) := by
  refine fun hw => ⟨fun w e => ?_, fun _ _ e => (nomatch e)⟩
  cases e
  refine reads (op := 0x87) (by simp (disch := decide) only [opByte, BitVec.extractLsb'_append_eq_of_le, Nat.reduceSub, BitVec.extractLsb'_eq_self]; rfl) (by decide) (by decide) ?_
  show (rowUxor _) = _
  simp (disch := decide) only [rowUxor, BitVec.extractLsb'_append_eq_of_le, BitVec.extractLsb'_append_eq_of_add_le, Nat.reduceSub, BitVec.extractLsb'_eq_self]
  rfl

theorem ushl (d : BitVec 5) (a : BitVec 5) (n : BitVec 6) : Statement (.ushl d a n) := by
  refine fun hw => ⟨fun w e => ?_, fun _ _ e => (nomatch e)⟩
  cases e
  refine reads (op := 0x88) (by simp (disch := decide) only [opByte, BitVec.extractLsb'_append_eq_of_le, Nat.reduceSub, BitVec.extractLsb'_eq_self]; rfl) (by decide) (by decide) ?_
  show (rowUshl _) = _
  simp (disch := decide) only [rowUshl, BitVec.extractLsb'_append_eq_of_le, BitVec.extractLsb'_append_eq_of_add_le, Nat.reduceSub, BitVec.extractLsb'_eq_self]
  rfl

theorem ushr (d : BitVec 5) (a : BitVec 5) (n : BitVec 6) : Statement (.ushr d a n) := by
  refine fun hw => ⟨fun w e => ?_, fun _ _ e => (nomatch e)⟩
  cases e
  refine reads (op := 0x89) (by simp (disch := decide) only [opByte, BitVec.extractLsb'_append_eq_of_le, Nat.reduceSub, BitVec.extractLsb'_eq_self]; rfl) (by decide) (by decide) ?_
  show (rowUshr _) = _
  simp (disch := decide) only [rowUshr, BitVec.extractLsb'_append_eq_of_le, BitVec.extractLsb'_append_eq_of_add_le, Nat.reduceSub, BitVec.extractLsb'_eq_self]
  rfl

theorem usar (d : BitVec 5) (a : BitVec 5) (n : BitVec 6) : Statement (.usar d a n) := by
  refine fun hw => ⟨fun w e => ?_, fun _ _ e => (nomatch e)⟩
  cases e
  refine reads (op := 0x8A) (by simp (disch := decide) only [opByte, BitVec.extractLsb'_append_eq_of_le, Nat.reduceSub, BitVec.extractLsb'_eq_self]; rfl) (by decide) (by decide) ?_
  show (rowUsar _) = _
  simp (disch := decide) only [rowUsar, BitVec.extractLsb'_append_eq_of_le, BitVec.extractLsb'_append_eq_of_add_le, Nat.reduceSub, BitVec.extractLsb'_eq_self]
  rfl

theorem umin (d : BitVec 5) (a : BitVec 5) (b : BitVec 5) (u : BitVec 1) : Statement (.umin d a b u) := by
  refine fun hw => ⟨fun w e => ?_, fun _ _ e => (nomatch e)⟩
  cases e
  refine reads (op := 0x8B) (by simp (disch := decide) only [opByte, BitVec.extractLsb'_append_eq_of_le, Nat.reduceSub, BitVec.extractLsb'_eq_self]; rfl) (by decide) (by decide) ?_
  show (rowUmin _) = _
  simp (disch := decide) only [rowUmin, BitVec.extractLsb'_append_eq_of_le, BitVec.extractLsb'_append_eq_of_add_le, Nat.reduceSub, BitVec.extractLsb'_eq_self]
  rfl

theorem umax (d : BitVec 5) (a : BitVec 5) (b : BitVec 5) (u : BitVec 1) : Statement (.umax d a b u) := by
  refine fun hw => ⟨fun w e => ?_, fun _ _ e => (nomatch e)⟩
  cases e
  refine reads (op := 0x8C) (by simp (disch := decide) only [opByte, BitVec.extractLsb'_append_eq_of_le, Nat.reduceSub, BitVec.extractLsb'_eq_self]; rfl) (by decide) (by decide) ?_
  show (rowUmax _) = _
  simp (disch := decide) only [rowUmax, BitVec.extractLsb'_append_eq_of_le, BitVec.extractLsb'_append_eq_of_add_le, Nat.reduceSub, BitVec.extractLsb'_eq_self]
  rfl

theorem umovi (d : BitVec 5) (i : BitVec 14) : Statement (.umovi d i) := by
  refine fun hw => ⟨fun w e => ?_, fun _ _ e => (nomatch e)⟩
  cases e
  refine reads (op := 0x8D) (by simp (disch := decide) only [opByte, BitVec.extractLsb'_append_eq_of_le, Nat.reduceSub, BitVec.extractLsb'_eq_self]; rfl) (by decide) (by decide) ?_
  show (rowUmovi _) = _
  simp (disch := decide) only [rowUmovi, BitVec.extractLsb'_append_eq_of_le, BitVec.extractLsb'_append_eq_of_add_le, Nat.reduceSub, BitVec.extractLsb'_eq_self]
  rfl

theorem umovhi (d : BitVec 5) (p : BitVec 5) (i : BitVec 14) : Statement (.umovhi d p i) := by
  refine fun hw => ⟨fun w e => ?_, fun _ _ e => (nomatch e)⟩
  cases e
  refine reads (op := 0x8E) (by simp (disch := decide) only [opByte, BitVec.extractLsb'_append_eq_of_le, Nat.reduceSub, BitVec.extractLsb'_eq_self]; rfl) (by decide) (by decide) ?_
  show (rowUmovhi _) = _
  simp (disch := decide) only [rowUmovhi, BitVec.extractLsb'_append_eq_of_le, BitVec.extractLsb'_append_eq_of_add_le, Nat.reduceSub, BitVec.extractLsb'_eq_self]

theorem umov (d : BitVec 5) (a : BitVec 5) : Statement (.umov d a) := by
  refine fun hw => ⟨fun w e => ?_, fun _ _ e => (nomatch e)⟩
  cases e
  refine reads (op := 0x8F) (by simp (disch := decide) only [opByte, BitVec.extractLsb'_append_eq_of_le, Nat.reduceSub, BitVec.extractLsb'_eq_self]; rfl) (by decide) (by decide) ?_
  show (rowUmov _) = _
  simp (disch := decide) only [rowUmov, BitVec.extractLsb'_append_eq_of_le, BitVec.extractLsb'_append_eq_of_add_le, Nat.reduceSub, BitVec.extractLsb'_eq_self]
  rfl

theorem br (p : BitVec 3) (c : BitVec 2) (o : BitVec 19) : Statement (.br p c o) := by
  refine fun hw => ⟨fun w e => ?_, fun _ _ e => (nomatch e)⟩
  cases e
  refine reads (op := 0x90) (by simp (disch := decide) only [opByte, BitVec.extractLsb'_append_eq_of_le, Nat.reduceSub, BitVec.extractLsb'_eq_self]; rfl) (by decide) (by decide) ?_
  show (rowBr _) = _
  simp (disch := decide) only [rowBr, BitVec.extractLsb'_append_eq_of_le, BitVec.extractLsb'_append_eq_of_add_le, Nat.reduceSub, BitVec.extractLsb'_eq_self]

theorem brs (p : BitVec 3) (c : BitVec 1) (o : BitVec 19) : Statement (.brs p c o) := by
  refine fun hw => ⟨fun w e => ?_, fun _ _ e => (nomatch e)⟩
  cases e
  refine reads (op := 0x91) (by simp (disch := decide) only [opByte, BitVec.extractLsb'_append_eq_of_le, Nat.reduceSub, BitVec.extractLsb'_eq_self]; rfl) (by decide) (by decide) ?_
  show (rowBrs _) = _
  simp (disch := decide) only [rowBrs, BitVec.extractLsb'_append_eq_of_le, BitVec.extractLsb'_append_eq_of_add_le, Nat.reduceSub, BitVec.extractLsb'_eq_self]
  rfl

theorem join : Statement .join := by
  refine fun _ => ⟨fun w e => ?_, fun _ _ e => (nomatch e)⟩
  cases e
  decide

theorem brt (i : BitVec 6) (t : BitVec 18) : Statement (.brt i t) := by
  refine fun hw => ⟨fun w e => ?_, fun _ _ e => (nomatch e)⟩
  cases e
  refine reads (op := 0x93) (by simp (disch := decide) only [opByte, BitVec.extractLsb'_append_eq_of_le, Nat.reduceSub, BitVec.extractLsb'_eq_self]; rfl) (by decide) (by decide) ?_
  show (rowBrt _) = _
  simp (disch := decide) only [rowBrt, BitVec.extractLsb'_append_eq_of_le, BitVec.extractLsb'_append_eq_of_add_le, Nat.reduceSub, BitVec.extractLsb'_eq_self]

theorem call (p : BitVec 3) (c : BitVec 2) (o : BitVec 19) : Statement (.call p c o) := by
  refine fun hw => ⟨fun w e => ?_, fun _ _ e => (nomatch e)⟩
  cases e
  refine reads (op := 0x94) (by simp (disch := decide) only [opByte, BitVec.extractLsb'_append_eq_of_le, Nat.reduceSub, BitVec.extractLsb'_eq_self]; rfl) (by decide) (by decide) ?_
  show (rowCall _) = _
  simp (disch := decide) only [rowCall, BitVec.extractLsb'_append_eq_of_le, BitVec.extractLsb'_append_eq_of_add_le, Nat.reduceSub, BitVec.extractLsb'_eq_self]

theorem ret : Statement .ret := by
  refine fun _ => ⟨fun w e => ?_, fun _ _ e => (nomatch e)⟩
  cases e
  decide

theorem callt (i : BitVec 6) (t : BitVec 18) : Statement (.callt i t) := by
  refine fun hw => ⟨fun w e => ?_, fun _ _ e => (nomatch e)⟩
  cases e
  refine reads (op := 0x96) (by simp (disch := decide) only [opByte, BitVec.extractLsb'_append_eq_of_le, Nat.reduceSub, BitVec.extractLsb'_eq_self]; rfl) (by decide) (by decide) ?_
  show (rowCallt _) = _
  simp (disch := decide) only [rowCallt, BitVec.extractLsb'_append_eq_of_le, BitVec.extractLsb'_append_eq_of_add_le, Nat.reduceSub, BitVec.extractLsb'_eq_self]

theorem ubr (a : BitVec 5) (b : BitVec 5) (c : BitVec 3) (o : BitVec 11) : Statement (.ubr a b c o) := by
  refine fun hw => ⟨fun w e => ?_, fun _ _ e => (nomatch e)⟩
  cases e
  refine reads (op := 0x97) (by simp (disch := decide) only [opByte, BitVec.extractLsb'_append_eq_of_le, Nat.reduceSub, BitVec.extractLsb'_eq_self]; rfl) (by decide) (by decide) ?_
  show (rowUbr _) = _
  simp (disch := decide) only [rowUbr, BitVec.extractLsb'_append_eq_of_le, BitVec.extractLsb'_append_eq_of_add_le, Nat.reduceSub, BitVec.extractLsb'_eq_self]

theorem twist : Statement .twist := by
  refine fun _ => ⟨fun w e => ?_, fun _ _ e => (nomatch e)⟩
  cases e
  decide

theorem exit : Statement .exit := by
  refine fun _ => ⟨fun w e => ?_, fun _ _ e => (nomatch e)⟩
  cases e
  decide

theorem wait (l : BitVec 4) (s : BitVec 4) (c : BitVec 4) (t : BitVec 3) (x : BitVec 3) : Statement (.wait l s c t x) := by
  refine fun hw => ⟨fun w e => ?_, fun _ _ e => (nomatch e)⟩
  cases e
  refine reads (op := 0x9A) (by simp (disch := decide) only [opByte, BitVec.extractLsb'_append_eq_of_le, Nat.reduceSub, BitVec.extractLsb'_eq_self]; rfl) (by decide) (by decide) ?_
  show (rowWait _) = _
  simp (disch := decide) only [rowWait, BitVec.extractLsb'_append_eq_of_le, BitVec.extractLsb'_append_eq_of_add_le, Nat.reduceSub, BitVec.extractLsb'_eq_self]
  rfl

theorem yield : Statement .yield := by
  refine fun _ => ⟨fun w e => ?_, fun _ _ e => (nomatch e)⟩
  cases e
  decide

theorem bar (n : BitVec 4) (c : BitVec 10) : Statement (.bar n c) := by
  refine fun hw => ⟨fun w e => ?_, fun _ _ e => (nomatch e)⟩
  cases e
  refine reads (op := 0x9C) (by simp (disch := decide) only [opByte, BitVec.extractLsb'_append_eq_of_le, Nat.reduceSub, BitVec.extractLsb'_eq_self]; rfl) (by decide) (by decide) ?_
  show (rowBar _) = _
  simp (disch := decide) only [rowBar, BitVec.extractLsb'_append_eq_of_le, BitVec.extractLsb'_append_eq_of_add_le, Nat.reduceSub, BitVec.extractLsb'_eq_self]
  rfl

theorem bara (n : BitVec 4) (c : BitVec 10) : Statement (.bara n c) := by
  refine fun hw => ⟨fun w e => ?_, fun _ _ e => (nomatch e)⟩
  cases e
  refine reads (op := 0x9D) (by simp (disch := decide) only [opByte, BitVec.extractLsb'_append_eq_of_le, Nat.reduceSub, BitVec.extractLsb'_eq_self]; rfl) (by decide) (by decide) ?_
  show (rowBara _) = _
  simp (disch := decide) only [rowBara, BitVec.extractLsb'_append_eq_of_le, BitVec.extractLsb'_append_eq_of_add_le, Nat.reduceSub, BitVec.extractLsb'_eq_self]
  rfl

theorem barw (n : BitVec 4) : Statement (.barw n) := by
  refine fun hw => ⟨fun w e => ?_, fun _ _ e => (nomatch e)⟩
  cases e
  refine reads (op := 0x9E) (by simp (disch := decide) only [opByte, BitVec.extractLsb'_append_eq_of_le, Nat.reduceSub, BitVec.extractLsb'_eq_self]; rfl) (by decide) (by decide) ?_
  show (rowBarw _) = _
  simp (disch := decide) only [rowBarw, BitVec.extractLsb'_append_eq_of_le, BitVec.extractLsb'_append_eq_of_add_le, Nat.reduceSub, BitVec.extractLsb'_eq_self]
  rfl

theorem sbar (l : BitVec 3) : Statement (.sbar l) := by
  refine fun hw => ⟨fun w e => ?_, fun _ _ e => (nomatch e)⟩
  cases e
  refine reads (op := 0x9F) (by simp (disch := decide) only [opByte, BitVec.extractLsb'_append_eq_of_le, Nat.reduceSub, BitVec.extractLsb'_eq_self]; rfl) (by decide) (by decide) ?_
  show (rowSbar _) = _
  simp (disch := decide) only [rowSbar, BitVec.extractLsb'_append_eq_of_le, BitVec.extractLsb'_append_eq_of_add_le, Nat.reduceSub, BitVec.extractLsb'_eq_self]
  rfl

theorem fence (s : BitVec 3) (k : BitVec 2) (c : BitVec 1) (x : BitVec 1) : Statement (.fence s k c x) := by
  refine fun hw => ⟨fun w e => ?_, fun _ _ e => (nomatch e)⟩
  cases e
  refine reads (op := 0xA0) (by simp (disch := decide) only [opByte, BitVec.extractLsb'_append_eq_of_le, Nat.reduceSub, BitVec.extractLsb'_eq_self]; rfl) (by decide) (by decide) ?_
  show (rowFence _) = _
  simp (disch := decide) only [rowFence, BitVec.extractLsb'_append_eq_of_le, BitVec.extractLsb'_append_eq_of_add_le, Nat.reduceSub, BitVec.extractLsb'_eq_self]
  rfl

theorem uld (d : BitVec 5) (a : BitVec 5) (i : BitVec 14) : Statement (.uld d a i) := by
  refine fun hw => ⟨fun w e => ?_, fun _ _ e => (nomatch e)⟩
  cases e
  refine reads (op := 0xA1) (by simp (disch := decide) only [opByte, BitVec.extractLsb'_append_eq_of_le, Nat.reduceSub, BitVec.extractLsb'_eq_self]; rfl) (by decide) (by decide) ?_
  show (rowUld _) = _
  simp (disch := decide) only [rowUld, BitVec.extractLsb'_append_eq_of_le, BitVec.extractLsb'_append_eq_of_add_le, Nat.reduceSub, BitVec.extractLsb'_eq_self]

theorem ust (d : BitVec 5) (a : BitVec 5) (i : BitVec 14) : Statement (.ust d a i) := by
  refine fun hw => ⟨fun w e => ?_, fun _ _ e => (nomatch e)⟩
  cases e
  refine reads (op := 0xA2) (by simp (disch := decide) only [opByte, BitVec.extractLsb'_append_eq_of_le, Nat.reduceSub, BitVec.extractLsb'_eq_self]; rfl) (by decide) (by decide) ?_
  show (rowUst _) = _
  simp (disch := decide) only [rowUst, BitVec.extractLsb'_append_eq_of_le, BitVec.extractLsb'_append_eq_of_add_le, Nat.reduceSub, BitVec.extractLsb'_eq_self]

theorem uown (a : BitVec 5) (p : BitVec 4) : Statement (.uown a p) := by
  refine fun hw => ⟨fun w e => ?_, fun _ _ e => (nomatch e)⟩
  cases e
  refine reads (op := 0xA3) (by simp (disch := decide) only [opByte, BitVec.extractLsb'_append_eq_of_le, Nat.reduceSub, BitVec.extractLsb'_eq_self]; rfl) (by decide) (by decide) ?_
  show (rowUown _) = _
  simp (disch := decide) only [rowUown, BitVec.extractLsb'_append_eq_of_le, BitVec.extractLsb'_append_eq_of_add_le, Nat.reduceSub, BitVec.extractLsb'_eq_self]
  rfl

theorem srdu (d : BitVec 5) (i : BitVec 14) : Statement (.srdu d i) := by
  refine fun hw => ⟨fun w e => ?_, fun _ _ e => (nomatch e)⟩
  cases e
  refine reads (op := 0xA4) (by simp (disch := decide) only [opByte, BitVec.extractLsb'_append_eq_of_le, Nat.reduceSub, BitVec.extractLsb'_eq_self]; rfl) (by decide) (by decide) ?_
  show (rowSrdu _) = _
  simp (disch := decide) only [rowSrdu, BitVec.extractLsb'_append_eq_of_le, BitVec.extractLsb'_append_eq_of_add_le, Nat.reduceSub, BitVec.extractLsb'_eq_self]
  rfl

theorem swr (a : BitVec 5) (i : BitVec 14) : Statement (.swr a i) := by
  refine fun hw => ⟨fun w e => ?_, fun _ _ e => (nomatch e)⟩
  cases e
  refine reads (op := 0xA5) (by simp (disch := decide) only [opByte, BitVec.extractLsb'_append_eq_of_le, Nat.reduceSub, BitVec.extractLsb'_eq_self]; rfl) (by decide) (by decide) ?_
  show (((rowSwrLsmode _).orElse fun _ => (rowSwrPcap _)).orElse fun _ => (rowSwr _)) = _
  simp (disch := decide) only [rowSwrLsmode, rowSwrPcap, rowSwr, BitVec.extractLsb'_append_eq_of_le, BitVec.extractLsb'_append_eq_of_add_le, Nat.reduceSub, BitVec.extractLsb'_eq_self]
  simp only [Instr.wf] at hw
  rw [if_neg (fun h => absurd h.2 (by intro hc; subst hc; exact absurd hw (by decide))),
    if_neg (fun h => absurd h.2 (by intro hc; subst hc; exact absurd hw (by decide)))]
  rfl

theorem swrLsmode (a : BitVec 5) : Statement (.swrLsmode a) := by
  refine fun hw => ⟨fun w e => ?_, fun _ _ e => (nomatch e)⟩
  cases e
  refine reads (op := 0xA5) (by simp (disch := decide) only [opByte, BitVec.extractLsb'_append_eq_of_le, Nat.reduceSub, BitVec.extractLsb'_eq_self]; rfl) (by decide) (by decide) ?_
  show (((rowSwrLsmode _).orElse fun _ => (rowSwrPcap _)).orElse fun _ => (rowSwr _)) = _
  simp (disch := decide) only [rowSwrLsmode, rowSwrPcap, rowSwr, BitVec.extractLsb'_append_eq_of_le, BitVec.extractLsb'_append_eq_of_add_le, Nat.reduceSub, BitVec.extractLsb'_eq_self]
  rfl

theorem swrPcap (a : BitVec 5) : Statement (.swrPcap a) := by
  refine fun hw => ⟨fun w e => ?_, fun _ _ e => (nomatch e)⟩
  cases e
  refine reads (op := 0xA5) (by simp (disch := decide) only [opByte, BitVec.extractLsb'_append_eq_of_le, Nat.reduceSub, BitVec.extractLsb'_eq_self]; rfl) (by decide) (by decide) ?_
  show (((rowSwrLsmode _).orElse fun _ => (rowSwrPcap _)).orElse fun _ => (rowSwr _)) = _
  simp (disch := decide) only [rowSwrLsmode, rowSwrPcap, rowSwr, BitVec.extractLsb'_append_eq_of_le, BitVec.extractLsb'_append_eq_of_add_le, Nat.reduceSub, BitVec.extractLsb'_eq_self]
  rfl

theorem rgrow (a : BitVec 5) : Statement (.rgrow a) := by
  refine fun hw => ⟨fun w e => ?_, fun _ _ e => (nomatch e)⟩
  cases e
  refine reads (op := 0xA6) (by simp (disch := decide) only [opByte, BitVec.extractLsb'_append_eq_of_le, Nat.reduceSub, BitVec.extractLsb'_eq_self]; rfl) (by decide) (by decide) ?_
  show (rowRgrow _) = _
  simp (disch := decide) only [rowRgrow, BitVec.extractLsb'_append_eq_of_le, BitVec.extractLsb'_append_eq_of_add_le, Nat.reduceSub, BitVec.extractLsb'_eq_self]
  rfl

theorem rgtry (d : BitVec 5) (a : BitVec 5) : Statement (.rgtry d a) := by
  refine fun hw => ⟨fun w e => ?_, fun _ _ e => (nomatch e)⟩
  cases e
  refine reads (op := 0xA7) (by simp (disch := decide) only [opByte, BitVec.extractLsb'_append_eq_of_le, Nat.reduceSub, BitVec.extractLsb'_eq_self]; rfl) (by decide) (by decide) ?_
  show (rowRgtry _) = _
  simp (disch := decide) only [rowRgtry, BitVec.extractLsb'_append_eq_of_le, BitVec.extractLsb'_append_eq_of_add_le, Nat.reduceSub, BitVec.extractLsb'_eq_self]
  rfl

theorem rshrk (a : BitVec 5) : Statement (.rshrk a) := by
  refine fun hw => ⟨fun w e => ?_, fun _ _ e => (nomatch e)⟩
  cases e
  refine reads (op := 0xA8) (by simp (disch := decide) only [opByte, BitVec.extractLsb'_append_eq_of_le, Nat.reduceSub, BitVec.extractLsb'_eq_self]; rfl) (by decide) (by decide) ?_
  show (rowRshrk _) = _
  simp (disch := decide) only [rowRshrk, BitVec.extractLsb'_append_eq_of_le, BitVec.extractLsb'_append_eq_of_add_le, Nat.reduceSub, BitVec.extractLsb'_eq_self]
  rfl

theorem vwbs (a : BitVec 5) : Statement (.vwbs a) := by
  refine fun hw => ⟨fun w e => ?_, fun _ _ e => (nomatch e)⟩
  cases e
  refine reads (op := 0xA9) (by simp (disch := decide) only [opByte, BitVec.extractLsb'_append_eq_of_le, Nat.reduceSub, BitVec.extractLsb'_eq_self]; rfl) (by decide) (by decide) ?_
  show (rowVwbs _) = _
  simp (disch := decide) only [rowVwbs, BitVec.extractLsb'_append_eq_of_le, BitVec.extractLsb'_append_eq_of_add_le, Nat.reduceSub, BitVec.extractLsb'_eq_self]
  rfl

theorem copy (d : BitVec 5) (a : BitVec 5) (b : BitVec 5) (r : BitVec 2) (e : BitVec 1) (c : BitVec 6) : Statement (.copy d a b r e c) := by
  refine fun hw => ⟨fun w e => ?_, fun _ _ e => (nomatch e)⟩
  cases e
  refine reads (op := 0xAA) (by simp (disch := decide) only [opByte, BitVec.extractLsb'_append_eq_of_le, Nat.reduceSub, BitVec.extractLsb'_eq_self]; rfl) (by decide) (by decide) ?_
  show (rowCopy _) = _
  simp (disch := decide) only [rowCopy, BitVec.extractLsb'_append_eq_of_le, BitVec.extractLsb'_append_eq_of_add_le, Nat.reduceSub, BitVec.extractLsb'_eq_self]

theorem copy2d (d : BitVec 5) (a : BitVec 5) (b : BitVec 5) (r : BitVec 2) (e : BitVec 1) (c : BitVec 6) : Statement (.copy2d d a b r e c) := by
  refine fun hw => ⟨fun w e => ?_, fun _ _ e => (nomatch e)⟩
  cases e
  refine reads (op := 0xAB) (by simp (disch := decide) only [opByte, BitVec.extractLsb'_append_eq_of_le, Nat.reduceSub, BitVec.extractLsb'_eq_self]; rfl) (by decide) (by decide) ?_
  show (rowCopy2d _) = _
  simp (disch := decide) only [rowCopy2d, BitVec.extractLsb'_append_eq_of_le, BitVec.extractLsb'_append_eq_of_add_le, Nat.reduceSub, BitVec.extractLsb'_eq_self]

theorem copyp (d : BitVec 5) (a : BitVec 5) (b : BitVec 5) (r : BitVec 2) (e : BitVec 1) (c : BitVec 6) : Statement (.copyp d a b r e c) := by
  refine fun hw => ⟨fun w e => ?_, fun _ _ e => (nomatch e)⟩
  cases e
  refine reads (op := 0xAC) (by simp (disch := decide) only [opByte, BitVec.extractLsb'_append_eq_of_le, Nat.reduceSub, BitVec.extractLsb'_eq_self]; rfl) (by decide) (by decide) ?_
  show (rowCopyp _) = _
  simp (disch := decide) only [rowCopyp, BitVec.extractLsb'_append_eq_of_le, BitVec.extractLsb'_append_eq_of_add_le, Nat.reduceSub, BitVec.extractLsb'_eq_self]

theorem trig (d : BitVec 5) (a : BitVec 5) : Statement (.trig d a) := by
  refine fun hw => ⟨fun w e => ?_, fun _ _ e => (nomatch e)⟩
  cases e
  refine reads (op := 0xAD) (by simp (disch := decide) only [opByte, BitVec.extractLsb'_append_eq_of_le, Nat.reduceSub, BitVec.extractLsb'_eq_self]; rfl) (by decide) (by decide) ?_
  show ((rowTrig _).orElse fun _ => (rowTrigCancel _)) = _
  simp (disch := decide) only [rowTrig, rowTrigCancel, BitVec.extractLsb'_append_eq_of_le, BitVec.extractLsb'_append_eq_of_add_le, Nat.reduceSub, BitVec.extractLsb'_eq_self]
  rfl

theorem trigCancel (d : BitVec 5) (a : BitVec 5) : Statement (.trigCancel d a) := by
  refine fun hw => ⟨fun w e => ?_, fun _ _ e => (nomatch e)⟩
  cases e
  refine reads (op := 0xAD) (by simp (disch := decide) only [opByte, BitVec.extractLsb'_append_eq_of_le, Nat.reduceSub, BitVec.extractLsb'_eq_self]; rfl) (by decide) (by decide) ?_
  show ((rowTrig _).orElse fun _ => (rowTrigCancel _)) = _
  simp (disch := decide) only [rowTrig, rowTrigCancel, BitVec.extractLsb'_append_eq_of_le, BitVec.extractLsb'_append_eq_of_add_le, Nat.reduceSub, BitVec.extractLsb'_eq_self]
  rfl

theorem cntrAdd (a : BitVec 5) (c : BitVec 6) : Statement (.cntrAdd a c) := by
  refine fun hw => ⟨fun w e => ?_, fun _ _ e => (nomatch e)⟩
  cases e
  refine reads (op := 0xAE) (by simp (disch := decide) only [opByte, BitVec.extractLsb'_append_eq_of_le, Nat.reduceSub, BitVec.extractLsb'_eq_self]; rfl) (by decide) (by decide) ?_
  show (((rowCntrAdd _).orElse fun _ => (rowCntrSet _)).orElse fun _ => (rowCntrRead _)) = _
  simp (disch := decide) only [rowCntrAdd, rowCntrSet, rowCntrRead, BitVec.extractLsb'_append_eq_of_le, BitVec.extractLsb'_append_eq_of_add_le, Nat.reduceSub, BitVec.extractLsb'_eq_self]
  rfl

theorem cntrSet (a : BitVec 5) (c : BitVec 6) : Statement (.cntrSet a c) := by
  refine fun hw => ⟨fun w e => ?_, fun _ _ e => (nomatch e)⟩
  cases e
  refine reads (op := 0xAE) (by simp (disch := decide) only [opByte, BitVec.extractLsb'_append_eq_of_le, Nat.reduceSub, BitVec.extractLsb'_eq_self]; rfl) (by decide) (by decide) ?_
  show (((rowCntrAdd _).orElse fun _ => (rowCntrSet _)).orElse fun _ => (rowCntrRead _)) = _
  simp (disch := decide) only [rowCntrAdd, rowCntrSet, rowCntrRead, BitVec.extractLsb'_append_eq_of_le, BitVec.extractLsb'_append_eq_of_add_le, Nat.reduceSub, BitVec.extractLsb'_eq_self]
  rfl

theorem cntrRead (d : BitVec 5) (c : BitVec 6) : Statement (.cntrRead d c) := by
  refine fun hw => ⟨fun w e => ?_, fun _ _ e => (nomatch e)⟩
  cases e
  refine reads (op := 0xAE) (by simp (disch := decide) only [opByte, BitVec.extractLsb'_append_eq_of_le, Nat.reduceSub, BitVec.extractLsb'_eq_self]; rfl) (by decide) (by decide) ?_
  show (((rowCntrAdd _).orElse fun _ => (rowCntrSet _)).orElse fun _ => (rowCntrRead _)) = _
  simp (disch := decide) only [rowCntrAdd, rowCntrSet, rowCntrRead, BitVec.extractLsb'_append_eq_of_le, BitVec.extractLsb'_append_eq_of_add_le, Nat.reduceSub, BitVec.extractLsb'_eq_self]
  rw [if_neg (fun h => absurd h.2 (by decide)), if_neg (fun h => absurd h.2 (by decide))]
  rfl

theorem collh (a : BitVec 5) : Statement (.collh a) := by
  refine fun hw => ⟨fun w e => ?_, fun _ _ e => (nomatch e)⟩
  cases e
  refine reads (op := 0xAF) (by simp (disch := decide) only [opByte, BitVec.extractLsb'_append_eq_of_le, Nat.reduceSub, BitVec.extractLsb'_eq_self]; rfl) (by decide) (by decide) ?_
  show (((rowCollh _).orElse fun _ => (rowCollhAbort _)).orElse fun _ => (rowCollhTree _)) = _
  simp (disch := decide) only [rowCollh, rowCollhAbort, rowCollhTree, BitVec.extractLsb'_append_eq_of_le, BitVec.extractLsb'_append_eq_of_add_le, Nat.reduceSub, BitVec.extractLsb'_eq_self]
  rfl

theorem collhAbort (d : BitVec 5) : Statement (.collhAbort d) := by
  refine fun hw => ⟨fun w e => ?_, fun _ _ e => (nomatch e)⟩
  cases e
  refine reads (op := 0xAF) (by simp (disch := decide) only [opByte, BitVec.extractLsb'_append_eq_of_le, Nat.reduceSub, BitVec.extractLsb'_eq_self]; rfl) (by decide) (by decide) ?_
  show (((rowCollh _).orElse fun _ => (rowCollhAbort _)).orElse fun _ => (rowCollhTree _)) = _
  simp (disch := decide) only [rowCollh, rowCollhAbort, rowCollhTree, BitVec.extractLsb'_append_eq_of_le, BitVec.extractLsb'_append_eq_of_add_le, Nat.reduceSub, BitVec.extractLsb'_eq_self]
  rw [if_neg (fun h => absurd h.2 (by decide))]
  rfl

theorem collhTree (d : BitVec 5) (a : BitVec 5) (b : BitVec 5) (c : BitVec 6) (e : BitVec 1) : Statement (.collhTree d a b c e) := by
  refine fun hw => ⟨fun w e => ?_, fun _ _ e => (nomatch e)⟩
  cases e
  refine reads (op := 0xAF) (by simp (disch := decide) only [opByte, BitVec.extractLsb'_append_eq_of_le, Nat.reduceSub, BitVec.extractLsb'_eq_self]; rfl) (by decide) (by decide) ?_
  show (((rowCollh _).orElse fun _ => (rowCollhAbort _)).orElse fun _ => (rowCollhTree _)) = _
  simp (disch := decide) only [rowCollh, rowCollhAbort, rowCollhTree, BitVec.extractLsb'_append_eq_of_le, BitVec.extractLsb'_append_eq_of_add_le, Nat.reduceSub, BitVec.extractLsb'_eq_self]
  rw [if_neg (fun h => absurd (field_within (k := 0) (m := 2) h.2 (by decide))
    (by simp (disch := decide) only [BitVec.extractLsb'_append_eq_of_add_le, BitVec.extractLsb'_eq_self]; decide)),
    if_neg (fun h => absurd (field_within (k := 0) (m := 2) h (by decide))
    (by simp (disch := decide) only [BitVec.extractLsb'_append_eq_of_add_le, BitVec.extractLsb'_eq_self]; decide))]
  rfl

theorem lend (d : BitVec 5) (a : BitVec 5) : Statement (.lend d a) := by
  refine fun hw => ⟨fun w e => ?_, fun _ _ e => (nomatch e)⟩
  cases e
  refine reads (op := 0xB0) (by simp (disch := decide) only [opByte, BitVec.extractLsb'_append_eq_of_le, Nat.reduceSub, BitVec.extractLsb'_eq_self]; rfl) (by decide) (by decide) ?_
  show ((rowLend _).orElse fun _ => (rowLendShare _)) = _
  simp (disch := decide) only [rowLend, rowLendShare, BitVec.extractLsb'_append_eq_of_le, BitVec.extractLsb'_append_eq_of_add_le, Nat.reduceSub, BitVec.extractLsb'_eq_self]
  rfl

theorem lendShare (d : BitVec 5) (a : BitVec 5) : Statement (.lendShare d a) := by
  refine fun hw => ⟨fun w e => ?_, fun _ _ e => (nomatch e)⟩
  cases e
  refine reads (op := 0xB0) (by simp (disch := decide) only [opByte, BitVec.extractLsb'_append_eq_of_le, Nat.reduceSub, BitVec.extractLsb'_eq_self]; rfl) (by decide) (by decide) ?_
  show ((rowLend _).orElse fun _ => (rowLendShare _)) = _
  simp (disch := decide) only [rowLend, rowLendShare, BitVec.extractLsb'_append_eq_of_le, BitVec.extractLsb'_append_eq_of_add_le, Nat.reduceSub, BitVec.extractLsb'_eq_self]
  rfl

theorem retn (d : BitVec 5) : Statement (.retn d) := by
  refine fun hw => ⟨fun w e => ?_, fun _ _ e => (nomatch e)⟩
  cases e
  refine reads (op := 0xB1) (by simp (disch := decide) only [opByte, BitVec.extractLsb'_append_eq_of_le, Nat.reduceSub, BitVec.extractLsb'_eq_self]; rfl) (by decide) (by decide) ?_
  show (((rowRetn _).orElse fun _ => (rowRetnRecall _)).orElse fun _ => (rowRetnReclaim _)) = _
  simp (disch := decide) only [rowRetn, rowRetnRecall, rowRetnReclaim, BitVec.extractLsb'_append_eq_of_le, BitVec.extractLsb'_append_eq_of_add_le, Nat.reduceSub, BitVec.extractLsb'_eq_self]
  rfl

theorem retnRecall (d : BitVec 5) : Statement (.retnRecall d) := by
  refine fun hw => ⟨fun w e => ?_, fun _ _ e => (nomatch e)⟩
  cases e
  refine reads (op := 0xB1) (by simp (disch := decide) only [opByte, BitVec.extractLsb'_append_eq_of_le, Nat.reduceSub, BitVec.extractLsb'_eq_self]; rfl) (by decide) (by decide) ?_
  show (((rowRetn _).orElse fun _ => (rowRetnRecall _)).orElse fun _ => (rowRetnReclaim _)) = _
  simp (disch := decide) only [rowRetn, rowRetnRecall, rowRetnReclaim, BitVec.extractLsb'_append_eq_of_le, BitVec.extractLsb'_append_eq_of_add_le, Nat.reduceSub, BitVec.extractLsb'_eq_self]
  rfl

theorem retnReclaim (d : BitVec 5) : Statement (.retnReclaim d) := by
  refine fun hw => ⟨fun w e => ?_, fun _ _ e => (nomatch e)⟩
  cases e
  refine reads (op := 0xB1) (by simp (disch := decide) only [opByte, BitVec.extractLsb'_append_eq_of_le, Nat.reduceSub, BitVec.extractLsb'_eq_self]; rfl) (by decide) (by decide) ?_
  show (((rowRetn _).orElse fun _ => (rowRetnRecall _)).orElse fun _ => (rowRetnReclaim _)) = _
  simp (disch := decide) only [rowRetn, rowRetnRecall, rowRetnReclaim, BitVec.extractLsb'_append_eq_of_le, BitVec.extractLsb'_append_eq_of_add_le, Nat.reduceSub, BitVec.extractLsb'_eq_self]
  rfl

theorem split (d : BitVec 5) : Statement (.split d) := by
  refine fun hw => ⟨fun w e => ?_, fun _ _ e => (nomatch e)⟩
  cases e
  refine reads (op := 0xB2) (by simp (disch := decide) only [opByte, BitVec.extractLsb'_append_eq_of_le, Nat.reduceSub, BitVec.extractLsb'_eq_self]; rfl) (by decide) (by decide) ?_
  show (rowSplit _) = _
  simp (disch := decide) only [rowSplit, BitVec.extractLsb'_append_eq_of_le, BitVec.extractLsb'_append_eq_of_add_le, Nat.reduceSub, BitVec.extractLsb'_eq_self]
  rfl

theorem mend (d : BitVec 5) : Statement (.mend d) := by
  refine fun hw => ⟨fun w e => ?_, fun _ _ e => (nomatch e)⟩
  cases e
  refine reads (op := 0xB3) (by simp (disch := decide) only [opByte, BitVec.extractLsb'_append_eq_of_le, Nat.reduceSub, BitVec.extractLsb'_eq_self]; rfl) (by decide) (by decide) ?_
  show (rowMend _) = _
  simp (disch := decide) only [rowMend, BitVec.extractLsb'_append_eq_of_le, BitVec.extractLsb'_append_eq_of_add_le, Nat.reduceSub, BitVec.extractLsb'_eq_self]
  rfl

theorem tqry (d : BitVec 5) (a : BitVec 5) (f : BitVec 9) : Statement (.tqry d a f) := by
  refine fun hw => ⟨fun w e => ?_, fun _ _ e => (nomatch e)⟩
  cases e
  refine reads (op := 0xB4) (by simp (disch := decide) only [opByte, BitVec.extractLsb'_append_eq_of_le, Nat.reduceSub, BitVec.extractLsb'_eq_self]; rfl) (by decide) (by decide) ?_
  show (rowTqry _) = _
  simp (disch := decide) only [rowTqry, BitVec.extractLsb'_append_eq_of_le, BitVec.extractLsb'_append_eq_of_add_le, Nat.reduceSub, BitVec.extractLsb'_eq_self]
  rfl

theorem fdom (a : BitVec 5) : Statement (.fdom a) := by
  refine fun hw => ⟨fun w e => ?_, fun _ _ e => (nomatch e)⟩
  cases e
  refine reads (op := 0xB5) (by simp (disch := decide) only [opByte, BitVec.extractLsb'_append_eq_of_le, Nat.reduceSub, BitVec.extractLsb'_eq_self]; rfl) (by decide) (by decide) ?_
  show (rowFdom _) = _
  simp (disch := decide) only [rowFdom, BitVec.extractLsb'_append_eq_of_le, BitVec.extractLsb'_append_eq_of_add_le, Nat.reduceSub, BitVec.extractLsb'_eq_self]
  rfl

theorem ftot (d : BitVec 5) (a : BitVec 5) (f : BitVec 2) : Statement (.ftot d a f) := by
  refine fun hw => ⟨fun w e => ?_, fun _ _ e => (nomatch e)⟩
  cases e
  refine reads (op := 0xB6) (by simp (disch := decide) only [opByte, BitVec.extractLsb'_append_eq_of_le, Nat.reduceSub, BitVec.extractLsb'_eq_self]; rfl) (by decide) (by decide) ?_
  show (rowFtot _) = _
  simp (disch := decide) only [rowFtot, BitVec.extractLsb'_append_eq_of_le, BitVec.extractLsb'_append_eq_of_add_le, Nat.reduceSub, BitVec.extractLsb'_eq_self]
  rfl

theorem fdecl (d : BitVec 5) (a : BitVec 5) : Statement (.fdecl d a) := by
  refine fun hw => ⟨fun w e => ?_, fun _ _ e => (nomatch e)⟩
  cases e
  refine reads (op := 0xB7) (by simp (disch := decide) only [opByte, BitVec.extractLsb'_append_eq_of_le, Nat.reduceSub, BitVec.extractLsb'_eq_self]; rfl) (by decide) (by decide) ?_
  show ((rowFdecl _).orElse fun _ => (rowFdeclRetire _)) = _
  simp (disch := decide) only [rowFdecl, rowFdeclRetire, BitVec.extractLsb'_append_eq_of_le, BitVec.extractLsb'_append_eq_of_add_le, Nat.reduceSub, BitVec.extractLsb'_eq_self]
  rfl

theorem fdeclRetire (d : BitVec 5) (a : BitVec 5) : Statement (.fdeclRetire d a) := by
  refine fun hw => ⟨fun w e => ?_, fun _ _ e => (nomatch e)⟩
  cases e
  refine reads (op := 0xB7) (by simp (disch := decide) only [opByte, BitVec.extractLsb'_append_eq_of_le, Nat.reduceSub, BitVec.extractLsb'_eq_self]; rfl) (by decide) (by decide) ?_
  show ((rowFdecl _).orElse fun _ => (rowFdeclRetire _)) = _
  simp (disch := decide) only [rowFdecl, rowFdeclRetire, BitVec.extractLsb'_append_eq_of_le, BitVec.extractLsb'_append_eq_of_add_le, Nat.reduceSub, BitVec.extractLsb'_eq_self]
  rfl

theorem tcfg (t : BitVec 3) (f : BitVec 3) (r : BitVec 6) (c : BitVec 5) : Statement (.tcfg t f r c) := by
  refine fun hw => ⟨fun w e => ?_, fun _ _ e => (nomatch e)⟩
  cases e
  refine reads (op := 0xB8) (by simp (disch := decide) only [opByte, BitVec.extractLsb'_append_eq_of_le, Nat.reduceSub, BitVec.extractLsb'_eq_self]; rfl) (by decide) (by decide) ?_
  show (rowTcfg _) = _
  simp (disch := decide) only [rowTcfg, BitVec.extractLsb'_append_eq_of_le, BitVec.extractLsb'_append_eq_of_add_le, Nat.reduceSub, BitVec.extractLsb'_eq_self]
  rfl

theorem tld (t : BitVec 3) (a : BitVec 5) : Statement (.tld t a) := by
  refine fun hw => ⟨fun w e => ?_, fun _ _ e => (nomatch e)⟩
  cases e
  refine reads (op := 0xB9) (by simp (disch := decide) only [opByte, BitVec.extractLsb'_append_eq_of_le, Nat.reduceSub, BitVec.extractLsb'_eq_self]; rfl) (by decide) (by decide) ?_
  show (rowTld _) = _
  simp (disch := decide) only [rowTld, BitVec.extractLsb'_append_eq_of_le, BitVec.extractLsb'_append_eq_of_add_le, Nat.reduceSub, BitVec.extractLsb'_eq_self]
  rfl

theorem tst (t : BitVec 3) (a : BitVec 5) : Statement (.tst t a) := by
  refine fun hw => ⟨fun w e => ?_, fun _ _ e => (nomatch e)⟩
  cases e
  refine reads (op := 0xBA) (by simp (disch := decide) only [opByte, BitVec.extractLsb'_append_eq_of_le, Nat.reduceSub, BitVec.extractLsb'_eq_self]; rfl) (by decide) (by decide) ?_
  show (rowTst _) = _
  simp (disch := decide) only [rowTst, BitVec.extractLsb'_append_eq_of_le, BitVec.extractLsb'_append_eq_of_add_le, Nat.reduceSub, BitVec.extractLsb'_eq_self]
  rfl

theorem macq (k : BitVec 3) : Statement (.macq k) := by
  refine fun hw => ⟨fun w e => ?_, fun _ _ e => (nomatch e)⟩
  cases e
  refine reads (op := 0xBB) (by simp (disch := decide) only [opByte, BitVec.extractLsb'_append_eq_of_le, Nat.reduceSub, BitVec.extractLsb'_eq_self]; rfl) (by decide) (by decide) ?_
  show (rowMacq _) = _
  simp (disch := decide) only [rowMacq, BitVec.extractLsb'_append_eq_of_le, BitVec.extractLsb'_append_eq_of_add_le, Nat.reduceSub, BitVec.extractLsb'_eq_self]
  rfl

theorem mrel (k : BitVec 3) : Statement (.mrel k) := by
  refine fun hw => ⟨fun w e => ?_, fun _ _ e => (nomatch e)⟩
  cases e
  refine reads (op := 0xBC) (by simp (disch := decide) only [opByte, BitVec.extractLsb'_append_eq_of_le, Nat.reduceSub, BitVec.extractLsb'_eq_self]; rfl) (by decide) (by decide) ?_
  show (rowMrel _) = _
  simp (disch := decide) only [rowMrel, BitVec.extractLsb'_append_eq_of_le, BitVec.extractLsb'_append_eq_of_add_le, Nat.reduceSub, BitVec.extractLsb'_eq_self]
  rfl

theorem mma (k : BitVec 3) (a : BitVec 3) (b : BitVec 3) (w : BitVec 5) : Statement (.mma k a b w) := by
  refine fun hw => ⟨fun w e => ?_, fun _ _ e => (nomatch e)⟩
  cases e
  refine reads (op := 0xBD) (by simp (disch := decide) only [opByte, BitVec.extractLsb'_append_eq_of_le, Nat.reduceSub, BitVec.extractLsb'_eq_self]; rfl) (by decide) (by decide) ?_
  show (rowMma _) = _
  simp (disch := decide) only [rowMma, BitVec.extractLsb'_append_eq_of_le, BitVec.extractLsb'_append_eq_of_add_le, Nat.reduceSub, BitVec.extractLsb'_eq_self]
  rfl

theorem mloop (k : BitVec 3) (a : BitVec 2) (b : BitVec 2) (w : BitVec 5) : Statement (.mloop k a b w) := by
  refine fun hw => ⟨fun w e => ?_, fun _ _ e => (nomatch e)⟩
  cases e
  refine reads (op := 0xBE) (by simp (disch := decide) only [opByte, BitVec.extractLsb'_append_eq_of_le, Nat.reduceSub, BitVec.extractLsb'_eq_self]; rfl) (by decide) (by decide) ?_
  show (rowMloop _) = _
  simp (disch := decide) only [rowMloop, BitVec.extractLsb'_append_eq_of_le, BitVec.extractLsb'_append_eq_of_add_le, Nat.reduceSub, BitVec.extractLsb'_eq_self]
  rfl

theorem amov (k : BitVec 3) (a : BitVec 5) (r : BitVec 3) (v : BitVec 6) : Statement (.amov k a r v) := by
  refine fun hw => ⟨fun w e => ?_, fun _ _ e => (nomatch e)⟩
  cases e
  refine reads (op := 0xBF) (by simp (disch := decide) only [opByte, BitVec.extractLsb'_append_eq_of_le, Nat.reduceSub, BitVec.extractLsb'_eq_self]; rfl) (by decide) (by decide) ?_
  show (rowAmov _) = _
  simp (disch := decide) only [rowAmov, BitVec.extractLsb'_append_eq_of_le, BitVec.extractLsb'_append_eq_of_add_le, Nat.reduceSub, BitVec.extractLsb'_eq_self]
  rfl

theorem aqnt (k : BitVec 3) (a : BitVec 5) (b : BitVec 5) (c : BitVec 1) (t : BitVec 1) (l : BitVec 2) (f : BitVec 1) : Statement (.aqnt k a b c t l f) := by
  refine fun hw => ⟨fun w e => ?_, fun _ _ e => (nomatch e)⟩
  cases e
  refine reads (op := 0xC0) (by simp (disch := decide) only [opByte, BitVec.extractLsb'_append_eq_of_le, Nat.reduceSub, BitVec.extractLsb'_eq_self]; rfl) (by decide) (by decide) ?_
  show (rowAqnt _) = _
  simp (disch := decide) only [rowAqnt, BitVec.extractLsb'_append_eq_of_le, BitVec.extractLsb'_append_eq_of_add_le, Nat.reduceSub, BitVec.extractLsb'_eq_self]
  rfl

theorem aclr (k : BitVec 3) : Statement (.aclr k) := by
  refine fun hw => ⟨fun w e => ?_, fun _ _ e => (nomatch e)⟩
  cases e
  refine reads (op := 0xC1) (by simp (disch := decide) only [opByte, BitVec.extractLsb'_append_eq_of_le, Nat.reduceSub, BitVec.extractLsb'_eq_self]; rfl) (by decide) (by decide) ?_
  show (rowAclr _) = _
  simp (disch := decide) only [rowAclr, BitVec.extractLsb'_append_eq_of_le, BitVec.extractLsb'_append_eq_of_add_le, Nat.reduceSub, BitVec.extractLsb'_eq_self]
  rfl

theorem phase : Statement .phase := by
  refine fun _ => ⟨fun w e => ?_, fun _ _ e => (nomatch e)⟩
  cases e
  decide

theorem dgstRead (d : BitVec 5) : Statement (.dgstRead d) := by
  refine fun hw => ⟨fun w e => ?_, fun _ _ e => (nomatch e)⟩
  cases e
  refine reads (op := 0xC3) (by simp (disch := decide) only [opByte, BitVec.extractLsb'_append_eq_of_le, Nat.reduceSub, BitVec.extractLsb'_eq_self]; rfl) (by decide) (by decide) ?_
  show (((((rowDgstRead _).orElse fun _ => (rowDgstOn _)).orElse fun _ => (rowDgstOff _)).orElse fun _ => (rowDgstClr _)).orElse fun _ => (rowDgstFold _)) = _
  simp (disch := decide) only [rowDgstRead, rowDgstOn, rowDgstOff, rowDgstClr, rowDgstFold, BitVec.extractLsb'_append_eq_of_le, BitVec.extractLsb'_append_eq_of_add_le, Nat.reduceSub, BitVec.extractLsb'_eq_self]
  rfl

theorem dgstOn : Statement .dgstOn := by
  refine fun _ => ⟨fun w e => ?_, fun _ _ e => (nomatch e)⟩
  cases e
  decide

theorem dgstOff : Statement .dgstOff := by
  refine fun _ => ⟨fun w e => ?_, fun _ _ e => (nomatch e)⟩
  cases e
  decide

theorem dgstClr : Statement .dgstClr := by
  refine fun _ => ⟨fun w e => ?_, fun _ _ e => (nomatch e)⟩
  cases e
  decide

theorem dgstFold (a : BitVec 5) (b : BitVec 5) : Statement (.dgstFold a b) := by
  refine fun hw => ⟨fun w e => ?_, fun _ _ e => (nomatch e)⟩
  cases e
  refine reads (op := 0xC3) (by simp (disch := decide) only [opByte, BitVec.extractLsb'_append_eq_of_le, Nat.reduceSub, BitVec.extractLsb'_eq_self]; rfl) (by decide) (by decide) ?_
  show (((((rowDgstRead _).orElse fun _ => (rowDgstOn _)).orElse fun _ => (rowDgstOff _)).orElse fun _ => (rowDgstClr _)).orElse fun _ => (rowDgstFold _)) = _
  simp (disch := decide) only [rowDgstRead, rowDgstOn, rowDgstOff, rowDgstClr, rowDgstFold, BitVec.extractLsb'_append_eq_of_le, BitVec.extractLsb'_append_eq_of_add_le, Nat.reduceSub, BitVec.extractLsb'_eq_self]
  rw [if_neg (fun h => absurd (field_within (k := 0) (m := 9) h (by decide))
    (by simp (disch := decide) only [BitVec.extractLsb'_append_eq_of_add_le, BitVec.extractLsb'_eq_self]; decide)),
    if_neg (fun h => absurd (field_within (k := 0) (m := 9) h (by decide))
    (by simp (disch := decide) only [BitVec.extractLsb'_append_eq_of_add_le, BitVec.extractLsb'_eq_self]; decide)),
    if_neg (fun h => absurd (field_within (k := 0) (m := 9) h (by decide))
    (by simp (disch := decide) only [BitVec.extractLsb'_append_eq_of_add_le, BitVec.extractLsb'_eq_self]; decide)),
    if_neg (fun h => absurd (field_within (k := 0) (m := 9) h (by decide))
    (by simp (disch := decide) only [BitVec.extractLsb'_append_eq_of_add_le, BitVec.extractLsb'_eq_self]; decide))]
  rfl

theorem ordrOff (d : BitVec 5) (a : BitVec 5) : Statement (.ordrOff d a) := by
  refine fun hw => ⟨fun w e => ?_, fun _ _ e => (nomatch e)⟩
  cases e
  refine reads (op := 0xC4) (by simp (disch := decide) only [opByte, BitVec.extractLsb'_append_eq_of_le, Nat.reduceSub, BitVec.extractLsb'_eq_self]; rfl) (by decide) (by decide) ?_
  show (((rowOrdrOff _).orElse fun _ => (rowOrdrRec _)).orElse fun _ => (rowOrdrPlay _)) = _
  simp (disch := decide) only [rowOrdrOff, rowOrdrRec, rowOrdrPlay, BitVec.extractLsb'_append_eq_of_le, BitVec.extractLsb'_append_eq_of_add_le, Nat.reduceSub, BitVec.extractLsb'_eq_self]
  rfl

theorem ordrRec (d : BitVec 5) (a : BitVec 5) : Statement (.ordrRec d a) := by
  refine fun hw => ⟨fun w e => ?_, fun _ _ e => (nomatch e)⟩
  cases e
  refine reads (op := 0xC4) (by simp (disch := decide) only [opByte, BitVec.extractLsb'_append_eq_of_le, Nat.reduceSub, BitVec.extractLsb'_eq_self]; rfl) (by decide) (by decide) ?_
  show (((rowOrdrOff _).orElse fun _ => (rowOrdrRec _)).orElse fun _ => (rowOrdrPlay _)) = _
  simp (disch := decide) only [rowOrdrOff, rowOrdrRec, rowOrdrPlay, BitVec.extractLsb'_append_eq_of_le, BitVec.extractLsb'_append_eq_of_add_le, Nat.reduceSub, BitVec.extractLsb'_eq_self]
  rfl

theorem ordrPlay (d : BitVec 5) (a : BitVec 5) : Statement (.ordrPlay d a) := by
  refine fun hw => ⟨fun w e => ?_, fun _ _ e => (nomatch e)⟩
  cases e
  refine reads (op := 0xC4) (by simp (disch := decide) only [opByte, BitVec.extractLsb'_append_eq_of_le, Nat.reduceSub, BitVec.extractLsb'_eq_self]; rfl) (by decide) (by decide) ?_
  show (((rowOrdrOff _).orElse fun _ => (rowOrdrRec _)).orElse fun _ => (rowOrdrPlay _)) = _
  simp (disch := decide) only [rowOrdrOff, rowOrdrRec, rowOrdrPlay, BitVec.extractLsb'_append_eq_of_le, BitVec.extractLsb'_append_eq_of_add_le, Nat.reduceSub, BitVec.extractLsb'_eq_self]
  rfl

theorem tret : Statement .tret := by
  refine fun _ => ⟨fun w e => ?_, fun _ _ e => (nomatch e)⟩
  cases e
  decide

theorem hcall (n : BitVec 8) : Statement (.hcall n) := by
  refine fun hw => ⟨fun w e => ?_, fun _ _ e => (nomatch e)⟩
  cases e
  refine reads (op := 0xC6) (by simp (disch := decide) only [opByte, BitVec.extractLsb'_append_eq_of_le, Nat.reduceSub, BitVec.extractLsb'_eq_self]; rfl) (by decide) (by decide) ?_
  show (rowHcall _) = _
  simp (disch := decide) only [rowHcall, BitVec.extractLsb'_append_eq_of_le, BitVec.extractLsb'_append_eq_of_add_le, Nat.reduceSub, BitVec.extractLsb'_eq_self]
  rfl

theorem hret : Statement .hret := by
  refine fun _ => ⟨fun w e => ?_, fun _ _ e => (nomatch e)⟩
  cases e
  decide

theorem lnch (d : BitVec 5) (a : BitVec 5) (b : BitVec 5) : Statement (.lnch d a b) := by
  refine fun hw => ⟨fun w e => ?_, fun _ _ e => (nomatch e)⟩
  cases e
  refine reads (op := 0xC8) (by simp (disch := decide) only [opByte, BitVec.extractLsb'_append_eq_of_le, Nat.reduceSub, BitVec.extractLsb'_eq_self]; rfl) (by decide) (by decide) ?_
  show (rowLnch _) = _
  simp (disch := decide) only [rowLnch, BitVec.extractLsb'_append_eq_of_le, BitVec.extractLsb'_append_eq_of_add_le, Nat.reduceSub, BitVec.extractLsb'_eq_self]
  rfl

theorem sksv (d : BitVec 5) (a : BitVec 5) (b : BitVec 5) : Statement (.sksv d a b) := by
  refine fun hw => ⟨fun w e => ?_, fun _ _ e => (nomatch e)⟩
  cases e
  refine reads (op := 0xC9) (by simp (disch := decide) only [opByte, BitVec.extractLsb'_append_eq_of_le, Nat.reduceSub, BitVec.extractLsb'_eq_self]; rfl) (by decide) (by decide) ?_
  show (rowSksv _) = _
  simp (disch := decide) only [rowSksv, BitVec.extractLsb'_append_eq_of_le, BitVec.extractLsb'_append_eq_of_add_le, Nat.reduceSub, BitVec.extractLsb'_eq_self]
  rfl

theorem skrs (d : BitVec 5) (a : BitVec 5) (b : BitVec 5) : Statement (.skrs d a b) := by
  refine fun hw => ⟨fun w e => ?_, fun _ _ e => (nomatch e)⟩
  cases e
  refine reads (op := 0xCA) (by simp (disch := decide) only [opByte, BitVec.extractLsb'_append_eq_of_le, Nat.reduceSub, BitVec.extractLsb'_eq_self]; rfl) (by decide) (by decide) ?_
  show (rowSkrs _) = _
  simp (disch := decide) only [rowSkrs, BitVec.extractLsb'_append_eq_of_le, BitVec.extractLsb'_append_eq_of_add_le, Nat.reduceSub, BitVec.extractLsb'_eq_self]
  rfl

theorem tlbi (a : BitVec 5) (b : BitVec 5) : Statement (.tlbi a b) := by
  refine fun hw => ⟨fun w e => ?_, fun _ _ e => (nomatch e)⟩
  cases e
  refine reads (op := 0xCB) (by simp (disch := decide) only [opByte, BitVec.extractLsb'_append_eq_of_le, Nat.reduceSub, BitVec.extractLsb'_eq_self]; rfl) (by decide) (by decide) ?_
  show (((rowTlbi _).orElse fun _ => (rowTlbiCtx _)).orElse fun _ => (rowTlbiAll _)) = _
  simp (disch := decide) only [rowTlbi, rowTlbiCtx, rowTlbiAll, BitVec.extractLsb'_append_eq_of_le, BitVec.extractLsb'_append_eq_of_add_le, Nat.reduceSub, BitVec.extractLsb'_eq_self]
  rfl

theorem tlbiCtx (b : BitVec 5) : Statement (.tlbiCtx b) := by
  refine fun hw => ⟨fun w e => ?_, fun _ _ e => (nomatch e)⟩
  cases e
  refine reads (op := 0xCB) (by simp (disch := decide) only [opByte, BitVec.extractLsb'_append_eq_of_le, Nat.reduceSub, BitVec.extractLsb'_eq_self]; rfl) (by decide) (by decide) ?_
  show (((rowTlbi _).orElse fun _ => (rowTlbiCtx _)).orElse fun _ => (rowTlbiAll _)) = _
  simp (disch := decide) only [rowTlbi, rowTlbiCtx, rowTlbiAll, BitVec.extractLsb'_append_eq_of_le, BitVec.extractLsb'_append_eq_of_add_le, Nat.reduceSub, BitVec.extractLsb'_eq_self]
  rfl

theorem tlbiAll : Statement .tlbiAll := by
  refine fun _ => ⟨fun w e => ?_, fun _ _ e => (nomatch e)⟩
  cases e
  decide

theorem brk (n : BitVec 9) : Statement (.brk n) := by
  refine fun hw => ⟨fun w e => ?_, fun _ _ e => (nomatch e)⟩
  cases e
  refine reads (op := 0xCC) (by simp (disch := decide) only [opByte, BitVec.extractLsb'_append_eq_of_le, Nat.reduceSub, BitVec.extractLsb'_eq_self]; rfl) (by decide) (by decide) ?_
  show (rowBrk _) = _
  simp (disch := decide) only [rowBrk, BitVec.extractLsb'_append_eq_of_le, BitVec.extractLsb'_append_eq_of_add_le, Nat.reduceSub, BitVec.extractLsb'_eq_self]
  rfl

theorem halt : Statement .halt := by
  refine fun _ => ⟨fun w e => ?_, fun _ _ e => (nomatch e)⟩
  cases e
  decide

theorem cflu (a : BitVec 5) : Statement (.cflu a) := by
  refine fun hw => ⟨fun w e => ?_, fun _ _ e => (nomatch e)⟩
  cases e
  refine reads (op := 0xCE) (by simp (disch := decide) only [opByte, BitVec.extractLsb'_append_eq_of_le, Nat.reduceSub, BitVec.extractLsb'_eq_self]; rfl) (by decide) (by decide) ?_
  show (((rowCflu _).orElse fun _ => (rowCfluInv _)).orElse fun _ => (rowCfluI _)) = _
  simp (disch := decide) only [rowCflu, rowCfluInv, rowCfluI, BitVec.extractLsb'_append_eq_of_le, BitVec.extractLsb'_append_eq_of_add_le, Nat.reduceSub, BitVec.extractLsb'_eq_self]
  rfl

theorem cfluInv (a : BitVec 5) : Statement (.cfluInv a) := by
  refine fun hw => ⟨fun w e => ?_, fun _ _ e => (nomatch e)⟩
  cases e
  refine reads (op := 0xCE) (by simp (disch := decide) only [opByte, BitVec.extractLsb'_append_eq_of_le, Nat.reduceSub, BitVec.extractLsb'_eq_self]; rfl) (by decide) (by decide) ?_
  show (((rowCflu _).orElse fun _ => (rowCfluInv _)).orElse fun _ => (rowCfluI _)) = _
  simp (disch := decide) only [rowCflu, rowCfluInv, rowCfluI, BitVec.extractLsb'_append_eq_of_le, BitVec.extractLsb'_append_eq_of_add_le, Nat.reduceSub, BitVec.extractLsb'_eq_self]
  rfl

theorem cfluI (a : BitVec 5) : Statement (.cfluI a) := by
  refine fun hw => ⟨fun w e => ?_, fun _ _ e => (nomatch e)⟩
  cases e
  refine reads (op := 0xCE) (by simp (disch := decide) only [opByte, BitVec.extractLsb'_append_eq_of_le, Nat.reduceSub, BitVec.extractLsb'_eq_self]; rfl) (by decide) (by decide) ?_
  show (((rowCflu _).orElse fun _ => (rowCfluInv _)).orElse fun _ => (rowCfluI _)) = _
  simp (disch := decide) only [rowCflu, rowCfluInv, rowCfluI, BitVec.extractLsb'_append_eq_of_le, BitVec.extractLsb'_append_eq_of_add_le, Nat.reduceSub, BitVec.extractLsb'_eq_self]
  rfl

theorem msgs (d : BitVec 5) (a : BitVec 5) (b : BitVec 5) (q : BitVec 5) : Statement (.msgs d a b q) := by
  refine fun hw => ⟨fun w e => ?_, fun _ _ e => (nomatch e)⟩
  cases e
  refine reads (op := 0xCF) (by simp (disch := decide) only [opByte, BitVec.extractLsb'_append_eq_of_le, Nat.reduceSub, BitVec.extractLsb'_eq_self]; rfl) (by decide) (by decide) ?_
  show (rowMsgs _) = _
  simp (disch := decide) only [rowMsgs, BitVec.extractLsb'_append_eq_of_le, BitVec.extractLsb'_append_eq_of_add_le, Nat.reduceSub, BitVec.extractLsb'_eq_self]
  rfl

theorem msgr (d : BitVec 5) (a : BitVec 5) (b : BitVec 5) : Statement (.msgr d a b) := by
  refine fun hw => ⟨fun w e => ?_, fun _ _ e => (nomatch e)⟩
  cases e
  refine reads (op := 0xD0) (by simp (disch := decide) only [opByte, BitVec.extractLsb'_append_eq_of_le, Nat.reduceSub, BitVec.extractLsb'_eq_self]; rfl) (by decide) (by decide) ?_
  show ((rowMsgr _).orElse fun _ => (rowMsgrTry _)) = _
  simp (disch := decide) only [rowMsgr, rowMsgrTry, BitVec.extractLsb'_append_eq_of_le, BitVec.extractLsb'_append_eq_of_add_le, Nat.reduceSub, BitVec.extractLsb'_eq_self]
  rfl

theorem msgrTry (d : BitVec 5) (a : BitVec 5) (b : BitVec 5) : Statement (.msgrTry d a b) := by
  refine fun hw => ⟨fun w e => ?_, fun _ _ e => (nomatch e)⟩
  cases e
  refine reads (op := 0xD0) (by simp (disch := decide) only [opByte, BitVec.extractLsb'_append_eq_of_le, Nat.reduceSub, BitVec.extractLsb'_eq_self]; rfl) (by decide) (by decide) ?_
  show ((rowMsgr _).orElse fun _ => (rowMsgrTry _)) = _
  simp (disch := decide) only [rowMsgr, rowMsgrTry, BitVec.extractLsb'_append_eq_of_le, BitVec.extractLsb'_append_eq_of_add_le, Nat.reduceSub, BitVec.extractLsb'_eq_self]
  rfl

theorem gatherPacketAtHome (n : Nat) : Statement (.gatherPacketAtHome n) :=
  fun _ => ⟨fun _ e => (nomatch e), fun _ _ e => (nomatch e)⟩

theorem gatherPacketAtStack (n : Nat) : Statement (.gatherPacketAtStack n) :=
  fun _ => ⟨fun _ e => (nomatch e), fun _ _ e => (nomatch e)⟩

theorem gatherReply (n : Nat) : Statement (.gatherReply n) :=
  fun _ => ⟨fun _ e => (nomatch e), fun _ _ e => (nomatch e)⟩

theorem atomicAtHome (n : Nat) : Statement (.atomicAtHome n) :=
  fun _ => ⟨fun _ e => (nomatch e), fun _ _ e => (nomatch e)⟩

theorem atomicReply (n : Nat) : Statement (.atomicReply n) :=
  fun _ => ⟨fun _ e => (nomatch e), fun _ _ e => (nomatch e)⟩

theorem routerCombine (n m : Nat) : Statement (.routerCombine n m) :=
  fun _ => ⟨fun _ e => (nomatch e), fun _ _ e => (nomatch e)⟩

theorem atmEpochEnd : Statement .atmEpochEnd :=
  fun _ => ⟨fun _ e => (nomatch e), fun _ _ e => (nomatch e)⟩

theorem homeMoveRelease (frame : Nat) : Statement (.homeMoveRelease frame) :=
  fun _ => ⟨fun _ e => (nomatch e), fun _ _ e => (nomatch e)⟩

theorem grantRequest (n : Nat) : Statement (.grantRequest n) :=
  fun _ => ⟨fun _ e => (nomatch e), fun _ _ e => (nomatch e)⟩

theorem grantInstall (n : Nat) : Statement (.grantInstall n) :=
  fun _ => ⟨fun _ e => (nomatch e), fun _ _ e => (nomatch e)⟩

theorem grantRevoke (n : Nat) : Statement (.grantRevoke n) :=
  fun _ => ⟨fun _ e => (nomatch e), fun _ _ e => (nomatch e)⟩

theorem tokenStateChange (n : Nat) : Statement (.tokenStateChange n) :=
  fun _ => ⟨fun _ e => (nomatch e), fun _ _ e => (nomatch e)⟩

theorem coreFailure (core : Nat) : Statement (.coreFailure core) :=
  fun _ => ⟨fun _ e => (nomatch e), fun _ _ e => (nomatch e)⟩

theorem xferDebit (n : Nat) : Statement (.xferDebit n) :=
  fun _ => ⟨fun _ e => (nomatch e), fun _ _ e => (nomatch e)⟩

theorem xferCredit (n : Nat) : Statement (.xferCredit n) :=
  fun _ => ⟨fun _ e => (nomatch e), fun _ _ e => (nomatch e)⟩

theorem xferCreditAck (n : Nat) : Statement (.xferCreditAck n) :=
  fun _ => ⟨fun _ e => (nomatch e), fun _ _ e => (nomatch e)⟩

theorem xferCreditRefusal (n : Nat) : Statement (.xferCreditRefusal n) :=
  fun _ => ⟨fun _ e => (nomatch e), fun _ _ e => (nomatch e)⟩

theorem fieldRecordResend (package : Nat) : Statement (.fieldRecordResend package) :=
  fun _ => ⟨fun _ e => (nomatch e), fun _ _ e => (nomatch e)⟩

theorem domainDescriptorCopy (msg : DomainMsg) : Statement (.domainDescriptorCopy msg) :=
  fun _ => ⟨fun _ e => (nomatch e), fun _ _ e => (nomatch e)⟩

theorem copyChunk (n : Nat) : Statement (.copyChunk n) :=
  fun _ => ⟨fun _ e => (nomatch e), fun _ _ e => (nomatch e)⟩

theorem copyComplete (n : Nat) : Statement (.copyComplete n) :=
  fun _ => ⟨fun _ e => (nomatch e), fun _ _ e => (nomatch e)⟩

theorem fabricIngressAccess (pkt : FabPkt) : Statement (.fabricIngressAccess pkt) :=
  fun _ => ⟨fun _ e => (nomatch e), fun _ _ e => (nomatch e)⟩

theorem fabricRefusal (tag cause addr : Nat) : Statement (.fabricRefusal tag cause addr) :=
  fun _ => ⟨fun _ e => (nomatch e), fun _ _ e => (nomatch e)⟩

theorem triggerEvaluation (core : Nat) : Statement (.triggerEvaluation core) :=
  fun _ => ⟨fun _ e => (nomatch e), fun _ _ e => (nomatch e)⟩

theorem lsmodeTakesEffect (core : Nat) : Statement (.lsmodeTakesEffect core) :=
  fun _ => ⟨fun _ e => (nomatch e), fun _ _ e => (nomatch e)⟩

theorem ldlfeGranuleFilled (sid ply part : Nat) : Statement (.ldlfeGranuleFilled sid ply part) :=
  fun _ => ⟨fun _ e => (nomatch e), fun _ _ e => (nomatch e)⟩

theorem rgrowGrant (core : Nat) : Statement (.rgrowGrant core) :=
  fun _ => ⟨fun _ e => (nomatch e), fun _ _ e => (nomatch e)⟩

theorem rgrowDeadlockBreak (core : Nat) : Statement (.rgrowDeadlockBreak core) :=
  fun _ => ⟨fun _ e => (nomatch e), fun _ _ e => (nomatch e)⟩

theorem matrixRequestPost (sid : Nat) : Statement (.matrixRequestPost sid) :=
  fun _ => ⟨fun _ e => (nomatch e), fun _ _ e => (nomatch e)⟩

theorem matrixPassGrant (quad : Nat) : Statement (.matrixPassGrant quad) :=
  fun _ => ⟨fun _ e => (nomatch e), fun _ _ e => (nomatch e)⟩

theorem mloopStepRetire (sid : Nat) : Statement (.mloopStepRetire sid) :=
  fun _ => ⟨fun _ e => (nomatch e), fun _ _ e => (nomatch e)⟩

theorem matrixRequestComplete (sid : Nat) : Statement (.matrixRequestComplete sid) :=
  fun _ => ⟨fun _ e => (nomatch e), fun _ _ e => (nomatch e)⟩

theorem collPacketIngress (pkt : CollPkt) : Statement (.collPacketIngress pkt) :=
  fun _ => ⟨fun _ e => (nomatch e), fun _ _ e => (nomatch e)⟩

theorem collRetryResend (tag package : Nat) : Statement (.collRetryResend tag package) :=
  fun _ => ⟨fun _ e => (nomatch e), fun _ _ e => (nomatch e)⟩

theorem skeinPlacement (part : Nat) : Statement (.skeinPlacement part) :=
  fun _ => ⟨fun _ e => (nomatch e), fun _ _ e => (nomatch e)⟩

theorem placementWaitTimeout (part : Nat) : Statement (.placementWaitTimeout part) :=
  fun _ => ⟨fun _ e => (nomatch e), fun _ _ e => (nomatch e)⟩

theorem plySwap (core : Nat) : Statement (.plySwap core) :=
  fun _ => ⟨fun _ e => (nomatch e), fun _ _ e => (nomatch e)⟩

theorem plyAntiStarvation (core : Nat) : Statement (.plyAntiStarvation core) :=
  fun _ => ⟨fun _ e => (nomatch e), fun _ _ e => (nomatch e)⟩

theorem powerInterval (watts : List (Nat × Nat)) : Statement (.powerInterval watts) :=
  fun _ => ⟨fun _ e => (nomatch e), fun _ _ e => (nomatch e)⟩

theorem skeinSave (sid : Nat) : Statement (.skeinSave sid) :=
  fun _ => ⟨fun _ e => (nomatch e), fun _ _ e => (nomatch e)⟩

theorem skeinRestore (sid : Nat) : Statement (.skeinRestore sid) :=
  fun _ => ⟨fun _ e => (nomatch e), fun _ _ e => (nomatch e)⟩

theorem lateReply (n : Nat) : Statement (.lateReply n) :=
  fun _ => ⟨fun _ e => (nomatch e), fun _ _ e => (nomatch e)⟩

theorem replyLostTimeout (n : Nat) : Statement (.replyLostTimeout n) :=
  fun _ => ⟨fun _ e => (nomatch e), fun _ _ e => (nomatch e)⟩

theorem saveStopTimeout (sid : Nat) : Statement (.saveStopTimeout sid) :=
  fun _ => ⟨fun _ e => (nomatch e), fun _ _ e => (nomatch e)⟩

theorem poisonTrap (sid ply strand : Nat) : Statement (.poisonTrap sid ply strand) :=
  fun _ => ⟨fun _ e => (nomatch e), fun _ _ e => (nomatch e)⟩

theorem prectlReq (part : Nat) (w : DWord) : Statement (.prectlReq part w) :=
  fun _ => ⟨fun _ e => (nomatch e), fun _ _ e => (nomatch e)⟩

theorem prectlResume (part : Nat) (w : DWord) : Statement (.prectlResume part w) :=
  fun _ => ⟨fun _ e => (nomatch e), fun _ _ e => (nomatch e)⟩

theorem preemptDeadline (part : Nat) : Statement (.preemptDeadline part) :=
  fun _ => ⟨fun _ e => (nomatch e), fun _ _ e => (nomatch e)⟩

theorem sliceExpiry (part : Nat) : Statement (.sliceExpiry part) :=
  fun _ => ⟨fun _ e => (nomatch e), fun _ _ e => (nomatch e)⟩

theorem dbgctlHalt (part : Nat) (w : DWord) : Statement (.dbgctlHalt part w) :=
  fun _ => ⟨fun _ e => (nomatch e), fun _ _ e => (nomatch e)⟩

theorem dbgctlRelease (part : Nat) (w : DWord) : Statement (.dbgctlRelease part w) :=
  fun _ => ⟨fun _ e => (nomatch e), fun _ _ e => (nomatch e)⟩

theorem haltStopTimeout (part agent : Nat) : Statement (.haltStopTimeout part agent) :=
  fun _ => ⟨fun _ e => (nomatch e), fun _ _ e => (nomatch e)⟩

theorem phaseAllCommitted (launch : Nat) : Statement (.phaseAllCommitted launch) :=
  fun _ => ⟨fun _ e => (nomatch e), fun _ _ e => (nomatch e)⟩

theorem orderGateTimeout (n : Nat) : Statement (.orderGateTimeout n) :=
  fun _ => ⟨fun _ e => (nomatch e), fun _ _ e => (nomatch e)⟩

theorem shadowLatchRepeat (die : Nat) : Statement (.shadowLatchRepeat die) :=
  fun _ => ⟨fun _ e => (nomatch e), fun _ _ e => (nomatch e)⟩

theorem migbaseWrite (die off : Nat) (w : DWord) : Statement (.migbaseWrite die off w) :=
  fun _ => ⟨fun _ e => (nomatch e), fun _ _ e => (nomatch e)⟩

theorem migtailWrite (die : Nat) (w : DWord) : Statement (.migtailWrite die w) :=
  fun _ => ⟨fun _ e => (nomatch e), fun _ _ e => (nomatch e)⟩

theorem migrationDescriptorTake (die : Nat) : Statement (.migrationDescriptorTake die) :=
  fun _ => ⟨fun _ e => (nomatch e), fun _ _ e => (nomatch e)⟩

theorem migrationMoveDone (die : Nat) : Statement (.migrationMoveDone die) :=
  fun _ => ⟨fun _ e => (nomatch e), fun _ _ e => (nomatch e)⟩

theorem chretWrite (die word : Nat) (w : DWord) : Statement (.chretWrite die word w) :=
  fun _ => ⟨fun _ e => (nomatch e), fun _ _ e => (nomatch e)⟩

theorem frmoveWrite (die : Nat) (w : DWord) : Statement (.frmoveWrite die w) :=
  fun _ => ⟨fun _ e => (nomatch e), fun _ _ e => (nomatch e)⟩

theorem movingHoldTimeout (n : Nat) : Statement (.movingHoldTimeout n) :=
  fun _ => ⟨fun _ e => (nomatch e), fun _ _ e => (nomatch e)⟩

theorem retrycntRead (die : Nat) : Statement (.retrycntRead die) :=
  fun _ => ⟨fun _ e => (nomatch e), fun _ _ e => (nomatch e)⟩

theorem atmctlWrite (w : DWord) : Statement (.atmctlWrite w) :=
  fun _ => ⟨fun _ e => (nomatch e), fun _ _ e => (nomatch e)⟩

theorem atmcntRead : Statement .atmcntRead :=
  fun _ => ⟨fun _ e => (nomatch e), fun _ _ e => (nomatch e)⟩

theorem homebaseWrite (w : DWord) : Statement (.homebaseWrite w) :=
  fun _ => ⟨fun _ e => (nomatch e), fun _ _ e => (nomatch e)⟩

theorem tokbaseWrite (part : Nat) (w : DWord) : Statement (.tokbaseWrite part w) :=
  fun _ => ⟨fun _ e => (nomatch e), fun _ _ e => (nomatch e)⟩

theorem colldropRead (part : Nat) : Statement (.colldropRead part) :=
  fun _ => ⟨fun _ e => (nomatch e), fun _ _ e => (nomatch e)⟩

theorem evlostRead (part : Nat) : Statement (.evlostRead part) :=
  fun _ => ⟨fun _ e => (nomatch e), fun _ _ e => (nomatch e)⟩

theorem replaysRead (die : Nat) : Statement (.replaysRead die) :=
  fun _ => ⟨fun _ e => (nomatch e), fun _ _ e => (nomatch e)⟩

theorem mqpushWord0 (part q : Nat) (w : DWord) : Statement (.mqpushWord0 part q w) :=
  fun _ => ⟨fun _ e => (nomatch e), fun _ _ e => (nomatch e)⟩

theorem mqpushWord1 (part q : Nat) (w : DWord) : Statement (.mqpushWord1 part q w) :=
  fun _ => ⟨fun _ e => (nomatch e), fun _ _ e => (nomatch e)⟩

theorem prstReset (part : Nat) (w : DWord) : Statement (.prstReset part w) :=
  fun _ => ⟨fun _ e => (nomatch e), fun _ _ e => (nomatch e)⟩

theorem partitionResetDone (part : Nat) : Statement (.partitionResetDone part) :=
  fun _ => ⟨fun _ e => (nomatch e), fun _ _ e => (nomatch e)⟩

theorem pbootWrite (part : Nat) (w : DWord) : Statement (.pbootWrite part w) :=
  fun _ => ⟨fun _ e => (nomatch e), fun _ _ e => (nomatch e)⟩

theorem evctlWrite (part : Nat) (w : DWord) : Statement (.evctlWrite part w) :=
  fun _ => ⟨fun _ e => (nomatch e), fun _ _ e => (nomatch e)⟩

theorem evheadWrite (part : Nat) (w : DWord) : Statement (.evheadWrite part w) :=
  fun _ => ⟨fun _ e => (nomatch e), fun _ _ e => (nomatch e)⟩

theorem eventInterruptTimer (part : Nat) : Statement (.eventInterruptTimer part) :=
  fun _ => ⟨fun _ e => (nomatch e), fun _ _ e => (nomatch e)⟩

theorem hostWindowAccess (part off : Nat) (acc : HostAcc) : Statement (.hostWindowAccess part off acc) :=
  fun _ => ⟨fun _ e => (nomatch e), fun _ _ e => (nomatch e)⟩

theorem channelEvent (stack channel : Nat) (failed : Bool) : Statement (.channelEvent stack channel failed) :=
  fun _ => ⟨fun _ e => (nomatch e), fun _ _ e => (nomatch e)⟩

theorem keyRelease : Statement .keyRelease :=
  fun _ => ⟨fun _ e => (nomatch e), fun _ _ e => (nomatch e)⟩

theorem spdmMeasurementRequest (block : Nat) : Statement (.spdmMeasurementRequest block) :=
  fun _ => ⟨fun _ e => (nomatch e), fun _ _ e => (nomatch e)⟩

theorem powerOn (cfg : BringUp) : Statement (.powerOn cfg) :=
  fun _ => ⟨fun _ e => (nomatch e), fun _ _ e => (nomatch e)⟩

theorem portDownTimeout (port : Nat) : Statement (.portDownTimeout port) :=
  fun _ => ⟨fun _ e => (nomatch e), fun _ _ e => (nomatch e)⟩

theorem packageLost (package : Nat) : Statement (.packageLost package) :=
  fun _ => ⟨fun _ e => (nomatch e), fun _ _ e => (nomatch e)⟩

theorem flitCrcReplay (port : Nat) : Statement (.flitCrcReplay port) :=
  fun _ => ⟨fun _ e => (nomatch e), fun _ _ e => (nomatch e)⟩

theorem registerWrite (reg : RegAddr) (w : DWord) : Statement (.registerWrite reg w) :=
  fun _ => ⟨fun _ e => (nomatch e), fun _ _ e => (nomatch e)⟩

theorem copyResendOnRetry (tag : Nat) : Statement (.copyResendOnRetry tag) :=
  fun _ => ⟨fun _ e => (nomatch e), fun _ _ e => (nomatch e)⟩

theorem collPacketAck (tag package : Nat) (ans : CollAnswer) : Statement (.collPacketAck tag package ans) :=
  fun _ => ⟨fun _ e => (nomatch e), fun _ _ e => (nomatch e)⟩

theorem powerLoss : Statement .powerLoss :=
  fun _ => ⟨fun _ e => (nomatch e), fun _ _ e => (nomatch e)⟩

end Sys2Proof.Laws.RowReads
end

