-- ==== Sys2Proof/Tests/Slice0.lean ====
section
/-! SUPPORT. Tests of our own: the terms that the well-formedness check refuses; every row's word decoded, and the spec's
worked encodings; a witness for the hypotheses of each statement of Certificates/Slice0/Obligations.lean; and the worked
results of the reference chapters, one step each. -/

open Sys2Proof Sys2Proof.Machine

namespace Sys2Proof.Tests

-- one theorem after another: the proofs wait for each other's kernel checks
set_option Elab.async false

/-! ## Well-formedness: the terms that the check refuses (08 R136 to R154 and the entries) -/

/-- Comparisons have the codes 0 to 5 (18 R306). -/
theorem test_wf_refuses_comparison_codes :
    [Instr.icmps ⟨0, 0⟩ 1 6 0 0 0, .icmpu ⟨0, 0⟩ 1 7 0 0 0, .icmpsi ⟨0, 0⟩ 1 6 0 0].map Instr.wf = [false, false, false] := by decide

/-- The special registers are those of 07 R129; SWR writes those of access RW. -/
theorem test_wf_refuses_special_registers :
    [Instr.srd ⟨0, 0⟩ 1 0x019, .srd ⟨0, 0⟩ 1 0x10E, .srdu 1 0x206, .srdu 1 0x0FF, .swr 1 0x000, .swr 1 0x101, .swr 1 0x110, .swr 1 0x203,
      .swr 1 0x204].map Instr.wf = [false, false, false, false, false, false, false, false, false] := by decide

/-- FP64 operands and the pair of TSUM are even registers (19 R323, R324). -/
theorem test_wf_refuses_odd_float_pairs :
    [Instr.faddF64 ⟨0, 0⟩ 1 2 4, .faddF64 ⟨0, 0⟩ 2 3 4, .faddF64 ⟨0, 0⟩ 2 4 5, .fmulF64 ⟨0, 0⟩ 1 2 4, .fmulF64 ⟨0, 0⟩ 2 3 4, .fmulF64 ⟨0, 0⟩ 2 4 5,
      .ffmaF64 ⟨0, 0⟩ 1 2 4, .ffmaF64 ⟨0, 0⟩ 2 3 4, .ffmaF64 ⟨0, 0⟩ 2 4 5, .tsumF32 ⟨0, 0⟩ 1 2 3 0].map Instr.wf =
      [false, false, false, false, false, false, false, false, false, false] := by decide

/-- CVT has the type codes 0 to 11 and even F64 pairs; F2FX and FX2F even 64-bit pairs (18 R312 to R314). -/
theorem test_wf_refuses_conversions :
    [Instr.cvt ⟨0, 0⟩ 2 2 12 0, .cvt ⟨0, 0⟩ 2 2 0 12, .cvt ⟨0, 0⟩ 2 3 11 0, .cvt ⟨0, 0⟩ 3 2 0 11, .f2fx ⟨0, 0⟩ 1 2 1 0 0, .f2fx ⟨0, 0⟩ 2 1 0 1 0,
      .fx2f ⟨0, 0⟩ 2 1 1 0 0, .fx2f ⟨0, 0⟩ 1 2 0 1 0].map Instr.wf = [false, false, false, false, false, false, false, false] := by decide

/-- X2 codecs select at 0 or 2; VOTE, LRED and LSCAN have the operations of their tables (19 R326, R330, R331). -/
theorem test_wf_refuses_codecs_and_reductions :
    [Instr.tdec ⟨0, 0⟩ 1 2 0 1 1, .tenc ⟨0, 0⟩ 1 2 0 1 3, .vote ⟨0, 0⟩ 1 1 4, .lred ⟨0, 0⟩ 1 2 11, .lscan ⟨0, 0⟩ 1 2 0 15].map Instr.wf =
      [false, false, false, false, false] := by decide

/-- The register rule of the access sizes (20 R335, R342, R343) and the cell forms of FLD (R78). -/
theorem test_wf_refuses_access_sizes :
    [Instr.ldl ⟨0, 0⟩ 1 2 3 1, .ldl ⟨0, 0⟩ 2 2 3 2, .ldlfe ⟨0, 0⟩ 1 2 3 0 1, .stl ⟨0, 0⟩ 1 2 3 1, .stlfe ⟨0, 0⟩ 2 2 3 2, .atoml ⟨0, 0⟩ 1 2 3 3,
      .ldg ⟨0, 0⟩ 1 2 3 0 1, .ldgc ⟨0, 0⟩ 1 2 3 0 0, .stg ⟨0, 0⟩ 2 2 3 0 2, .atomgb ⟨0, 0⟩ 1 2 3 0 3, .atomg64 ⟨0, 0⟩ 1 2 3 0 0,
      .atomg64 ⟨0, 0⟩ 2 2 3 0 2, .fld ⟨0, 0⟩ 1 2 2].map Instr.wf =
      [false, false, false, false, false, false, false, false, false, false, false, false, false] := by decide

/-- XW: RND and PITCH are defined, the follower accepts each field that is not at its default, and no follower is an XW (08 R140 to R144). -/
theorem test_wf_refuses_extension_words :
    [Instr.xw 0 0 0 5 0 0 0x2A020C40, .xw 0 0 0 0 0 3 0x00014418, .xw 0 0 0 0 0 0 0x01014401, .xw 0 0 0 0 0 0 0x7F000000, .xw 1 0 0 0 0 0 0x38008208,
      .xw 0 0 1 0 0 0 0x08014418, .xw 0 0 0 1 0 0 0x00014418, .xw 0 0 0 0 4 0 0x00014418].map Instr.wf =
      [false, false, false, false, false, false, false, false] := by decide

/-- The follower's own fields: S2 and H[1] of one source, F64 pairs and H, a conversion to T8 or T6 with RND, and its pairs. -/
theorem test_wf_refuses_followers :
    [Instr.xw 0 0 0 0 0 0 0x1B004204, .xw 0 0 0 0 0 0 0x38004208, .xw 0 0 0 0 0 0 0x38008209, .xw 0 0 0 0 1 0 0x3A008208, .xw 0 0 0 1 0 0 0x3C008205,
      .xw 0 0 0 0 0 0 0x3C0082C0, .xw 0 0 0 0 0 0 0x3D004280, .xw 0 0 0 0 0 0 0x3E008380].map Instr.wf =
      [false, false, false, false, false, false, false, false] := by decide

/-- Uniform words: the position of UMOVHI, a condition that needs no predicate, the codes of UBR, SBAR and FENCE (21). -/
theorem test_wf_refuses_uniform_fields :
    [Instr.umovhi 1 26 0, .br 1 0 0, .call 7 0 0, .ubr 0 0 6 0, .sbar 0, .sbar 5, .fence 6 1 0 0, .fence 2 0 0 0].map Instr.wf =
      [false, false, false, false, false, false, false, false] := by decide

/-- Engine words: W pairs, TQRY's fields, the tile shapes, the two buffers of MLOOP and AQNT's layouts (22). -/
theorem test_wf_refuses_engine_fields :
    [Instr.copy2d 1 2 3 0 0 0, .copy2d 1 2 30 0 0 0, .tqry 3 1 0, .tqry 0 1 0, .tqry 2 1 2, .tqry 2 1 16, .ftot 3 1 0, .ftot 0 1 0, .tcfg 0 7 0 0,
      .tcfg 0 6 63 31, .mloop 0 1 1 2, .aqnt 0 1 2 0 0 3 0].map Instr.wf =
      [false, false, false, false, false, false, false, false, false, false, false, false] := by decide

/-- Events: a core, partition, die, stack, channel, queue, port, quad or package that a pod does not have (02, 05, 15). -/
theorem test_wf_refuses_event_agents :
    [Instr.coreFailure 192, .triggerEvaluation 192, .lsmodeTakesEffect 192, .ldlfeGranuleFilled 0 0 8, .rgrowGrant 192, .rgrowDeadlockBreak 192,
      .matrixPassGrant 48, .plySwap 192, .plyAntiStarvation 192, .skeinPlacement 8, .placementWaitTimeout 8].map Instr.wf =
      [false, false, false, false, false, false, false, false, false, false, false] := by decide

theorem test_wf_refuses_control_events :
    [Instr.prectlReq 8 0, .prectlResume 8 0, .preemptDeadline 8, .sliceExpiry 8, .dbgctlHalt 8 0, .dbgctlRelease 8 0, .haltStopTimeout 8 0,
      .haltStopTimeout 0 242, .shadowLatchRepeat 4, .migbaseWrite 2 0 0, .migbaseWrite 0 4 0, .migtailWrite 2 0, .migrationDescriptorTake 2,
      .migrationMoveDone 2, .chretWrite 2 0 0, .chretWrite 0 2 0, .frmoveWrite 2 0, .retrycntRead 2].map Instr.wf = List.replicate 18 false := by decide

theorem test_wf_refuses_host_events :
    [Instr.tokbaseWrite 8 0, .colldropRead 8, .evlostRead 8, .replaysRead 4, .mqpushWord0 8 0 0, .mqpushWord0 0 32 0, .mqpushWord1 8 0 0,
      .mqpushWord1 0 32 0, .prstReset 8 0, .partitionResetDone 8, .pbootWrite 8 0, .evctlWrite 8 0, .evheadWrite 8 0, .eventInterruptTimer 8,
      .channelEvent 8 0 false, .channelEvent 0 32 false, .spdmMeasurementRequest 0, .spdmMeasurementRequest 5, .portDownTimeout 16,
      .packageLost 2097152, .flitCrcReplay 16, .fieldRecordResend 2097152, .collRetryResend 0 2097152, .hostWindowAccess 8 0 (.read 4),
      .collPacketAck 0 2097152 .performed].map Instr.wf = List.replicate 25 false := by
  decide

/-! ## Decoding: the word of each row of the opcode table -/

/-- IADD to IMAXU: each word, written bit by bit from the fields that the opcode table gives its row, decodes to the instruction
with its operands. -/
theorem test_words_iadd_to_imaxu :
    decodeWords 0x0035A94E 0 = .ok (.iadd ⟨1, 1⟩ 22 41 19 2) ∧
    decodeWords 0x017A5396 0 = .ok (.iaddi ⟨3, 1⟩ 41 19 0x96) ∧
    decodeWords 0x02D4D6A7 0 = .ok (.isub ⟨6, 1⟩ 19 22 41 3) ∧
    decodeWords 0x0335A94E 0 = .ok (.iadds ⟨1, 1⟩ 22 41 19 2) ∧
    decodeWords 0x047A5359 0 = .ok (.imul ⟨3, 1⟩ 41 19 22 1) ∧
    decodeWords 0x05D4D6A7 0 = .ok (.imulhs ⟨6, 1⟩ 19 22 41 3) ∧
    decodeWords 0x0635A94E 0 = .ok (.imulhu ⟨1, 1⟩ 22 41 19 2) ∧
    decodeWords 0x077A5359 0 = .ok (.imad ⟨3, 1⟩ 41 19 22 1) ∧
    decodeWords 0x08D4D6A7 0 = .ok (.imins ⟨6, 1⟩ 19 22 41 3) ∧
    decodeWords 0x0935A94E 0 = .ok (.iminu ⟨1, 1⟩ 22 41 19 2) ∧
    decodeWords 0x0A7A5359 0 = .ok (.imaxs ⟨3, 1⟩ 41 19 22 1) ∧
    decodeWords 0x0BD4D6A7 0 = .ok (.imaxu ⟨6, 1⟩ 19 22 41 3) :=
  ⟨rfl, rfl, rfl, rfl, rfl, rfl, rfl, rfl, rfl, rfl, rfl, rfl⟩

/-- AND to SHRI: each word, written bit by bit from the fields that the opcode table gives its row, decodes to the instruction
with its operands. -/
theorem test_words_and_to_shri :
    decodeWords 0x0C35A94E 0 = .ok (.and ⟨1, 1⟩ 22 41 19 2) ∧
    decodeWords 0x0D7A5359 0 = .ok (.or ⟨3, 1⟩ 41 19 22 1) ∧
    decodeWords 0x0ED4D6A7 0 = .ok (.xor ⟨6, 1⟩ 19 22 41 3) ∧
    decodeWords 0x0F35A94E 0 = .ok (.andn ⟨1, 1⟩ 22 41 19 2) ∧
    decodeWords 0x107A5396 0 = .ok (.andi ⟨3, 1⟩ 41 19 0x96) ∧
    decodeWords 0x11D4D669 0 = .ok (.ori ⟨6, 1⟩ 19 22 0x69) ∧
    decodeWords 0x1235A9D3 0 = .ok (.xori ⟨1, 1⟩ 22 41 0xD3) ∧
    decodeWords 0x137A5359 0 = .ok (.shl ⟨3, 1⟩ 41 19 22 1) ∧
    decodeWords 0x14D4D6A7 0 = .ok (.shr ⟨6, 1⟩ 19 22 41 3) ∧
    decodeWords 0x1535A94E 0 = .ok (.sar ⟨1, 1⟩ 22 41 19 2) ∧
    decodeWords 0x167A5316 0 = .ok (.shli ⟨3, 1⟩ 41 19 22) ∧
    decodeWords 0x17D4D609 0 = .ok (.shri ⟨6, 1⟩ 19 22 9) :=
  ⟨rfl, rfl, rfl, rfl, rfl, rfl, rfl, rfl, rfl, rfl, rfl, rfl⟩

/-- SARI to MOVI: each word, written bit by bit from the fields that the opcode table gives its row, decodes to the instruction
with its operands. -/
theorem test_words_sari_to_movi :
    decodeWords 0x1835A913 0 = .ok (.sari ⟨1, 1⟩ 22 41 19) ∧
    decodeWords 0x197A5359 0 = .ok (.bfx ⟨3, 1⟩ 41 19 22 1) ∧
    decodeWords 0x1AD4D6A7 0 = .ok (.bfi ⟨6, 1⟩ 19 22 41 3) ∧
    decodeWords 0x1B35A901 0 = .ok (.popc ⟨1, 1⟩ 22 41 1) ∧
    decodeWords 0x1C7A5301 0 = .ok (.clz ⟨3, 1⟩ 41 19 1) ∧
    decodeWords 0x1DD4D601 0 = .ok (.brev ⟨6, 1⟩ 19 22 1) ∧
    decodeWords 0x1E3D5359 0 = .ok (.icmps ⟨1, 1⟩ 6 5 19 22 1) ∧
    decodeWords 0x1F7316A7 0 = .ok (.icmpu ⟨3, 1⟩ 1 4 22 41 3) ∧
    decodeWords 0x20D6E9D3 0 = .ok (.icmpsi ⟨6, 1⟩ 3 3 41 0xD3) ∧
    decodeWords 0x2135A94E 0 = .ok (.sel ⟨1, 1⟩ 22 41 19 2) ∧
    decodeWords 0x227A5301 0 = .ok (.mov ⟨3, 1⟩ 41 19 1) ∧
    decodeWords 0x23D4D696 0 = .ok (.movi ⟨6, 1⟩ 19 0x1696) :=
  ⟨rfl, rfl, rfl, rfl, rfl, rfl, rfl, rfl, rfl, rfl, rfl, rfl⟩

/-- MOVHI to FRCP_F32: each word, written bit by bit from the fields that the opcode table gives its row, decodes to the instruction
with its operands. -/
theorem test_words_movhi_to_frcpF32 :
    decodeWords 0x2435A969 0 = .ok (.movhi ⟨1, 1⟩ 22 0x2969) ∧
    decodeWords 0x257A410D 0 = .ok (.srd ⟨3, 1⟩ 41 0x10D) ∧
    decodeWords 0x26D78980 0 = .ok (.plog ⟨6, 1⟩ 3 6 1 3) ∧
    decodeWords 0x27358000 0 = .ok (.pmovPack ⟨1, 1⟩ 22) ∧
    decodeWords 0x27702905 0 = .ok (.pmovUnpack ⟨3, 1⟩ 41 1) ∧
    decodeWords 0x28D4D6A7 0 = .ok (.faddF32 ⟨6, 1⟩ 19 22 41 3) ∧
    decodeWords 0x2935A94E 0 = .ok (.fmulF32 ⟨1, 1⟩ 22 41 19 2) ∧
    decodeWords 0x2A7A5359 0 = .ok (.ffmaF32 ⟨3, 1⟩ 41 19 22 1) ∧
    decodeWords 0x2BD4D6A7 0 = .ok (.fminF32 ⟨6, 1⟩ 19 22 41 3) ∧
    decodeWords 0x2C35A94E 0 = .ok (.fmaxF32 ⟨1, 1⟩ 22 41 19 2) ∧
    decodeWords 0x2D72D6A7 0 = .ok (.fcmpF32 ⟨3, 1⟩ 1 3 22 41 3) ∧
    decodeWords 0x2ED4D601 0 = .ok (.frcpF32 ⟨6, 1⟩ 19 22 1) :=
  ⟨rfl, rfl, rfl, rfl, rfl, rfl, rfl, rfl, rfl, rfl, rfl, rfl⟩

/-- FRSQ_F32 to FFMA_F64: each word, written bit by bit from the fields that the opcode table gives its row, decodes to the instruction
with its operands. -/
theorem test_words_frsqF32_to_ffmaF64 :
    decodeWords 0x2F35A901 0 = .ok (.frsqF32 ⟨1, 1⟩ 22 41 1) ∧
    decodeWords 0x307A5301 0 = .ok (.fex2F32 ⟨3, 1⟩ 41 19 1) ∧
    decodeWords 0x31D4D601 0 = .ok (.flg2F32 ⟨6, 1⟩ 19 22 1) ∧
    decodeWords 0x3235A94E 0 = .ok (.faddBf16x2 ⟨1, 1⟩ 22 41 19 2) ∧
    decodeWords 0x337A5359 0 = .ok (.fmulBf16x2 ⟨3, 1⟩ 41 19 22 1) ∧
    decodeWords 0x34D4D6A7 0 = .ok (.ffmaBf16x2 ⟨6, 1⟩ 19 22 41 3) ∧
    decodeWords 0x3535A94E 0 = .ok (.faddF16x2 ⟨1, 1⟩ 22 41 19 2) ∧
    decodeWords 0x367A5359 0 = .ok (.fmulF16x2 ⟨3, 1⟩ 41 19 22 1) ∧
    decodeWords 0x37D4D6A7 0 = .ok (.ffmaF16x2 ⟨6, 1⟩ 19 22 41 3) ∧
    decodeWords 0x383A92D0 0 = .ok (.faddF64 ⟨1, 1⟩ 42 18 52) ∧
    decodeWords 0x3975AC68 0 = .ok (.fmulF64 ⟨3, 1⟩ 22 44 26) ∧
    decodeWords 0x3AD994C8 0 = .ok (.ffmaF64 ⟨6, 1⟩ 38 20 50) :=
  ⟨rfl, rfl, rfl, rfl, rfl, rfl, rfl, rfl, rfl, rfl, rfl, rfl⟩

/-- TSUM_F32 to SHFL: each word, written bit by bit from the fields that the opcode table gives its row, decodes to the instruction
with its operands. -/
theorem test_words_tsumF32_to_shfl :
    decodeWords 0x3B35A94E 0 = .ok (.tsumF32 ⟨1, 1⟩ 22 41 19 2) ∧
    decodeWords 0x3C7A956B 0 = .ok (.cvt ⟨3, 1⟩ 42 21 6 11) ∧
    decodeWords 0x3DD5AAA5 0 = .ok (.f2fx ⟨6, 1⟩ 22 42 1 0 37) ∧
    decodeWords 0x3E35AA65 0 = .ok (.fx2f ⟨1, 1⟩ 22 42 0 1 37) ∧
    decodeWords 0x3F7A5359 0 = .ok (.idp4s ⟨3, 1⟩ 41 19 22 1) ∧
    decodeWords 0x40D4D6A7 0 = .ok (.idp4u ⟨6, 1⟩ 19 22 41 3) ∧
    decodeWords 0x4135A9C2 0 = .ok (.tdec ⟨1, 1⟩ 22 41 1 1 2) ∧
    decodeWords 0x427A5342 0 = .ok (.tenc ⟨3, 1⟩ 41 19 0 1 2) ∧
    decodeWords 0x43D4D6A7 0 = .ok (.tblo ⟨6, 1⟩ 19 22 41 3) ∧
    decodeWords 0x4435A94E 0 = .ok (.tbhi ⟨1, 1⟩ 22 41 19 2) ∧
    decodeWords 0x457A5359 0 = .ok (.bsel ⟨3, 1⟩ 41 19 22 1) ∧
    decodeWords 0x46D4D6A7 0 = .ok (.shfl ⟨6, 1⟩ 19 22 41 3) :=
  ⟨rfl, rfl, rfl, rfl, rfl, rfl, rfl, rfl, rfl, rfl, rfl, rfl⟩

/-- SHFLI to ATOML: each word, written bit by bit from the fields that the opcode table gives its row, decodes to the instruction
with its operands. -/
theorem test_words_shfli_to_atoml :
    decodeWords 0x4735A9D3 0 = .ok (.shfli ⟨1, 1⟩ 22 41 0xD3) ∧
    decodeWords 0x487A4302 0 = .ok (.vote ⟨3, 1⟩ 41 3 2) ∧
    decodeWords 0x49D4D60A 0 = .ok (.lred ⟨6, 1⟩ 19 22 10) ∧
    decodeWords 0x4A35A919 0 = .ok (.lscan ⟨1, 1⟩ 22 41 1 9) ∧
    decodeWords 0x4B7A5359 0 = .ok (.lprev ⟨3, 1⟩ 41 19 22 1) ∧
    decodeWords 0x4CD4D601 0 = .ok (.rdi ⟨6, 1⟩ 19 22 1) ∧
    decodeWords 0x4D3016A7 0 = .ok (.wri ⟨1, 1⟩ 22 41 3) ∧
    decodeWords 0x4E7A9361 0 = .ok (.ldl ⟨3, 1⟩ 42 19 6 1) ∧
    decodeWords 0x4FDB1696 0 = .ok (.ldlfe ⟨6, 1⟩ 44 22 9 1 2) ∧
    decodeWords 0x503A6930 0 = .ok (.stl ⟨1, 1⟩ 41 41 3 0) ∧
    decodeWords 0x51759361 0 = .ok (.stlfe ⟨3, 1⟩ 22 19 6 1) ∧
    decodeWords 0x52D69693 0 = .ok (.atoml ⟨6, 1⟩ 26 22 9 3) :=
  ⟨rfl, rfl, rfl, rfl, rfl, rfl, rfl, rfl, rfl, rfl, rfl, rfl⟩

/-- LDG to XW: each word, written bit by bit from the fields that the opcode table gives its row, decodes to the instruction
with its operands. -/
theorem test_words_ldg_to_xw :
    decodeWords 0x533D293A 0 = .ok (.ldg ⟨1, 1⟩ 52 41 3 2 2) ∧
    decodeWords 0x547A5365 0 = .ok (.ldgc ⟨3, 1⟩ 41 19 6 1 1) ∧
    decodeWords 0x55D9969D 0 = .ok (.stg ⟨6, 1⟩ 38 22 9 3 1) ∧
    decodeWords 0x5635A93A 0 = .ok (.atomga ⟨1, 1⟩ 22 41 3 2 2) ∧
    decodeWords 0x57759367 0 = .ok (.atomgb ⟨3, 1⟩ 22 19 6 1 3) ∧
    decodeWords 0x58D9169E 0 = .ok (.atomg64 ⟨6, 1⟩ 36 22 9 3 2) ∧
    decodeWords 0x5935A93A 0 = .ok (.redg ⟨1, 1⟩ 22 41 3 2 2) ∧
    decodeWords 0x5A7A5359 0 = .ok (.xfer ⟨3, 1⟩ 41 19 22 1) ∧
    decodeWords 0x5BD4D601 0 = .ok (.fld ⟨6, 1⟩ 19 22 1) ∧
    decodeWords 0x5C35A94E 0 = .ok (.coll ⟨1, 1⟩ 22 41 19 2) ∧
    decodeWords 0x5D700069 0 = .ok (.sysc ⟨3, 1⟩ 0x69) ∧
    decodeWords 0x7FC6E980 0x2A021061 = .ok (.xw 6 1 1 3 41 2 0x2A021061) :=
  ⟨rfl, rfl, rfl, rfl, rfl, rfl, rfl, rfl, rfl, rfl, rfl, rfl⟩

/-- NOP to UMIN: each word, written bit by bit from the fields that the opcode table gives its row, decodes to the instruction
with its operands. -/
theorem test_words_nop_to_umin :
    decodeWords 0x80000000 0 = .ok .nop ∧
    decodeWords 0x819D9200 0 = .ok (.uadd 19 22 9) ∧
    decodeWords 0x82B25AD3 0 = .ok (.uaddi 22 9 0x1AD3) ∧
    decodeWords 0x834CEC00 0 = .ok (.usub 9 19 22) ∧
    decodeWords 0x849D9200 0 = .ok (.umul 19 22 9) ∧
    decodeWords 0x85B26600 0 = .ok (.uand 22 9 19) ∧
    decodeWords 0x864CEC00 0 = .ok (.uor 9 19 22) ∧
    decodeWords 0x879D9200 0 = .ok (.uxor 19 22 9) ∧
    decodeWords 0x88B24013 0 = .ok (.ushl 22 9 19) ∧
    decodeWords 0x894CC016 0 = .ok (.ushr 9 19 22) ∧
    decodeWords 0x8A9D8029 0 = .ok (.usar 19 22 41) ∧
    decodeWords 0x8BB26601 0 = .ok (.umin 22 9 19 1) :=
  ⟨rfl, rfl, rfl, rfl, rfl, rfl, rfl, rfl, rfl, rfl, rfl, rfl⟩

/-- UMAX to UBR: each word, written bit by bit from the fields that the opcode table gives its row, decodes to the instruction
with its operands. -/
theorem test_words_umax_to_ubr :
    decodeWords 0x8C4CEC00 0 = .ok (.umax 9 19 22 0) ∧
    decodeWords 0x8D981696 0 = .ok (.umovi 19 0x1696) ∧
    decodeWords 0x8EB65AD3 0 = .ok (.umovhi 22 25 0x1AD3) ∧
    decodeWords 0x8F4CC000 0 = .ok (.umov 9 19) ∧
    decodeWords 0x90B16969 0 = .ok (.br 5 2 0x16969) ∧
    decodeWords 0x91DB5AD3 0 = .ok (.brs 6 1 0x35AD3) ∧
    decodeWords 0x92000000 0 = .ok .join ∧
    decodeWords 0x934E9696 0 = .ok (.brt 19 0x29696) ∧
    decodeWords 0x94CB5AD3 0 = .ok (.call 6 1 0x35AD3) ∧
    decodeWords 0x95000000 0 = .ok .ret ∧
    decodeWords 0x964E9696 0 = .ok (.callt 19 0x29696) ∧
    decodeWords 0x97B26E96 0 = .ok (.ubr 22 9 5 0x696) :=
  ⟨rfl, rfl, rfl, rfl, rfl, rfl, rfl, rfl, rfl, rfl, rfl, rfl⟩

/-- TWIST to UOWN: each word, written bit by bit from the fields that the opcode table gives its row, decodes to the instruction
with its operands. -/
theorem test_words_twist_to_uown :
    decodeWords 0x98000000 0 = .ok .twist ∧
    decodeWords 0x99000000 0 = .ok .exit ∧
    decodeWords 0x9A693C40 0 = .ok (.wait 6 9 3 6 1) ∧
    decodeWords 0x9B000000 0 = .ok .yield ∧
    decodeWords 0x9C3A5800 0 = .ok (.bar 3 0x296) ∧
    decodeWords 0x9D65A400 0 = .ok (.bara 6 0x169) ∧
    decodeWords 0x9E900000 0 = .ok (.barw 9) ∧
    decodeWords 0x9F800000 0 = .ok (.sbar 4) ∧
    decodeWords 0xA0B60000 0 = .ok (.fence 5 2 1 1) ∧
    decodeWords 0xA14CD696 0 = .ok (.uld 9 19 0x1696) ∧
    decodeWords 0xA29DA969 0 = .ok (.ust 19 22 0x2969) ∧
    decodeWords 0xA3058009 0 = .ok (.uown 22 9) :=
  ⟨rfl, rfl, rfl, rfl, rfl, rfl, rfl, rfl, rfl, rfl, rfl, rfl⟩

/-- SRDU to TRIG: each word, written bit by bit from the fields that the opcode table gives its row, decodes to the instruction
with its operands. -/
theorem test_words_srdu_to_trig :
    decodeWords 0xA4480205 0 = .ok (.srdu 9 0x205) ∧
    decodeWords 0xA504C10B 0 = .ok (.swr 19 0x10B) ∧
    decodeWords 0xA5058110 0 = .ok (.swrLsmode 22) ∧
    decodeWords 0xA5024203 0 = .ok (.swrPcap 9) ∧
    decodeWords 0xA604C000 0 = .ok (.rgrow 19) ∧
    decodeWords 0xA7B24000 0 = .ok (.rgtry 22 9) ∧
    decodeWords 0xA8024000 0 = .ok (.rshrk 9) ∧
    decodeWords 0xA904C000 0 = .ok (.vwbs 19) ∧
    decodeWords 0xAAB26753 0 = .ok (.copy 22 9 19 2 1 19) ∧
    decodeWords 0xAB4CD8D6 0 = .ok (.copy2d 9 19 12 1 1 22) ∧
    decodeWords 0xAC9D92A9 0 = .ok (.copyp 19 22 9 1 0 41) ∧
    decodeWords 0xADB24000 0 = .ok (.trig 22 9) :=
  ⟨rfl, rfl, rfl, rfl, rfl, rfl, rfl, rfl, rfl, rfl, rfl, rfl⟩

/-- TRIG_CANCEL to RETN_RECLAIM: each word, written bit by bit from the fields that the opcode table gives its row, decodes to the instruction
with its operands. -/
theorem test_words_trigCancel_to_retnReclaim :
    decodeWords 0xAD4CC001 0 = .ok (.trigCancel 9 19) ∧
    decodeWords 0xAE04C016 0 = .ok (.cntrAdd 19 22) ∧
    decodeWords 0xAE058069 0 = .ok (.cntrSet 22 41) ∧
    decodeWords 0xAE480093 0 = .ok (.cntrRead 9 19) ∧
    decodeWords 0xAF04C000 0 = .ok (.collh 19) ∧
    decodeWords 0xAFB00001 0 = .ok (.collhAbort 22) ∧
    decodeWords 0xAF4CED4E 0 = .ok (.collhTree 9 19 22 41 1) ∧
    decodeWords 0xB09D8000 0 = .ok (.lend 19 22) ∧
    decodeWords 0xB0B24001 0 = .ok (.lendShare 22 9) ∧
    decodeWords 0xB1480000 0 = .ok (.retn 9) ∧
    decodeWords 0xB1980001 0 = .ok (.retnRecall 19) ∧
    decodeWords 0xB1B00002 0 = .ok (.retnReclaim 22) :=
  ⟨rfl, rfl, rfl, rfl, rfl, rfl, rfl, rfl, rfl, rfl, rfl, rfl⟩

/-- SPLIT to MREL: each word, written bit by bit from the fields that the opcode table gives its row, decodes to the instruction
with its operands. -/
theorem test_words_split_to_mrel :
    decodeWords 0xB2480000 0 = .ok (.split 9) ∧
    decodeWords 0xB3980000 0 = .ok (.mend 19) ∧
    decodeWords 0xB4524001 0 = .ok (.tqry 10 9 1) ∧
    decodeWords 0xB5024000 0 = .ok (.fdom 9) ∧
    decodeWords 0xB6658002 0 = .ok (.ftot 12 22 2) ∧
    decodeWords 0xB7B24000 0 = .ok (.fdecl 22 9) ∧
    decodeWords 0xB74CC001 0 = .ok (.fdeclRetire 9 19) ∧
    decodeWords 0xB8282D2A 0 = .ok (.tcfg 5 5 41 10) ∧
    decodeWords 0xB9324000 0 = .ok (.tld 6 9) ∧
    decodeWords 0xBA0CC000 0 = .ok (.tst 1 19) ∧
    decodeWords 0xBB180000 0 = .ok (.macq 3) ∧
    decodeWords 0xBC300000 0 = .ok (.mrel 6) :=
  ⟨rfl, rfl, rfl, rfl, rfl, rfl, rfl, rfl, rfl, rfl, rfl, rfl⟩

/-- MMA to ORDR_OFF: each word, written bit by bit from the fields that the opcode table gives its row, decodes to the instruction
with its operands. -/
theorem test_words_mma_to_ordrOff :
    decodeWords 0xBD094609 0 = .ok (.mma 1 5 3 9) ∧
    decodeWords 0xBE190413 0 = .ok (.mloop 3 2 1 19) ∧
    decodeWords 0xBF3240D6 0 = .ok (.amov 6 9 3 22) ∧
    decodeWords 0xC00CEC1D 0 = .ok (.aqnt 1 19 22 1 1 2 1) ∧
    decodeWords 0xC1180000 0 = .ok (.aclr 3) ∧
    decodeWords 0xC2000000 0 = .ok .phase ∧
    decodeWords 0xC3480000 0 = .ok (.dgstRead 9) ∧
    decodeWords 0xC3000001 0 = .ok .dgstOn ∧
    decodeWords 0xC3000002 0 = .ok .dgstOff ∧
    decodeWords 0xC3000003 0 = .ok .dgstClr ∧
    decodeWords 0xC304EC04 0 = .ok (.dgstFold 19 22) ∧
    decodeWords 0xC4B24000 0 = .ok (.ordrOff 22 9) :=
  ⟨rfl, rfl, rfl, rfl, rfl, rfl, rfl, rfl, rfl, rfl, rfl, rfl⟩

/-- ORDR_REC to BRK: each word, written bit by bit from the fields that the opcode table gives its row, decodes to the instruction
with its operands. -/
theorem test_words_ordrRec_to_brk :
    decodeWords 0xC44CC001 0 = .ok (.ordrRec 9 19) ∧
    decodeWords 0xC49D8002 0 = .ok (.ordrPlay 19 22) ∧
    decodeWords 0xC5000000 0 = .ok .tret ∧
    decodeWords 0xC6000069 0 = .ok (.hcall 0x69) ∧
    decodeWords 0xC7000000 0 = .ok .hret ∧
    decodeWords 0xC8B26600 0 = .ok (.lnch 22 9 19) ∧
    decodeWords 0xC94CEC00 0 = .ok (.sksv 9 19 22) ∧
    decodeWords 0xCA9D9200 0 = .ok (.skrs 19 22 9) ∧
    decodeWords 0xCB059200 0 = .ok (.tlbi 22 9) ∧
    decodeWords 0xCB001201 0 = .ok (.tlbiCtx 9) ∧
    decodeWords 0xCB000002 0 = .ok .tlbiAll ∧
    decodeWords 0xCC000096 0 = .ok (.brk 0x96) :=
  ⟨rfl, rfl, rfl, rfl, rfl, rfl, rfl, rfl, rfl, rfl, rfl, rfl⟩

/-- HALT to MSGR_TRY: each word, written bit by bit from the fields that the opcode table gives its row, decodes to the instruction
with its operands. -/
theorem test_words_halt_to_msgrTry :
    decodeWords 0xCD000000 0 = .ok .halt ∧
    decodeWords 0xCE04C000 0 = .ok (.cflu 19) ∧
    decodeWords 0xCE058001 0 = .ok (.cfluInv 22) ∧
    decodeWords 0xCE024002 0 = .ok (.cfluI 9) ∧
    decodeWords 0xCF9D9213 0 = .ok (.msgs 19 22 9 19) ∧
    decodeWords 0xD0B26600 0 = .ok (.msgr 22 9 19) ∧
    decodeWords 0xD04CEC01 0 = .ok (.msgrTry 9 19 22) :=
  ⟨rfl, rfl, rfl, rfl, rfl, rfl, rfl⟩

/-! ## A small state, and what the witnesses share -/

/-- A package with one skein of one ply and one strand on core 0, which issues in mode `m`; V0 and on hold `vs` in every lane,
and W1 and on hold `ws`. Its page at 0x10000 may be read, written and executed in user mode,
its core holds a grant of the root region, and the token table has room. -/
def work (m : Mode) (vs : List Word) (ws : List DWord) : State :=
  let a := State.reset.withFetchWord 32 0x80000000
  let t : Strand := { fetchStrand with mode := m }
  { a with
    cur := { sid := 0, ply := 0, strands := [0] }
    tlb := [{ fetchTlb with leaf := 0x1001F }]
    grants := [{ core := 0, part := 0, package := 0, agent := .skein 0 0, ctx := 0, base := 0, k := 40, write := true, back := false }]
    parts := [(0, { fetchPart with tokBase := 16 })]
    strands := [(0, (vs.zipIdx).foldl (fun t e => (List.range 4).foldl (fun t j => t.setV e.2 j e.1) t) t)]
    skeins := [(0, (ws.zipIdx).foldl (fun k e => k.setW 0 (e.2 + 1) e.1) { fetchSkein with lsSize := 4096 })] }

/-- The same with its one strand changed. -/
def strandBy (s : State) (f : Strand → Strand) : State := setStrand s 0 (f (getStrand s 0))

/-- The same with its one skein changed. -/
def skeinBy (s : State) (f : Skein → Skein) : State := setSkein s 0 (f (getSkein s 0))

/-- What holds of strand 0 holds of every strand of a group that has no other. -/
theorem allStrands {p : Nat → Prop} (h : p 0) : ∀ n ∈ [0], p n := List.forall_mem_singleton.mpr h

/-- A fetch of known words, with the state that it leaves. -/
theorem fetched_of {l : List Nat} {s : State} {ws : List Word} (h : (fetched l s).map Prod.fst = some ws) :
    fetched l s = some (ws, ((fetched l s).getD ([], s)).2) := by
  cases e : fetched l s with
  | none => simp [e] at h
  | some x => rw [e] at h; cases h; rfl

/-- The bytes of doublewords stored at an address of the page. -/
def stored (s : State) (va : Nat) (ws : List DWord) : State := putBytes s va (dwordBytes ws)

/-- The translation of an address of the page. -/
def page (va : Nat) : Xl := { pa := va, leaf := 0x1001F, base := 0x10000, k := 16, die := 0 }

/-- Whether the answer of a token check is that the access is allowed. -/
def granted (a : TokenAnswer) : Bool :=
  match a with
  | .allowed _ => true
  | _ => false

/-- The clauses of `rangePasses`, checked one after another. -/
theorem rangePasses_of {s : State} {a : Acc} {vas : List Nat} {size al : Nat} {xs : List Xl}
    (h : vas.map (fun va => checkVa s (curSkein s).core (curSkein s).part (curSkein s).ctx (curMode s) a va size al) = xs.map Chk.ok)
    (g : ((vas.zip xs).all (fun e => granted (tokenCheck s s.cur.sid e.1 a.writes e.2) &&
      granted (tokenCheck s s.cur.sid (e.1 + size - 1) a.writes e.2)) &&
        xs.all (fun x => !(cpHolds s a.writes (x.kind == .unordered)))) = true) : rangePasses s a vas size al xs := by
  obtain ⟨g, u⟩ := Bool.and_eq_true_iff.mp g
  refine ⟨h, fun va hm x hx => ?_, fun x hx => by simpa using List.all_eq_true.mp u x hx⟩
  obtain ⟨i, hi, rfl⟩ := List.mem_iff_getElem.mp hm
  have hl := congrArg List.length h
  simp only [List.length_map] at hl
  have e := congrArg (fun l => l[i]?) h
  simp only [List.getElem?_map, List.getElem?_eq_getElem hi, List.getElem?_eq_getElem (hl ▸ hi), Option.map_some, hx,
    Option.some.injEq, Chk.ok.injEq] at e
  have hz : (vas[i], xs[i]'(hl ▸ hi)) ∈ vas.zip xs := by
    rw [List.mem_iff_getElem]; exact ⟨i, by simp [hi, ← hl], by simp⟩
  have := List.all_eq_true.mp g _ hz
  simp only [Bool.and_eq_true] at this
  rw [e]
  cases p : tokenCheck s s.cur.sid vas[i] a.writes (xs[i]'(hl ▸ hi)) <;> rw [p] at this <;>
    cases q : tokenCheck s s.cur.sid (vas[i] + size - 1) a.writes (xs[i]'(hl ▸ hi)) <;> rw [q] at this <;>
    first | exact ⟨_, _, rfl, rfl⟩ | exact absurd this.1 Bool.false_ne_true | exact absurd this.2 Bool.false_ne_true

/-- The next state of an answer, if it has one. -/
def nextOf (o : Host.Outcome State Fault Refusal) : Option State :=
  match o with
  | .next t => some t
  | _ => none

/-- An answer whose next state is known. -/
theorem next_of {o : Host.Outcome State Fault Refusal} {t : State} (h : nextOf o = some t) : o = .next t := by
  cases o <;> cases h; rfl

/-- An answer that has a next state. -/
theorem has_next {o : Host.Outcome State Fault Refusal} (h : (nextOf o).isSome = true) : ∃ t, o = .next t := by
  cases o with
  | next t => exact ⟨t, rfl⟩
  | fault => cases h
  | refused => cases h

/-! ## Witnesses of the hypotheses of the statements -/

/-! ## The hypotheses of each statement can be met: a state and operands, at the ends of their ranges -/

theorem test_meets_integer_add_multiply :
    laneFree (work .user [3, 0xFFFFFFFF] []) ⟨0, 0⟩ .user [[63]] [[0], [1]] ∧
    laneFree (work .user [3, 0xFFFFFFFF] []) ⟨0, 0⟩ .user [] [[63]] := by
  unfold laneFree; decide +kernel

theorem test_meets_integer_min_max :
    laneFree (work .supervisor [0x80000000, 1] []) ⟨7, 1⟩ .user [[0]] [[15], [16]] := by
  unfold laneFree; decide +kernel

theorem test_meets_logic : laneFree (work .user [0xF0F0F0F0] []) ⟨0, 1⟩ .user [[1]] [[0], [63]] := by
  unfold laneFree; decide +kernel

theorem test_meets_shift : laneFree (work .user [0x80000001, 31] []) ⟨0, 0⟩ .user [[0]] [[0], [1]] := by
  unfold laneFree; decide +kernel

theorem test_meets_bit_field :
    laneFree (work .user [0xFFFFFFFF, 0x1F1F] []) ⟨0, 0⟩ .user [[2]] [[0], [1]] ∧
    laneFree (work .user [0xFFFFFFFF, 0x1F1F] []) ⟨0, 0⟩ .user [] [[2]] := by
  unfold laneFree; decide +kernel

theorem test_meets_compare :
    laneFree (work .user [0x80000000, 1] []) ⟨0, 0⟩ .user [] [[0], [1]] ∧ (5 : BitVec 3).toNat < 6 := by
  unfold laneFree; decide +kernel

theorem test_meets_predicate_and_move :
    laneFree (work .user [0xFF] []) ⟨0, 0⟩ .user [[63]] [[0], [62]] ∧ laneFree (work .user [0xFF] []) ⟨0, 0⟩ .user [] [[63]] := by
  unfold laneFree; decide +kernel

theorem test_meets_float_arithmetic :
    let s := work .user [0x3F800000, 0x7F800000] []
    laneFree s ⟨0, 0⟩ .user [[62]] [[0], [1]] ∧ laneFree s ⟨0, 0⟩ .user [] [[62]] ∧
    (Instr.tsumF32 ⟨0, 0⟩ 62 0 1 0).wf = true ∧ laneFree s ⟨0, 0⟩ .user [[62, 63]] [] ∧
    ¬ 0x7F800000 < (0xFF800000 : Word).toNat % 2 ^ 31 ∧
    (0x7F800000 < (0x7F800001 : Word).toNat % 2 ^ 31 ∧ (0x7F800001 : Word).getLsbD 22 = false) ∧
    ((0x7F800000 < (0xFFFFFFFF : Word).toNat % 2 ^ 31) ∧ (0xFFFFFFFF : Word).getLsbD 22 = true) ∧
    ((0xFF7FFFFF : Word).getLsbD 31 = true ∧ 0 < (0xFF7FFFFF : Word).toNat % 2 ^ 31 ∧ (0xFF7FFFFF : Word).toNat % 2 ^ 31 < 0x7F800000) := by
  unfold laneFree; decide +kernel

theorem test_meets_packed_float :
    laneFree (work .user [0x3F803F80, 0x7F80FF80] []) ⟨0, 0⟩ .user [[2]] [[0], [1]] ∧
    laneFree (work .user [0x3F803F80, 0x7F80FF80] []) ⟨0, 0⟩ .user [] [[2]] := by
  unfold laneFree; decide +kernel

theorem test_meets_double_float :
    let s := work .user [0, 0x3FF00000, 0, 0x7FF00000] []
    laneFree s ⟨0, 0⟩ .user [[62, 63]] [[0, 1], [2, 3]] ∧ laneFree s ⟨0, 0⟩ .user [] [[62, 63]] ∧
    (Instr.faddF64 ⟨0, 0⟩ 62 0 2).wf = true ∧ (Instr.fmulF64 ⟨0, 0⟩ 62 0 2).wf = true ∧ (Instr.ffmaF64 ⟨0, 0⟩ 62 0 2).wf = true := by
  unfold laneFree; decide +kernel

theorem test_meets_float_compare : laneFree (work .user [0x7FC00000, 0] []) ⟨0, 0⟩ .user [] [[0], [1]] := by
  unfold laneFree; decide +kernel

theorem test_meets_conversion :
    let s := work .user [0xFF800000, 0x7FF00000] []
    ((Instr.cvt ⟨0, 0⟩ 62 0 11 11).wf = true ∧
      laneFree s ⟨0, 0⟩ .user [rangeFrom 62 (if (11 : BitVec 4) = 11 then 2 else 1)] [rangeFrom 0 (if (11 : BitVec 4) = 11 then 2 else 1)]) ∧
    ((Instr.cvt ⟨0, 0⟩ 63 1 10 0).wf = true ∧
      laneFree s ⟨0, 0⟩ .user [rangeFrom 63 (if (0 : BitVec 4) = 11 then 2 else 1)] [rangeFrom 1 (if (10 : BitVec 4) = 11 then 2 else 1)]) ∧
    ((Instr.f2fx ⟨0, 0⟩ 62 0 1 1 63).wf = true ∧
      laneFree s ⟨0, 0⟩ .user [rangeFrom 62 (if (1 : BitVec 1) = 1 then 2 else 1)] [rangeFrom 0 (if (1 : BitVec 1) = 1 then 2 else 1)]) ∧
    ((Instr.fx2f ⟨0, 0⟩ 63 0 1 0 63).wf = true ∧
      laneFree s ⟨0, 0⟩ .user [rangeFrom 63 (if (0 : BitVec 1) = 1 then 2 else 1)] [rangeFrom 0 (if (1 : BitVec 1) = 1 then 2 else 1)]) := by
  unfold laneFree; decide +kernel

theorem test_meets_byte_and_tapered :
    let s := work .user [0x807F01FF, 0x80FF0300] []
    laneFree s ⟨0, 0⟩ .user [[2]] [[0], [60]] ∧ laneFree s ⟨0, 0⟩ .user [] [[2]] ∧ laneFree s ⟨0, 0⟩ .user [] [rangeFrom 60 4] ∧
    (Instr.tdec ⟨0, 0⟩ 2 0 1 1 2).wf = true ∧ (Instr.tenc ⟨0, 0⟩ 2 0 0 0 3).wf = true := by
  unfold laneFree; decide +kernel

theorem test_meets_permute :
    let s := work .user [31, 32] []
    let ix (l : Nat) : Nat := ((curStrand s (l / 4)).v 0 (l % 4)).toNat
    laneFree s ⟨0, 0⟩ .user [[2]] [[0]] ∧ farFree s ⟨0, 0⟩ 1 (fun l => if ix l < 32 then some (ix l) else none) ∧
    laneFree s ⟨0, 0⟩ .user [[2]] [] ∧ farFree s ⟨0, 0⟩ 1 (fun l => if 0 ≤ (l : Int) + -1 ∧ (l : Int) + -1 < 32 then some ((l : Int) + -1).toNat else none) ∧
    farFree s ⟨0, 0⟩ 0 (fun l => if l = 0 then none else some (l - 1)) ∧
    farFree s ⟨0, 0⟩ 1 (fun l => if l = 0 then some (4 * (curSkein s).strands - 1) else none) := by
  unfold laneFree farFree
  refine ⟨?_, ?_, ?_, ?_, ?_, ?_⟩ <;> decide +kernel

theorem test_meets_vote_and_reduction :
    laneFree (work .user [0xFFFFFFFF] []) ⟨0, 0⟩ .user [[63]] [[0]] ∧ (Instr.vote ⟨0, 0⟩ 63 7 3).wf = true ∧
    (Instr.lred ⟨0, 0⟩ 63 0 10).wf = true ∧ (Instr.lscan ⟨0, 0⟩ 63 0 1 10).wf = true := by
  unfold laneFree; decide +kernel

/-- The state of the next witness: V0 holds the last index. -/
def lastIndex : State := work .user [63, 5] []

theorem test_meets_indirect_register :
    (laneFree lastIndex ⟨0, 0⟩ .user [[2]] [[0]] ∧ rdiReady lastIndex ⟨0, 0⟩ 0 ∧
      ∀ n ∈ grp lastIndex, ∀ j < 4, ((curStrand lastIndex n).active ⟨0, 0⟩).getLsbD j = true →
        (false, (curStrand lastIndex n).vwb + ((curStrand lastIndex n).v 0 j).toNat, j) ∉ (curStrand lastIndex n).lost) ∧
    laneFree lastIndex ⟨0, 0⟩ .user [] [[0], [1]] ∧
    ((Instr.srd ⟨0, 0⟩ 0 0x010).wf = true ∧ laneFree lastIndex ⟨0, 0⟩ (srMode 0x010) [[0]] []) ∧
    ((Instr.srd ⟨0, 0⟩ 0 0x205).wf = true ∧ laneFree (work .hypervisor [] []) ⟨0, 0⟩ (srMode 0x205) [[0]] []) ∧
    ((Instr.srd ⟨0, 0⟩ 0 0x018).wf = true ∧ laneFree lastIndex ⟨0, 0⟩ (srMode 0x018) [[0]] [] ∧
      ∀ n ∈ acting lastIndex ⟨0, 0⟩, requantizing lastIndex n = false) := by
  unfold laneFree rdiReady
  refine ⟨⟨?_, ?_, ?_⟩, ?_, ⟨?_, ?_⟩, ⟨?_, ?_⟩, ?_, ?_, ?_⟩ <;> decide +kernel

theorem test_meets_extension_word :
    let w : Word := 0x28021060
    let x := xwExt 1 3 0 0 0 0 w
    let op := xwOp w
    let reg (lo : Nat) : Nat := (w.extractLsb' lo 6).toNat
    let els := (List.range 2).flatMap (fun i => (List.range 4).map (fun k => i * 8 + k))
    (Instr.xw 1 3 0 0 0 0 w).wf = true ∧
    laneFree (work .user [] []) ⟨w.extractLsb' 21 3, w.extractLsb' 20 1⟩ .user [els.flatMap (fun e => rangeFrom (reg 14 + e) op.1.d)]
      [els.flatMap (fun e => rangeFrom (reg 8 + e) op.1.a), els.flatMap (fun e => rangeFrom (reg 2 + e) op.1.b),
       els.flatMap (fun e => rangeFrom (x.s3.getD (reg 14) + e) op.1.c)] ∧
    blocksUnsplit (work .user [] []) [els.flatMap (fun e => rangeFrom (reg 14 + e) op.1.d), els.flatMap (fun e => rangeFrom (reg 8 + e) op.1.a),
      els.flatMap (fun e => rangeFrom (reg 2 + e) op.1.b), els.flatMap (fun e => rangeFrom (x.s3.getD (reg 14) + e) op.1.c)] := by
  unfold laneFree blocksUnsplit; decide +kernel

theorem test_meets_uniform_arithmetic :
    uniFree (work .user [] [0xFFFFFFFFFFFFFFFF, 1]) .user [1, 0] [31] ∧ (25 : BitVec 5).toNat ≤ 25 ∧
    uniFree (work .user [] [0xFFFFFFFFFFFFFFFF, 1]) .user [31] [] := by
  unfold uniFree; decide +kernel

theorem test_meets_branch :
    (((0 : BitVec 2) ≠ 0 ∨ (0 : BitVec 3) = 0) ∧ uniFree (work .user [] []) .user [] []) ∧
    ((5 : BitVec 3).toNat < 6 ∧ uniFree (work .user [] [7]) .user [1, 31] []) := by
  unfold uniFree; decide +kernel

/-- A strand whose call stack holds `n` entries and whose mask stack `m`. -/
def stacked (n m : Nat) : State :=
  strandBy (work .user [] []) (fun t => { t with calls := List.replicate n 0x10010, masks := List.replicate m 0xF })

theorem test_meets_call_and_mask :
    (uniFree (stacked 12 28) .user [] [] ∧ ((1 : BitVec 2) ≠ 0 ∨ (0 : BitVec 3) = 0) ∧
      (∃ n ∈ grp (stacked 12 28), (curStrand (stacked 12 28) n).taken 0 1 = true) ∧
      ∀ n ∈ grp (stacked 12 28), (curStrand (stacked 12 28) n).taken 0 1 = true →
        (curStrand (stacked 12 28) n).calls.length + 1 + (curStrand (stacked 12 28) n).reserve ≤ 16) ∧
    (uniFree (stacked 13 29) .user [] [] ∧ ∃ n ∈ grp (stacked 13 29), (curStrand (stacked 13 29) n).taken 0 1 = true ∧
      16 < (curStrand (stacked 13 29) n).calls.length + 1 + (curStrand (stacked 13 29) n).reserve) ∧
    (∀ n ∈ grp (stacked 12 28), (curStrand (stacked 12 28) n).kept 0 0 ≠ 0 →
      (curStrand (stacked 12 28) n).masks.length + 1 + (curStrand (stacked 12 28) n).reserve ≤ 32) ∧
    ∃ n ∈ grp (stacked 13 29), (curStrand (stacked 13 29) n).kept 0 0 ≠ 0 ∧
      32 < (curStrand (stacked 13 29) n).masks.length + 1 + (curStrand (stacked 13 29) n).reserve := by
  unfold uniFree
  refine ⟨⟨?_, ?_, ?_, ?_⟩, ⟨?_, ?_⟩, ?_, ?_⟩ <;> decide +kernel

/-- A strand with given stacks; behind its word stand words at 0x10000 and on. -/
def framed (masks : List (BitVec 8)) (calls : List DWord) (words : List Word) : State :=
  (words.zipIdx).foldl (fun s e => putBytes s (0x10000 + 4 * e.2) (natToBytes e.1.toNat 4))
    (strandBy (work .user [] []) (fun t => { t with masks := masks, calls := calls }))

/-- The state of an ended switch, its word at 0x10000 and its table at 0x10008. -/
def endedSwitch (call : DWord) : State := framed [0, 0x40, 0xF] [call] [0x93000002, 0, 1, 3]

theorem test_meets_join_and_return :
    (uniFree (framed [3, 0xF] [] []) .user [] [] ∧ ∀ n ∈ grp (framed [3, 0xF] [] []), ∃ x y l,
      (curStrand (framed [3, 0xF] [] []) n).masks = x :: y :: l ∧ (x.extractLsb' 4 3 : BitVec 3) = 0 ∧ y.getLsbD 6 = false) ∧
    (∀ n ∈ grp (framed [1, 0x48, 0xF] [0x4000000000010000] []), ∃ x y l c q,
      (curStrand (framed [1, 0x48, 0xF] [0x4000000000010000] []) n).masks = x :: y :: l ∧
      (curStrand (framed [1, 0x48, 0xF] [0x4000000000010000] []) n).calls = c :: q ∧ (x.extractLsb' 4 3 : BitVec 3) = 0 ∧
      y.getLsbD 6 = true ∧ c.getLsbD 62 = true ∧ c.getLsbD 61 = false ∧
      y.extractLsb' 0 4 &&& ~~~ (curStrand (framed [1, 0x48, 0xF] [0x4000000000010000] []) n).dead ≠ 0) ∧
    (∀ n ∈ grp (framed [0xF] [0x10010] []), ∃ c q, (curStrand (framed [0xF] [0x10010] []) n).calls = c :: q ∧
      (c.extractLsb' 0 2 : BitVec 2) = 0 ∧ c.getLsbD 62 = false) ∧
    (∃ n ∈ grp (framed [0xF] [] []), (curStrand (framed [0xF] [] []) n).masks.length < 2 ∨
      ∃ x l, (curStrand (framed [0xF] [] []) n).masks = x :: l ∧ (x.extractLsb' 4 3 : BitVec 3) ≠ 0) ∧
    ∃ n ∈ grp (framed [0xF] [1] []), (curStrand (framed [0xF] [1] []) n).calls = [] ∨
      ∃ c q, (curStrand (framed [0xF] [1] []) n).calls = c :: q ∧ (c.extractLsb' 0 2 : BitVec 2) ≠ 0 := by
  refine ⟨⟨?_, allStrands ⟨3, 0xF, [], ?_⟩⟩, allStrands ⟨1, 0x48, [0xF], 0x4000000000010000, [], ?_⟩, allStrands ⟨0x10010, [], ?_⟩,
    ⟨0, ?_, .inl ?_⟩, 0, ?_, .inr ⟨1, [], ?_⟩⟩ <;> try unfold uniFree
  all_goals decide +kernel

theorem test_meets_end_of_switch : ∀ call ∈ [(0x4000000000010000 : DWord), 0x6000000000010000], ∃ (a b : State) (w o : Nat → Word),
    (∀ n ∈ grp (endedSwitch call), ∃ x y l c q, (curStrand (endedSwitch call) n).masks = x :: y :: l ∧
      (curStrand (endedSwitch call) n).calls = c :: q ∧ (x.extractLsb' 4 3 : BitVec 3) = 0 ∧ (c.extractLsb' 0 2 : BitVec 2) = 0 ∧
      y.getLsbD 6 = true ∧ c.getLsbD 62 = true ∧ c.getLsbD 61 = call.getLsbD 61 ∧
      y.extractLsb' 0 4 &&& ~~~ (curStrand (endedSwitch call) n).dead = 0) ∧
    fetched ((grp (endedSwitch call)).map (fun n => ((curStrand (endedSwitch call) n).calls.headD 0 &&& 0x01FFFFFFFFFFFFFC).toNat))
      (endedSwitch call) = some ((grp (endedSwitch call)).map w, a) ∧
    fetched ((grp (endedSwitch call)).map (fun n => (((curStrand (endedSwitch call) n).calls.headD 0 &&& 0x01FFFFFFFFFFFFFC) +
      4 * ((w n).extractLsb' 0 18).signExtend 64 + 4).toNat)) a = some ((grp (endedSwitch call)).map o, b) := by
  intro call h
  have := List.mem_cons.mp h
  obtain rfl | h := this
  · exact ⟨_, _, fun _ => 0x93000002, fun _ => 3, allStrands ⟨0, 0x40, [0xF], 0x4000000000010000, [], by decide +kernel⟩,
      fetched_of (by decide +kernel), fetched_of (by decide +kernel)⟩
  · obtain rfl := List.mem_singleton.mp h
    exact ⟨_, _, fun _ => 0x93000002, fun _ => 3, allStrands ⟨0, 0x40, [0xF], 0x6000000000010000, [], by decide +kernel⟩,
      fetched_of (by decide +kernel), fetched_of (by decide +kernel)⟩

/-- A word at 0x10000 whose table of two cases stands at 0x10008, with index 1 in V0. -/
def tabled : State := ([0x93000002, 0, 2, 8, 4, 6].zipIdx).foldl (fun s (e : Word × Nat) =>
  putBytes s (0x10000 + 4 * e.2) (natToBytes e.1.toNat 4)) (work .user [1] [])

theorem test_meets_table_jump :
    (∃ a b : State, ∃ w : Nat → Word, uniFree tabled .user [] [] ∧
      (∀ n ∈ grp tabled, (curStrand tabled n).allowed (curSkein tabled).nreg [(0 : BitVec 6).toNat] = true ∧
        (curStrand tabled n).awaits [0] (curStrand tabled n).liveLanes = false ∧ (curStrand tabled n).lostLanes [0] (curStrand tabled n).liveLanes = 0 ∧
        (∀ j < 4, (curStrand tabled n).liveLanes.getLsbD j = true → ((curStrand tabled n).v 0 j).toNat < (2 : Word).toNat) ∧
        (curStrand tabled n).roomForCase false = true ∧ (curStrand tabled n).roomForCase true = true) ∧
      0 < (2 : Word).toNat ∧ (2 : Word).toNat < 65536 ∧
      fetched [(curPc tabled + 4 * (2 : BitVec 18).signExtend 64).toNat] tabled = some ([2], a) ∧
      fetched ((grp tabled).map (fun n => (curPc tabled + 4 * (2 : BitVec 18).signExtend 64 + 4 * dw (match (curStrand tabled n).caseOf 0 with
        | some k => 2 + k
        | none => 1)).toNat)) a = some ((grp tabled).map w, b)) ∧
    (curStrand tabled 0).continues true = false ∧ (curStrand tabled 0).caseOf 0 = some 1 := by
  refine ⟨⟨_, _, fun _ => 6, ?_, ?_, ?_, ?_, fetched_of ?_, fetched_of ?_⟩, ?_, ?_⟩ <;> try unfold uniFree
  all_goals decide +kernel

theorem test_meets_wait_and_fence :
    let s := work .user [] []
    let r := strandBy (work .user [] []) (fun t => { t with replies := [⟨0, false, 0, 1, 1, false⟩] })
    (uniFree s .user [] [] ∧ ∀ n ∈ grp s, ((curStrand s n).replies.length ≤ 0 ∧ (curStrand s n).stores.length ≤ 0 ∧ (curStrand s n).cp ≤ 0 ∧
      (curStrand s n).faults = [] ∧ (curStrand s n).tl ≤ 0 ∧ (curStrand s n).xf ≤ 0 ∧ ∀ y ∈ (curStrand s n).xfers, y.failed = 0)) ∧
    (uniFree r .user [] [] ∧ (∃ n ∈ grp r, (0 : BitVec 4) ≠ 15 ∧ (0 : BitVec 4).toNat < (curStrand r n).replies.length) ∧
      ∀ n ∈ grp r, (curStrand r n).faults = [] ∧ ∀ y ∈ (curStrand r n).xfers, y.failed = 0) ∧
    ((5 : BitVec 3).toNat < 6 ∧ (3 : BitVec 2) ≠ 0 ∧ s.flight = [] ∧ (∀ n ∈ grp s, (curStrand s n).replies = []) ∧ s.copies = [] ∧
      s.collWaits = [] ∧ ∀ n ∈ grp s, ∀ y ∈ (curStrand s n).xfers, y.undecided = 0 ∧ y.awaiting = 0) := by
  unfold uniFree; decide +kernel

/-- A skein with barrier 15 in use for two strands. -/
def barred : State := skeinBy (work .user [] []) (fun k => { k with bars := [(15, { arrived := 1, expected := 2, inUse := true, who := [1] })] })

/-- The strand that the items of the witnesses belong to. -/
def asking : Origin := { core := 0, die := 0, sid := 0, ply := 0, tag := 0, ctx := 0, pc := 0x10000, acq := false, rel := false }

/-- A lane's access to a word of the page. -/
def laneWord (pa : Nat) : LaneAcc :=
  { lane := 0, pa := pa, va := pa, size := 4, kind := .unordered, cache := false, fld := false, cnv := 0, data := clean [1, 2, 3, 4], done := 0 }

/-- A packet of that lane on its way. -/
def packetOf (write : Bool) (l : LaneAcc) : Packet :=
  { org := asking, write := write, conv := 0, stack := 0, die := 0, base := l.pa, slice := 0, uni := none, lanes := [l] }

/-- A store. -/
def storing : Packet := packetOf true (laneWord 0x10100)

/-- An armed log of the word at 0x10100. -/
def watching : OrderEntry :=
  { home := 0, part := 0, ctx := 0, launch := 0, sid := 0, desc := 0, pa := 0x10100, log := 0, cap := 1, used := 0, div := false, full := false,
    play := false, runAgent := 0, runLen := 0, stopped := false }

/-- A state in which a store of the strand is under way to a word that a log watches. -/
def watchedUse : State := { barred with flight := [.gatherStack storing], orders := [watching] }

theorem test_meets_named_barrier :
    (uniFree (work .user [] []) .user [] [] ∧ (∃ n ∈ grp (work .user [] []), (curStrand (work .user [] []) n).wait ≠ .barrier 15) ∧
      ¬ ((curSkein (work .user [] [])).plies * (curSkein (work .user [] [])).strands < (1 : BitVec 10).toNat ∨
        ((Tbl.get Barrier.reset (curSkein (work .user [] [])).bars 15).inUse = true ∧
          (Tbl.get Barrier.reset (curSkein (work .user [] [])).bars 15).expected ≠ (1 : BitVec 10).toNat)) ∧
      (Tbl.get Barrier.reset (curSkein (work .user [] [])).bars 15).inUse = false ∧ watchedAway (work .user [] []) = false) ∧
    (watchedAway barred = false ∧ uniFree watchedUse .user [] [] ∧ (∃ n ∈ grp watchedUse, (curStrand watchedUse n).wait ≠ .barrier 15) ∧
      watchedAway watchedUse = true ∧ ¬ ((curSkein watchedUse).plies * (curSkein watchedUse).strands < (0 : BitVec 10).toNat ∨
        (Tbl.get Barrier.reset (curSkein watchedUse).bars 14).inUse = true)) ∧
    (uniFree barred .user [] [] ∧ (∃ n ∈ grp barred, (curStrand barred n).wait ≠ .barrier 15) ∧
      (Tbl.get Barrier.reset (curSkein barred).bars 15).inUse = true ∧
      ((curSkein barred).plies * (curSkein barred).strands < (3 : BitVec 10).toNat ∨
        ((Tbl.get Barrier.reset (curSkein barred).bars 15).inUse = true ∧
          (Tbl.get Barrier.reset (curSkein barred).bars 15).expected ≠ (3 : BitVec 10).toNat))) := by
  unfold uniFree; decide +kernel

/-- A co-resident launch with a handle. -/
def together : State := { work .user [] [0] with launches := [{ fetchLaunch with words := [0x10000, 0x100010001, 64, 0, 0x40000, 0, 0, 0], handle := 64 }] }

/-- The same with a store under way. -/
def togetherStoring : State := { together with flight := [.gatherStack storing] }

theorem test_meets_meeting_and_exit :
    uniFree together .user [] [] ∧
    (1 ≤ (4 : BitVec 3).toNat ∧ (4 : BitVec 3).toNat ≤ 4 ∧ ∃ la, findLaunch together (curSkein together).launch = some la ∧
      la.cores = true ∧ la.handle ≠ 0 ∧ unperformed (writeOrdered together false) together.cur.sid together.cur.ply (grp together) = false) ∧
    (uniFree togetherStoring .user [] [] ∧ unperformed (writeOrdered togetherStoring false) 0 0 (grp togetherStoring) = true ∧
      ∃ n ∈ grp togetherStoring, (curStrand togetherStoring n).wait ≠ .sbar 4 (sbarPlace (curSkein togetherStoring) 4)) ∧
    (getSkein together 0).place = .resident ∧
    ((∀ n ∈ grp together, (curStrand together n).edepth = 0 ∧ (curStrand together n).mode ≠ .hypervisor ∧ (curStrand together n).faults = [] ∧
      (curStrand together n).idle = true ∧ ∀ y ∈ (curStrand together n).xfers, y.failed = 0) ∧ grp together ≠ []) ∧
    (uniFree (work .hypervisor [] []) .user [] [] ∧
      ∃ n ∈ grp (work .hypervisor [] []), (curStrand (work .hypervisor [] []) n).edepth ≠ 0 ∨ (curStrand (work .hypervisor [] []) n).mode = .hypervisor) ∧
    (uniFree (work .user [] [0x80000002]) .user [1] [] ∧ (0 : BitVec 4).toNat < (curSkein (work .user [] [0x80000002])).plies ∧
      ∀ w < 32, 1 ≤ w → (wReg (work .user [] [0x80000002]) 1).getLsbD w = true →
        Tbl.get 0 (curSkein (work .user [] [0x80000002])).writer w = (work .user [] [0x80000002]).cur.ply) := by
  refine ⟨?_, ⟨?_, ?_, _, rfl, ?_, ?_, ?_⟩, ⟨?_, ?_⟩, ?_, ?_, ?_, ?_, ?_⟩ <;> try unfold uniFree
  all_goals decide +kernel

/-- A second skein that fills the core's pool but for the first one's registers. -/
def crowded (n : DWord) : State :=
  { work .user [] [n] with skeins := (curSkein (work .user [] [n]) |> fun k => [(0, k), (1, { fetchSkein with plies := 8, strands := 8, nreg := 488 })]) }

theorem test_meets_register_window :
    (uniFree (work .user [] [960]) .user [1] [31] ∧
      ¬ ((960 : Nat) = 0 ∨ 960 % 8 ≠ 0 ∨ 1024 < (curSkein (work .user [] [960])).nreg + 960 ∨ 131072 < 1 * 1 * 4 * (64 + 960 + 16)) ∧
      poolUsed (work .user [] [960]) 0 + (1 * 1 * 4 * 960) ≤ 131072) ∧
    (uniFree (crowded 960) .user [1] [31] ∧ ¬ poolUsed (crowded 960) 0 + (1 * 1 * 4 * 960) ≤ 131072) ∧
    (uniFree (work .user [] [968]) .user [1] [] ∧ 1024 < (curSkein (work .user [] [968])).nreg + 968) ∧
    (uniFree (work .user [] [56]) .user [1] [] ∧ 56 ≠ 0 ∧ 56 % 8 = 0 ∧ 56 + 8 ≤ (curSkein (work .user [] [56])).nreg ∧
      ∀ p < 1, ∀ m < 1, ((getStrand (work .user [] [56]) (strandKey 0 p m)).live = true → (getStrand (work .user [] [56]) (strandKey 0 p m)).vwb < 64 - 56) ∧
        ∀ r ∈ (getStrand (work .user [] [56]) (strandKey 0 p m)).replies, r.sup = true ∨ r.reg + r.count ≤ 64 - 56) ∧
    (uniFree (work .user [] [64]) .user [1] [] ∧ 64 ≤ (curSkein (work .user [] [64])).nreg) := by
  unfold uniFree
  refine ⟨⟨?_, ?_, ?_⟩, ⟨?_, ?_⟩, ⟨?_, ?_⟩, ⟨?_, ?_, ?_, ?_, ?_⟩, ?_, ?_⟩ <;> decide +kernel

theorem test_meets_special_register :
    (wReg (work .user [] [0]) 1 = 0 ∧ srListed 0 = true ∧ uniFree (work .user [] [0]) (srMode 0) [] [31] ∧ uniFree (work .user [] [0]) .user [1] [] ∧
      srListed 0x018 = true ∧ srMode 0x018 = .user ∧ ∀ n ∈ 0 :: grp (work .user [] [0]), requantizing (work .user [] [0]) n = false) ∧
    (uniFree (work .supervisor [] [3]) .supervisor [1] [] ∧ (0x106 : BitVec 14).toNat ≤ 0x10D ∧ wReg (work .supervisor [] [3]) 1 = 3 ∧
      (3 : DWord).toNat < 4 ∧ (3 : DWord).getLsbD 0 = true) ∧
    (uniFree (work .supervisor [] [2]) .supervisor [1] [] ∧ wReg (work .supervisor [] [2]) 1 = 2 ∧ slottedOn (work .supervisor [] [2]) 0 = false) ∧
    (uniFree (work .supervisor [] [4]) .supervisor [1] [] ∧ 4 ≤ (wReg (work .supervisor [] [4]) 1).toNat) ∧
    (uniFree (work .hypervisor [] [255]) .hypervisor [1] [] ∧ (wReg (work .hypervisor [] [255]) 1).toNat < 256 ∧ srListed 0x205 = true) ∧
    (uniFree (work .hypervisor [] [256]) .hypervisor [1] [] ∧ 256 ≤ (wReg (work .hypervisor [] [256]) 1).toNat) ∧
    (0x100 ≤ (0x100 : BitVec 14).toNat ∧ srWritable 0x100 = true ∧ (0x100 : BitVec 14) ≠ 0x110 ∧ (0x100 : BitVec 14) ≠ 0x203 ∧
      ∃ n ∈ grp (work .user [] []), (curStrand (work .user [] []) n).mode = .user) := by
  unfold uniFree
  refine ⟨⟨?_, ?_, ?_, ?_, ?_, ?_, ?_⟩, ⟨?_, ?_, ?_, ?_, ?_⟩, ⟨?_, ?_, ?_⟩, ⟨?_, ?_⟩, ⟨?_, ?_, ?_⟩, ⟨?_, ?_⟩, ?_⟩ <;> decide +kernel

/-- A skein of a launch that needs the slotted mode. -/
def slotted : State := { work .supervisor [] [0] with launches := [{ fetchLaunch with words := [0x10000, 0x100010001, 64, 0, 0x80000, 0, 0, 0] }] }

theorem test_meets_slotted : uniFree slotted .supervisor [1] [] ∧ (wReg slotted 1).toNat < 4 ∧ (wReg slotted 1).getLsbD 0 = false ∧
    slottedOn slotted (curCore slotted) = true := by
  unfold uniFree; decide +kernel

/-- A skein that fills its local store's last granule, which V0 names with W1. -/
def lastGranule : State := skeinBy (work .user [0xFF0] [0]) (fun k => { k with full := [(255, true)] })

theorem test_meets_local_store :
    (laneFree lastGranule ⟨0, 0⟩ .user [] [[0]] ∧ baseFree lastGranule ⟨0, 0⟩ 1 ∧ laneFree lastGranule ⟨0, 0⟩ .user [rangeFrom 60 (regsOf 2)] [] ∧
      laneFree lastGranule ⟨0, 0⟩ .user [] [rangeFrom 60 (regsOf 2)]) ∧
    localPasses lastGranule ⟨0, 0⟩ 1 0 (Machine.sizeOf 2) ∧
    ((Instr.ldl ⟨0, 0⟩ 60 0 1 2).wf = true ∧ (Instr.ldlfe ⟨0, 0⟩ 60 0 1 1 2).wf = true ∧ (Instr.stl ⟨0, 0⟩ 60 0 1 2).wf = true ∧
      (Instr.stlfe ⟨0, 0⟩ 60 0 1 2).wf = true ∧ (Instr.atoml ⟨0, 0⟩ 60 0 1 3).wf = true) ∧
    (∀ n ∈ acting lastGranule ⟨0, 0⟩, (curStrand lastGranule n).replies.length < 63 ∧ (curStrand lastGranule n).stores.length < 63) ∧
    (localLanes lastGranule ⟨0, 0⟩ 1 0 ≠ [] ∧
      ∀ l ∈ localLanes lastGranule ⟨0, 0⟩ 1 0, Tbl.get false (curSkein lastGranule).full (l.2 / 16) = true) ∧
    (localPasses (work .user [0] [0]) ⟨0, 0⟩ 1 0 16 ∧
      ∃ l ∈ localLanes (work .user [0] [0]) ⟨0, 0⟩ 1 0, Tbl.get false (curSkein (work .user [0] [0])).full (l.2 / 16) = false) ∧
    laneFree lastGranule ⟨0, 0⟩ .user [[60]] [rangeFrom 60 2] ∧ localPasses lastGranule ⟨0, 0⟩ 1 0 4 := by
  refine ⟨⟨?_, ?_, ?_, ?_⟩, ?_, ?_, ?_, ⟨?_, ?_⟩, ⟨?_, ?_⟩, ?_, ?_⟩
  all_goals (try unfold laneFree); (try unfold baseFree); (try unfold localPasses); decide +kernel

/-- A page of converted tiles at 0x10000. -/
def tiledPage (s : State) : State := { s with tlb := [{ fetchTlb with leaf := 0x1021F }] }

/-- The lanes' checks of an access to the page, with translations of a given leaf. -/
def passing (s : State) (a : Acc) (size al leaf : Nat) : List (LaneChk × Xl × Bool) :=
  (laneChecks s ⟨0, 0⟩ a size al (vaOf s 1 0)).map (fun c => (c, { page c.va with leaf := leaf }, false))

theorem test_meets_global_access :
    (laneFree (work .user [0xFFF0] [0x10000]) ⟨0, 0⟩ .user [] [[0]] ∧ baseFree (work .user [0xFFF0] [0x10000]) ⟨0, 0⟩ 1 ∧
      laneFree (work .user [0xFFF0] [0x10000]) ⟨0, 0⟩ .user [rangeFrom 60 (regsOf 2)] [] ∧
      laneFree (work .user [0xFFF0] [0x10000]) ⟨0, 0⟩ .user [] [rangeFrom 60 (regsOf 2)] ∧
      laneFree (tiledPage (work .user [0xFFF0] [0x10000])) ⟨0, 0⟩ .user [[60]] []) ∧
    (∀ n ∈ acting (work .user [0xFFF0] [0x10000]) ⟨0, 0⟩, (curStrand (work .user [0xFFF0] [0x10000]) n).replies.length < 63 ∧
      (curStrand (work .user [0xFFF0] [0x10000]) n).stores.length < 63) ∧
    ((Instr.ldg ⟨0, 0⟩ 60 0 1 3 2).wf = true ∧ (Instr.ldgc ⟨0, 0⟩ 60 0 1 0 3).wf = true ∧ (Instr.stg ⟨0, 0⟩ 60 0 1 3 2).wf = true) ∧
    lanesPass (work .user [0xFFF0] [0x10000]) ⟨0, 0⟩ .load 16 16 (vaOf (work .user [0xFFF0] [0x10000]) 1 0)
      (passing (work .user [0xFFF0] [0x10000]) .load 16 16 0x1001F) ∧
    lanesPass (work .user [0xFFF0] [0x10000]) ⟨0, 0⟩ .store 16 16 (vaOf (work .user [0xFFF0] [0x10000]) 1 0)
      (passing (work .user [0xFFF0] [0x10000]) .store 16 16 0x1001F) ∧
    (lanesPass (tiledPage (work .user [0xFFF0] [0x10000])) ⟨0, 0⟩ .conv 4 4 (vaOf (tiledPage (work .user [0xFFF0] [0x10000])) 1 0)
        (passing (tiledPage (work .user [0xFFF0] [0x10000])) .conv 4 4 0x1021F) ∧
      passing (tiledPage (work .user [0xFFF0] [0x10000])) .conv 4 4 0x1021F ≠ [] ∧
      ∀ c ∈ passing (tiledPage (work .user [0xFFF0] [0x10000])) .conv 4 4 0x1021F, c.2.1.cnv ≠ 0) := by
  refine ⟨⟨?_, ?_, ?_, ?_, ?_⟩, ?_, ?_, ?_, ?_, ?_, ?_, ?_⟩
  all_goals (try unfold laneFree); (try unfold baseFree); (try unfold lanesPass); (try unfold unheld); decide +kernel

theorem test_meets_atomic_issue :
    (laneFree (work .user [0xFFF8] [0x10000]) ⟨0, 0⟩ .user [] [[0]] ∧ baseFree (work .user [0xFFF8] [0x10000]) ⟨0, 0⟩ 1) ∧
    ((Instr.atomga ⟨0, 0⟩ 63 0 1 3 3).wf = true ∧ (Instr.atomgb ⟨0, 0⟩ 62 0 1 0 3).wf = true ∧ (Instr.atomg64 ⟨0, 0⟩ 60 0 1 0 2).wf = true ∧
      (Instr.redg ⟨0, 0⟩ 63 0 1 0 1).wf = true) ∧
    (laneFree (work .user [0xFFF8] [0x10000]) ⟨0, 0⟩ .user [rangeFrom 63 1] [rangeFrom 63 1] ∧
      laneFree (work .user [0xFFF8] [0x10000]) ⟨0, 0⟩ .user [rangeFrom 62 1] [rangeFrom 62 2] ∧
      laneFree (work .user [0xFFF8] [0x10000]) ⟨0, 0⟩ .user [rangeFrom 60 2] [rangeFrom 60 4]) ∧
    (∀ n ∈ acting (work .user [0xFFF8] [0x10000]) ⟨0, 0⟩, (curStrand (work .user [0xFFF8] [0x10000]) n).replies.length < 63 ∧
      (curStrand (work .user [0xFFF8] [0x10000]) n).stores.length < 63) ∧
    (lanesPass (work .user [0xFFF8] [0x10000]) ⟨0, 0⟩ .atomic 4 4 (vaOf (work .user [0xFFF8] [0x10000]) 1 0)
        (passing (work .user [0xFFF8] [0x10000]) .atomic 4 4 0x1001F) ∧
      lanesPass (work .user [0xFFF8] [0x10000]) ⟨0, 0⟩ .atomic 8 8 (vaOf (work .user [0xFFF8] [0x10000]) 1 0)
        (passing (work .user [0xFFF8] [0x10000]) .atomic 8 8 0x1001F) ∧
      lanesPass (work .user [0xFFF8] [0x10000]) ⟨0, 0⟩ .atomic 8 4 (vaOf (work .user [0xFFF8] [0x10000]) 1 0)
        (passing (work .user [0xFFF8] [0x10000]) .atomic 8 4 0x1001F)) := by
  refine ⟨⟨?_, ?_⟩, ?_, ⟨?_, ?_, ?_⟩, ?_, ?_, ?_, ?_⟩
  all_goals (try unfold laneFree); (try unfold baseFree); (try unfold lanesPass); (try unfold unheld); decide +kernel

/-- The state of the witness of ULD and UST: W1 names the last doubleword of the page but one. -/
def dwordUse : State := work .user [] [0x1FFF8, 7]

/-- The same with the line of that doubleword in the L1. -/
def dwordCached : State := l1Put dwordUse 0 0 0 (page 0x1FFF8).kind 0x1FFF8 0x1FFF8 (clean [1, 2, 3, 4, 5, 6, 7, 8]) true false

theorem test_meets_uniform_access :
    let back := { dwordUse with grants := dwordUse.grants.map (fun g => { g with back := true }), regions := [] }
    let l (s : State) (d : List PByte) : LaneAcc := groupAcc (keptXl s [page 0x1FFF8]) 0x1FFF8 (page 0x1FFF8) d
    (uniFree dwordUse .user [1] [31] ∧ uniFree dwordUse .user [1, 2] [] ∧
      ∀ n ∈ grp dwordUse, (curStrand dwordUse n).replies.length < 63 ∧ (curStrand dwordUse n).stores.length < 63) ∧
    rangePasses dwordUse .load [(wReg dwordUse 1 + 8 * (0 : BitVec 14).signExtend 64).toNat] 8 8 [page 0x1FFF8] ∧
    rangePasses dwordUse .store [(wReg dwordUse 1 + 8 * (0 : BitVec 14).signExtend 64).toNat] 8 8 [page 0x1FFF8] ∧
    ((∃ n ∈ grp dwordUse, loadHits (keptXl dwordUse [page 0x1FFF8]) (origin dwordUse 0) n (l dwordUse []) = false) ∧
      uniFree dwordCached .user [1] [31] ∧ rangePasses dwordCached .load [0x1FFF8] 8 8 [page 0x1FFF8] ∧
      ∀ n ∈ grp dwordCached, loadHits (keptXl dwordCached [page 0x1FFF8]) (origin dwordCached 0) n (l dwordCached []) = true) ∧
    (tokenCheck (keptXl dwordUse [page 0x1FFF8]) 0 0x1FFF8 true (page 0x1FFF8) = .allowed false ∧
      ∃ n ∈ grp dwordUse, storeStays (keptXl dwordUse [page 0x1FFF8]) (origin dwordUse 0) false n (l dwordUse (clean (natToBytes 7 8))) = false) ∧
    (uniFree back .user [1, 2] [] ∧ rangePasses back .store [0x1FFF8] 8 8 [page 0x1FFF8] ∧
      tokenCheck (keptXl back [page 0x1FFF8]) 0 0x1FFF8 true (page 0x1FFF8) = .allowed true ∧
      ∀ n ∈ grp back, storeStays (keptXl back [page 0x1FFF8]) (origin back 0) true n (l back (clean (natToBytes 7 8))) = true) := by
  refine ⟨⟨?_, ?_, ?_⟩, rangePasses_of ?_ ?_, rangePasses_of ?_ ?_, ⟨?_, ?_, rangePasses_of ?_ ?_, ?_⟩, ⟨?_, ?_⟩, ?_, rangePasses_of ?_ ?_, ?_, ?_⟩
  all_goals (try unfold uniFree); decide +kernel

/-- A domain of four 32-bit cells at 0x20000, the first a source, declared by context 0 under handle 0x10000. -/
def fourCells : Domain :=
  { part := 0, slot := 0, ctx := 0, handle := 0x10000, base := 0x20000, count := 4, blk := 0, wide := false, signed := false, q := 0,
    owners := [0, 0, 0, 0], sources := [0], sinks := [], lostBlocks := [], frames := [(0x20000 / 0x10000, 2)], initial := 0, injected := 0,
    removed := 0, declarer := 0, stage := .declared, awaiting := [], agreed := [], refusal := none, waiter := none }

/-- The state of the witnesses of the field words: cells 3 and 2 named by V1 and V2, the domain by W1 and DOM. -/
def fieldUse : State := { strandBy (work .user [5, 3, 2] [0x10000, 0x20000]) (fun t => { t with dom := 0x10000 }) with
    domains := [fourCells], tlb := [{ fetchTlb with base := 0x20000, leaf := 0x20097 }] }

theorem test_meets_field_transfer :
    (laneFree fieldUse ⟨0, 0⟩ .user [] [cellRegs fieldUse 0, [1], [2]] ∧ (∀ n ∈ acting fieldUse ⟨0, 0⟩, (curStrand fieldUse n).xf < 63) ∧
      ∀ n ∈ grp fieldUse, ∀ j < 4, ((curStrand fieldUse n).active ⟨0, 0⟩).getLsbD j = true →
        cellFault fieldUse n j 0 [1, 2] true (instrWord (.xfer ⟨0, 0⟩ 0 1 2 1)) = none) ∧
    ((1 : BitVec 2).toNat < 2 ∧ laneFree fieldUse ⟨0, 0⟩ .user [cellRegs fieldUse 0] [[1]] ∧
      (∀ n ∈ acting fieldUse ⟨0, 0⟩, (curStrand fieldUse n).replies.length < 63) ∧
      ∀ n ∈ grp fieldUse, ∀ j < 4, ((curStrand fieldUse n).active ⟨0, 0⟩).getLsbD j = true →
        cellFault fieldUse n j 0 [1] false (instrWord (.fld ⟨0, 0⟩ 0 1 1)) = none) ∧
    (uniFree fieldUse .user [1, 2] [] ∧ domainOf fieldUse (curSkein fieldUse) (wReg fieldUse 1) = some fourCells ∧ fourCells.totalLost = false ∧
      domainOf fieldUse (curSkein fieldUse) (wReg fieldUse 2) = none ∧ { fourCells with lostBlocks := [0] }.totalLost = true) := by
  refine ⟨⟨?_, ?_, ?_⟩, ⟨?_, ?_, ?_, ?_⟩, ?_, ?_, ?_, ?_, ?_⟩
  all_goals (try unfold laneFree); (try unfold uniFree); decide +kernel

/-- The entry of a bound handle: a window of 64 bytes, one rank, its list at 0x10040. -/
def oneRank : CollEntry := { launch := 0, words := [0, 64, 0x10040, 0, 0x0005, 0, 0, 0], attempt := 3, bind := 4 }

/-- The state of the witnesses of the collective words. -/
def collUse : State := { work .user [7, 0, 60] [0x10000] with launches := [{ fetchLaunch with bound := some 5, handle := 0x11000 }], colls := [(5, oneRank)] }

/-- The reads of the package list that COLL makes. -/
def listReads : List (LaneChk × Xl × Bool) :=
  (laneChecks collUse ⟨0, 0⟩ .load 4 4 (fun n j => oneRank.list + 4 * ((curStrand collUse n).v 1 j).toNat)).map (fun c => (c, page c.va, false))

theorem test_meets_system_call_and_collective :
    (laneFree collUse ⟨0, 0⟩ .user [] [] ∧ acting collUse ⟨0, 0⟩ ≠ [] ∧ acting collUse ⟨0, 1⟩ = [] ∧ laneFree collUse ⟨0, 1⟩ .user [] [] ∧
      uniFree collUse .user [] []) ∧
    (laneFree collUse ⟨0, 1⟩ .user [] [[0], [1], [2]] ∧ laneFree collUse ⟨0, 0⟩ .user [] [[0], [1], [2]] ∧
      (∀ n ∈ acting collUse ⟨0, 0⟩, (curStrand collUse n).cp < 63) ∧ boundColl collUse (curSkein collUse) = some oneRank ∧
      (collLanes collUse ⟨0, 0⟩ 0 1 2 ≠ [] ∧ ∀ l ∈ collLanes collUse ⟨0, 0⟩ 0 1 2, collFault oneRank 0 l.2.1 l.2.2.1 = none) ∧
      lanesPass collUse ⟨0, 0⟩ .load 4 4 (fun n j => oneRank.list + 4 * ((curStrand collUse n).v 1 j).toNat) listReads ∧
      (∀ c ∈ listReads, mustWait (keptXl collUse (listReads.map (fun c => c.2.1))) c.2.1 4 = false) ∧
      ∀ q ∈ (groupReads 4 (listReads.map (fun c => (c.1.va, c.2.1))) (keptXl collUse (listReads.map (fun c => c.2.1)))).1.map
          (fun bs => bytesToNat (bs.map (fun p => p.val))), q < 0x200000 ∧
        inPartition (groupReads 4 (listReads.map (fun c => (c.1.va, c.2.1))) (keptXl collUse (listReads.map (fun c => c.2.1)))).2
          (curSkein collUse).part q = true) := by
  refine ⟨⟨?_, ?_, ?_, ?_, ?_⟩, ?_, ?_, ?_, ?_, ⟨?_, ?_⟩, ?_, ?_, ?_⟩
  all_goals (try unfold laneFree); (try unfold uniFree); (try unfold lanesPass); (try unfold unheld); decide +kernel

/-- The state of the witnesses of the copy words: W1 the destination, W2 the source, W3 the parameters, W5 a destination
on the fabric, W6 and W7 the parameters of COPY2D. -/
def copyUse (len : DWord) : State := work .user [] [0x10100, 0x10000, len, 0, 0x4000000000000000, len, 0x4000000040]

/-- The copy that a word of the witnesses starts. -/
def copyOf (len : DWord) (kind : CopyKind) (d : Nat) (w1 : DWord) : Copy :=
  newCopy (copyUse len) kind ((1 : BitVec 2) ++ (1 : BitVec 1) ++ (63 : BitVec 6)) (wReg (copyUse len) d) (wReg (copyUse len) 2) (wReg (copyUse len) 3) w1

/-- The state with CP at its largest. -/
def copyMost : State := strandBy (copyUse 64) (fun t => { t with cp := 63 })

theorem test_meets_copy_issue :
    (uniFree (copyUse 64) .user [1, 2, 3] [] ∧ copyRefused (copyUse 64) (curSkein (copyUse 64)) (copyOf 64 .copy 1 0) = none ∧
      copyFull (copyUse 64) = false) ∧
    (uniFree (copyUse 0x100000000) .user [1, 2, 3] [] ∧
      copyRefused (copyUse 0x100000000) (curSkein (copyUse 0x100000000)) (copyOf 0x100000000 .copy 1 0) = some (.prot, 0)) ∧
    (uniFree copyMost .user [1, 2, 3] [] ∧ copyFull copyMost = true ∧ copyRefused copyMost (curSkein copyMost) (copyOf 64 .copy 1 0) = none) ∧
    ((Instr.copy2d 1 2 6 1 1 63).wf = true ∧ uniFree (copyUse 0x200000020) .user [1, 2, 6, 7] [] ∧
      copyRefused (copyUse 0x200000020) (curSkein (copyUse 0x200000020)) (copyOf 0x200000020 .copy2d 1 (wReg (copyUse 0) 7)) = none) ∧
    (uniFree (copyUse 64) .user [5, 2, 3] [] ∧ copyRefused (copyUse 64) (curSkein (copyUse 64)) (copyOf 64 .copyp 5 0) = none) := by
  unfold uniFree
  refine ⟨⟨?_, ?_, ?_⟩, ⟨?_, ?_⟩, ⟨?_, ?_, ?_⟩, ⟨?_, ?_, ?_⟩, ?_, ?_⟩ <;> decide +kernel

/-- A record at local-store offset 64 whose one term is true at once and whose action copies 64 bytes. -/
def armable (w : DWord) : State := skeinBy (work .user [] [w]) (fun k => lsWrite k 64 (clean (dwordBytes
  [0x02000000, 0, 0, 0, 0x10100, 0x10000, 64, 0])))

/-- The trigger that TRIG arms there. -/
def armed (slot : Nat) : Trigger :=
  { core := 0, slot := slot, sid := 0, ply := 0, lanes := [(0, 15)], addr := 64, seq := 0, mode := .user,
    words := [0x02000000, 0, 0, 0, 0x10100, 0x10000, 64, 0] }

/-- The same state with every slot taken. -/
def allArmed : State := { armable 64 with triggers := (List.range 64).map armed }

/-- The same state with a change of banking mode under way. -/
def shutBanks : State := { armable 64 with cores := [(0, { Core.reset with pend := some true })] }

theorem test_meets_trigger_and_counter :
    (uniFree (armable 65) .user [1] [31] ∧ lsOffset (wReg (armable 65) 1) % 64 ≠ 0) ∧
    (uniFree (armable 4096) .user [1] [31] ∧ lsOffset (wReg (armable 4096) 1) % 64 = 0 ∧
      (curSkein (armable 4096)).lsSize < lsOffset (wReg (armable 4096) 1) + 64) ∧
    (uniFree (armable 4032) .user [1] [31] ∧ lsOffset (wReg (armable 4032) 1) % 64 = 0 ∧ lsOffset (wReg (armable 4032) 1) + 64 ≤ (curSkein (armable 4032)).lsSize ∧
      recordBad (bytesDwords 8 ((lsRead (curSkein (armable 4032)) 4032 64).map (fun b => b.val))) = true) ∧
    (uniFree (armable 64) .user [1] [31] ∧ recordBad (bytesDwords 8 ((lsRead (curSkein (armable 64)) 64 64).map (fun b => b.val))) = false ∧
      ((armed 0).core = (curSkein (armable 64)).core ∧ (armed 0).sid = (armable 64).cur.sid ∧ (armed 0).ply = (armable 64).cur.ply ∧
        (armed 0).lanes = groupLanes (armable 64) ∧ (armed 0).addr = lsOffset (wReg (armable 64) 1) ∧ (armed 0).seq = (armable 64).seq ∧
        (armed 0).mode = curMode (armable 64) ∧ (armed 0).words = bytesDwords 8 ((lsRead (curSkein (armable 64)) 64 64).map (fun b => b.val))) ∧
      copyRefused (armable 64) (curSkein (armable 64)) (armed 0).action = none ∧ freeTrigger (armable 64) 0 = some (armed 0).slot ∧
      ∀ n ∈ grp (armable 64), (curStrand (armable 64) n).cp < 63) ∧
    (uniFree allArmed .user [1] [31] ∧ freeTrigger allArmed 0 = none ∧ oldestTrigger allArmed 0 (lsOffset (wReg allArmed 1)) = some (armed 0)) ∧
    (banksShut (armable 64) 0 = false ∧ banksShut (armable 65) 0 = false ∧ banksShut (armable 4096) 0 = false ∧ banksShut (armable 4032) 0 = false ∧
      banksShut allArmed 0 = false ∧ uniFree shutBanks .user [1] [31] ∧ banksShut shutBanks (curCore shutBanks) = true) ∧
    (uniFree (armable 64) .user [1] [] ∧ watchedAway (armable 64) = false ∧ uniFree watchedUse .user [1] [] ∧ watchedAway watchedUse = true) ∧
    (∀ t ∈ (armable 64).triggers, ¬ (t.sid = (armable 64).cur.sid ∧ t.addr = lsOffset (wReg (armable 64) 1))) := by
  unfold uniFree
  refine ⟨⟨?_, ?_⟩, ⟨?_, ?_, ?_⟩, ⟨?_, ?_, ?_, ?_⟩, ⟨?_, ?_, ?_, ?_, ?_, ?_⟩, ⟨?_, ?_, ?_⟩, ?_, ⟨?_, ?_, ?_, ?_⟩, ?_⟩ <;> decide +kernel

/-- The tables of context 0: the first GiB maps to itself for every access, the second GiB holds field pages. -/
def mapped (s : State) : State :=
  putBytes (putBytes (putBytes (putBytes s 0 (natToBytes 0x1001 8)) 0x1000 (natToBytes 0x2001 8)) 0x2000 (natToBytes 0x3001 8)) 0x3000
    (dwordBytes [0x1F, 0x40000097])

/-- The state of the witness of COLLH: a descriptor at 0x11000, named by W1. -/
def handleUse : State := stored (work .user [] [0x11000]) 0x11000 [0, 64, 0x10000, 7, 0x0005, 0, 0, 0]

/-- The translations of its reads. -/
def handleReads : List Xl := (dwordsAt 0x11000 8).map page

/-- A bound handle with a COLL of the group under way. -/
def collBusy : State := { collUse with collWaits := [{ tag := 1, sid := 0, ply := 0, bind := 4, attempt := 3, lanes := [(0, 1)], peers := [1], seq := 0 }] }

theorem test_meets_collective_handle :
    (uniFree collBusy .user [1] [] ∧ (boundColl collBusy (curSkein collBusy)).any (fun h => colling collBusy h.bind) = true) ∧
    (uniFree collUse .user [] [] ∧ (boundColl collUse (curSkein collUse)).any (fun h => colling collUse h.bind) = false) ∧
    (uniFree handleUse .user [1] [] ∧ (1 : BitVec 5) ≠ 0 ∧ (boundColl handleUse (curSkein handleUse)).any (fun h => colling handleUse h.bind) = false ∧
      (wReg handleUse 1).toNat % 64 = 0 ∧ readsPass (unbind handleUse) (dwordsAt 0x11000 8) 8 handleReads ∧
      (collBad { launch := 0, words := (readsGive (unbind handleUse) (dwordsAt 0x11000 8) 8 handleReads).1.map (fun b => dw (pval b)), attempt := 7, bind := 0 } = false ∧
        skeinDet (readsGive (unbind handleUse) (dwordsAt 0x11000 8) 8 handleReads).2
          (readsGive (unbind handleUse) (dwordsAt 0x11000 8) 8 handleReads).2.cur.sid = false) ∧
      (readsGive (unbind handleUse) (dwordsAt 0x11000 8) 8 handleReads).2.colls = [] ∧
      ∃ l, findLaunch (readsGive (unbind handleUse) (dwordsAt 0x11000 8) 8 handleReads).2
        (curSkein (readsGive (unbind handleUse) (dwordsAt 0x11000 8) 8 handleReads).2).launch = some l) ∧
    (uniFree handleUse .user [] [31] ∧ boundColl handleUse (curSkein handleUse) = none) ∧
    (uniFree collUse .user [] [31] ∧ boundColl collUse (curSkein collUse) = some oneRank ∧ collUse.collWaits = []) ∧
    (uniFree collUse .user [0, 1, 1] [] ∧ (wReg collUse 1).toNat < 2 ^ 33 ∧ (wReg collUse 1).toNat % 4 = 0 ∧ (wReg collUse 0).toNat % 4 = 0 ∧
      (wReg collUse 0).toNat < 2 ^ 57 ∧ (wReg collUse 1).toNat < 2 ^ 57 ∧ copyFull collUse = false) := by
  refine ⟨⟨?_, ?_⟩, ⟨?_, ?_⟩, ⟨?_, ?_, ?_, ?_, ⟨rangePasses_of ?_ ?_, ?_⟩, ⟨?_, ?_⟩, ?_, Option.isSome_iff_exists.mp ?_⟩, ⟨?_, ?_⟩,
    ⟨?_, ?_, ?_⟩, ?_, ?_, ?_, ?_, ?_, ?_, ?_⟩
  all_goals (try unfold uniFree); decide +kernel

/-- A skein of context 0 as a holder, and the state of the token witnesses: W1 names 4 KiB at 0x1000 and W2 the issuing skein; the region
there has the given holders and shares. -/
def skeinHolder : Holder := { package := 0, ctx := 0, agent := .skein 0 0 }
/-- The context as a holder. -/
def ctxHeld : Holder := { package := 0, ctx := 0, agent := .context }
/-- The region of the token witnesses. -/
def region (chain : List Holder) (sharers : List (Holder × Nat)) (lost : Bool) : Region :=
  { part := 0, ctx := 0, base := 0x1000, k := 12, chain := chain, sharers := sharers, lost := lost }
/-- The state of the token witnesses, in mode `m`. -/
def tokenUse (m : Mode) (rs : List Region) : State := { work m [] [0x100C, 0xFFFFF9FFFFFFFFFF] with regions := rs }

theorem test_meets_token_hand_off :
    (uniFree (work .user [] [0, 0]) .user [1, 2] [] ∧ regionWord (wReg (work .user [] [0, 0]) 1) = none) ∧
    (uniFree (tokenUse .user []) .user [1, 2] [] ∧ uniFree (tokenUse .user []) .user [1] [] ∧ regionWord (wReg (tokenUse .user []) 1) = some (0x1000, 12) ∧
      handOff (tokenUse .user []) 0 0 0x1000 (2 ^ 12) = false) ∧
    (holderWord (tokenUse .user []) (curSkein (tokenUse .user [])) (wReg (tokenUse .user []) 2) = some skeinHolder ∧
      (regionOf (tokenUse .user []) 0 0 0x1000).lost = false ∧ 12 ≤ (regionOf (tokenUse .user []) 0 0 0x1000).k ∧
      tokenRoom (tokenUse .user []) 0 ((regionOf (tokenUse .user []) 0 0 0x1000).k - 12 + 1) = true ∧
      matchesHolder (tokenUse .user []) (skeinAsker (tokenUse .user []) 0) 0 (regionOf (tokenUse .user []) 0 0 0x1000).holder = true ∧
      (regionOf (tokenUse .user []) 0 0 0x1000).shares = 0 ∧ (regionOf (tokenUse .user []) 0 0 0x1000).depth < 3 ∧
      (regionOf (tokenUse .user []) 0 0 0x1000).holder ≠ skeinHolder ∧ (regionOf (tokenUse .user []) 0 0 0x1000).mayShare skeinHolder = true) ∧
    (3 ≤ (region [ctxHeld, skeinHolder, ctxHeld, skeinHolder] [] false).depth ∧
      (region [ctxHeld] [(skeinHolder, 65535)] false).mayShare skeinHolder = false) ∧
    (wholeRegion (tokenUse .user [region [ctxHeld] [] true]) 0 0 0x1000 12 = some (region [ctxHeld] [] true)) ∧
    (wholeRegion (tokenUse .user [region [ctxHeld] [(skeinHolder, 1)] false]) 0 0 0x1000 12 = some (region [ctxHeld] [(skeinHolder, 1)] false) ∧
      (shareOf (tokenUse .user []) (skeinAsker (tokenUse .user []) 0) (region [ctxHeld] [(skeinHolder, 1)] false)).isSome = true ∧
      (region [ctxHeld] [(skeinHolder, 1)] false).shares ≠ 0) ∧
    (shareOf (tokenUse .user []) (skeinAsker (tokenUse .user []) 0) (region [ctxHeld, skeinHolder] [] false) = none ∧
      matchesHolder (tokenUse .user []) (skeinAsker (tokenUse .user []) 0) 0 (region [ctxHeld, skeinHolder] [] false).holder = true ∧
      (region [ctxHeld, skeinHolder] [] false).depth ≠ 0 ∧ (region [ctxHeld, skeinHolder] [] false).shares = 0 ∧
      matchesHolder (tokenUse .user []) (skeinAsker (tokenUse .user []) 0) 0
        (((region [ctxHeld, skeinHolder] [] false).chain[(region [ctxHeld, skeinHolder] [] false).depth - 1]?).getD skeinHolder) = true) := by
  refine ⟨⟨?_, ?_⟩, ⟨?_, ?_, ?_, ?_⟩, ⟨?_, ?_, ?_, ?_, ?_, ?_, ?_, ?_, ?_⟩, ⟨?_, ?_⟩, ?_, ⟨?_, ?_, ?_⟩, ?_, ?_, ?_, ?_, ?_⟩
  all_goals (try unfold uniFree); decide +kernel

/-- Two buddies of 4 KiB at 0x2000, whose lower one W1 names, and the root region elsewhere. -/
def buddies : State := { work .user [] [0x200C] with regions :=
  [{ region [ctxHeld] [] false with base := 0x2000 }, { region [ctxHeld] [] false with base := 0x3000 }] }

theorem test_meets_token_table :
    (uniFree (tokenUse .hypervisor []) .hypervisor [1] [] ∧ regionWord (wReg (tokenUse .hypervisor []) 1) = some (0x1000, 12) ∧
      handOff (tokenUse .hypervisor []) 0 0 0x1000 (2 ^ 12) = false ∧
      wholeRegion (tokenUse .hypervisor [region [ctxHeld, skeinHolder] [] true]) 0 0 0x1000 12 = some (region [ctxHeld, skeinHolder] [] true) ∧
      wholeRegion (tokenUse .hypervisor [region [ctxHeld] [] false]) 0 0 0x1000 12 = some (region [ctxHeld] [] false)) ∧
    (uniFree (work .user [] [40]) .user [1] [] ∧ regionWord (wReg (work .user [] [40]) 1) = some (0, 40) ∧
      handOff (work .user [] [40]) 0 0 0 (2 ^ 40) = false ∧ wholeRegion (work .user [] [40]) 0 0 0 40 = some (regionOf (work .user [] [40]) 0 0 0) ∧
      (regionOf (work .user [] [40]) 0 0 0).lost = false ∧ (regionOf (work .user [] [40]) 0 0 0).shares = 0 ∧
      matchesHolder (work .user [] [40]) (skeinAsker (work .user [] [40]) 0) 0 (regionOf (work .user [] [40]) 0 0 0).holder = true ∧
      (regionOf (work .user [] [40]) 0 0 0).k ≠ 12 ∧ tokenRoom (work .user [] [40]) 0 2 = true) ∧
    (uniFree buddies .user [1] [] ∧ regionWord (wReg buddies 1) = some (0x2000, 12) ∧ handOff buddies 0 0 0x2000 (2 * 2 ^ 12) = false ∧
      wholeRegion buddies 0 0 0x2000 12 = some { region [ctxHeld] [] false with base := 0x2000 } ∧
      wholeRegion buddies 0 0 (0x2000 + 2 ^ 12) 12 = some { region [ctxHeld] [] false with base := 0x3000 } ∧ 0x2000 / 2 ^ 12 % 2 = 0 ∧
      matchesHolder buddies (skeinAsker buddies 0) 0 ctxHeld = true ∧ (region [ctxHeld] [] false).shares = 0) ∧
    ((Instr.tqry 30 1 15).wf = true ∧ uniFree (work .user [] [0x1FFFFFFFFFFFFFF]) .user [1] [30, 31] ∧
      (wReg (work .user [] [0x1FFFFFFFFFFFFFF]) 1).toNat < 2 ^ 57 ∧
      handOff (work .user [] [0x1FFFFFFFFFFFFFF]) 0 0 0x1FFFFFFFFFFFFFF 1 = false) ∧
    (uniFree (work .user [] [0x200000000000000]) .user [1] [30, 31] ∧ 2 ^ 57 ≤ (wReg (work .user [] [0x200000000000000]) 1).toNat) := by
  refine ⟨⟨?_, ?_, ?_, ?_, ?_⟩, ⟨?_, ?_, ?_, ?_, ?_, ?_, ?_, ?_, ?_⟩, ⟨?_, ?_, ?_, ?_, ?_, ?_, ?_, ?_⟩, ⟨?_, ?_, ?_, ?_⟩, ?_, ?_⟩
  all_goals (try unfold uniFree); decide +kernel

/-- The state of the witness of FDECL: a descriptor at 0x11000 of a frame of cells at 1 GiB, with a list of one package and one tap. -/
def declUse : State := stored (stored (mapped (work .supervisor [] [0x11000, 0x11001])) 0x11000
  [0x40000000, 0x20000000003, 0x11040, 0x11080, 1, 0, 0, 0]) 0x11040 [0, 0, 0, 0, 0, 0, 0, 0, 0, 0]

/-- The translations of its descriptor, list and table. -/
def declReads : List Xl × List Xl × List Xl := ((dwordsAt 0x11000 8).map page, [page 0x11040], [page 0x11080])

/-- The states after each of its reads. -/
def declAfter1 : List (List PByte) × State := readsGive declUse (dwordsAt 0x11000 8) 8 declReads.1
/-- After the list. -/
def declAfter2 : List (List PByte) × State := readsGive declAfter1.2 [0x11040] 4 declReads.2.1
/-- After the table. -/
def declAfter3 : List (List PByte) × State := readsGive declAfter2.2 [0x11080] 4 declReads.2.2
/-- With the translation of the store kept. -/
def declLast : State := keptXl declAfter3.2 [page 0x11028]
/-- The descriptor's doublewords. -/
def declWords : List DWord := declAfter1.1.map (fun b => dw (pval b))

/-- A descriptor whose DECL bit is set, of a domain that lives here. -/
def retireUse : State := { stored (work .supervisor [] [0x11000, 0x11001]) 0x11000
  [0x20000, 3, 0, 0, 0, 0x8000000000000000, 0, 0] with domains := [{ fourCells with handle := 0x11000 }] }

theorem test_meets_field_declaration :
    ((Instr.ftot 30 1 3).wf = true ∧ uniFree fieldUse .user [1] [30, 31] ∧ (1 : BitVec 5) ≠ 0 ∧
      domainOf fieldUse (curSkein fieldUse) (wReg fieldUse 1) = some fourCells ∧ fourCells.lostCell fourCells.totalCell = false ∧
      (∀ n ∈ grp fieldUse, (curStrand fieldUse n).xf = 0) ∧ fourCells.owner fourCells.totalCell = here fieldUse) ∧
    (uniFree fieldUse .user [2] [30, 31] ∧ domainOf fieldUse (curSkein fieldUse) (wReg fieldUse 2) = none) ∧
    ((0 : BitVec 5) = 0 ∧ uniFree fieldUse .user [0] [30, 31] ∧ grp fieldUse ≠ [] ∧ (0x10000 : DWord) ≠ 0 ∧
      (∀ n ∈ grp fieldUse, (curStrand fieldUse n).dom = 0x10000) ∧ ∀ n ∈ grp (work .user [] []), (curStrand (work .user [] []) n).dom = 0) ∧
    ({ fourCells with lostBlocks := [0] }.lostCell { fourCells with lostBlocks := [0] }.totalCell = true ∧
      { fourCells with owners := [7, 0, 0, 0] }.owner fourCells.totalCell ≠ here fieldUse ∧ (let s := strandBy fieldUse (fun t => { t with
        xfers := [⟨0, 0, 1, 1, 0, 0, 0, 0⟩] }); uniFree s .user [1] [30, 31] ∧ ∃ n ∈ grp s, (curStrand s n).xf ≠ 0)) ∧
    (uniFree declUse .supervisor [1] [31] ∧ (wReg declUse 1).toNat % 64 = 0 ∧ readsPass declUse (dwordsAt 0x11000 8) 8 declReads.1 ∧
      (declWords.map BitVec.toNat = [0x40000000, 0x20000000003, 0x11040, 0x11080, 1, 0, 0, 0] ∧
        (fieldOf 0x20000000003 0 32 + 2 ^ fieldOf 0x20000000003 40 6) / 2 ^ fieldOf 0x20000000003 40 6 = 1) ∧
      readsPass declAfter1.2 [0x11040] 4 declReads.2.1 ∧ readsPass declAfter2.2 [0x11080] 4 declReads.2.2 ∧
      rangePasses declAfter3.2 .store [0x11028] 8 8 [page 0x11028] ∧ underWay declLast (curSkein declLast) (wReg declUse 1) = false ∧
      freeSlot declLast (curSkein declLast).part (wReg declUse 1) = some 0 ∧
      declBad declLast declWords (domainFrom declLast 0 0 0 (wReg declUse 1) (here declLast) declWords (declAfter2.1.map pval) (declAfter3.1.map pval))
        (declAfter2.1.map pval) = false) ∧
    (uniFree declUse .supervisor [2] [31] ∧ (wReg declUse 2).toNat % 64 ≠ 0) ∧
    (uniFree retireUse .supervisor [1] [31] ∧ readsPass retireUse (dwordsAt 0x11000 8) 8 ((dwordsAt 0x11000 8).map page) ∧
      rangePasses (readsGive retireUse (dwordsAt 0x11000 8) 8 ((dwordsAt 0x11000 8).map page)).2 .store [0x11028] 8 8 [page 0x11028] ∧
      domainOf (keptXl (readsGive retireUse (dwordsAt 0x11000 8) 8 ((dwordsAt 0x11000 8).map page)).2 [page 0x11028]) (curSkein retireUse) 0x11000 =
        some { fourCells with handle := 0x11000 } ∧ fourCells.retiring = false ∧
      bitOf (pval ((readsGive retireUse (dwordsAt 0x11000 8) 8 ((dwordsAt 0x11000 8).map page)).1.getD 5 [])) 63 = true) := by
  refine ⟨⟨?_, ?_, ?_, ?_, ?_, ?_, ?_⟩, ⟨?_, ?_⟩, ⟨?_, ?_, ?_, ?_, ?_, ?_⟩, ⟨?_, ?_, ?_⟩, ⟨?_, ?_, ⟨rangePasses_of ?_ ?_, ?_⟩, ?_, ⟨rangePasses_of ?_ ?_, ?_⟩, ⟨rangePasses_of ?_ ?_, ?_⟩,
    rangePasses_of ?_ ?_, ?_, ?_⟩, ⟨?_, ?_⟩, ?_, ⟨rangePasses_of ?_ ?_, ?_⟩, rangePasses_of ?_ ?_, ?_, ?_, ?_⟩
  all_goals (try unfold uniFree); decide +kernel

/-- The state of the matrix witnesses: W1 names `w` in the local store, ply 0 holds the tokens of `held`. -/
def matUse (w : DWord) (held : List Nat) : State := skeinBy (work .user [] [w, 64]) (fun k => { k with token := held.map (fun a => (a, 1)) })

/-- The same with the token of accumulator 3 held by another ply. -/
def matTaken : State := skeinBy (work .user [] []) (fun k => { k with token := [(3, 2)] })

/-- A skein whose queue holds `n` clears of accumulator 7, whose token ply 0 holds. -/
def matBusy (n : Nat) : State := skeinBy (matUse 0 [7]) (fun k => { k with
  queue := List.replicate n { op := .clear 7, ply := 0, strands := [0], stage := .queued, age := 0 } })

theorem test_meets_tile_and_accumulator_token :
    ((Instr.tcfg 7 6 63 1).wf = true ∧ uniFree (matUse 0 []) .user [] [] ∧ (7 : BitVec 3).toNat < (curSkein (matUse 0 [])).tiles ∧
      (curSkein (matUse 0 [])).queue = [] ∧ (curSkein (matUse 0 [])).chain.active = false) ∧
    (let s := skeinBy (matUse 0 []) (fun k => { k with tiles := 7 }); uniFree s .user [] [] ∧ (curSkein s).tiles ≤ (7 : BitVec 3).toNat) ∧
    (uniFree (matUse 32 []) .user [1] [] ∧ lsOffset (wReg (matUse 32 []) 1) % 64 ≠ 0) ∧
    (uniFree (matUse 4096 []) .user [1] [] ∧ lsOffset (wReg (matUse 4096 []) 1) % 64 = 0 ∧
      (curSkein (matUse 4096 [])).lsSize < lsOffset (wReg (matUse 4096 []) 1) + cfgBytes (tileCfgOf (curSkein (matUse 4096 [])) 0)) ∧
    (uniFree (matUse 0 []) .user [1] [] ∧ lsOffset (wReg (matUse 0 []) 1) + cfgBytes (tileCfgOf (curSkein (matUse 0 [])) 0) ≤ (curSkein (matUse 0 [])).lsSize ∧
      (curSkein (matUse 0 [])).queue.length < 8 ∧ ∀ n ∈ grp (matUse 0 []), (curStrand (matUse 0 []) n).tl < 63) ∧
    (uniFree (matUse 0 [7]) .user [] [] ∧ (7 : BitVec 3).toNat < (curSkein (matUse 0 [7])).accs ∧ tokenOf (curSkein (matUse 0 [7])) 7 = 0 + 1) ∧
    (tokenOf (curSkein (matUse 0 [6])) 7 ≠ 0 + 1 ∧ (∀ e ∈ (curSkein (matUse 0 [6])).token, e.2 = 0 + 1 → e.1 ≤ 7) ∧ tokenFree (matUse 0 [6]) 0 7 = true) ∧
    (uniFree matTaken .user [] [] ∧ tokenOf (curSkein matTaken) 3 ≠ 0 + 1 ∧ (∀ e ∈ (curSkein matTaken).token, e.2 = 0 + 1 → e.1 ≤ 3) ∧
      tokenFree matTaken 0 3 = false) ∧
    (tokenOf (curSkein (matUse 0 [6])) 5 ≠ 0 + 1 ∧ ∃ e ∈ (curSkein (matUse 0 [6])).token, e.2 = 0 + 1 ∧ 5 < e.1) ∧
    (uniFree (matBusy 7) .user [] [] ∧ (curSkein (matBusy 7)).queue ≠ [] ∧ (∀ r ∈ (curSkein (matBusy 7)).queue, r.mine (matBusy 7) (.config 7 ((6 : BitVec 3) ++ (63 : BitVec 6) ++ (1 : BitVec 5))) = false) ∧
      (curSkein (matBusy 7)).chain.active = false ∧ (curSkein (matBusy 7)).queue.length < 8 ∧ tokenOf (curSkein (matBusy 7)) 7 = 0 + 1 ∧
      8 ≤ (curSkein (matBusy 8)).queue.length ∧ tokenOf (curSkein (matBusy 8)) 7 = 0 + 1) ∧
    (tokenOf (curSkein (matUse 0 [])) 7 ≠ 0 + 1 ∧ tokenJudged 7 (matUse 0 []) = false) := by
  unfold uniFree
  refine ⟨⟨?_, ?_, ?_, ?_, ?_⟩, ?_, ⟨?_, ?_⟩, ⟨?_, ?_, ?_⟩, ⟨?_, ?_, ?_, ?_⟩, ⟨?_, ?_, ?_⟩, ⟨?_, ?_, ?_⟩, ⟨?_, ?_, ?_, ?_⟩, ⟨?_, ?_⟩,
    ⟨?_, ?_, ?_, ?_, ?_, ?_, ?_, ?_⟩, ?_, ?_⟩ <;> decide +kernel

/-- The state of the MLOOP witness: a loop block of `n` steps at offset 32, tiles of eight rows and eight columns of BF16. -/
def loopUse (n : DWord) : State := skeinBy (work .user [] [32]) (fun k => lsWrite { k with
  token := [(0, 1)], tileCfg := (List.range 4).map (fun t => (t, 0x10E0)) } 32 (clean (dwordBytes [n, 0, 0, 0])))

/-- The same for MMA, whose W0 names no format block, and for AMOV, AQNT and ACLR with room for the largest output. -/
def accUse (w : DWord) : State := skeinBy (work .user [] [w, 0]) (fun k => { k with token := [(7, 1)], lsSize := 8192, tileCfg := [(0, 0x10E0), (7, 0x10E0)] })

/-- The same with a format block of two BF16 operands at offset 32. -/
def formatUse : State := skeinBy (accUse 32) (fun k => lsWrite k 32 (clean (dwordBytes [2, 2, 0, 0])))

theorem test_meets_matrix_request :
    (uniFree (accUse 0) .user [0] [] ∧ (7 : BitVec 3).toNat < (curSkein (accUse 0)).accs ∧ (7 : BitVec 3).toNat < (curSkein (accUse 0)).tiles ∧
      tokenOf (curSkein (accUse 0)) 7 = 0 + 1 ∧ shapesFit (curSkein (accUse 0)) 0 7 = true ∧ (curSkein (accUse 0)).chain.active = false ∧
      (curSkein (accUse 0)).queue.length < 8 ∧ ∀ n ∈ grp (accUse 0), (curStrand (accUse 0) n).tl < 63) ∧
    (uniFree (loopUse 0) .user [1] [] ∧ (0 : BitVec 2) ≠ 1 ∧ 2 * (1 : BitVec 2).toNat + 1 < (curSkein (loopUse 0)).tiles ∧
      tokenOf (curSkein (loopUse 0)) 0 = 0 + 1 ∧ lsOffset (wReg (loopUse 0) 1) % 32 = 0 ∧ lsOffset (wReg (loopUse 0) 1) + 32 ≤ (curSkein (loopUse 0)).lsSize ∧
      loopRefused (curSkein (loopUse 0)) (wReg (loopUse 0) 1) (formatWords (curSkein (loopUse 0)) 32)
        (chainOf (loopUse 0) (curSkein (loopUse 0)) (formatWords (curSkein (loopUse 0)) 32) 0 0 2) = none ∧
      (chainOf (loopUse 0) (curSkein (loopUse 0)) (formatWords (curSkein (loopUse 0)) 32) 0 0 2).n = 0) ∧
    (uniFree (loopUse 1) .user [1] [] ∧ (0 : BitVec 2) ≠ 1 ∧ 2 * (1 : BitVec 2).toNat + 1 < (curSkein (loopUse 1)).tiles ∧
      tokenOf (curSkein (loopUse 1)) 0 = 0 + 1 ∧ lsOffset (wReg (loopUse 1) 1) % 32 = 0 ∧ lsOffset (wReg (loopUse 1) 1) + 32 ≤ (curSkein (loopUse 1)).lsSize ∧
      loopRefused (curSkein (loopUse 1)) (wReg (loopUse 1) 1) (formatWords (curSkein (loopUse 1)) 32)
        (chainOf (loopUse 1) (curSkein (loopUse 1)) (formatWords (curSkein (loopUse 1)) 32) 0 0 2) = none ∧
      (chainOf (loopUse 1) (curSkein (loopUse 1)) (formatWords (curSkein (loopUse 1)) 32) 0 0 2).n = 1) ∧
    (uniFree (accUse 56) .user [1] [] ∧ (wReg (accUse 56) 1).toNat < 64 ∧ (wReg (accUse 56) 1).toNat + ((7 : BitVec 3).toNat + 1) ≤ 64 ∧
      (curSkein (accUse 56)).queue = [] ∧ ∀ n ∈ grp (accUse 56), (curStrand (accUse 56) n).allowed (curSkein (accUse 56)).nreg (rangeFrom 48 16) = true ∧
        (curStrand (accUse 56) n).awaits (rangeFrom 48 16) (curStrand (accUse 56) n).liveLanes = false) ∧
    (uniFree (accUse 4096) .user [1, 2] [] ∧ (2 : BitVec 2) ≠ 3 ∧ lsOffset (wReg (accUse 4096) 1) % 64 = 0 ∧
      lsOffset (wReg (accUse 4096) 1) + (if (1 : BitVec 1) = 0 then 3072 else 4096) ≤ (curSkein (accUse 4096)).lsSize ∧
      lsOffset (wReg (accUse 4096) 2) + 4096 / blkLen 2 ≤ (curSkein (accUse 4096)).lsSize) ∧
    (uniFree matTaken .user [] [] ∧ (3 : BitVec 3).toNat < (curSkein matTaken).accs ∧ tokenOf (curSkein matTaken) 3 ≠ 0 + 1 ∧ tokenJudged 3 matTaken = false) ∧
    (uniFree formatUse .user [1] [] ∧ lsOffset (wReg formatUse 1) % 32 = 0 ∧ formatBad (curSkein formatUse) 32 0 7 1 = none ∧
      banksShut formatUse (curCore formatUse) = false ∧ banksShut (loopUse 0) (curCore (loopUse 0)) = false ∧
      banksShut (loopUse 1) (curCore (loopUse 1)) = false) := by
  unfold uniFree
  refine ⟨⟨?_, ?_, ?_, ?_, ?_, ?_, ?_, ?_⟩, ?_, ?_, ⟨?_, ?_, ?_, ?_, ?_⟩, ⟨?_, ?_, ?_, ?_, ?_⟩, ⟨?_, ?_, ?_, ?_⟩, ?_, ?_, ?_, ?_, ?_, ?_⟩ <;> decide +kernel

/-- A skein of a deterministic launch. -/
def detUse : State := { work .user [] [0x11000, 16] with launches := [{ fetchLaunch with words := [0x10000, 0x100010001, 64, 0, 0x10000, 0, 0, 0] }] }

/-- The translations of the two doublewords that DGST.FOLD reads, and a state in which the second is poisoned. -/
def foldReads : List Xl := [page 0x11000, page 0x11008]
/-- The plain state. -/
def foldUse : State := work .user [] [0x11000, 16]
/-- The poisoned state. -/
def foldPoisoned : State := { foldUse with bad := [(0x11008 / 8, true)] }

theorem test_meets_phase_and_digest :
    (uniFree detUse .user [] [] ∧ skeinDet detUse detUse.cur.sid = true ∧ (curSkein detUse).committed = false ∧
      ∀ n ∈ grp detUse, (curStrand detUse n).idle = true) ∧
    (uniFree foldUse .user [] [31] ∧ uniFree foldUse .user [] [] ∧ skeinDet foldUse foldUse.cur.sid = false) ∧
    (uniFree foldUse .user [1, 2] [] ∧ (wReg foldUse 1).toNat % 8 = 0 ∧ (wReg foldUse 2).toNat % 8 = 0 ∧ (wReg foldUse 2).toNat ≤ 2 ^ 24 ∧
      (∀ m ∈ grp foldUse, (curStrand foldUse m).stores = [] ∧ (curStrand foldUse m).replies.length < 63) ∧
      readsPass foldUse (dwordsAt (wReg foldUse 1).toNat ((wReg foldUse 2).toNat / 8)) 8 foldReads ∧
      ∀ e ∈ (readsGive foldUse (dwordsAt 0x11000 2) 8 foldReads).1, ∀ p ∈ e, p.bad = false) ∧
    (uniFree foldPoisoned .user [1, 2] [] ∧ readsPass foldPoisoned (dwordsAt (wReg foldPoisoned 1).toNat ((wReg foldPoisoned 2).toNat / 8)) 8 foldReads ∧
      ∃ e, ((dwordsAt 0x11000 2).zip (readsGive foldPoisoned (dwordsAt 0x11000 2) 8 foldReads).1).find? (fun e => e.2.any (fun p => p.bad)) = some e) := by
  refine ⟨⟨?_, ?_, ?_, ?_⟩, ⟨?_, ?_, ?_⟩, ⟨?_, ?_, ?_, ?_, ?_, ⟨rangePasses_of ?_ ?_, ?_⟩, ?_⟩, ?_, ⟨rangePasses_of ?_ ?_, ?_⟩,
    Option.isSome_iff_exists.mp ?_⟩
  all_goals (try unfold uniFree); decide +kernel

/-- The state of the order-log witnesses: a descriptor at 0x11000 of a log of 1 chunk at 0x12000 for the word at 0x13000. -/
def logUse : State := stored (work .user [] [0x11000, 0x11010]) 0x11000 [0x13000, 0x12000, 0x100000000, 0]

/-- The entry that is armed there, for the word at `pa`. -/
def logEntry (pa : Nat) : OrderEntry :=
  { home := homeOf logUse 0x13000, part := 0, ctx := 0, launch := 0, sid := 0, desc := 0x11000, pa := pa, log := 0x12000, cap := 1, used := 0,
    div := false, full := false, play := false, runAgent := 0, runLen := 0, stopped := false }

/-- Its descriptor's translations. -/
def logReads : List Xl := (dwordsAt 0x11000 4).map page

/-- The states after the reads and the checks of the word and the log, of the state with given entries. -/
def logAfter (es : List OrderEntry) : List (List PByte) × State := readsGive { logUse with orders := es } (dwordsAt 0x11000 4) 8 logReads
/-- With the translation of the word kept. -/
def logNext (es : List OrderEntry) : State := keptXl (logAfter es).2 [page 0x13000]
/-- With those of the log. -/
def logLast (es : List OrderEntry) : State := keptXl (logNext es) [page 0x12000]

theorem test_meets_order_log :
    (uniFree logUse .user [2] [31] ∧ (wReg logUse 2).toNat % 32 ≠ 0) ∧
    (∀ es ∈ [[], [logEntry 0x13000], [logEntry 0x14000, logEntry 0x15000, logEntry 0x16000, logEntry 0x17000]],
      (logAfter es).1.map pval = [0x13000, 0x12000, 0x100000000, 0] ∧ orderBad (curSkein (logAfter es).2) ((logAfter es).1.map pval) = false ∧
      logBlocks 0x12000 1 = [0x12000]) ∧
    (readsPass logUse (dwordsAt 0x11000 4) 8 logReads ∧ rangePasses (logAfter []).2 .store [0x13000] 8 8 [page 0x13000] ∧
      rangePasses (logNext []) .store [0x12000] 4 4 [page 0x12000] ∧ (logLast []).orders = []) ∧
    (∃ e ∈ (logLast [logEntry 0x13000]).orders, e.pa = (page 0x13000).pa) ∧
    ((∀ e ∈ (logLast [logEntry 0x14000, logEntry 0x15000, logEntry 0x16000, logEntry 0x17000]).orders, e.pa ≠ (page 0x13000).pa) ∧
      4 ≤ ((logLast [logEntry 0x14000, logEntry 0x15000, logEntry 0x16000, logEntry 0x17000]).orders.filter (fun e =>
        e.home == homeOf logUse (page 0x13000).pa)).length) ∧
    (rangePasses (logAfter []).2 .store [0x11010, 0x11018] 8 8 [page 0x11010, page 0x11018] ∧
      (keptXl (logAfter []).2 [page 0x11010, page 0x11018]).orders.find? (fun e => e.part == 0 && e.ctx == 0 && e.desc == 0x11000) = none ∧
      (keptXl (logAfter [logEntry 0x13000]).2 [page 0x11010, page 0x11018]).orders.find? (fun e => e.part == 0 && e.ctx == 0 && e.desc == 0x11000) =
        some (logEntry 0x13000)) := by
  refine ⟨⟨?_, ?_⟩, ?_, ⟨⟨rangePasses_of ?_ ?_, ?_⟩, rangePasses_of ?_ ?_, rangePasses_of ?_ ?_, ?_⟩, ?_, ⟨?_, ?_⟩, rangePasses_of ?_ ?_, ?_, ?_⟩
  all_goals (try unfold uniFree); decide +kernel

/-- The state of the handler witnesses: a strand in mode `m` at depth `n`, entered in H mode with cause `c` or not. -/
def handling (m : Mode) (n : Nat) (c : DWord) : State := strandBy (work m [] []) (fun t => { t with
  edepth := n, hcause := c, masks := [0x2F, 0x1F, 0xF], calls := [2, 1] })

theorem test_meets_handler_return :
    (uniFree (handling .supervisor 1 0) .supervisor [] [] ∧ (∀ m ∈ grp (handling .supervisor 1 0),
        (curStrand (handling .supervisor 1 0) m).mode ≠ .hypervisor ∧ (curStrand (handling .supervisor 1 0) m).edepth ≠ 0) ∧
      (curSkein (handling .supervisor 1 0)).accept = false) ∧
    (uniFree (work .supervisor [] []) .supervisor [] [] ∧ ∃ m ∈ grp (work .supervisor [] []),
      (curStrand (work .supervisor [] []) m).mode = .hypervisor ∨ (curStrand (work .supervisor [] []) m).edepth = 0) ∧
    (uniFree (handling .hypervisor 0 0x20) .hypervisor [] [] ∧ (∃ m ∈ grp (handling .hypervisor 0 0x20), (curStrand (handling .hypervisor 0 0x20) m).mode = .hypervisor) ∧
      (∀ m ∈ grp (handling .hypervisor 0 0x20), (curStrand (handling .hypervisor 0 0x20) m).entered = true ∧
        (curStrand (handling .hypervisor 0 0x20) m).hcause.toNat % 256 ≠ Cause.nest.code)) ∧
    (uniFree (handling .hypervisor 2 0x0216) .hypervisor [] [] ∧ (∀ m ∈ grp (handling .hypervisor 2 0x0216), (curStrand (handling .hypervisor 2 0x0216) m).entered = true) ∧
      (grp (handling .hypervisor 2 0x0216)).find? (fun m => (curStrand (handling .hypervisor 2 0x0216) m).hcause.toNat % 256 == Cause.nest.code) = some 0) ∧
    (uniFree (work .hypervisor [] []) .hypervisor [] [] ∧ ∃ m ∈ grp (work .hypervisor [] []), (curStrand (work .hypervisor [] []) m).entered = false) ∧
    (∃ m ∈ grp (work .user [] []), (curStrand (work .user [] []) m).mode = .user) := by
  unfold uniFree
  refine ⟨⟨?_, ?_, ?_⟩, ⟨?_, ?_⟩, ⟨?_, ?_, ?_⟩, ⟨?_, ?_, ?_⟩, ⟨?_, ?_⟩, ?_⟩ <;> decide +kernel

/-- The state of the launch witnesses: a record at 0x10040, W1 and W2 as given, and a second launch, number 5, whose one skein stands at
`place`, with its image at 0x20000. -/
def launchUse (w1 w2 : DWord) (place : Place) : State :=
  let s := stored (mapped (work .supervisor [] [w1, w2])) 0x10040 [0x10000, 0x100010001, 64, 0, 0x100000, 0, 0, 0]
  { s with launches := s.launches ++ [{ fetchLaunch with num := 5, words := [0x10000, 0x100010001, 64, 0, 0x100000, 0, 0, 0x20000] }],
           skeins := s.skeins ++ [(skeinId 5 0, { fetchSkein with launch := 5, place := place })] }

/-- The same with the saved skein held. -/
def heldUse : State := let s := launchUse 0x20000 0xFFFF .saved
  setSkein s (skeinId 5 0) { getSkein s (skeinId 5 0) with heldSave := true }

/-- Whether a verdict accepts. -/
def accepts : Verdict → Bool
  | .accepted _ => true
  | _ => false

theorem test_meets_launch_and_save :
    (uniFree (launchUse 0x10040 0 .resident) .supervisor [1, 2] [31] ∧ ∃ l, judgeMessage (launchUse 0x10040 0 .resident) 0 0x10040 0 0 0 = .accepted l) ∧
    (judgeMessage (launchUse 0x10041 0 .resident) 0 0x10041 0 0 0 = .refused 1) ∧
    (uniFree (launchUse 0x1000000 0 .resident) .supervisor [1, 2] [31] ∧ 2 ^ 24 ≤ (wReg (launchUse 0x1000000 0 .resident) 1).toNat) ∧
    (waits (launchUse 5 1 .resident) .save = false ∧ ∀ l ∈ (launchUse 5 1 .resident).launches, l.num = 5 → l.total ≤ 1) ∧
    (findLaunch (launchUse 0 0 .resident) (curSkein (launchUse 0 0 .resident)).launch = some fetchLaunch ∧ (0 : Nat) = (curSkein (launchUse 0 0 .resident)).index ∧
      0 < fetchLaunch.total) ∧
    ((getSkein (launchUse 5 0 .saved) (skeinId 5 0)).place ≠ .resident ∧ (getSkein (launchUse 5 0 .resident) (skeinId 5 0)).place = .resident ∧
      (5 : Nat) ≠ (curSkein (launchUse 5 0 .saved)).launch) ∧
    (let s := strandBy (launchUse 5 0 .saved) (fun t => { t with wait := .save }); uniFree s .supervisor [1, 2] [31] ∧ waits s .save = true ∧ ∀ e ∈ s.skeins, ¬ (e.2.launch = 5 ∧ e.2.heldSave = true ∧ e.2.saving.isSome = true)) ∧
    (uniFree heldUse .supervisor [1, 2] [31] ∧ (wReg heldUse 2).toNat < 2 ^ 16 ∧
      (∃ e, heldUse.skeins.find? (fun e => e.2.place == .saved && e.2.part == 0 && e.2.ctx == 0 && imageVa heldUse e.2 == 0x20000) = some e ∧
        (e.2.heldSave || e.2.heldFault) = true) ∧
      ∃ e, (launchUse 0x20000 0xFFFF .saved).skeins.find? (fun e => e.2.place == .saved && e.2.part == 0 && e.2.ctx == 0 &&
        imageVa (launchUse 0x20000 0xFFFF .saved) e.2 == 0x20000) = some e ∧ (e.2.heldSave || e.2.heldFault) = false) ∧
    (uniFree (launchUse 0 0x10000 .saved) .supervisor [1, 2] [31] ∧ 2 ^ 16 ≤ (wReg (launchUse 0 0x10000 .saved) 2).toNat) := by
  refine ⟨⟨?_, ?_⟩, ?_, ⟨?_, ?_⟩, ⟨?_, ?_⟩, ⟨?_, ?_, ?_⟩, ⟨?_, ?_, ?_⟩, ?_, ⟨?_, ?_, ⟨(skeinId 5 0, getSkein heldUse (skeinId 5 0)), ?_, ?_⟩,
    (skeinId 5 0, getSkein (launchUse 0x20000 0xFFFF .saved) (skeinId 5 0)), ?_, ?_⟩, ?_, ?_⟩
  rotate_left
  · have h : accepts (judgeMessage (launchUse 0x10040 0 .resident) 0 0x10040 0 0 0) = true := by decide +kernel
    cases e : judgeMessage (launchUse 0x10040 0 .resident) 0 0x10040 0 0 0 with
    | accepted l => exact ⟨l, rfl⟩
    | refused c => rw [e] at h; cases h
    | held => rw [e] at h; cases h
  all_goals (try unfold uniFree); decide +kernel

/-- A load under way from the page, by the issuing strand. -/
def loading : Item := .gatherStack (packetOf false (laneWord 0x10000))

theorem test_meets_cache_and_translation :
    let s := work .supervisor [] [0x10010, 0xFFFF, 0x10011, 0x10000]
    let x : Named := { part := 0, ctx := some 0, base := 0x10000, len := 2 ^ 16 }
    (uniFree s .supervisor [1, 2] [] ∧ uniFree s .supervisor [3, 2] [] ∧ uniFree s .supervisor [1, 4] [] ∧ rangeWord (wReg s 1) = some (0x10000, 16) ∧
      rangeWord (wReg s 3) = none ∧ contextWord (curSkein s) (wReg s 2) = some 0 ∧ contextWord (curSkein s) (wReg s 4) = none) ∧
    (undrained s x 1 = false ∧ undrained { s with flight := [loading] } x 1 = true) ∧
    (∃ m ∈ grp (work .user [] []), (curStrand (work .user [] []) m).mode = .user) ∧
    (uniFree (work .user [] [0x1000B, 0x1000C]) .user [1] [] ∧ regionWord (wReg (work .user [] [0x1000B, 0x1000C]) 1) = none ∧
      uniFree (work .user [] [0x1000B, 0x1000C]) .user [2] [] ∧ regionWord (wReg (work .user [] [0x1000B, 0x1000C]) 2) = some (0x10000, 12)) := by
  unfold uniFree; decide +kernel

/-- The state of the message witnesses: W1 the buffer, W2 the selection, and a partition whose queue `q` holds `n` messages. -/
def queueUse (w1 w2 : DWord) (q n : Nat) : State :=
  let s := work .supervisor [] [w1, w2]
  { s with parts := [(0, { getPart s 0 with queues := [(q, List.replicate n (1, 2, 3, 4))] })] }

/-- Its state once the translation of the buffer is kept. -/
def queueNext : State := keptXl (queueUse 0x11000 0x100000000 32 1) [page 0x11000]

theorem test_meets_message_queue :
    (uniFree (queueUse 0x11000 0 31 63) .supervisor [1, 2] [31] ∧ (getPart (queueUse 0x11000 0 31 63) 0).busy = false ∧
      (queueOf (getPart (queueUse 0x11000 0 31 63) 0) 31).length < 64 ∧ 64 ≤ (queueOf (getPart (queueUse 0x11000 0 31 64) 0) 31).length) ∧
    (uniFree (queueUse 0x11000 0x200000000 32 1) .supervisor [1, 2] [31] ∧ 2 ^ 33 ≤ (wReg (queueUse 0x11000 0x200000000 32 1) 2).toNat) ∧
    (uniFree (queueUse 0x11010 0x100000000 32 1) .supervisor [1, 2] [31] ∧ (wReg (queueUse 0x11010 0x100000000 32 1) 2).toNat < 2 ^ 33 ∧
      (wReg (queueUse 0x11010 0x100000000 32 1) 1).toNat % 32 ≠ 0) ∧
    (pickQueue (getPart (queueUse 0x11000 1 32 1) 0) 1 = none ∧ (wReg (queueUse 0x11000 1 32 1) 1).toNat % 32 = 0) ∧
    (pickQueue (getPart (queueUse 0x11000 0x100000000 32 1) 0) 0x100000000 = some (32, (1, 2, 3, 4)) ∧
      rangePasses (queueUse 0x11000 0x100000000 32 1) .store [(wReg (queueUse 0x11000 0x100000000 32 1) 1).toNat] 32 32 [page 0x11000] ∧
      mustWait queueNext (page 0x11000) 32 = false ∧
      ∃ u, homeWrite (leaveL1 queueNext (curCore queueNext) 0x11000)
        (laneAgent { core := curCore queueNext, die := dieOf (curCore queueNext), sid := queueNext.cur.sid, ply := queueNext.cur.ply, tag := 0,
                     ctx := (curSkein queueNext).ctx, pc := curPc queueNext, acq := false, rel := false } (4 * (grp queueNext).headD 0))
        0x11000 (clean (msgBytes (1, 2, 3, 4))) = some u) := by
  refine ⟨⟨?_, ?_, ?_, ?_⟩, ⟨?_, ?_⟩, ⟨?_, ?_, ?_⟩, ⟨?_, ?_⟩, ?_, rangePasses_of ?_ ?_, ?_, Option.isSome_iff_exists.mp ?_⟩
  all_goals (try unfold uniFree); decide +kernel

/-- An atomic add of lane `l` of a strand on the word at 0x10100 of a page of a kind. -/
def addingAs (k : PageKind) (l : Nat) : AtomReq :=
  { op := .add, width := 4, pa := 0x10100, va := 0x10100, kind := k, die := 0, ordered := false, det := false, merged := 0, pair := none,
    lanes := [{ org := asking, lane := l, va := 0x10100, operand := 1, repl := 0, reply := true }] }

/-- One of an unordered page. -/
def adding : AtomReq := addingAs .unordered 0

/-- The state of the event witnesses: the skein stands at `p`, the items are in flight. -/
def flying (p : Place) (is : List Item) : State := { skeinBy (work .user [] []) (fun k => { k with place := p }) with flight := is }

/-- A read of cell 3 of slot 0, whose package is another. -/
def cellAsked : Item := .fieldAsk asking (laneWord 0x10100) none 0 0 [{ package := 7, cell := 3, off := 0, len := 4 }] false

/-- The state of a move that the end of the epoch begins: frame 1, on whose word die 1 has done `n` atomics and die 0 one. -/
def counted (n : Nat) : State := { work .user [] [] with
    atomCount := [(4, 1), (5, n)]
    atmThresh := 2
    atmEn := true
    homeBase := 1
    parts := [(0, { fetchPart with gran := 0xFF })] }

theorem test_meets_packet_and_atomic_event :
    (∀ i ∈ [Item.gatherHome storing, Item.gatherStack storing, Item.atomic adding, cellAsked], (flying .resident [i]).flight[0]? = some i ∧
      mayPerform (flying .resident [i]) 0 = true) ∧
    (nextSlice (work .user [] []) { storing with slice := 48 } = none ∧ (nextSlice (work .user [] []) storing).isSome = true) ∧
    (heldAt (flying .resident []) adding.die adding.pa = false) ∧
    ((getSkein (flying .resident [.gatherReply false storing]) asking.sid).place = .resident ∧
      (getSkein (flying .saved [.gatherReply false storing]) asking.sid).place = .saved ∧
      (Item.askers loading).find? (fun e => acrossSave (flying .saved [loading]) e.1) = some (asking, 0x10000)) ∧
    (∀ l ∈ adding.lanes, (getSkein (flying .resident [.atomReply adding [(5, false)]]) l.org.sid).place = .resident) ∧
    (let s := flying .resident [.atomic adding, .atomic adding];
      s.flight[0]? = some (.atomic adding) ∧ s.flight[1]? = some (.atomic adding) ∧ mayCombine s adding adding = true ∧
      ((s.flight.take 1).drop (0 + 1)).all (fun i => !mustPrecede s i (.atomic adding)) = true) ∧
    (let r := addingAs .sequential 0
      let q := addingAs .sequential 1
      let s := flying .resident [.atomic r, .atomic q]
      s.flight[0]? = some (.atomic r) ∧ mayPerform s 0 = true ∧ heldAt s r.die r.pa = false ∧ r.kind = .sequential ∧ sameInstr r q = true ∧
      closedRun [] [(0, r.pa), (1, q.pa)] = [0, 1]) ∧
    (moveTo (counted 2) 1 = some 1) ∧
    (let s := { flying .resident [] with homeMoves := [(1, 0, 2)] };
      s.homeMoves.find? (fun x => x.1 == 1) = some (1, 0, 2) ∧ (∀ i ∈ s.flight, i.at_ 1 0 = false)) ∧
    (∃ i ∈ (flying .resident [.atomic adding]).flight, i.at_ 1 0 = true) := by
  refine ⟨?_, ⟨?_, ?_⟩, ?_, ⟨?_, ?_, ?_⟩, ?_, ?_, ?_, ?_, ?_, ?_⟩ <;> decide +kernel

/-- A transfer's debit of one unit from cell 0 of the four cells, and its record. -/
def moving1 : XferLane :=
  { org := asking, dom := 0, lane := 0, fromCell := 0, toCell := 3, mag := 1, neg := false, clip := false, dest := 0, destSup := false, stage := 0 }
/-- The transit record. -/
def record1 : FieldRec := { seq := 0, amount := 1, toCell := 3, fromCell := 0, slot := 0, package := 7, lane := 0, tag := 0 }

/-- The ask for a grant, and the state of the LEND that has waited for its end. -/
def askGrant : Item := .grantAsk 0 0 (.skein 0 0) 0 0 0x10000 true [0]
/-- The hand-off. -/
def handing (op : TokenOp) : Item := .tokenOp op 0 0 0x1000 12 0 0 [0] 1
/-- The region handed off, held by the skein. -/
def handed (is : List Item) : State := { flying .resident is with regions := [region [ctxHeld, skeinHolder] [] false] }

/-- The four cells at 1 GiB, the first of them on package `q`. -/
def gibCells (q : Nat) : Domain := { fourCells with base := 0x40000000, frames := [(0x4000, 0x4000)], owners := [q, 0, 0, 0] }

/-- The state of a debit at stage `n` of these cells, with `m` transit records at its home. -/
def debiting (n q m : Nat) : State := { mapped (flying .resident [.debit { moving1 with stage := n }]) with
    domains := [gibCells q]
    transits := List.replicate m { home := homeOf (work .user [] []) 0x40000000, dom := 0, record := record1, org := asking, sent := true, own := true, mirror := true } }

/-- The descriptor of the domain that another package declares: four cells of 32 bits at 1 GiB, all here. -/
def copyWordsOf : List DWord := [0x40000000, 0x20000000003, 0x11040, 0, 0, 0, 0, 0, 0, 0]

/-- The domain that a copy of that descriptor gives. -/
def copied (s : State) : Domain :=
  { domainFrom s 0 0 9 0x12000 7 (copyWordsOf.take 8) ((((copyWordsOf.drop 8).map (fun w => w.toNat))).take 1) ((((copyWordsOf.drop 8).map (fun w => w.toNat))).drop 1) with
    awaiting := [], stage := .declared }

theorem test_meets_grant_and_transfer_event :
    (handOff (flying .resident [askGrant, .tokenOp .retn 0 0 0x10000 12 0 0 [0] 0]) 0 0 0x10000 1 = true) ∧
    (handOff (flying .resident [askGrant]) 0 0 0x10000 1 = false ∧
      tokenAllows (flying .resident [askGrant]) (skeinAsker (flying .resident [askGrant]) 0) 0 (regionOf (flying .resident [askGrant]) 0 0 0x10000) true = true) ∧
    (let s := { flying .resident [askGrant] with regions := [{ region [{ ctxHeld with ctx := 1 }] [] false with base := 0x10000 }] };
      tokenAllows s (skeinAsker s 0) 0 (regionOf s 0 0 0x10000) true = false) ∧
    (∀ i ∈ [Item.grantGive { core := 0, part := 0, package := 0, agent := .skein 0 0, ctx := 0, base := 0, k := 40, write := true, back := false } [0],
        .revoke 0 0 0 0 40], (flying .resident [i]).flight[0]? = some i) ∧
    (∀ op ∈ [TokenOp.retn, .unshare], let s := handed [handing op]
      s.flight[0]? = some (handing op) ∧ s.flight.any (fun i => match i with
        | .revoke _ q c b j => q == 0 && c == 0 && b == 0x1000 && j == 12
        | _ => false) = false ∧ (regionOf s 0 0 0x1000).lost = false ∧ (getSkein s 0).plies ≠ 0) ∧
    (holderBusy (handed [handing .retn]) .retn (regionOf (handed []) 0 0 0x1000) 0 1 = false ∧
      holderBusy (handed [handing .retn, .gatherStack (packetOf true (laneWord 0x1000))]) .retn (regionOf (handed []) 0 0 0x1000) 0 1 = true) ∧
    (let s := debiting 0 0 0
      let d := gibCells 0
      s.flight[0]? = some (.debit moving1) ∧ findDomain s moving1.dom = some d ∧ moving1.stage = 0 ∧ debitFirst s 0 d moving1 = true ∧
      xfHeld s moving1 = false ∧ d.owner moving1.fromCell = here s ∧ homeFull s d moving1 = false) ∧
    (homeFull (debiting 0 0 4096) (gibCells 0) moving1 = true ∧ (gibCells 7).owner moving1.fromCell ≠ here (debiting 0 7 0) ∧
      homeFull (debiting 3 0 0) (gibCells 0) { moving1 with stage := 3 } = false ∧ ({ moving1 with stage := 3 } : XferLane).stage = 3) ∧
    (∀ i ∈ [Item.credit 0 0 record1 asking, Item.creditAck 0 0 record1 asking, Item.creditRefuse 0 0 record1 asking 0x0B],
      (flying .resident [i]).flight[0]? = some i) ∧
    (partOfSpid (work .user [] []) 1 = none ∧ partOfSpid (work .user [] []) 0 = some 0 ∧
      (∃ z ∈ [copied (work .user [] [])], z.key = (copied (work .user [] [])).key) ∧ (work .user [] []).domains = [] ∧
      pageBreaks (work .user [] []) (copied (work .user [] [])) = true ∧
      pageBreaks (mapped (work .user [] [])) (copied (mapped (work .user [] []))) = false) ∧
    (messageDomain { flying .resident [] with domains := [fourCells] } 0 0 = some fourCells ∧ 7 ∈ { fourCells with awaiting := [7] }.awaiting) := by
  refine ⟨?_, ⟨?_, ?_⟩, ?_, ?_, ?_, ⟨?_, ?_⟩, ?_, ⟨?_, ?_, ?_, ?_⟩, ?_, ⟨?_, ?_, ?_, ?_, ?_, ?_⟩, ?_⟩ <;> decide +kernel

/-- A copy of 64 bytes within the page, at a progress and in a state. -/
def copying1 (progress : Nat) (st : CopyState) : Copy := { copyOf 64 .copy 1 0 with progress := progress, state := st }
/-- A state with one copy. -/
def copyState (c : Copy) : State := { copyUse 64 with copies := [c] }
/-- A tree reduce of two slots. -/
def treeing : Copy := { copyOf 64 .copy 1 2 with kind := .tree }
/-- A copy to a field page, and its state. -/
def toField : Copy := { copyOf 64 .copy 1 0 with dst := 0x40000000 }
/-- A clear of accumulator 0 or another request, at a stage, and the skein whose queue holds a request. -/
def clearing (st : MatStage) : MatReq := { op := .clear 0, ply := 0, strands := [0], stage := st, age := 0 }
/-- The state. -/
def queued (r : MatReq) : State := skeinBy (work .user [] []) (fun k => { k with queue := [r], chain := { Chain.reset with active := true, n := 2 } })
/-- A put of one byte from package 7, and a COLL packet. -/
def putOne : FabPkt := { src := 7, spid := 0, tag := 3, off := 0x10000, body := .put 0 (clean [1]) true false 0 0 }
/-- A read of a cell from there. -/
def readCell : FabPkt := { putOne with body := .fieldRead 0 3 }
/-- The COLL packet. -/
def collOne (spid : Nat) : CollPkt := { src := 7, spid := spid, tag := 3, id := 5, attempt := 3, op := 0, elems := [] }
/-- A COLL that waits for one answer. -/
def waiting1 : CollWait := { tag := 3, sid := 0, ply := 0, bind := 4, attempt := 3, lanes := [(0, 1)], peers := [7], seq := 0 }
/-- A partition whose fabric window is open, of 64 KiB and more, on the whole of context 0. -/
def opened : State := let s := mapped (work .user [] [])
  { s with parts := [(0, { fetchPart with fwBase := 1, fwCtx := 0, fwLog2 := 20 })]
           regions := [{ region [{ package := 7, ctx := 0, agent := .copies }] [] false with base := 0, k := 40 }] }
/-- The translation of the put. -/
def putXl : Option Xl :=
  match windowSide opened 0 7 0x10000 1 true with
  | (.inGlobal x, false) => some x
  | _ => none
/-- A held packet. -/
def held1 (b : HeldBody) : Held := { body := b, part := 0, ctx := 0, src := 7, spots := [(0x10000, 0x10000, 1, true)] }

theorem test_meets_engine_event :
    ((∀ c ∈ [copying1 0 .running, treeing], copyRuns (copyState c) c = true ∧ c.state = .running ∧ c.total ≠ 0 ∧ c.progress ≠ c.total ∧
        copyOnField (copyState c) c = none) ∧ (copying1 0 .running).kind ≠ .tree ∧ treeing.kind = .tree ∧
      (let c := copying1 0 .running;
        sideAwaits (copyState c) c c.chunk (copySide (copyState c) c c.here_.1 c.chunk false) = false) ∧
      ∀ x ∈ treeing.slots.map (fun x => copySide (copyState treeing) treeing x treeing.treeChunk false),
        sideAwaits (copyState treeing) treeing treeing.treeChunk x = false) ∧
    (let s := mapped (copyState toField);
      copyRuns s toField = true ∧ toField.state = .running ∧ toField.total ≠ 0 ∧ toField.progress = 0 ∧ copyOnField s toField = some 0x40000000) ∧
    (let c := copyOf 0 .copyp 5 0;
      copyRuns (copyState c) c = true ∧ c.state = .running ∧ c.total = 0) ∧
    (let c := { copyOf 0x1010 .copy 1 0 with state := .sent };
      c.progress + c.chunk ≠ c.total ∧ copyRuns (copyState c) c = true ∧
      (copying1 0 .sent).progress + (copying1 0 .sent).chunk = (copying1 0 .sent).total) ∧
    ((copying1 64 .running).kind ≠ .copyp ∧ (copying1 64 .running).progress = (copying1 64 .running).total ∧ (copying1 64 .running).state = .running) ∧
    (copyOfTag (copyState (copying1 0 .sent)) 0 = some (copying1 0 .sent) ∧
      (let s := { copyState (copying1 0 .sent) with fabricOut := [.packet 7 { putOne with tag := 0 }] };
        FabricOut.packet 7 { putOne with tag := 0 } ∈ s.fabricOut)) ∧
    ((getCore { work .user [] [] with cores := [(0, { Core.reset with pend := some true })] } 0).pend = some true) ∧
    (let s := leadQueue (queued (clearing .queued)) 0;
      (getSkein s 0).queue = [clearing .queued] ∧ (clearing .queued).op ≠ .loop ∧ (clearing .queued).op.byGroup = false ∧ (getSkein s 0).place = .resident ∧
      (getPart s (getSkein s 0).part).halted = false ∧ (posted s 0).length < 32 ∧ ((posted s 0).filter (fun e => (getSkein s e.1).core == 0)).length < 8) ∧
    (∀ st ∈ [MatStage.queued, .granted], let r := { clearing st with op := .loop };
      let s := leadQueue (queued r) 0;
      (getSkein s 0).queue = [r] ∧ (getSkein s 0).saving = none ∧ (getSkein s 0).chain.ahead = none ∧ fetchWaits s (getSkein s 0) 0 = false ∧
      (getSkein s 0).chain.done + 1 < (getSkein s 0).chain.n ∧ fetchWaits s (getSkein s 0) 1 = false ∧ r.op.byGroup = false) ∧
    (let s := queued (clearing .posted);
      sortBy (matBefore s) ((posted s 0).filter (fun e => !(getPart s (getSkein s e.1).part).halted)) = [(0, clearing .posted)]) ∧
    (let r := { clearing .granted with op := .loop };
      (getSkein (queued r) 0).queue = [r] ∧ r.stage = .granted ∧ (getSkein (queued r) 0).place = .resident ∧ (getSkein (queued r) 0).chain.ce = false ∧
      (getSkein (queued r) 0).chain.done + 1 < (getSkein (queued r) 0).chain.n) ∧
    ((getSkein (queued (clearing .granted)) 0).queue = [clearing .granted] ∧ (clearing .granted).stage = .granted ∧ (clearing .granted).op ≠ .loop ∧
      banksShut (queued (clearing .granted)) 0 = false) ∧
    (readCell.body = .fieldRead 0 3 ∧ domainAt { work .user [] [] with domains := [fourCells] } readCell.spid 0 = some fourCells ∧
      putOne.body = .put 0 (clean [1]) true false 0 0) ∧
    (partOfSpid opened putOne.spid = some 0 ∧ wasApplied opened putOne.src 0 putOne.tag = false ∧ closed opened (getPart opened 0) = false ∧
      heldOf opened (.put putOne) = none ∧ putXl.isSome = true ∧
      windowSide { opened with moving := [1] } 0 7 0x10000 1 true = ((putXl.map Side.inGlobal).getD .held, true)) ∧
    ((copyUse 64).heldPkts = [] ∧ (copyState (copying1 0 .running)).copies[0]? = some (copying1 0 .running) ∧
      ∀ b ∈ [HeldBody.put putOne, .coll (collOne 0)], ({ copyUse 64 with heldPkts := [held1 b] } : State).heldPkts[0]? = some (held1 b)) ∧
    (partOfSpid (work .user [] []) (collOne 1).spid = none ∧ partOfSpid (work .user [] []) (collOne 0).spid = some 0 ∧
      wasApplied collUse (collOne 0).src 2 (collOne 0).tag = false ∧ closed collUse (getPart collUse 0) = false ∧ heldOf collUse (.coll (collOne 0)) = none ∧
      collUse.colls.find? (fun x => x.1 == collKey 0 (collOne 0).id) = some (5, oneRank) ∧
      oneRank.attempt = BitVec.ofNat 16 (collOne 0).attempt) ∧
    (let s := { collUse with collWaits := [waiting1], fabricOut := [.coll 7 (collOne 0)] };
      s.collWaits.find? (fun x => x.tag == 3 && x.peers.contains 7) = some waiting1 ∧ waiting1.peers = [7] ∧ (∃ x ∈ s.collWaits, x.tag = 3 ∧ 7 ∈ x.peers) ∧
      FabricOut.coll 7 (collOne 0) ∈ s.fabricOut ∧ (collOne 0).tag = 3) := by
  refine ⟨⟨?_, ?_, ?_, ?_, ?_⟩, ?_, ?_, ?_, ?_, ⟨?_, ?_⟩, ?_, ?_, ?_, ?_, ?_, ?_, ?_, ⟨?_, ?_, ?_, ?_, ?_, ?_⟩, ⟨?_, ?_, ?_⟩, ?_, ?_⟩ <;> decide +kernel

/-- A machine in which the launch of the witnesses waits to be placed, and one in which it is saved. -/
def placing : State := { work .user [] [] with skeins := [], strands := [], launches := [{ fetchLaunch with placed := 0 }] }
/-- Its skein saved. -/
def savedAway : State := mapped (skeinBy (work .user [] []) (fun k => { k with place := .saved }))
/-- No core can serve. -/
def placeless : State := { placing with cores := (List.range 32).map (fun c => (c, { Core.reset with failed := true })) }
/-- A strand that waits for `n` registers. -/
def growing (n : Nat) : State := { strandBy (crowded 0) (fun t => { t with wait := .grow n }) with skeins := (if n < 16 then [(0, curSkein (crowded 0))] else (crowded 0).skeins) }
/-- A skein that is to be saved, with a store outstanding or not. -/
def saving (rs : List Outstanding) : State := strandBy (skeinBy (work .user [] []) (fun k => { k with saving := some .named })) (fun t => { t with stores := rs })
/-- A deterministic launch of two phases whose skein has committed phase 0; `mode` is its determinism mode. -/
def committed (mode : DWord) : State :=
  { skeinBy detUse (fun k => { k with committed := true }) with launches := [{ fetchLaunch with
    words := [0x10000, 0x100010001, 64, 0, 0x10000, 0, 0, 0], block := [0, 0x20000 ||| mode, 0, 0, 0, 0, 0, 0] }] }
/-- The launch after the commits. -/
def committedOnce (mode : DWord) : State := ((skeinsOf (committed mode) 0).filter (fun x => (getSkein (committed mode) x).place == .resident)).foldl commitSkein (committed mode)

/-- A core whose eight slots one skein has, before a ready pending ply of another. -/
def slotless : State := { work .user [] [] with skeins := [(0, { fetchSkein with plies := 8, active := (List.range 8).map (fun p => (p, true)) }),
  (1, { fetchSkein with active := [] })] }

theorem test_meets_scheduling_and_save_event :
    (schedule placing 0).isSome = true ∧ (schedule savedAway (getSkein savedAway 0).part).isSome = true ∧
    ((candidates placeless 0).findSome? (fun c => match c with
        | .fresh m => some m
        | .back _ => none) = some 0 ∧ (findLaunch placeless 0).isSome = true ∧ (tryCand placeless (.fresh 0)).isNone = true) ∧
    (let s := skeinBy (work .user [] []) (fun k => { k with active := [] });
      (readyPending s 0).head? = some (0, 0) ∧ (readyPending s 0).getLast? = some (0, 0) ∧ activePlies s 0 < 8) ∧
    ((readyPending slotless 0).head? = some (1, 0) ∧ (readyPending slotless 0).getLast? = some (1, 0) ∧ 8 ≤ activePlies slotless 0 ∧
      (pliesOf slotless 0 true).reverse.find? (fun e => plyStuck slotless e.1 e.2) = some (0, 7) ∧ (pliesOf slotless 0 true).reverse ≠ []) ∧
    (growRequests (growing 8) 0 = [(0, 0, 0, 8)] ∧ (partsOf (getSkein (growing 8) 0) 0).find? (fun ns => ns.contains 0) = some [0] ∧
      growBad (getSkein (growing 8) 0) 8 = false ∧ growFits (growing 8) (getSkein (growing 8) 0) 8 = true) ∧
    (growBad (getSkein (growing 960) 0) 960 = false ∧ growFits (growing 960) (getSkein (growing 960) 0) 960 = false) ∧
    (sortBy (goesBefore (growing 8)) (residentOn (growing 8) 0) = [] ++ [0] ∧ ∀ x ∈ residentOn (growing 8) 0, growBlocked (growing 8) x = true ∧ (getSkein (growing 8) x).saving = none) ∧
    ((getPart (work .user [] []) 0).present = true ∧ (getPart (work .user [] []) 0).pcap < 2001 ∧ 1999 < (getPart (work .user [] []) 0).pcap) ∧
    ((getSkein (saving []) 0).saving.isSome = true ∧ (getSkein (saving []) 0).place = .resident ∧ skeinDrained (saving []) 0 = true ∧
      skeinDrained (saving [⟨0, 1⟩]) 0 = false) ∧
    (let s := strandBy (work .user [] []) (fun t => { t with dead := 1, newDead := 1 });
      (getStrand s (strandKey 0 0 0)).alive = true ∧ (getStrand s (strandKey 0 0 0)).newDead ≠ 0 ∧ (getSkein s 0).place = .resident ∧
      (getStrand s (strandKey 0 0 0)).wait.sleeps = false) ∧
    (let s := strandBy (work .user [] []) (fun t => { t with foldBad := some 8 });
      (getStrand s (strandKey 0 0 0)).alive = true ∧ (getStrand s (strandKey 0 0 0)).newDead = 0 ∧ (getStrand s (strandKey 0 0 0)).foldBad.isSome = true ∧
      (getSkein s 0).place = .resident ∧ (getStrand s (strandKey 0 0 0)).wait.sleeps = false) ∧
    (let s := work .user [] [];
      (getPart s 0).sliceLen = 0 ∧ (0, getSkein s 0) ∈ s.skeins ∧ (getSkein s 0).part = 0 ∧ (getSkein s 0).launch = 0 ∧ (getSkein s 0).place = .resident ∧
      (getSkein s 0).saving = none) ∧
    ((getPart (work .user [] []) 0).preReq = false ∧ (2 : DWord).getLsbD 0 = false) ∧
    (let s := { savedAway with parts := [(0, { getPart savedAway 0 with preState := 1, preReq := true })] };
      (getPart s 0).preState = 1 ∧ preTargets s 0 (getPart s 0).preTarget = [] ∧ (getPart s 0).preReq = true) ∧
    (let s := { work .user [] [] with parts := [(0, { fetchPart with sliceLen := 1, running := [0] })], launches := [fetchLaunch, { fetchLaunch with num := 1, ctx := 1, placed := 0 }] };
      (getPart s 0).sliceLen ≠ 0 ∧ (getPart s 0).preReq = false ∧ sliceTarget s 0 = some 0) ∧
    (∀ c ∈ (getPart savedAway 0).running, runsOn savedAway 0 c = false) ∧
    (let s := { work .user [] [] with parts := [(0, { fetchPart with halted := true })] };
      (getPart s 0).halted = true ∧ (agentsOf s 0).contains 0 = true ∧ (getPart s 0).stopWritten.contains 0 = false) ∧
    ((findLaunch (committedOnce 3) 0).any (fun l => l.det && decide (l.total ≤ l.placed) && decide (l.phase < l.nphase) &&
        decide (l.run = 0) && decide (l.detMode = 3)) = true ∧ skeinsOf (committedOnce 3) 0 = [0] ∧
      (getSkein (committedOnce 3) 0).committed = true ∧ (getSkein (committedOnce 3) 0).phase = 0) ∧
    ((findLaunch (committedOnce 0) 0).any (fun l => l.det && decide (l.total ≤ l.placed) && decide (l.phase < l.nphase) &&
        decide (l.run = 0) && decide (l.detMode = 0)) = true ∧ skeinsOf (committedOnce 0) 0 = [0] ∧
      (getSkein (committedOnce 0) 0).committed = true ∧ (getSkein (committedOnce 0) 0).phase = 0) ∧
    (let e := { logEntry 0x13000 with play := true };
      let s := { stored logUse 0x12000 [0x501] with orders := [e], flight := [.gatherStack (packetOf true (laneWord e.pa))] };
      s.orders[0]? = some e ∧ e.play = true ∧ e.div = false ∧ gateWaits s e = true) := by
  refine ⟨?_, ?_, ⟨?_, ?_, ?_⟩, ?_, ⟨?_, ?_, ?_, ?_, ?_⟩, ⟨?_, ?_, ?_, ?_⟩, ⟨?_, ?_⟩, ⟨?_, ?_⟩, ⟨?_, ?_, ?_⟩, ⟨?_, ?_, ?_, ?_⟩, ?_, ?_, ?_, ⟨?_, ?_⟩, ?_, ?_,
    ?_, ?_, ?_, ?_⟩ <;> decide +kernel

theorem test_meets_register_event :
    ((getIo State.reset 1).migBusy = false ∧ (getIo State.reset 1).migPend = none ∧ (getIo State.reset 0).frMark = none ∧
      (getIo { State.reset with io0 := { State.reset.io0 with frMark := some 1 } } 0).frMark = some 1) ∧
    ((getIo State.reset 0).chret0 ||| (0 : DWord) = (getIo State.reset 0).chret0 ∧ (getIo State.reset 0).chret1 ||| (1 : DWord) ≠ (getIo State.reset 0).chret1) ∧
    ((getPart (tokenUse .user [region [ctxHeld] [] false]) 0).busy = false ∧ ∃ r ∈ (tokenUse .user [region [ctxHeld] [] false]).regions, r.part = 0) ∧
    (∀ r ∈ State.reset.regions, r.part ≠ 0) ∧
    (31 < 32 ∧ (queueOf (getPart (queueUse 0 0 31 63) 0) 31).length < 64 ∧ 64 ≤ (queueOf (getPart (queueUse 0 0 31 64) 0) 31).length) ∧
    ((getPart { work .user [] [] with parts := [(0, { fetchPart with evUncovered := 1 })] } 0).evUncovered ≠ 0 ∧ (getPart State.reset 7).evUncovered = 0) ∧
    (0x1000 ≤ 0x2E40 ∧ 0x2E40 < 0x3000 ∧ 0x2E40 % 0x400 = 0x240) := by decide +kernel

/-- A package whose migration engine of die 1 has a descriptor with status `c`, taken or not. -/
def migrating (c : DWord) (busy : Bool) (desc : List DWord) : State :=
  let s := stored (work .user [] []) 0x11000 [0x20000, 0x30000, 0, c]
  { s with io1 := { s.io1 with migBase := 0x11000, migSize := 16, migHead := 0, migTail := 1, migBusy := busy, migDesc := desc } }

/-- A partition that the host's window reaches: context 0, base 0. -/
def windowed : State := let s := mapped (work .user [] [])
  { s with parts := [(0, { getPart s 0 with lswBase := 1, lswCtx := 0 })] }

/-- Bring-up of one partition. -/
def bringing : BringUp :=
  { genuine := true, package := 5, tierMiB := 0x400000, parts := [{ num := 7, spid := 1, ports := 1, gran := 0x80, chans := 1, members := [] }] }

/-- The state of the witness of PBOOT: the record of a dispatcher at 0x10040. -/
def booting : State := let s := stored (mapped (work .user [] [])) 0x10040 [0x10000, 0x100010001, 64, 0, 0x10001F, 0, 0, 0]
  { s with parts := [(0, { getPart s 0 with pbootRec := keep 0x10040 6 56, pbootWait := false, lswCtx := 0 })] }

/-- The two sides of an access of eight bytes across a frame's end. -/
def windowSides (write : Bool) : List (Side × Bool) := (framePieces (8 / 0x10000 + 2) 0x1FFFC 8).map (fun e => outsideSide windowed 0 0 .copyAgent e.1 e.2 write)

/-- The translation of a side. -/
def sideXl : Side × Bool → Option Xl
  | (.inGlobal x, false) => some x
  | _ => none

theorem test_meets_package_event :
    (engineRuns (migrating 0 false []) 1 = true ∧ (getIo (migrating 0 false []) 1).migHead ≠ (getIo (migrating 0 false []) 1).migTail ∧
      populated (migrating 0 false []) ((getIo (migrating 0 false []) 1).migBase.toNat + 32 * (getIo (migrating 0 false []) 1).migHead) = true ∧
      fieldOf ((bytesDwords 4 (readBytes (migrating 0 false []) 0x11000 32)).getD 3 0).toNat 0 8 = 0 ∧
      fieldOf ((bytesDwords 4 (readBytes (migrating 1 false []) 0x11000 32)).getD 3 0).toNat 0 8 ≠ 0) ∧
    (engineStopped (migrating 0 true []) 1 = false ∧ (getIo (migrating 0 true []) 1).migBusy = true ∧
      descriptorCode (migrating 0 true []) 0x20001 0x30000 2 = some 4 ∧ descriptorCode (migrating 0 true []) 0x20000 0x30000 2 = none) ∧
    (closed windowed (getPart windowed 0) = false ∧ (getPart windowed 0).lswBase.getLsbD 0 = true ∧ 2 ^ 36 < 2 ^ 36 - 7 + 8 ∧
      (getPart State.reset 0).lswBase.getLsbD 0 = false) ∧
    (State.reset.powered = false ∧ bringUpOk bringing = true ∧ (work .user [] []).powered = true ∧ bringUpOk { bringing with genuine := false } = false) ∧
    (closed booting (getPart booting 0) = false ∧ (∀ m ∈ booting.launches, ¬ (m.part = 0 ∧ m.dispatcher = true)) ∧
      (match judgeMessage booting 0 (keep 0x10040 6 56) 0 0 0 with
        | .accepted l => decide (l.prio = 31) && l.super
        | _ => false) = true) ∧
    ((1 : DWord).getLsbD 0 = true ∧ (getPart (work .user [] []) 0).busy = false ∧ (getPart (work .user [] []) 0).present = true ∧
      (getPart { work .user [] [] with parts := [(0, { fetchPart with busy := true })] } 0).busy = true) ∧
    (15 ∉ State.reset.portsGone ∧ (0 : Nat) = here State.reset ∧ 0x1FFFFF ≠ here (work .user [] []) ∧ 0x1FFFFF ∉ (work .user [] []).lostPkgs ∧
      (work .user [] []).flight = [] ∧ (work .user [] []).copies = [] ∧ (work .user [] []).collWaits = [] ∧ (work .user [] []).domains = [] ∧
      (work .user [] []).transits = []) ∧
    ((∀ b, 1 ≤ b → b ≤ 4 → b ∈ ({ work .user [] [] with measured := [1, 2, 3, 4] } : State).measured) ∧ (work .user [] []).powered = true ∧
      1 ≤ (4 : Nat) ∧ (4 : Nat) ≤ 4 ∧ 1 ∉ (work .user [] []).measured) ∧
    ((windowSides true).length = 2 ∧ windowSides true = ((windowSides true).filterMap sideXl).map (fun x => (Side.inGlobal x, false)) ∧
      windowSides false = ((windowSides false).filterMap sideXl).map (fun x => (Side.inGlobal x, false)) ∧ 0x1FFFC + accSize (.write [1, 2, 3, 4, 5, 6, 7, 8]) ≤ 2 ^ 36 ∧
      accSize (.read 8) = 8) := by
  refine ⟨⟨?_, ?_, ?_, ?_, ?_⟩, ⟨?_, ?_, ?_, ?_⟩, ⟨?_, ?_, ?_, ?_⟩, ⟨?_, ?_, ?_, ?_⟩, ⟨?_, ?_, ?_⟩, ⟨?_, ?_, ?_, ?_⟩, ⟨?_, ?_, ?_, ?_, ?_, ?_, ?_, ?_, ?_⟩,
    ⟨fun b h1 h2 => ?_, ?_, ?_, ?_, ?_⟩, ?_, ?_, ?_, ?_, ?_⟩
  rotate_right
  all_goals first
    | decide +kernel
    | exact List.mem_cons.mpr (by simp; omega)

theorem test_meets_step_keeps_memory_canonical :
    ∃ s t : State, memOk s = true ∧ s.mem ≠ [] ∧ step s = .next t :=
  let ⟨t, h⟩ := has_next (o := step (State.reset.withFetchWord 32 0x00048A0C)) (by decide +kernel)
  ⟨_, t, by decide +kernel, by decide +kernel, h⟩

/-- The group of the placed instruction. -/
def onlyGroup : Group := { sid := 0, ply := 0, strands := [0] }
/-- The state in which it has been placed and its turn has come. -/
def placedWord (w : Nat) : State := { State.reset.withFetchWord 64 w with cur := onlyGroup }

/-- A fetch of a known word. -/
theorem fetch_of {p : Chk × Word × State} {x : Chk} {w : Word} (h : p.1 = x) (g : p.2.1 = w) : p = (x, w, p.2.2) := by
  obtain ⟨_, _, _⟩ := p; cases h; cases g; rfl

theorem test_meets_step_runs_the_decoded_word :
    (let s := { State.reset.withFetchWord 32 0x80000000 with agenda := [.issue onlyGroup] };
      s.badPa = none ∧ s.powered = true ∧ mustCome s = none ∧ mustSettle s = none ∧ fencesDue s = none ∧ itsTurn { s with agenda := [] } onlyGroup = true) ∧
    (let s := State.reset.withFetchWord 32 0x80000000;
      s.badPa = none ∧ s.powered = true ∧ mustCome s = none ∧ mustSettle s = none ∧ fencesDue s = none ∧ s.agenda = [] ∧ stopNext s = none ∧
      halfDue s = none ∧ ((dueEvents s).findSome? (changed s)).isNone = true ∧ (roundLeft s).findSome? (nextPart s) = some onlyGroup) ∧
    (∃ b, fetchAt (placedWord 0x00048A0C) (curSkein (placedWord 0x00048A0C)) (curMode (placedWord 0x00048A0C)) 0x10000 =
      (.ok { page 0x10000 with leaf := 0x1000B }, 0x00048A0C, b)) ∧ decodeWords 0x00048A0C 0 = .ok (.iadd ⟨0, 0⟩ 18 10 3 0) ∧
    (∃ b c, fetchAt (placedWord 0x280210607F2C0000) (curSkein (placedWord 0x280210607F2C0000)) (curMode (placedWord 0x280210607F2C0000)) 0x10000 =
        (.ok { page 0x10000 with leaf := 0x1000B }, 0x7F2C0000, b) ∧ opByte 0x7F2C0000 = 0x7F ∧
      fetchAt b (curSkein b) (curMode b) (0x10000 + 4) = (.ok { page 0x10004 with leaf := 0x1000B }, 0x28021060, c)) ∧
    (∃ er, decodeWords 0x5E000000 0 = .error er) ∧ opByte 0x5E000000 ≠ 0x7F ∧
    (let s := { placedWord 0 with tlb := [{ fetchTlb with leaf := 0x10013 }] };
      ∃ b w, fetchAt s (curSkein s) (curMode s) 0x10000 = (.bad .prot 0x10013, w, b)) := by
  refine ⟨?_, ?_, ⟨_, fetch_of ?_ ?_⟩, rfl, ⟨_, _, fetch_of ?_ ?_, ?_, fetch_of ?_ ?_⟩, ⟨_, rfl⟩, ?_, ⟨_, _, fetch_of ?_ rfl⟩⟩ <;> decide +kernel

theorem test_meets_decoding_and_encoding_agree :
    ((Instr.iadd ⟨7, 1⟩ 63 63 63 3).wf = true ∧ encode (.iadd ⟨7, 1⟩ 63 63 63 3) = [0x00FFFFFF]) ∧
    ((Instr.xw 1 3 0 0 0 0 0x28021060).wf = true ∧ encode (.xw 1 3 0 0 0 0 0x28021060) = [0x7F2C0000, 0x28021060]) ∧
    decodeWords 0x00FFFFFF 0 = .ok (.iadd ⟨7, 1⟩ 63 63 63 3) := by
  refine ⟨?_, ?_, rfl⟩ <;> decide +kernel

theorem test_meets_traps_enter_their_handlers :
    ((getStrand (work .hypervisor [] []) 0).mode = .hypervisor ∧ (∃ m ∈ grp (work .user [] []), (curStrand (work .user [] []) m).mode = .user)) ∧
    (∀ s ∈ [work .user [] [], handling .supervisor 1 0, handling .supervisor 2 0], (grp s).Nodup ∧ Tbl.wf Strand.reset s.strands = true ∧
      (∀ n ∈ grp s, (curStrand s n).mode ≠ .hypervisor) ∧ ∃ n ∈ grp s, (curStrand s n).mode ≠ .hypervisor) := by
  refine ⟨⟨?_, ?_⟩, ?_⟩ <;> decide +kernel

/-- A state whose tables are canonical, in which V0 is 5 and V1 is 9. -/
def summing : State := work .user [5, 9] []

theorem test_meets_words_leave_the_rest_unchanged :
    (exec (.iadd ⟨0, 0⟩ 2 0 1 0) summing = .next (laneResult summing ⟨0, 0⟩ 4 (fun t j => wr [(2, t.v 0 j + t.v 1 j)])) ∧
      Tbl.wf Strand.reset summing.strands = true ∧ (grp summing).Nodup ∧
      Tbl.wf 0 (curStrand summing 0).user = true ∧ Tbl.wf 0 (curStrand summing 0).sup = true) ∧
    (exec (.uaddi 31 0 1) summing = .next (uniResult summing 31 1) ∧ Tbl.wf Skein.reset summing.skeins = true ∧ Tbl.wf 0 (curSkein summing).w = true) ∧
    (let s := flying .resident [.gatherStack storing];
      s.flight[0]? = some (.gatherStack storing) ∧ s.orders = [] ∧ memOk s = true ∧ (∀ l ∈ storing.lanes, inCtl (l.pa + l.done) = false ∧ isField s (l.pa + l.done) = false) ∧
      (nextOf (exec (.gatherPacketAtStack 0) s)).isSome = true ∧ storing.lanes = [laneWord 0x10100] ∧ storing.write = true ∧ laneMay s 0 storing (laneWord 0x10100) = true ∧
      (laneWord 0x10100).data.length = (laneWord 0x10100).size ∧ (laneWord 0x10100).done < (laneWord 0x10100).size ∧ populated s 0x10100 = true ∧
      populated s (0x10100 + min 8 4 - 1) = true) ∧
    (let s := flying .resident [.atomic adding];
      s.flight[0]? = some (.atomic adding) ∧ s.orders = [] ∧ memOk s = true ∧ isField s adding.pa = false ∧ (nextOf (exec (.atomicAtHome 0) s)).isSome = true) := by
  refine ⟨⟨rfl, ?_, ?_, ?_, ?_⟩, ⟨rfl, ?_, ?_⟩, ?_, ?_⟩ <;> decide +kernel

/-! ## More clauses of the statements that can be met -/

/-- The word of `tabled` with the count `c` in its table and the index `x` in V0. -/
def tabledBy (c x : Word) : State := ([0x93000002, 0, c, 8, 4, 6].zipIdx).foldl (fun s (e : Word × Nat) =>
  putBytes s (0x10000 + 4 * e.2) (natToBytes e.1.toNat 4)) (work .user [x] [])

/-- The same with no room left on the mask stack. -/
def tabledFull : State := strandBy (tabledBy 2 1) (fun t => { t with masks := List.replicate 28 0xF })

/-- The address of its table. -/
def tableAt (s : State) : Nat := (curPc s + 4 * (2 : BitVec 18).signExtend 64).toNat
/-- The lanes whose index is the count 2 or more. -/
def beyondTwo (s : State) : BitVec 4 := laneMask (fun j => (curStrand s 0).liveLanes.getLsbD j && decide (2 ≤ ((curStrand s 0).v 0 j).toNat))

theorem test_meets_table_jump_traps :
    (uniFree (tabledBy 0 0) .user [] [] ∧ (fetched [tableAt (tabledBy 0 0)] (tabledBy 0 0)).map Prod.fst = some [0]) ∧
    (uniFree (tabledBy 65536 0) .user [] [] ∧ (fetched [tableAt (tabledBy 65536 0)] (tabledBy 65536 0)).map Prod.fst = some [65536]) ∧
    (uniFree (tabledBy 2 2) .user [] [] ∧ (fetched [tableAt (tabledBy 2 2)] (tabledBy 2 2)).map Prod.fst = some [2] ∧ beyondTwo (tabledBy 2 2) ≠ 0) ∧
    (uniFree tabledFull .user [] [] ∧ (fetched [tableAt tabledFull] tabledFull).map Prod.fst = some [2] ∧ beyondTwo tabledFull = 0 ∧
      (curStrand tabledFull 0).roomForCase false = false ∧ (curStrand tabledFull 0).roomForCase true = false) ∧
    (∀ s ∈ [tabledBy 0 0, tabledBy 65536 0, tabledBy 2 2, tabledFull], grp s = [0] ∧ (curStrand s 0).liveLanes ≠ 0 ∧
      (curStrand s 0).allowed (curSkein s).nreg [0] = true ∧ (curStrand s 0).awaits [0] (curStrand s 0).liveLanes = false ∧
      (curStrand s 0).lostLanes [0] (curStrand s 0).liveLanes = 0) := by
  refine ⟨⟨?_, ?_⟩, ⟨?_, ?_⟩, ⟨?_, ?_, ?_⟩, ⟨?_, ?_, ?_, ?_, ?_⟩, ?_⟩ <;> (try unfold uniFree) <;> decide +kernel

theorem test_meets_table_jump_again : ∀ q ∈ [false, true],
    let t := { curStrand tabled 0 with masks := [0x4F], calls := [if q then 0x6000000000010000 else 0x4000000000010000] }
    t.continues q = true ∧ t.caseOf 0 = some 1 := by decide +kernel

/-- A FENCE of the strand, at GPU scope, of both kinds. -/
def fencing : Fence := { core := 0, sid := 0, ply := 0, strands := [0], acq := true, rel := true, wide := true, all := true, cp := false, xf := false, tag := 0 }

theorem test_meets_fence_in_flight :
    (let s := flying .resident [.gatherStack storing]
      let f : Fence := { fencing with wide := false, tag := 1 };
      ∀ e ∈ (Item.gatherStack storing).pending, f.earlier e = true ∧ watched s e.2.pa e.2.size = false ∧ storing.write = true) ∧
    (let r := { adding with lanes := adding.lanes.map (fun l => { l with org := { asking with tag := 1 } }) }
      let u := flying .resident [.fence fencing, .atomic r];
      u.flight[0]? = some (.fence fencing) ∧ u.flight[1]? = some (.atomic r) ∧ ∃ e ∈ (Item.atomic r).pending, fencing.holds true e = true) ∧
    (let p := { storing with org := { asking with tag := 1 } }
      let u := flying .resident [.fence fencing, .gatherStack p];
      u.flight[1]? = some (.gatherStack p) ∧ p.lanes ≠ [] ∧ (p.lanes.map (fun l => l.lane)).Nodup ∧ (runTogether u p).isNone = true ∧
      ∀ l ∈ p.lanes, l.finished = false ∧ ∃ e ∈ ({ p with lanes := [l] } : Packet).accesses, fencing.holds p.write e = true) := by
  refine ⟨?_, ?_, ?_⟩ <;> decide +kernel

theorem test_meets_barrier_completion :
    (let sk := skeinBy barred (fun k => { k with plies := 16, strands := 8 }); (getSkein sk 0).plies ≤ 16 ∧ (getSkein sk 0).strands ≤ 8 ∧
      15 < (getSkein sk 0).plies ∧ 7 < (getSkein sk 0).strands) ∧
    (needOf barred 0 { Barrier.reset with expected := 2, who := [1] } ≤ 2 ∧ needOf barred 0 { Barrier.reset with expected := 0 } = 1) := by
  refine ⟨?_, ?_⟩ <;> decide +kernel

theorem test_meets_barrier_refused :
    (uniFree (work .user [] []) .user [] [] ∧ 1 ≤ (1 : BitVec 3).toNat ∧
      (findLaunch (work .user [] []) (curSkein (work .user [] [])).launch).all (fun la => !la.cores) = true) ∧
    (let s := { together with launches := together.launches.map (fun l => { l with handle := 0 }) };
      uniFree s .user [] [] ∧ (findLaunch s (curSkein s).launch).all (fun la => !la.cores || la.handle == 0) = true) ∧
    (let s := strandBy together (fun t => { t with wait := .sbar 1 (sbarPlace (curSkein together) 1) });
      uniFree s .user [] [] ∧ ∀ n ∈ grp s, (curStrand s n).wait = .sbar 1 (sbarPlace (curSkein s) 1)) ∧
    sbarOpen (joinSbar together 0 2 (sbarPlace (curSkein together) 2)) 0 2 (sbarPlace (curSkein together) 2) = false := by
  refine ⟨?_, ?_, ?_, ?_⟩ <;> (try unfold uniFree) <;> decide +kernel

theorem test_meets_shrink_refused :
    let s := strandBy (work .user [] [56]) (fun t => { t with vwb := 8, live := false })
    uniFree s .user [1] [] ∧ 56 % 8 = 0 ∧ 56 + 8 ≤ (curSkein s).nreg ∧ ∃ p < (curSkein s).plies, ∃ m < (curSkein s).strands,
      (curSkein s).nreg - 56 ≤ (getStrand s (strandKey s.cur.sid p m)).vwb := by
  unfold uniFree; decide +kernel

theorem test_meets_fence_free :
    (∀ f : Fence → Bool, f fencing = false → heldByFence fieldUse f fieldUse.cur.sid fieldUse.cur.ply fieldUse.seq (grp fieldUse) = false) ∧
    cpHolds fieldUse false false = false ∧ cpHolds collUse true false = false := by
  refine ⟨fun f _ => rfl, ?_, ?_⟩ <;> decide +kernel

/-- A state of the token witnesses with a hand-off of their region under way. -/
def handingOff (m : Mode) : State := { tokenUse m [] with flight := [handing .retn] }

theorem test_meets_token_refused :
    (holderWord (work .user [] [0x100C, 0]) (curSkein (work .user [] [0x100C, 0])) (wReg (work .user [] [0x100C, 0]) 2) = none ∨
      (regionOf (tokenUse .user [region [ctxHeld] [] true]) 0 0 0x1000).lost = true) ∧
    (regionOf (tokenUse .user [{ region [ctxHeld] [] false with k := 11 }]) 0 0 0x1000).k < 12 ∧
    (let s := tokenUse .user [region [{ ctxHeld with ctx := 1 }] [] false];
      matchesHolder s (skeinAsker s 0) 0 (regionOf s 0 0 0x1000).holder = false) ∧
    (let s := { tokenUse .user [] with parts := [(0, fetchPart)] };
      tokenRoom s 0 ((regionOf s 0 0 0x1000).k - 12 + 1) = false) ∧
    (∀ m ∈ [Mode.user, .hypervisor], handOff (handingOff m) 0 0 0x1000 (2 ^ 12) = true) ∧
    (uniFree (handingOff .user) .user [1, 2] [] ∧ uniFree (handingOff .hypervisor) .hypervisor [1] []) ∧
    (wholeRegion (tokenUse .user []) 0 0 0x1000 12).isNone = true ∧
    (let r := region [{ ctxHeld with ctx := 1 }] [] false
      let s := tokenUse .user [r];
      wholeRegion s 0 0 0x1000 12 = some r ∧ r.lost = false ∧ shareOf s (skeinAsker s 0) r = none ∧ matchesHolder s (skeinAsker s 0) 0 r.holder = false ∧
        matchesHolder s (skeinAsker s 0) 0 ((r.chain[r.depth - 1]?).getD r.holder) = false ∧ r.depth = 0 ∧ r.shares = 0) := by
  refine ⟨?_, ?_, ?_, ?_, ?_, ⟨?_, ?_⟩, ?_, ?_⟩ <;> (try unfold uniFree) <;> decide +kernel

/-- The hand-offs that SPLIT, MEND and TQRY wait for. -/
theorem test_meets_token_table_waits :
    (let s := { work .user [] [40] with flight := [handing .retn] };
      uniFree s .user [1] [] ∧ regionWord (wReg s 1) = some (0, 40) ∧ handOff s 0 0 0 (2 ^ 40) = true) ∧
    (let s := { buddies with flight := [.tokenOp .retn 0 0 0x3000 12 0 0 [0] 1] };
      uniFree s .user [1] [] ∧ handOff s 0 0 0x2000 (2 * 2 ^ 12) = true) ∧
    (let s := { work .user [] [0x1FFF] with flight := [handing .retn] };
      uniFree s .user [1] [30, 31] ∧ (wReg s 1).toNat < 2 ^ 57 ∧ handOff s 0 0 0x1FFF 1 = true) := by
  unfold uniFree; decide +kernel

theorem test_meets_launch_waits :
    (let s := { launchUse 0x10040 0 .resident with flight := [.tokenOp .retn 0 0 0x10000 12 0 0 [0] 1], grants := [] };
      uniFree s .supervisor [1, 2] [31] ∧ (match judgeMessage s 0 0x10040 0 0 0 with
        | .held => true
        | _ => false) = true) := by
  unfold uniFree; decide +kernel

/-- The origin of the message's store. -/
def plainOf (t : State) : Origin := { core := curCore t, die := dieOf (curCore t), sid := t.cur.sid, ply := t.cur.ply, tag := 0, ctx := (curSkein t).ctx, pc := curPc t, acq := false, rel := false }

theorem test_meets_message_gated :
    let s := { stored (queueUse 0x11000 0x100000000 32 1) 0x12000 [0x501] with orders := [{ logEntry 0x11018 with play := true }] }
    let t := keptXl s [page 0x11000]
    uniFree s .supervisor [1, 2] [31] ∧ pickQueue (getPart s 0) 0x100000000 = some (32, (1, 2, 3, 4)) ∧ mustWait t (page 0x11000) 32 = false ∧
      (homeWrite (leaveL1 t (curCore t) 0x11000) (laneAgent (plainOf t) (4 * (grp t).headD 0)) 0x11000 (clean (msgBytes (1, 2, 3, 4)))).isNone = true := by
  unfold uniFree; decide +kernel

theorem test_meets_lanes_together :
    (∀ i ∈ [Item.gatherHome storing, .gatherStack storing], (runTogether (flying .resident [i]) storing).isNone = true) ∧
    (let ls := [{ laneWord 0x10100 with kind := .sequential }, { laneWord 0x10100 with kind := .sequential, lane := 1 }]
      let p := { storing with lanes := ls };
      ∀ i ∈ [Item.gatherHome p, .gatherStack p], (runTogether (flying .resident [i]) p).isSome = true) ∧
    (let s := flying .resident [.atomic adding, .atomic adding]; meets s 0 0 adding = true ∧ meets s 0 1 adding = true) ∧
    (let s := strandBy (work .user [] []) (fun t => { t with replies := [⟨0, false, 0, 1, 1, false⟩] }); s.flight.length ≤ 0 ∧ ((orphans s)[0 - s.flight.length]?).isSome = true) := by
  refine ⟨?_, ?_, ?_, ?_⟩ <;> decide +kernel

theorem test_meets_core_failure_and_lost_cell :
    (0 ∈ residentOn (tokenUse .user [region [ctxHeld, skeinHolder] [(skeinHolder, 1)] false]) 0 ∧
      (region [ctxHeld, skeinHolder] [(skeinHolder, 1)] false).chain.getLast? =
        some { package := here (work .user [] []), ctx := (getSkein (work .user [] []) 0).ctx, agent := skeinAgent (getSkein (work .user [] []) 0) }) ∧
    ({ fourCells with lostBlocks := [3] }.lostCell moving1.fromCell || { fourCells with lostBlocks := [3] }.lostCell moving1.toCell) = true := by
  refine ⟨⟨?_, ?_⟩, ?_⟩ <;> decide +kernel

/-- The state of the domain messages: slot 0 in stage `g`, declared by `q`. -/
def messaging (g : DomStage) (q : Nat) : State := { flying .resident [] with domains := [{ fourCells with stage := g, declarer := q, awaiting := [7] }] }

theorem test_meets_domain_message :
    (∀ g ∈ [DomStage.agreed, .declared, .draining, .asking], ∀ q ∈ [0, 7], messageDomain (messaging g q) 0 0 =
      some { fourCells with stage := g, declarer := q, awaiting := [7] }) ∧
    (messageDomain (messaging .agreed 7) 0 1 = none ∧ DomStage.asking.part = 0 ∧ here (messaging .declared 0) = 0) ∧
    ((findDomain (messaging .agreed 7) fourCells.key).any (fun z => z.declarer == 7 && z.handle == dw 0x10000) = true) ∧
    (findDomain (flying .resident []) (copied (flying .resident [])).key = none ∧ pageBreaks (flying .resident []) (copied (flying .resident [])) = true ∧
      findDomain (mapped (work .user [] [])) (copied (mapped (work .user [] []))).key = none ∧
      pageBreaks (mapped (work .user [] [])) (copied (mapped (work .user [] []))) = false) := by
  refine ⟨?_, ?_, ?_, ?_⟩ <;> decide +kernel

/-- A COPYP of 64 bytes to this package's own window, sent, and its state before and after its packet is performed. -/
def ownCopy : Copy := { copyOf 64 .copyp 5 0 with dst := 0x4000000000010000, state := .sent }

theorem test_meets_chunk_acknowledged :
    (let s := { copyState ownCopy with package := 0 };
      s.copies[0]? = some ownCopy ∧ chunkAcked s ownCopy = false ∧ fieldOf ownCopy.dst.toNat 39 21 = s.package.toNat ∧
      chunkAcked (markApplied s 0 0 (copyTag ownCopy 0)) ownCopy = true ∧ ownCopy.progress + ownCopy.chunk = ownCopy.total) ∧
    ((copyOf 0 .copyp 5 0).kind = .copyp ∧ (copyOf 0 .copyp 5 0).total = 0) := by
  refine ⟨?_, ?_⟩ <;> decide +kernel

theorem test_meets_ingress_refused :
    (∀ h ∈ [false, true], let s := { work .user [] [] with domains := [fourCells], parts := [(0, { fetchPart with halted := h })] };
      partOfSpid s readCell.spid = some 0 ∧ closed s (getPart s 0) = h ∧ (h = false → domainAt s readCell.spid 0 = some fourCells)) ∧
    ((held1 (.put putOne)).ready (work .user [] []) = false ∧ { held1 (.put putOne) with spots := [(0x10000, 0x10000, 1, false)] }.ready (work .user [] []) = true) := by
  refine ⟨?_, ?_⟩ <;> decide +kernel

theorem test_meets_longest_pending :
    (longestPending slotless 0 = some (1, 0) ∧ readyPending slotless 0 ≠ [] ∧
      (pliesOf slotless 0 true).reverse.find? (fun e => !(keepsSlot slotless e)) = some (0, 7)) ∧
    (let s := skeinBy (work .user [] []) (fun k => { k with active := [] }); longestPending s 0 = some (0, 0) ∧ activePlies s 0 < 8) ∧
    (coreStopped (saving []) 0 = false ∧
      coreStopped { saving [] with parts := [(0, { fetchPart with halted := true, stopWritten := [0] })] } (getSkein (saving []) 0).core = true) ∧
    (let s := strandBy (work .user [] []) (fun t => { t with dead := 1, newDead := 1 }); (getStrand s 0).wait.begun = false) := by
  refine ⟨?_, ?_, ?_, ?_⟩ <;> decide +kernel

theorem test_meets_window_hold :
    (heldOf windowed (.host 0 0x1FFFC [1, 2, 3, 4]) = none) ∧
    (let h : Held := { body := .host 0 0xFFFC [1, 2], part := 0, ctx := 0, src := 0, spots := [(0x1FFFC, 0x1FFFC, 2, false)] }
      let s := { windowed with heldPkts := [h] };
      heldOf s (.host 0 0xFFFC [1, 2]) = some h ∧ h.ready s = true ∧ closed s (getPart s 0) = false ∧
        heldOf { s with parts := [(0, { fetchPart with halted := true })] } (.host 0 0xFFFC [1, 2]) = some h ∧
        closed { s with parts := [(0, { fetchPart with halted := true })] } { fetchPart with halted := true } = true) := by
  refine ⟨?_, ?_⟩ <;> decide +kernel

theorem test_meets_frame_across_lanes : exec (.shfli ⟨0, 0⟩ 2 0 1) summing = .next (acrossResult summing ⟨0, 0⟩ (fun l => wr [(2,
    if 0 ≤ (l : Int) + (1 : BitVec 8).toInt ∧ (l : Int) + (1 : BitVec 8).toInt < 32 then supplied summing 0 ((l : Int) + (1 : BitVec 8).toInt).toNat
    else 0)])) := by
  unfold exec execShfli cross; rfl

theorem test_meets_frame_of_group : exec (.vwbs 1) (work .user [] [8]) = .next (groupResult (work .user [] [8]) (fun t => { t with vwb := 8 })) := rfl

theorem test_meets_half_stored :
    let l : LaneAcc := { laneWord 0x10100 with size := 16, data := clean (List.replicate 16 7) }
    let p := packetOf true l
    ∀ up ∈ [false, true], let s := { flying .resident [.gatherStack p] with upper := up }
      orderedRun s p = [] ∧ upperNow s l = up ∧ laneMay s 0 p l = true ∧ l.data.length = l.size ∧ l.done < l.size ∧
      (∀ q ∈ s.flight.filterMap (fun i => i.packet.filter (fun q => q.org == p.org)), q.write = p.write ∧
        ∀ l ∈ q.lanes, ∀ o ∈ [0, 8], inCtl (l.pa + o) = false ∧ isField s (l.pa + o) = false) := by
  decide +kernel

/-! ## The spec's own encoded examples (18 to 22) -/

theorem test_examples_of_integer_words :
    decodeWords 0x00028B30 0 = .ok (.iadd ⟨0, 0⟩ 10 11 12 0) ∧
    decodeWords 0x0101C701 0 = .ok (.iaddi ⟨0, 0⟩ 7 7 1) ∧ decodeWords 0x7F021400 0x07020928 = .ok (.xw 0 0 1 0 20 0 0x07020928) ∧
    decodeWords 0x0A00C414 0 = .ok (.imaxs ⟨0, 0⟩ 3 4 5 0) ∧ decodeWords 0x0F008310 0 = .ok (.andn ⟨0, 0⟩ 2 3 4 0) ∧
    decodeWords 0x120082FF 0 = .ok (.xori ⟨0, 0⟩ 2 2 0xFF) ∧ decodeWords 0x1801871F 0 = .ok (.sari ⟨0, 0⟩ 6 7 31) ∧
    decodeWords 0x19020928 0 = .ok (.bfx ⟨0, 0⟩ 8 9 10 0) ∧ decodeWords 0x1C004200 0 = .ok (.clz ⟨0, 0⟩ 1 2 0) ∧
    decodeWords 0x1F0B4824 0 = .ok (.icmpu ⟨0, 0⟩ 5 5 8 9 0) ∧ decodeWords 0x200283FF 0 = .ok (.icmpsi ⟨0, 0⟩ 1 2 3 0xFF) ∧
    decodeWords 0x26065400 0 = .ok (.plog ⟨0, 0⟩ 3 1 2 8) ∧ decodeWords 0x27024000 0 = .ok (.pmovPack ⟨0, 0⟩ 9) ∧
    decodeWords 0x27000904 0 = .ok (.pmovUnpack ⟨0, 0⟩ 9 0) ∧ decodeWords 0x2101051A 0 = .ok (.sel ⟨0, 0⟩ 4 5 6 2) ∧
    decodeWords 0x2300C000 0 = .ok (.movi ⟨0, 0⟩ 3 0) ∧ decodeWords 0x2400DFF0 0 = .ok (.movhi ⟨0, 0⟩ 3 0x1FF0) ∧
    decodeWords 0x25008017 0 = .ok (.srd ⟨0, 0⟩ 2 0x017) ∧ decodeWords 0x3C010523 0 = .ok (.cvt ⟨0, 0⟩ 4 5 2 3) ∧
    decodeWords 0x7F004000 0x3C018720 = .ok (.xw 0 0 0 1 0 0 0x3C018720) ∧ decodeWords 0x3D010510 0 = .ok (.f2fx ⟨0, 0⟩ 4 5 0 0 16) ∧
    decodeWords 0x3E020AE8 0 = .ok (.fx2f ⟨0, 0⟩ 8 10 1 1 40) ∧ decodeWords 0x3F030D38 0 = .ok (.idp4s ⟨0, 0⟩ 12 13 14 0) ∧
    decodeWords 0x7F240040 0x00021060 = .ok (.xw 1 1 0 0 0 1 0x00021060) :=
  ⟨rfl, rfl, rfl, rfl, rfl, rfl, rfl, rfl, rfl, rfl, rfl, rfl, rfl, rfl, rfl, rfl, rfl, rfl, rfl, rfl, rfl, rfl, rfl, rfl⟩

theorem test_examples_of_float_and_exchange_words :
    decodeWords 0x28020C40 0 = .ok (.faddF32 ⟨0, 0⟩ 8 12 16 0) ∧ decodeWords 0x7F001400 0x2A020C40 = .ok (.xw 0 0 0 0 20 0 0x2A020C40) ∧
    decodeWords 0x2B00420C 0 = .ok (.fminF32 ⟨0, 0⟩ 1 2 3 0) ∧ decodeWords 0x2D03C414 0 = .ok (.fcmpF32 ⟨0, 0⟩ 1 7 4 5 0) ∧
    decodeWords 0x2F018700 0 = .ok (.frsqF32 ⟨0, 0⟩ 6 7 0) ∧ decodeWords 0x30004200 0 = .ok (.fex2F32 ⟨0, 0⟩ 1 2 0) ∧
    decodeWords 0x33008310 0 = .ok (.fmulBf16x2 ⟨0, 0⟩ 2 3 4 0) ∧ decodeWords 0x3A028C38 0 = .ok (.ffmaF64 ⟨0, 0⟩ 10 12 14) ∧
    decodeWords 0x3B050414 0 = .ok (.tsumF32 ⟨0, 0⟩ 20 4 5 0) ∧ decodeWords 0x41010501 0 = .ok (.tdec ⟨0, 0⟩ 4 5 0 0 1) ∧
    decodeWords 0x420187C2 0 = .ok (.tenc ⟨0, 0⟩ 6 7 1 1 2) ∧ decodeWords 0x430508A0 0 = .ok (.tblo ⟨0, 0⟩ 20 8 40 0) ∧
    decodeWords 0x440508A0 0 = .ok (.tbhi ⟨0, 0⟩ 20 8 40 0) ∧ decodeWords 0x45024A2C 0 = .ok (.bsel ⟨0, 0⟩ 9 10 11 0) ∧
    decodeWords 0x4601461C 0 = .ok (.shfl ⟨0, 0⟩ 5 6 7 0) ∧ decodeWords 0x470146FC 0 = .ok (.shfli ⟨0, 0⟩ 5 6 0xFC) ∧
    decodeWords 0x4800C200 0 = .ok (.vote ⟨0, 0⟩ 3 2 0) ∧ decodeWords 0x4800C202 0 = .ok (.vote ⟨0, 0⟩ 3 2 2) ∧
    decodeWords 0x49020901 0 = .ok (.lred ⟨0, 0⟩ 8 9 1) ∧ decodeWords 0x4A020910 0 = .ok (.lscan ⟨0, 0⟩ 8 9 1 0) ∧
    decodeWords 0x4B030D38 0 = .ok (.lprev ⟨0, 0⟩ 12 13 14 0) ∧ decodeWords 0x4C010500 0 = .ok (.rdi ⟨0, 0⟩ 4 5 0) ∧
    decodeWords 0x4D000518 0 = .ok (.wri ⟨0, 0⟩ 5 6 0) :=
  ⟨rfl, rfl, rfl, rfl, rfl, rfl, rfl, rfl, rfl, rfl, rfl, rfl, rfl, rfl, rfl, rfl, rfl, rfl, rfl, rfl, rfl, rfl, rfl⟩

theorem test_examples_of_memory_words :
    decodeWords 0x4E020240 0 = .ok (.ldl ⟨0, 0⟩ 8 2 4 0) ∧ decodeWords 0x5001C240 0 = .ok (.stl ⟨0, 0⟩ 7 2 4 0) ∧
    decodeWords 0x4F040356 0 = .ok (.ldlfe ⟨0, 0⟩ 16 3 5 1 2) ∧ decodeWords 0x51020241 0 = .ok (.stlfe ⟨0, 0⟩ 8 2 4 1) ∧
    decodeWords 0x52024160 0 = .ok (.atoml ⟨0, 0⟩ 9 1 6 0) ∧ decodeWords 0x53018320 0 = .ok (.ldg ⟨0, 0⟩ 6 3 2 0 0) ∧
    decodeWords 0x5501C248 0 = .ok (.stg ⟨0, 0⟩ 7 2 4 2 0) ∧ decodeWords 0x54014231 0 = .ok (.ldgc ⟨0, 0⟩ 5 2 3 0 1) ∧
    decodeWords 0x56028240 0 = .ok (.atomga ⟨0, 0⟩ 10 2 4 0 0) ∧ decodeWords 0x57030243 0 = .ok (.atomgb ⟨0, 0⟩ 12 2 4 0 3) ∧
    decodeWords 0x58038353 0 = .ok (.atomg64 ⟨0, 0⟩ 14 3 5 0 3) ∧ decodeWords 0x5901C241 0 = .ok (.redg ⟨0, 0⟩ 7 2 4 0 1) ∧
    decodeWords 0x5A008419 0 = .ok (.xfer ⟨0, 0⟩ 2 4 6 1) ∧ decodeWords 0x5B020400 0 = .ok (.fld ⟨0, 0⟩ 8 4 0) ∧
    decodeWords 0x5C018211 0 = .ok (.coll ⟨0, 0⟩ 6 2 4 1) ∧ decodeWords 0x5D000003 0 = .ok (.sysc ⟨0, 0⟩ 3) ∧
    decodeWords 0xA0740000 0 = .ok (.fence 3 2 1 0) ∧ decodeWords 0xA0B80000 0 = .ok (.fence 5 3 0 0) ∧
    decodeWords 0xA1410002 0 = .ok (.uld 8 4 2) ∧ decodeWords 0xA2490001 0 = .ok (.ust 9 4 1) ∧
    decodeWords 0xB5014000 0 = .ok (.fdom 5) ∧ decodeWords 0xB6214001 0 = .ok (.ftot 4 5 1) ∧
    decodeWords 0xB731C000 0 = .ok (.fdecl 6 7) ∧ decodeWords 0xB731C001 0 = .ok (.fdeclRetire 6 7) :=
  ⟨rfl, rfl, rfl, rfl, rfl, rfl, rfl, rfl, rfl, rfl, rfl, rfl, rfl, rfl, rfl, rfl, rfl, rfl, rfl, rfl, rfl, rfl, rfl, rfl⟩

theorem test_examples_of_control_words :
    decodeWords 0x81190A00 0 = .ok (.uadd 3 4 5) ∧ decodeWords 0x8831C00C 0 = .ok (.ushl 6 7 12) ∧ decodeWords 0x8B088601 0 = .ok (.umin 1 2 3 1) ∧
    decodeWords 0x8210BFFF 0 = .ok (.uaddi 2 2 0x3FFF) ∧ decodeWords 0x8D203FFB 0 = .ok (.umovi 4 0x3FFB) ∧
    decodeWords 0x8E239234 0 = .ok (.umovhi 4 14 0x1234) ∧ decodeWords 0x90700006 0 = .ok (.br 3 2 6) ∧ decodeWords 0x94000028 0 = .ok (.call 0 0 40) ∧
    decodeWords 0x91280005 0 = .ok (.brs 1 0 5) ∧ decodeWords 0x91380005 0 = .ok (.brs 1 1 5) ∧ decodeWords 0x92000000 0 = .ok .join ∧
    decodeWords 0x97180FFC 0 = .ok (.ubr 3 0 1 0x7FC) ∧ decodeWords 0x93140008 0 = .ok (.brt 5 8) ∧ decodeWords 0x961BFFEC 0 = .ok (.callt 6 0x3FFEC) ∧
    decodeWords 0x95000000 0 = .ok .ret ∧ decodeWords 0x98000000 0 = .ok .twist ∧ decodeWords 0x99000000 0 = .ok .exit ∧
    decodeWords 0x9B000000 0 = .ok .yield ∧ decodeWords 0x9AFF0E00 0 = .ok (.wait 15 15 0 7 0) ∧ decodeWords 0x9C101000 0 = .ok (.bar 1 4) ∧
    decodeWords 0x9D201000 0 = .ok (.bara 2 4) ∧ decodeWords 0x9E100000 0 = .ok (.barw 1) ∧ decodeWords 0x9F600000 0 = .ok (.sbar 3) ∧
    decodeWords 0x9F200000 0 = .ok (.sbar 1) ∧ decodeWords 0xA301C002 0 = .ok (.uown 7 2) ∧ decodeWords 0xA420000E 0 = .ok (.srdu 4 0x00E) ∧
    decodeWords 0xA5018104 0 = .ok (.swr 6 0x104) ∧ decodeWords 0xA6014000 0 = .ok (.rgrow 5) ∧ decodeWords 0xA7194000 0 = .ok (.rgtry 3 5) ∧
    decodeWords 0xA8014000 0 = .ok (.rshrk 5) ∧ decodeWords 0xA9024000 0 = .ok (.vwbs 9) :=
  ⟨rfl, rfl, rfl, rfl, rfl, rfl, rfl, rfl, rfl, rfl, rfl, rfl, rfl, rfl, rfl, rfl, rfl, rfl, rfl, rfl, rfl, rfl, rfl, rfl, rfl, rfl, rfl,
    rfl, rfl, rfl, rfl⟩

theorem test_examples_of_engine_words :
    decodeWords 0xAA214C43 0 = .ok (.copy 4 5 6 0 1 3) ∧ decodeWords 0xAB214C00 0 = .ok (.copy2d 4 5 6 0 0 0) ∧
    decodeWords 0xAC214C80 0 = .ok (.copyp 4 5 6 1 0 0) ∧ decodeWords 0xAD4A8000 0 = .ok (.trig 9 10) ∧ decodeWords 0xAD4A8001 0 = .ok (.trigCancel 9 10) ∧
    decodeWords 0xAE01C005 0 = .ok (.cntrAdd 7 5) ∧ decodeWords 0xAE01C045 0 = .ok (.cntrSet 7 5) ∧ decodeWords 0xAE400085 0 = .ok (.cntrRead 8 5) ∧
    decodeWords 0xAF014000 0 = .ok (.collh 5) ∧ decodeWords 0xAF380001 0 = .ok (.collhAbort 7) ∧ decodeWords 0xAF214C2E 0 = .ok (.collhTree 4 5 6 5 1) ∧
    decodeWords 0xB0214000 0 = .ok (.lend 4 5) ∧ decodeWords 0xB0214001 0 = .ok (.lendShare 4 5) ∧ decodeWords 0xB1200000 0 = .ok (.retn 4) ∧
    decodeWords 0xB1200001 0 = .ok (.retnRecall 4) ∧ decodeWords 0xB1200002 0 = .ok (.retnReclaim 4) ∧ decodeWords 0xB2200000 0 = .ok (.split 4) ∧
    decodeWords 0xB8180FE7 0 = .ok (.tcfg 3 1 63 7) ∧ decodeWords 0xB9020000 0 = .ok (.tld 0 8) ∧ decodeWords 0xBA020000 0 = .ok (.tst 0 8) ∧
    decodeWords 0xBB080000 0 = .ok (.macq 1) ∧ decodeWords 0xBC080000 0 = .ok (.mrel 1) ∧ decodeWords 0xBD100206 0 = .ok (.mma 2 0 1 6) ∧
    decodeWords 0xBE080406 0 = .ok (.mloop 1 0 1 6) ∧ decodeWords 0xBF0A4050 0 = .ok (.amov 1 9 1 16) ∧
    decodeWords 0xC00A961B 0 = .ok (.aqnt 1 10 11 1 1 1 1) ∧ decodeWords 0xC1080000 0 = .ok (.aclr 1) :=
  ⟨rfl, rfl, rfl, rfl, rfl, rfl, rfl, rfl, rfl, rfl, rfl, rfl, rfl, rfl, rfl, rfl, rfl, rfl, rfl, rfl, rfl, rfl, rfl, rfl, rfl, rfl, rfl⟩

theorem test_examples_of_system_words :
    decodeWords 0xC2000000 0 = .ok .phase ∧ decodeWords 0xC3400000 0 = .ok (.dgstRead 8) ∧ decodeWords 0xC3010A04 0 = .ok (.dgstFold 4 5) ∧
    decodeWords 0xC431C000 0 = .ok (.ordrOff 6 7) ∧ decodeWords 0xC431C001 0 = .ok (.ordrRec 6 7) ∧ decodeWords 0xC500_0000 0 = .ok .tret ∧
    decodeWords 0xC6000005 0 = .ok (.hcall 5) ∧ decodeWords 0xC7000000 0 = .ok .hret ∧ decodeWords 0xC8425400 0 = .ok (.lnch 8 9 10) ∧
    decodeWords 0xC9190A00 0 = .ok (.sksv 3 4 5) ∧ decodeWords 0xCA190A00 0 = .ok (.skrs 3 4 5) ∧ decodeWords 0xCB010A00 0 = .ok (.tlbi 4 5) ∧
    decodeWords 0xCB000A01 0 = .ok (.tlbiCtx 5) ∧ decodeWords 0xCB000002 0 = .ok .tlbiAll ∧ decodeWords 0xCC000007 0 = .ok (.brk 7) ∧
    decodeWords 0xCD000000 0 = .ok .halt ∧ decodeWords 0xCE010000 0 = .ok (.cflu 4) ∧ decodeWords 0xCE010001 0 = .ok (.cfluInv 4) ∧
    decodeWords 0xCE010002 0 = .ok (.cfluI 4) ∧ decodeWords 0xCF118E05 0 = .ok (.msgs 2 6 7 5) ∧ decodeWords 0xD0429600 0 = .ok (.msgr 8 10 11) ∧
    decodeWords 0xD0429601 0 = .ok (.msgrTry 8 10 11) :=
  ⟨rfl, rfl, rfl, rfl, rfl, rfl, rfl, rfl, rfl, rfl, rfl, rfl, rfl, rfl, rfl, rfl, rfl, rfl, rfl, rfl, rfl, rfl⟩

/-! ## The spec's worked results -/

/-- Register `r` of lane 0 and FSTAT after a lane-set word. -/
def gives (i : Instr) (s : State) (r : Nat) : Option (Word × BitVec 6) := (nextOf (exec i s)).map (fun t => ((curStrand t 0).v r 0, (curStrand t 0).fstat))

/-- The table after 18 R300, and the worked BFX of 18 R304. -/
theorem test_worked_integer_results :
    (gives (.imul ⟨0, 0⟩ 3 1 2 0) (work .user [0, 0xFFFFFFFE, 3] []) 3).map Prod.fst = some 0xFFFFFFFA ∧
    (gives (.imulhs ⟨0, 0⟩ 3 1 2 0) (work .user [0, 0xFFFFFFFE, 3] []) 3).map Prod.fst = some 0xFFFFFFFF ∧
    (gives (.imulhu ⟨0, 0⟩ 3 1 2 0) (work .user [0, 0xFFFFFFFE, 3] []) 3).map Prod.fst = some 2 ∧
    (gives (.iadds ⟨0, 0⟩ 3 1 2 0) (work .user [0, 0x7FFFFFFF, 3] []) 3).map Prod.fst = some 0x7FFFFFFF ∧
    (gives (.iadd ⟨0, 0⟩ 3 1 2 0) (work .user [0, 0x7FFFFFFF, 3] []) 3).map Prod.fst = some 0x80000002 ∧
    (gives (.bfx ⟨0, 0⟩ 8 0 1 0) (work .user [0xABCD1234, 0x0804] []) 8).map Prod.fst = some 0x23 := by
  refine ⟨?_, ?_, ?_, ?_, ?_, ?_⟩ <;> decide +kernel

/-- The table after 18 R313, with NX in bit `fNX` and NV in bit `fNV`. -/
theorem test_worked_conversions :
    gives (.cvt ⟨0, 0⟩ 1 0 2 0) (work .user [0x40200000] []) 1 = some (2, fNX) ∧
    gives (.xw 0 0 0 4 0 0 0x3C004020) (work .user [0x40200000] []) 1 = some (3, fNX) ∧
    gives (.cvt ⟨0, 0⟩ 1 0 2 0) (work .user [0x4F32D05E] []) 1 = some (0x7FFFFFFF, fNV) ∧
    gives (.cvt ⟨0, 0⟩ 1 0 2 3) (work .user [0x3F808000] []) 1 = some (0x3F80, fNX) ∧
    gives (.cvt ⟨0, 0⟩ 1 0 2 5) (work .user [0x40533333] []) 1 = some (0x5A, fNX) ∧
    gives (.cvt ⟨0, 0⟩ 1 0 6 2) (work .user [0x3F] []) 1 = some (0xC1800000, 0) ∧
    gives (.cvt ⟨0, 0⟩ 1 0 5 0) (work .user [0x80] []) 1 = some (0, fNV) := by
  refine ⟨?_, ?_, ?_, ?_, ?_, ?_, ?_⟩ <;> decide +kernel

/-- The tables after 19 R324 and R326, and the worked lookups and byte selection of R327 and R328. -/
theorem test_worked_float_and_byte_results :
    gives (.tsumF32 ⟨0, 0⟩ 2 0 1 0) (work .user [0x4B800000, 0x3F800000] []) 2 = some (0x4B800000, fNX) ∧
    (gives (.tsumF32 ⟨0, 0⟩ 2 0 1 0) (work .user [0x4B800000, 0x3F800000] []) 3).map Prod.fst = some 0x3F800000 ∧
    gives (.tsumF32 ⟨0, 0⟩ 2 0 1 0) (work .user [0x7F000000, 0x7F000000] []) 2 = some (0x7F800000, fOF ||| fNX) ∧
    gives (.tdec ⟨0, 0⟩ 1 0 0 0 1) (work .user [0x5A00] []) 1 = some (0x40500000, 0) ∧
    gives (.tdec ⟨0, 0⟩ 1 0 0 1 0) (work .user [0xC040] []) 1 = some (0xBF803F80, 0) ∧
    gives (.tenc ⟨0, 0⟩ 1 0 0 0 3) (work .user [0x40533333, 0x00112233] []) 1 = some (0x5A112233, fNX) ∧
    (gives (.tblo ⟨0, 0⟩ 5 0 1 0) (work .user [0x1234ABCD, 0x30201000, 0x70605040, 0xB0A09080, 0xF0E0D0C0] []) 5).map Prod.fst = some 0x2040B0D0 ∧
    (gives (.tbhi ⟨0, 0⟩ 5 0 1 0) (work .user [0x1234ABCD, 0x30201000, 0x70605040, 0xB0A09080, 0xF0E0D0C0] []) 5).map Prod.fst = some 0x1030A0C0 ∧
    (gives (.bsel ⟨0, 0⟩ 1 0 2 0) (work .user [0x44332211, 0x88776655, 0x80040100] []) 1).map Prod.fst = some 0x00552211 := by
  refine ⟨?_, ?_, ?_, ?_, ?_, ?_, ?_, ?_, ?_⟩ <;> decide +kernel

/-- Two strands of one ply, V1 = 10 + LANE, lane 3 dead and lane 5 inactive under P1, V9 = 99 in lane 7 (19 R332, R333). -/
def exchanging : State :=
  let s := work .user [] []
  let strand (n : Nat) : Strand := (List.range 4).foldl (fun t j => t.setV 1 j (BitVec.ofNat 32 (10 + 4 * n + j))) (getStrand s 0)
  { s with
    cur := { sid := 0, ply := 0, strands := [0, 1] }
    skeins := [(0, { curSkein s with strands := 2, parts := [(0, [[0, 1]])] })]
    strands := [(0, { strand 0 with preds := 0x03030303, dead := 8 }), (1, { (strand 1).setV 9 3 99 with preds := 0x03030103 })] }

/-- Register `r` in lanes 0 to 7 after a word. -/
def lanesGive (i : Instr) (r : Nat) : Option (List Word) :=
  (nextOf (exec i exchanging)).map (fun t => (List.range 8).map (fun l => (curStrand t (l / 4)).v r (l % 4)))

theorem test_worked_reductions :
    lanesGive (.lred ⟨1, 0⟩ 3 1 0) 3 = some [80, 80, 80, 0, 80, 0, 80, 80] ∧
    lanesGive (.lscan ⟨1, 0⟩ 3 1 0 0) 3 = some [10, 21, 33, 0, 47, 0, 63, 80] ∧
    lanesGive (.lscan ⟨1, 0⟩ 3 1 1 0) 3 = some [0, 10, 21, 0, 33, 0, 47, 63] ∧
    lanesGive (.lprev ⟨1, 0⟩ 2 1 9 0) 2 = some [99, 10, 11, 0, 0, 0, 15, 16] := by
  refine ⟨?_, ?_, ?_, ?_⟩ <;> decide +kernel

/-- The words that a DGST.FOLD reads count for one lane, and each is read at its own address (15 R276). -/
theorem test_group_words_are_read_apart :
    let s := putBytes (work .user [] []) 0x10100 [1, 0, 0, 0, 0, 0, 0, 0, 2]
    let l (pa : Nat) : LaneAcc := { laneWord pa with size := 8, data := [] }
    let p := { packetOf false (l 0x10100) with lanes := [l 0x10100, l 0x10108], uni := some ([0], none) }
    (packetLanes p (fun _ => true) s p.lanes).1.map (fun x => bytesToNat (x.data.map (fun b => b.val))) = [1, 2] := by decide +kernel

end Sys2Proof.Tests
end

section
/-! Memory stays in canonical form (O55, log entry 1): one lemma for each operation of the model, in the order of the model's files, each
by the lemmas of the operations that it is made of. The few that write memory, poison or the lines at their homes are in
Laws/Memory.lean and Laws/Canonical.lean; here stand those that go through them. -/

namespace Sys2Proof.Machine

-- one theorem after another: the proofs wait for each other's kernel checks
set_option Elab.async false

/-! ## What an answer keeps -/

/-- An optional answer keeps the form: the state that it holds, if it holds one, has it. -/
def memOkOpt (o : Option State) : Prop := ∀ t, o = some t → memOk t = true

/-- An outcome keeps the form: the next state, if there is one, has it. -/
def memOkNext (o : Host.Outcome State Fault Refusal) : Prop := ∀ t, o = .next t → memOk t = true

/-- A state with the memory, poison and held lines of one in canonical form is in that form. -/
theorem memOk_of_eq {s t : State} (h : memOk s = true) (hm : t.mem = s.mem := by rfl) (hb : t.bad = s.bad := by rfl)
    (hr : t.mere = s.mere := by rfl) : memOk t = true := (memOk_congr hm hb hr).trans h

theorem memOkOpt_none : memOkOpt none := fun _ h => nomatch h

theorem memOkOpt_some {s : State} (h : memOk s = true) : memOkOpt (some s) := fun _ e => Option.some.inj e ▸ h

theorem memOkOpt_ite {c : Prop} [Decidable c] {a b : Option State} (ha : memOkOpt a) (hb : memOkOpt b) :
    memOkOpt (if c then a else b) := by
  split
  · exact ha
  · exact hb

theorem memOkOpt_map {o : Option State} {f : State → State} (ho : memOkOpt o) (hf : ∀ a, memOk a = true → memOk (f a) = true) :
    memOkOpt (o.map f) := by
  cases o with
  | none => exact memOkOpt_none
  | some a => exact memOkOpt_some (hf a (ho a rfl))

theorem memOkOpt_bind {o : Option State} {f : State → Option State} (ho : memOkOpt o) (hf : ∀ a, memOk a = true → memOkOpt (f a)) :
    memOkOpt (o.bind f) := by
  cases o with
  | none => exact memOkOpt_none
  | some a => exact hf a (ho a rfl)

theorem memOkOpt_mapOf {α : Type} {o : Option α} {f : α → State} (hf : ∀ x, memOk (f x) = true) : memOkOpt (o.map f) := by
  cases o with
  | none => exact memOkOpt_none
  | some x => exact memOkOpt_some (hf x)

theorem memOkOpt_bindOf {α : Type} {o : Option α} {f : α → Option State} (hf : ∀ x, memOkOpt (f x)) : memOkOpt (o.bind f) := by
  cases o with
  | none => exact memOkOpt_none
  | some x => exact hf x

theorem memOkOpt_foldl {β : Type} {f : Option State → β → Option State} (hf : ∀ o b, memOkOpt o → memOkOpt (f o b)) (l : List β)
    {o : Option State} (ho : memOkOpt o) : memOkOpt (l.foldl f o) := by
  induction l generalizing o with
  | nil => exact ho
  | cons b t ih => exact ih (hf o b ho)

theorem memOkOpt_findSome {α : Type} {f : α → Option State} (hf : ∀ x, memOkOpt (f x)) (l : List α) : memOkOpt (l.findSome? f) := by
  intro t ht
  obtain ⟨x, -, hx⟩ := List.exists_of_findSome?_eq_some ht
  exact hf x t hx

theorem memOk_getD {o : Option State} {d : State} (ho : memOkOpt o) (hd : memOk d = true) : memOk (o.getD d) = true := by
  cases o with
  | none => exact hd
  | some a => exact ho a rfl

theorem memOkNext_next {s : State} (h : memOk s = true) : memOkNext (.next s) := fun _ e => Host.Outcome.next.inj e ▸ h

theorem memOkNext_ite {c : Prop} [Decidable c] {a b : Host.Outcome State Fault Refusal} (ha : memOkNext a) (hb : memOkNext b) :
    memOkNext (if c then a else b) := by
  split
  · exact ha
  · exact hb

/-- A uniform-set word keeps the form if what follows its checks does. -/
theorem memOkNext_uniEnter {s : State} {i : Instr} {need : Mode} {tiles accs reads writes : List Nat} {k : State → State}
    (h : memOk s = true) (hk : memOk (k s) = true) : memOkNext (.next (uniEnter i need tiles accs reads writes s k)) :=
  memOkNext_next (memOk_uniEnter h _ _ _ _ _ _ hk)

theorem memOkNext_alu {s : State} {i : Instr} {g : Guard} {len : Nat} {x : Ext} {sh : Shape} {d a b : Nat} {op : Alu} (h : memOk s = true) :
    memOkNext (.next (alu i g len x sh d a b op s)) := memOkNext_next (memOk_alu h ..)

theorem memOkNext_uniAlu {s : State} {i : Instr} {d : Nat} {reads : List Nat} {f : (Nat → DWord) → DWord} (h : memOk s = true) :
    memOkNext (.next (uniAlu i d reads f s)) := memOkNext_next (memOk_uniAlu h ..)

theorem memOk_withCur {s : State} {g : Group} (h : memOk s = true) : memOk { s with cur := g } = true := memOk_of_eq h

theorem memOk_withFieldFrames {s : State} {x : Tbl Nat} (h : memOk s = true) : memOk { s with fieldFrames := x } = true := memOk_of_eq h

/-! ## Shared operations -/

theorem memOk_setCore {s : State} {c : Nat} {x : Core} (hok : memOk s = true) : memOk (setCore s c x) = true := memOk_of_eq hok

theorem memOk_setLaunch {s : State} {l : Launch} (hok : memOk s = true) : memOk (setLaunch s l) = true := memOk_of_eq hok

theorem memOk_setWReg {s : State} {n : Nat} {x : DWord} (hok : memOk s = true) : memOk (setWReg s n x) = true := memOk_setSkein hok _ _

theorem memOk_lagPly {s : State} {sid ply : Nat} {on : Bool} (hok : memOk s = true) : memOk (lagPly s sid ply on) = true :=
  memOk_ite (memOk_setSkein hok _ _) hok

theorem memOk_seeW {s : State} {sid ply reg : Nat} (hok : memOk s = true) : memOk (seeW s sid ply reg) = true := memOk_setSkein hok _ _

theorem memOk_setCounter {s : State} {core k : Nat} {w : Word} (hok : memOk s = true) : memOk (setCounter s core k w) = true :=
  memOk_of_eq (memOk_of_eq hok)

theorem memOk_setParts {s : State} {sid ply : Nat} {ps : List (List Nat)} (hok : memOk s = true) : memOk (setParts s sid ply ps) = true :=
  memOk_setSkein hok _ _

theorem memOk_judgeLaunches {s : State} (hok : memOk s = true) : memOk (judgeLaunches s) = true := memOk_of_eq hok

theorem memOk_completeLaunch {s : State} {l : Launch} (hok : memOk s = true) : memOk (completeLaunch s l) = true :=
  memOk_ite (memOk_postEvent (memOk_judgeLaunches (memOk_of_eq hok)) _) (memOk_ite (memOk_addCounter (memOk_judgeLaunches
    (memOk_of_eq hok)) ..) (memOk_ite (memOk_postEvent (memOk_judgeLaunches (memOk_of_eq hok)) _) (memOk_judgeLaunches
    (memOk_of_eq hok))))

theorem memOk_launchExit {s : State} {num : Nat} (hok : memOk s = true) : memOk (launchExit s num) = true := by
  unfold launchExit
  dsimp only
  split
  · exact hok
  · exact memOk_ite (memOk_completeLaunch hok) (memOk_setLaunch hok)

theorem memOk_dropL1 {s : State} {f : L1Line → Bool} (hok : memOk s = true) : memOk (dropL1 s f) = true := memOk_of_eq hok

theorem memOk_revokeLost {s : State} (hok : memOk s = true) : memOk (revokeLost s) = true := memOk_of_eq hok

theorem memOk_freeSkein {s : State} {sid : Nat} (hok : memOk s = true) : memOk (freeSkein s sid) = true := memOk_of_eq hok

theorem memOk_killSkein {s : State} {sid inner : Nat} {coreLost : Bool} (hok : memOk s = true) :
    memOk (killSkein s sid inner coreLost) = true := by
  unfold killSkein
  extract_lets k a b rs c d e
  have ha : memOk a = true := memOk_ite hok (memOk_writeBack hok _)
  have hb : memOk b = true := memOk_dropL1 ha
  have hc : memOk c = true := memOk_of_eq hb
  exact memOk_launchExit (memOk_postEvent (memOk_freeSkein (memOk_revokeLost hc)) _)

theorem memOk_exitSkein {s : State} {sid : Nat} (hok : memOk s = true) : memOk (exitSkein s sid) = true :=
  memOk_ite hok (memOk_launchExit (memOk_freeSkein (memOk_writeBack hok _)))

/-! ## Accesses -/

theorem memOk_fillTlb {s : State} {core p ctx : Nat} {x : Xl} (hok : memOk s = true) : memOk (fillTlb s core p ctx x) = true :=
  memOk_ite hok (memOk_ite (memOk_of_eq hok) (memOk_of_eq hok))

theorem memOk_claimLine {s : State} {core ctx va pa : Nat} (hok : memOk s = true) : memOk (claimLine s core ctx va pa) = true :=
  memOk_dropL1 (memOk_writeBack hok _)

theorem memOk_l1Put {s : State} {core ctx owner : Nat} {kind : PageKind} {va pa : Nat} {bs : List PByte} {back force : Bool}
    (hok : memOk s = true) :
    memOk (l1Put s core ctx owner kind va pa bs back force) = true := memOk_of_eq (memOk_claimLine hok)

theorem memOk_stopFills {s : State} {core : Nat} {f : LaneAcc → Nat → Bool} (hok : memOk s = true) : memOk (stopFills s core f) = true :=
  memOk_of_eq hok

theorem memOk_acquire {s : State} {core : Nat} {u : Bool} (hok : memOk s = true) : memOk (acquire s core u) = true :=
  memOk_stopFills (memOk_dropL1 hok)

theorem memOk_dropRegion {s : State} {core ctx base k : Nat} (hok : memOk s = true) : memOk (dropRegion s core ctx base k) = true :=
  memOk_stopFills (memOk_dropL1 hok)

theorem memOk_replaceItem {s : State} {n : Nat} {is : List Item} (hok : memOk s = true) : memOk (replaceItem s n is) = true :=
  memOk_of_eq hok

theorem memOk_ackStores {s : State} {sid ply tag : Nat} {ls : List Nat} (hok : memOk s = true) :
    memOk (ackStores s sid ply tag ls) = true := memOk_mapStrands hok ..

theorem memOk_askGrants {s : State} {write : Bool} {size : Nat} {cs : List LaneChk} (hok : memOk s = true) :
    memOk (askGrants s write size cs) = true := memOk_foldl (fun _ _ ha => memOk_ite ha (memOk_of_eq ha)) _ hok

theorem memOk_forgetRefusals {s : State} (hok : memOk s = true) : memOk (forgetRefusals s) = true := memOk_of_eq hok

theorem memOk_pageSave {s : State} {n : Nat} {pc va : DWord} {entry kind : Nat} (hok : memOk s = true) :
    memOk (pageSave s n pc va entry kind) = true := memOk_tick (memOk_mapStrands (memOk_setSkein hok _ _) ..)

theorem memOk_failLanes {s : State} {a : Acc} {cs : List (LaneChk × Option Cause)} (hok : memOk s = true) :
    memOk (failLanes s a cs) = true := by
  unfold failLanes
  dsimp only
  split
  · exact memOk_pageSave hok
  · exact memOk_forgetRefusals (memOk_trapGroup hok _)

theorem memOk_accessLanes {s : State} {a : Acc} {size : Nat} {cs : List LaneChk} {extra : LaneChk → Option Cause} {k : State → List
    (LaneChk × Xl × Bool) → State} (hok : memOk s = true) (hk : ∀ a x, memOk a = true → memOk (k a x) = true) :
    memOk (accessLanes s a size cs extra k) = true :=
  memOk_ite (memOk_stall (memOk_askGrants hok) _) (memOk_ite (memOk_failLanes hok) (memOk_ite (memOk_stall hok _) (hk _ _ (memOk_foldl
    (fun _ _ ha => memOk_fillTlb ha) _ hok))))

theorem memOk_accessRange {s : State} {a : Acc} {pieces : List Nat} {size al : Nat} {k : State → List Xl → State} (hok : memOk s = true)
    (hk : ∀ a x, memOk a = true → memOk (k a x) = true) :
    memOk (accessRange s a pieces size al k) = true := by
  unfold accessRange
  dsimp only
  split
  · split
    · exact memOk_stall (memOk_askGrants hok) _
    · exact memOk_ite (memOk_pageSave hok) (memOk_trapAll hok _ _)
    · exact memOk_forgetRefusals (memOk_trapAll hok _ _)
  · exact memOk_ite (memOk_stall hok _) (hk _ _ (memOk_foldl (fun _ _ ha => memOk_fillTlb ha) _ hok))

/-! ## The local store (06) -/

theorem memOk_localEnter {f : LaneForm} {wb : BitVec 4} {a : BitVec 6} {size : Nat} {loads : Bool} {s : State} {k : State → List
    (Nat × Nat) → State} (hok : memOk s = true) (hk : ∀ a x, memOk a = true → memOk (k a x) = true) :
    memOk (localEnter f wb a size loads s k) = true :=
  memOk_laneEnter hok _ (memOk_ite (memOk_stall hok _) (memOk_ite (memOk_stall hok _) (memOk_ite (memOk_trapGroup hok _) (hk _ _ hok))))

theorem memOk_deliverLane {s : State} {d nd l : Nat} {bs : List PByte} (hok : memOk s = true) : memOk (deliverLane s d nd l bs) = true :=
  memOk_setStrand hok _ _

theorem memOk_beginHalf {s : State} {h : Half} (hok : memOk s = true) : memOk (beginHalf s h) = true := memOk_stall (memOk_of_eq hok) _

theorem memOk_deliverHalf {s : State} {o : Origin} {l : HalfLane} {bs : List PByte} (hok : memOk s = true) :
    memOk (deliverHalf s o l bs) = true := memOk_setStrand hok _ _

theorem memOk_finishLocal {s : State} {h : Half} (hok : memOk s = true) : memOk (finishLocal s h) = true :=
  memOk_ite (memOk_setSkein hok _ _) (memOk_foldl (fun _ _ ha => memOk_deliverHalf ha) _ hok)

theorem memOk_loadHalves {d : Nat} {s : State} {ls : List (Nat × Nat)} (hok : memOk s = true) : memOk (loadHalves d s ls) = true :=
  memOk_beginHalf (memOk_foldl (fun _ _ ha => memOk_deliverHalf ha) _ hok)

theorem memOk_storeHalves {d : Nat} {s : State} {ls : List (Nat × Nat)} (hok : memOk s = true) : memOk (storeHalves d s ls) = true :=
  memOk_beginHalf (memOk_setSkein hok _ _)

theorem memOkNext_execLdl {g : Guard} {d a : BitVec 6} {wb : BitVec 4} {sz : BitVec 2} {s : State} (hok : memOk s = true) :
    memOkNext (execLdl g d a wb sz s) :=
  memOkNext_next (memOk_localEnter hok (fun _ _ ha => memOk_ite (memOk_loadHalves ha) (memOk_retire (memOk_foldl (fun _ _ hb =>
    memOk_deliverLane hb) _ ha) _)))

theorem memOkNext_execLdlfe {g : Guard} {d a : BitVec 6} {wb : BitVec 4} {c : BitVec 1} {sz : BitVec 2} {s : State}
    (hok : memOk s = true) :
    memOkNext (execLdlfe g d a wb c sz s) :=
  memOkNext_next (memOk_localEnter hok (fun _ _ ha => memOk_ite (memOk_stall ha _) (memOk_retire (memOk_ite (memOk_setSkein (memOk_foldl
    (fun _ _ hb => memOk_deliverLane hb) _ ha) _ _) (memOk_foldl (fun _ _ hb => memOk_deliverLane hb) _ ha)) _)))

theorem memOk_storeLanes {s : State} {d size : Nat} {fill : Bool} {ls : List (Nat × Nat)} (hok : memOk s = true) :
    memOk (storeLanes s d size fill ls) = true := memOk_setSkein hok _ _

theorem memOkNext_execStl {g : Guard} {d a : BitVec 6} {wb : BitVec 4} {sz : BitVec 2} {s : State} (hok : memOk s = true) :
    memOkNext (execStl g d a wb sz s) :=
  memOkNext_next (memOk_localEnter hok (fun _ _ ha => memOk_ite (memOk_storeHalves ha) (memOk_retire (memOk_storeLanes ha) _)))

theorem memOk_atomlLane {op d : Nat} {s : State} {l : Nat × Nat} (hok : memOk s = true) : memOk (atomlLane op d s l) = true :=
  memOk_deliverLane (memOk_ite hok (memOk_setSkein hok _ _))

theorem memOkNext_execAtoml {g : Guard} {d a : BitVec 6} {wb : BitVec 4} {sz : BitVec 2} {s : State} (hok : memOk s = true) :
    memOkNext (execAtoml g d a wb sz s) :=
  memOkNext_next (memOk_localEnter hok (fun _ _ ha => memOk_retire (memOk_foldl (fun _ _ hb => memOk_atomlLane hb) _ ha) _))

/-! ## Registers -/

theorem memOk_migWrite {s : State} {die off : Nat} {w : DWord} (hok : memOk s = true) : memOk (migWrite s die off w) = true :=
  memOk_setIo hok _ _

theorem memOk_migTail {s : State} {die : Nat} {w : DWord} (hok : memOk s = true) : memOk (migTail s die w) = true := memOk_setIo hok _ _

theorem memOk_chretSet {s : State} {die word : Nat} {w : DWord} (hok : memOk s = true) : memOk (chretSet s die word w) = true :=
  memOk_ite (memOk_setIo hok _ _) (memOk_postEvent (memOk_setIo hok _ _) _)

theorem memOk_retarget {s : State} {old new : Nat} (hok : memOk s = true) : memOk (retarget s old new) = true := memOk_of_eq hok

theorem memOk_frmoveSet {s : State} {die : Nat} {w : DWord} (hok : memOk s = true) :
    memOk (frmoveSet s die w) = true := by
  unfold frmoveSet
  dsimp only
  split
  · exact memOk_of_eq (s := setIo s die { getIo s die with frMark := some (fieldOf w.toNat 16 36) }) (memOk_setIo hok _ _)
  · rename_i old _
    exact memOk_of_eq (s := retarget (setIo s die { getIo s die with frMark := none }) old (fieldOf w.toNat 16 36))
      (memOk_retarget (memOk_setIo hok _ _))

theorem memOk_atmctlSet {s : State} {w : DWord} (hok : memOk s = true) : memOk (atmctlSet s w) = true := memOk_of_eq hok

theorem memOk_homebaseSet {s : State} {w : DWord} (hok : memOk s = true) : memOk (homebaseSet s w) = true := by
  unfold homebaseSet
  exact memOk_of_eq hok

theorem memOk_tokbaseSet {s : State} {p : Nat} {w : DWord} (hok : memOk s = true) : memOk (tokbaseSet s p w) = true :=
  memOk_ite (memOk_setPart hok _ _) hok

theorem memOk_fwbaseSet {s : State} {p : Nat} {w : DWord} (hok : memOk s = true) : memOk (fwbaseSet s p w) = true := memOk_setPart hok _ _

theorem memOk_fwctlSet {s : State} {p : Nat} {w : DWord} (hok : memOk s = true) : memOk (fwctlSet s p w) = true := memOk_setPart hok _ _

theorem memOk_prectlSet {s : State} {p : Nat} {w : DWord} (hok : memOk s = true) : memOk (prectlSet s p w) = true :=
  memOk_ite hok (memOk_setPart hok _ _)

theorem memOk_stopSkeins {s : State} {sids : List Nat} {r : SaveReason} (hok : memOk s = true) : memOk (stopSkeins s sids r) = true :=
  memOk_foldl (fun _ _ ha => memOk_ite (memOk_setSkein ha _ _) ha) _ hok

theorem memOk_dbgctlSet {s : State} {p : Nat} {w : DWord} (hok : memOk s = true) : memOk (dbgctlSet s p w) = true :=
  memOk_ite (memOk_stopSkeins (memOk_setPart hok _ _)) (memOk_setPart hok _ _)

theorem memOk_ctlRead {s : State} {die off : Nat} (hok : memOk s = true) : memOk (ctlRead s die off).2 = true := by
  unfold ctlRead
  dsimp only
  split
  · exact hok
  · exact hok
  · exact hok
  · exact hok
  · exact hok
  · exact hok
  · exact memOk_setIo hok _ _
  · exact hok
  · exact hok
  · exact memOk_ite (memOk_of_eq hok) hok
  · exact hok
  · split
    · exact hok
    · exact hok
    · exact memOk_ite (memOk_setPart hok _ _) hok
    · exact hok
    · exact hok
    · exact hok
    · exact hok
    · exact hok
    · exact hok
    · exact hok

theorem memOk_ctlWrite {s : State} {die off : Nat} {w : DWord} (hok : memOk s = true) : memOk (ctlWrite s die off w) = true := by
  unfold ctlWrite
  dsimp only
  split
  · exact memOk_migWrite hok
  · exact memOk_migWrite hok
  · exact memOk_migTail hok
  · exact memOk_ite (memOk_setIo hok _ _) hok
  · exact memOk_chretSet hok
  · exact memOk_frmoveSet hok
  · exact memOk_chretSet hok
  · refine memOk_ite hok ?_
    split
    · exact memOk_atmctlSet hok
    · exact memOk_homebaseSet hok
    · split
      · exact memOk_fwbaseSet hok
      · exact memOk_fwctlSet hok
      · exact memOk_prectlSet hok
      · exact memOk_setPart hok _ _
      · exact memOk_dbgctlSet hok
      · exact memOk_setPart hok _ _
      · exact memOk_tokbaseSet hok
      · exact hok

theorem memOk_coverEvents {s : State} {p : Nat} (hok : memOk s = true) : memOk (coverEvents s p) = true :=
  memOk_ite (memOk_of_eq (s := setPart s p { getPart s p with evUncovered := 0 }) (memOk_setPart hok _ _)) hok

theorem memOk_evctlSet {s : State} {p : Nat} {w : DWord} (hok : memOk s = true) : memOk (evctlSet s p w) = true :=
  memOk_drainHeld _ _ (memOk_coverEvents (memOk_setPart hok _ _))

theorem memOk_evheadSet {s : State} {p : Nat} {w : DWord} (hok : memOk s = true) : memOk (evheadSet s p w) = true :=
  memOk_drainHeld _ _ (memOk_setPart hok _ _)

theorem memOk_pushWord0 {s : State} {p q : Nat} {w : DWord} (hok : memOk s = true) : memOk (pushWord0 s p q w) = true :=
  memOk_setPart hok _ _

theorem memOk_pushWord1 {s : State} {p q : Nat} {w : DWord} (hok : memOk s = true) : memOk (pushWord1 s p q w) = true :=
  memOk_ite (memOk_setPart hok _ _) (memOk_setPart hok _ _)

theorem memOk_cfgWrite {s : State} {off : Nat} {w : DWord} (hok : memOk s = true) : memOk (cfgWrite s off w) = true := by
  unfold cfgWrite
  dsimp only
  refine memOk_ite ?_ hok
  split
  · exact memOk_setPart hok _ _
  · exact memOk_setPart hok _ _
  · exact memOk_setPart hok _ _
  · exact memOk_setPart hok _ _
  · exact memOk_setPart hok _ _
  · exact memOk_setPart hok _ _
  · exact hok

/-! ## Homes and the gates of watched words -/

theorem memOk_setOrder {s : State} {e : OrderEntry} (hok : memOk s = true) : memOk (setOrder s e) = true := memOk_of_eq hok

theorem memOk_closeChunk {s : State} {e : OrderEntry} (hok : memOk s = true) : memOk (closeChunk s e) = true := memOk_homePut hok _ _

theorem memOk_orderRecord {s : State} {e : OrderEntry} {agent : Nat} (hok : memOk s = true) : memOk (orderRecord s e agent) = true :=
  memOk_ite hok (memOk_ite (memOk_ite (memOk_setOrder hok) (memOk_setOrder hok)) (memOk_ite (memOk_setOrder hok) (memOk_ite
    (memOk_setOrder (memOk_closeChunk hok)) (memOk_setOrder (memOk_closeChunk hok)))))

theorem memOkOpt_gateWord {agent : OrderEntry → Nat} {w : Nat} {s : State} (hok : memOk s = true) : memOkOpt (gateWord agent w s) := by
  unfold gateWord
  split
  · exact memOkOpt_some hok
  · refine memOkOpt_ite (memOkOpt_some (memOk_orderRecord hok)) ?_
    refine memOkOpt_ite (memOkOpt_some hok) ?_
    split
    · exact memOkOpt_some (memOk_setOrder hok)
    · exact memOkOpt_ite (memOkOpt_some (memOk_setOrder hok)) memOkOpt_none

theorem memOkOpt_passGate {s : State} {agent : OrderEntry → Nat} {pa n : Nat} (hok : memOk s = true) : memOkOpt (passGate s agent pa n) :=
  memOkOpt_foldl (fun _ _ ha => memOkOpt_bind ha (fun _ hb => memOkOpt_gateWord hb)) _ (memOkOpt_some hok)

theorem memOk_setDomain {s : State} {d : Domain} (hok : memOk s = true) : memOk (setDomain s d) = true := memOk_of_eq hok

theorem memOkOpt_homeWrite {s : State} {agent : OrderEntry → Nat} {pa : Nat} {data : List PByte} (hok : memOk s = true) :
    memOkOpt (homeWrite s agent pa data) := memOkOpt_map (memOkOpt_passGate hok) (fun _ ha => memOk_homePut ha _ _)

theorem memOk_readLane {s : State} {conv : BitVec 2} {l : LaneAcc} (hok : memOk s = true) : memOk (readLane s conv l).2 = true := by
  unfold readLane
  dsimp only
  split
  · exact memOk_ctlRead hok
  · split
    · exact hok
    · exact hok

theorem memOkOpt_writeLane {s : State} {o : Origin} {l : LaneAcc} (hok : memOk s = true) : memOkOpt (writeLane s o l) :=
  memOkOpt_ite (memOkOpt_some (memOk_ctlWrite hok)) (memOkOpt_homeWrite hok)

theorem memOk_atomStep {s : State} {r : AtomReq} {new : DWord → DWord} (hok : memOk s = true) : memOk (atomStep s r new).2 = true :=
  memOk_ite hok (memOk_homePut hok _ _)

theorem memOk_countAtomic {s : State} {pa die n : Nat} (hok : memOk s = true) : memOk (countAtomic s pa die n) = true := memOk_of_eq hok

theorem memOk_atomLanes {r : AtomReq} {ls : List AtomLane} {s : State} (hok : memOk s = true) : memOk (atomLanes r s ls).state = true := by
  induction ls generalizing s with
  | nil => exact hok
  | cons l t ih =>
    unfold atomLanes
    split
    · exact ih hok
    · rename_i a ha
      exact ih (memOk_countAtomic (memOk_atomStep (memOkOpt_passGate hok _ ha)))

theorem memOk_performAtomic {r : AtomReq} {s : State} (hok : memOk s = true) : memOk (performAtomic s r).state = true := by
  unfold performAtomic
  extract_lets u
  have hu : memOk u = true := memOk_ite hok (memOk_fetchLine (memOk_fetchLine hok _) _)
  split
  · exact memOk_atomLanes hu
  · split
    · exact hu
    · rename_i a ha
      have hg := memOkOpt_foldl (f := fun o (l : AtomLane) => o.bind (fun a => passGate a (laneAgent l.org l.lane) r.pa r.width))
        (fun o l ho => memOkOpt_bind ho (fun _ hb => memOkOpt_passGate hb)) r.lanes (memOkOpt_some hu)
      exact memOk_foldl (fun _ _ hb => memOk_countAtomic hb) _ (memOk_atomStep (hg a ha))

theorem memOk_replyLane {s : State} {o : Origin} {lane : Nat} {bs : List PByte} (hok : memOk s = true) :
    memOk (replyLane s o lane bs) = true := memOk_setStrand hok _ _

theorem memOk_noFill {s : State} {core pa : Nat} (hok : memOk s = true) : memOk (noFill s core pa) = true := memOk_of_eq hok

theorem memOk_leaveL1 {s : State} {core pa : Nat} (hok : memOk s = true) : memOk (leaveL1 s core pa) = true :=
  memOk_dropL1 (memOk_writeBack (memOk_noFill hok) _)

theorem memOk_leaveRange {s : State} {core pa n : Nat} (hok : memOk s = true) : memOk (leaveRange s core pa n) = true :=
  memOk_foldl (fun _ _ ha => memOk_leaveL1 ha) _ hok

/-! ## Owner tokens (02) -/

theorem memOk_putRegion {s : State} {r : Region} (hok : memOk s = true) : memOk (putRegion s r) = true := memOk_of_eq hok

theorem memOk_cutRegion {s : State} {r : Region} {rs : List Region} (hok : memOk s = true) : memOk (cutRegion s r rs) = true :=
  memOk_of_eq hok

theorem memOk_keepGrant {s : State} {c p pkg : Nat} {a : Agent} {x : Asker} {ctx va : Nat} (hok : memOk s = true) :
    memOk (keepGrant s c p pkg a x ctx va) = true := memOk_ite hok (memOk_of_eq hok)

theorem memOk_startHandOff {s : State} {op : TokenOp} {r : Region} (hok : memOk s = true) : memOk (startHandOff s op r) = true :=
  memOk_stall (memOk_of_eq hok) _

theorem memOk_onRegion {s : State} {w : DWord} {wide : Nat} {k : State → Nat → Nat → State} (hok : memOk s = true)
    (hk : ∀ a x y, memOk a = true → memOk (k a x y) = true) :
    memOk (onRegion s w wide k) = true := by
  unfold onRegion
  split
  · exact memOk_trapAll hok _ _
  · exact memOk_ite (memOk_stall hok _) (hk _ _ _ hok)

theorem memOk_lendRegion {w h : DWord} {share : Bool} {s : State} (hok : memOk s = true) : memOk (lendRegion w h share s) = true := by
  unfold lendRegion
  dsimp only
  refine memOk_onRegion hok (fun _ _ _ ha => ?_)
  split
  · exact memOk_trapAll ha _ _
  · exact memOk_ite (memOk_trapAll ha _ _) (memOk_startHandOff (memOk_cutRegion ha))

theorem memOk_onWhole {s : State} {w : DWord} {k : State → Region → State} (hok : memOk s = true) (hk : ∀ a x, memOk a = true → memOk
    (k a x) = true) :
    memOk (onWhole s w k) = true := by
  unfold onWhole
  refine memOk_onRegion hok (fun _ _ _ ha => ?_)
  split
  · exact memOk_trapAll ha _ _
  · exact memOk_ite (memOk_trapAll ha _ _) (hk _ _ ha)

theorem memOkNext_execRetn {d : BitVec 5} {s : State} (hok : memOk s = true) : memOkNext (execRetn d s) :=
  memOkNext_uniEnter hok (memOk_onWhole hok (fun _ _ ha => memOk_ite (memOk_startHandOff ha) (memOk_ite (memOk_startHandOff ha)
    (memOk_trapAll ha _ _))))

theorem memOkNext_execRetnRecall {d : BitVec 5} {s : State} (hok : memOk s = true) : memOkNext (execRetnRecall d s) :=
  memOkNext_uniEnter hok (memOk_onWhole hok (fun _ _ ha => memOk_ite (memOk_startHandOff ha) (memOk_trapAll ha _ _)))

theorem memOkNext_execRetnReclaim {d : BitVec 5} {s : State} (hok : memOk s = true) : memOkNext (execRetnReclaim d s) := by
  unfold execRetnReclaim
  dsimp only
  refine memOkNext_next ?_
  refine memOk_uniEnter hok _ _ _ _ _ _ ?_
  refine memOk_onRegion hok (fun _ _ _ ha => ?_)
  split
  · exact memOk_trapAll ha _ _
  · exact memOk_ite (memOk_retire (memOk_putRegion ha) _) (memOk_trapAll ha _ _)

theorem memOkNext_execSplit {d : BitVec 5} {s : State} (hok : memOk s = true) : memOkNext (execSplit d s) :=
  memOkNext_uniEnter hok (memOk_onWhole hok (fun _ _ ha => memOk_ite (memOk_trapAll ha _ _) (memOk_retire (memOk_cutRegion ha) _)))

theorem memOkNext_execMend {d : BitVec 5} {s : State} (hok : memOk s = true) : memOkNext (execMend d s) := by
  unfold execMend
  dsimp only
  refine memOkNext_next ?_
  refine memOk_uniEnter hok _ _ _ _ _ _ ?_
  refine memOk_onRegion hok (fun _ _ _ ha => ?_)
  split
  · exact memOk_ite (memOk_trapAll ha _ _) (memOk_retire (memOk_putRegion (memOk_of_eq ha)) _)
  · exact memOk_trapAll ha _ _

theorem memOkNext_execTqry {d a : BitVec 5} {f : BitVec 9} {s : State} (hok : memOk s = true) : memOkNext (execTqry d a f s) :=
  memOkNext_uniEnter hok (memOk_ite (memOk_trapAll hok _ _) (memOk_ite (memOk_stall hok _) (memOk_retire (memOk_setSkein hok _ _) _)))

theorem memOkNext_execGrantRequest {n : Nat} {s : State} (hok : memOk s = true) : memOkNext (execGrantRequest n s) := by
  unfold execGrantRequest
  dsimp only
  refine memOkNext_next ?_
  split
  · exact memOk_ite hok (memOk_ite (memOk_replaceItem hok) (memOk_of_eq (s := replaceItem s n []) (memOk_replaceItem hok)))
  · exact hok

theorem memOkNext_execGrantInstall {n : Nat} {s : State} (hok : memOk s = true) :
    memOkNext (execGrantInstall n s) := by
  unfold execGrantInstall
  dsimp only
  refine memOkNext_next ?_
  split
  · rename_i g _ _
    exact memOk_of_eq (s := dropRegion (replaceItem s n []) g.core g.ctx g.base g.k) (memOk_dropRegion (memOk_replaceItem hok))
  · exact hok

theorem memOkNext_execGrantRevoke {n : Nat} {s : State} (hok : memOk s = true) : memOkNext (execGrantRevoke n s) := by
  unfold execGrantRevoke
  dsimp only
  refine memOkNext_next ?_
  split
  · exact memOk_of_eq (s := replaceItem s n []) (memOk_replaceItem hok)
  · exact hok

theorem memOk_handBack {s : State} {r : Region} (hok : memOk s = true) : memOk (handBack s r) = true := memOk_writeBack hok _

theorem memOk_dropSharer {s : State} {r : Region} {h : Holder} (hok : memOk s = true) : memOk (dropSharer s r h) = true := by
  unfold dropSharer
  refine memOk_ite hok ?_
  split
  · exact memOk_foldl (fun _ _ ha => memOk_dropRegion ha) _ hok
  · exact memOk_foldl (fun _ _ ha => memOk_dropRegion ha) _ hok

theorem memOk_changeState {s : State} {op : TokenOp} {r : Region} {sid : Nat} (hok : memOk s = true) :
    memOk (changeState s op r sid) = true := by
  unfold changeState
  dsimp only
  split
  · exact memOk_putRegion hok
  · exact memOk_putRegion hok
  · exact memOk_putRegion hok
  · split
    · exact hok
    · exact memOk_putRegion (memOk_ite (memOk_dropSharer hok) hok)
  · exact memOk_putRegion (memOk_foldl (fun _ _ ha => memOk_dropSharer ha) _ hok)

theorem memOk_wakeToken {s : State} {sid ply : Nat} {ns : List Nat} (hok : memOk s = true) : memOk (wakeToken s sid ply ns) = true :=
  memOk_mapStrands hok ..

theorem memOkNext_execTokenStateChange {n : Nat} {s : State} (hok : memOk s = true) : memOkNext (execTokenStateChange n s) := by
  unfold execTokenStateChange
  dsimp only
  refine memOkNext_next ?_
  split
  · refine memOk_ite hok ?_
    refine memOk_wakeToken ?_
    refine memOk_ite ?_ ?_
    · split
      · exact memOk_replaceItem hok
      · exact memOk_handBack (memOk_replaceItem hok)
    · refine memOk_changeState ?_
      split
      · exact memOk_replaceItem hok
      · exact memOk_handBack (memOk_replaceItem hok)
  · exact hok

theorem memOk_tokenLoss {s : State} {p : Nat} {sids : List Nat} (hok : memOk s = true) : memOk (tokenLoss s p sids) = true :=
  memOk_foldl (fun _ _ ha => memOk_ite (memOk_of_eq ha) (memOk_postEvent (memOk_revokeLost (memOk_of_eq ha)) _)) _ hok

theorem memOkNext_execCoreFailure {core : Nat} {s : State} (hok : memOk s = true) : memOkNext (execCoreFailure core s) :=
  memOkNext_next (memOk_of_eq (memOk_foldl (fun _ _ ha => memOk_killSkein ha) _ (memOk_tokenLoss (memOk_setCore hok))))

/-! ## Global accesses (01, 20) -/

theorem memOk_send {s : State} {is : List Item} (hok : memOk s = true) : memOk (send s is) = true := memOk_of_eq hok

theorem memOk_releaseLines {s : State} (hok : memOk s = true) : memOk (releaseLines s) = true := memOk_writeBack hok _

theorem memOk_expectReplies {s : State} {tag d : Nat} {count : Nat → Nat} {ls : List LaneAcc} (hok : memOk s = true) :
    memOk (expectReplies s tag d count ls) = true := memOk_mapStrands hok ..

theorem memOk_expectStores {s : State} {tag : Nat} {ls : List LaneAcc} (hok : memOk s = true) : memOk (expectStores s tag ls) = true :=
  memOk_mapStrands hok ..

theorem memOk_toHomes {s : State} {o : Origin} {conv : BitVec 2} {ls : List LaneAcc} (hok : memOk s = true) :
    memOk (toHomes s o conv ls) = true := memOk_foldl (fun _ _ ha => memOk_leaveRange ha) _ (memOk_ite (memOk_releaseLines hok) hok)

theorem memOk_issueLoads {d nd size : Nat} {ord conv : BitVec 2} {s : State} {ok : List (LaneChk × Xl × Bool)} (hok : memOk s = true) :
    memOk (issueLoads d nd size ord conv s ok) = true :=
  memOk_ite (memOk_beginHalf (memOk_send (memOk_expectReplies (memOk_toHomes (memOk_foldl (fun _ _ ha => memOk_deliverHalf ha) _ hok)))))
    (memOk_retire (memOk_send (memOk_expectReplies (memOk_toHomes (memOk_foldl (fun _ _ ha => memOk_deliverLane ha) _ hok)))) _)

theorem memOk_gather {i : Instr} {g : Guard} {d a : BitVec 6} {wb : BitVec 4} {ord conv : BitVec 2} {size nd : Nat} {acc : Acc} {s :
    State} (hok : memOk s = true) :
    memOk (gather i g d a wb ord conv size nd acc s) = true :=
  memOk_laneEnter hok _ (memOk_ite (memOk_stall hok _) (memOk_accessLanes hok (fun _ _ ha => memOk_issueLoads ha)))

theorem memOk_foldLanes {s : State} {ls : List LaneAcc} {f : LaneAcc → List FoldItem} (hok : memOk s = true) :
    memOk (foldLanes s ls f) = true := memOk_mapStrands hok ..

theorem memOk_keepStore {s : State} {o : Origin} {l : LaneAcc} (hok : memOk s = true) : memOk (keepStore s o l) = true :=
  memOk_l1Put (memOk_noFill hok)

theorem memOk_issueStores {d size : Nat} {ord : BitVec 2} {s : State} {ok : List (LaneChk × Xl × Bool)} (hok : memOk s = true) :
    memOk (issueStores d size ord s ok) = true :=
  memOk_ite (memOk_beginHalf (memOk_send (memOk_expectStores (memOk_foldl (fun _ _ ha => memOk_keepStore ha) _ (memOk_toHomes
    (memOk_foldLanes hok)))))) (memOk_retire (memOk_send (memOk_expectStores (memOk_foldl (fun _ _ ha => memOk_keepStore ha) _
    (memOk_toHomes (memOk_foldLanes hok))))) _)

theorem memOk_expectHalves {s : State} {tag : Nat} {ls : List HalfLane} (hok : memOk s = true) : memOk (expectHalves s tag ls) = true :=
  memOk_mapStrands hok ..

theorem memOk_finishNear {s : State} {h : Half} (hok : memOk s = true) : memOk (finishNear s h) = true :=
  memOk_ite (memOk_foldl (fun _ _ ha => memOk_ite (memOk_keepStore ha) (memOk_deliverHalf ha)) _ hok) (memOk_ite (memOk_send
    (memOk_expectStores (memOk_toHomes (memOk_foldl (fun _ _ ha => memOk_ite (memOk_keepStore ha) (memOk_deliverHalf ha)) _ hok))))
    (memOk_send (memOk_expectHalves (memOk_toHomes (memOk_foldl (fun _ _ ha => memOk_ite (memOk_keepStore ha)
    (memOk_deliverHalf ha)) _ hok)))))

theorem memOk_finishHalf {s : State} {n : Nat} (hok : memOk s = true) :
    memOk (finishHalf s n) = true := by
  unfold finishHalf
  split
  · rename_i h _
    extract_lets k x g u a b v
    have ha : memOk a = true := memOk_withCur (memOk_replaceItem hok)
    have hb : memOk b = true := memOk_ite (memOk_finishLocal ha) (memOk_finishNear ha)
    exact memOk_ite hok (memOk_withCur (memOk_mapStrands hb _ _ _ _))
  · exact hok

theorem memOkNext_execStg {g : Guard} {d a : BitVec 6} {wb : BitVec 4} {ord sz : BitVec 2} {s : State} (hok : memOk s = true) :
    memOkNext (execStg g d a wb ord sz s) :=
  memOkNext_next (memOk_laneEnter hok _ (memOk_ite (memOk_stall hok _) (memOk_accessLanes hok (fun _ _ ha => memOk_issueStores ha))))

theorem memOk_issueAtomics {f : AtomForm} {d : Nat} {ord : BitVec 2} {s : State} {ok : List (LaneChk × Xl × Bool)}
    (hok : memOk s = true) :
    memOk (issueAtomics f d ord s ok) = true :=
  memOk_retire (memOk_send (memOk_ite (memOk_expectReplies (memOk_toHomes (memOk_foldLanes hok))) (memOk_expectStores (memOk_toHomes
    (memOk_foldLanes hok))))) _

theorem memOk_atomic {i : Instr} {f : AtomForm} {g : Guard} {d a : BitVec 6} {wb : BitVec 4} {ord : BitVec 2} {s : State}
    (hok : memOk s = true) :
    memOk (atomic i f g d a wb ord s) = true :=
  memOk_laneEnter hok _ (memOk_ite (memOk_stall hok _) (memOk_accessLanes hok (fun _ _ ha => memOk_issueAtomics ha)))

theorem memOk_stepLane {s : State} {p : Packet} {l : LaneAcc} {r : LaneAcc × State} (hok : memOk s = true) (hr : stepLane s p l = some r) :
    memOk r.2 = true := by
  unfold stepLane at hr
  dsimp only at hr
  split at hr
  · obtain ⟨a, ha, rfl⟩ := Option.map_eq_some_iff.mp hr
    exact memOkOpt_writeLane hok a ha
  · cases hr
    exact memOk_readLane hok

theorem memOk_stepMates {p : Packet} {ls : List LaneAcc} {s : State} {r : List LaneAcc × State} (hok : memOk s = true)
    (hr : stepMates p ls s = some r) : memOk r.2 = true := by
  induction ls generalizing s r with
  | nil => cases hr; exact hok
  | cons l t ih =>
    obtain ⟨x, hx, hr⟩ := Option.bind_eq_some_iff.mp hr
    obtain ⟨q, hq, he⟩ := Option.map_eq_some_iff.mp hr
    have hq2 : memOk q.2 = true := ih (memOk_stepLane hok hx) hq
    exact he ▸ hq2

/-- The lanes of a packet performed in turn keep the form: each turn either performs some lanes or leaves the state. -/
theorem memOk_packetLanes {p : Packet} {go : LaneAcc → Bool} {s : State} {ls : List LaneAcc} (hok : memOk s = true) :
    memOk (packetLanes p go s ls).2 = true := by
  unfold packetLanes
  dsimp only
  refine List.foldlRecOn (motive := fun a : List LaneAcc × State => memOk a.2 = true) ls _ hok (fun a ha l _ => ?_)
  split
  · exact ha
  · split
    · rename_i x hx
      split at hx
      · have hx2 : memOk x.2 = true := memOk_stepMates ha hx
        exact hx2
      · cases hx
    · exact ha

theorem memOk_answerPacket {s : State} {n : Nat} {p : Packet} {doneLanes : List LaneAcc} {left : List Item} (hok : memOk s = true) :
    memOk (answerPacket s n p doneLanes left) = true := memOk_ite (memOk_ackStores (memOk_replaceItem hok)) (memOk_replaceItem hok)

theorem memOkOpt_wholeLane {s : State} {n : Nat} {p : Packet} {l : LaneAcc} (hok : memOk s = true) : memOkOpt (wholeLane s n p l) := by
  unfold wholeLane
  refine memOkOpt_ite (fun t ht => ?_) memOkOpt_none
  obtain ⟨r, hr, rfl⟩ := Option.map_eq_some_iff.mp ht
  obtain ⟨x, hx, hr⟩ := Option.bind_eq_some_iff.mp hr
  refine memOk_answerPacket ?_
  split at hr
  · cases hr; exact memOk_stepLane hok hx
  · exact memOk_stepLane (memOk_stepLane hok hx) hr

theorem memOkOpt_runLanes {o : Origin} {js : List Nat} {s : State} (hok : memOk s = true) : memOkOpt (runLanes o js s) := by
  induction js generalizing s with
  | nil => exact memOkOpt_some hok
  | cons j t ih =>
    unfold runLanes
    split
    · exact memOkOpt_bind (memOkOpt_wholeLane hok) (fun _ ha => ih ha)
    · exact memOkOpt_none

theorem memOkOpt_runTogether {s : State} {p : Packet} (hok : memOk s = true) : memOkOpt (runTogether s p) := by
  unfold runTogether
  split
  · exact memOkOpt_none
  · exact memOkOpt_ite (memOkOpt_runLanes hok) memOkOpt_none

theorem memOk_atSlice {s : State} {n : Nat} {p : Packet} (hok : memOk s = true) : memOk (atSlice s n p) = true := by
  unfold atSlice
  dsimp only
  split
  · exact memOk_replaceItem hok
  · exact memOk_answerPacket (memOk_packetLanes hok)

theorem memOkNext_execGatherPacketAtHome {n : Nat} {s : State} (hok : memOk s = true) :
    memOkNext (execGatherPacketAtHome n s) := by
  unfold execGatherPacketAtHome
  dsimp only
  refine memOkNext_next ?_
  split
  · exact memOk_getD (memOkOpt_runTogether hok) (memOk_atSlice hok)
  · rename_i o acc uni p slot cs _
    exact memOk_ite (memOk_of_eq (s := replaceItem s n [(askCells s o acc uni p slot cs).1]) (memOk_replaceItem hok)) hok
  · exact hok

theorem memOkNext_execGatherPacketAtStack {n : Nat} {s : State} (hok : memOk s = true) : memOkNext (execGatherPacketAtStack n s) := by
  unfold execGatherPacketAtStack
  dsimp only
  refine memOkNext_next ?_
  split
  · exact memOk_getD (memOkOpt_runTogether hok) (memOk_answerPacket (memOk_packetLanes hok))
  · exact hok

theorem memOk_answerGroup {s : State} {o : Origin} {ns : List Nat} (hok : memOk s = true) : memOk (answerGroup s o ns) = true :=
  memOk_mapStrands hok ..

theorem memOk_takeWords {s : State} {o : Origin} {ns : List Nat} {ls : List LaneAcc} (hok : memOk s = true) :
    memOk (takeWords s o ns ls) = true :=
  memOk_ite (memOk_foldl (fun _ _ ha => memOk_mapStrands ha ..) _ hok) (memOk_answerGroup (memOk_foldl (fun _ _ ha =>
    memOk_mapStrands ha ..) _ hok))

theorem memOk_takeLanes {s : State} {p : Packet} (hok : memOk s = true) : memOk (takeLanes s p) = true := by
  unfold takeLanes
  split
  · exact memOk_foldl (fun _ _ ha => memOk_replyLane ha) _ hok
  · exact memOk_answerGroup (memOk_setSkein hok _ _)
  · exact memOk_takeWords hok

theorem memOk_takeReply {s : State} {fill : Bool} {p : Packet} (hok : memOk s = true) : memOk (takeReply s fill p) = true :=
  memOk_takeLanes (memOk_foldl (fun _ _ ha => memOk_ite (memOk_l1Put ha) ha) _ (memOk_ite (memOk_acquire hok) hok))

theorem memOkNext_execGatherReply {n : Nat} {s : State} (hok : memOk s = true) : memOkNext (execGatherReply n s) := by
  unfold execGatherReply
  dsimp only
  refine memOkNext_next ?_
  split
  · exact memOk_ite hok (memOk_ite (memOk_takeReply (memOk_replaceItem hok)) (memOk_replaceItem hok))
  · exact hok

theorem memOk_atomAtHome {s : State} {r : AtomReq} (hok : memOk s = true) : memOk (atomAtHome s r) = true :=
  memOk_foldl (fun _ _ ha => memOk_ackStores ha) _ (memOk_replaceItem (memOk_performAtomic hok))

theorem memOkOpt_atomRun {rs : List AtomReq} {s : State} (hok : memOk s = true) : memOkOpt (atomRun rs s) := by
  induction rs generalizing s with
  | nil => exact memOkOpt_some hok
  | cons r t ih => exact memOkOpt_ite (ih (memOk_atomAtHome hok)) memOkOpt_none

theorem memOkNext_execAtomicAtHome {n : Nat} {s : State} (hok : memOk s = true) : memOkNext (execAtomicAtHome n s) := by
  unfold execAtomicAtHome
  dsimp only
  refine memOkNext_next ?_
  split
  · refine memOk_ite ?_ hok
    split
    · exact memOk_atomAtHome hok
    · exact memOk_getD (memOkOpt_atomRun hok) hok
  · exact hok

theorem memOk_takeOld {s : State} {r : AtomReq} {l : AtomLane} {old : DWord × Bool} (hok : memOk s = true) :
    memOk (takeOld s r l old) = true := memOk_setStrand (memOk_replyLane hok) _ _

theorem memOkNext_execAtomicReply {n : Nat} {s : State} (hok : memOk s = true) : memOkNext (execAtomicReply n s) := by
  unfold execAtomicReply
  dsimp only
  refine memOkNext_next ?_
  split
  · exact memOk_foldl (fun _ _ ha => memOk_takeOld (memOk_ite (memOk_acquire ha) ha)) _ (memOk_replaceItem hok)
  · exact hok

theorem memOkNext_execRouterCombine {n m : Nat} {s : State} (hok : memOk s = true) : memOkNext (execRouterCombine n m s) := by
  unfold execRouterCombine
  refine memOkNext_next ?_
  split
  · exact memOk_ite (memOk_replaceItem (memOk_replaceItem hok)) hok
  · exact hok

/-! ## Uniform accesses (20 R346 to R349) -/

theorem memOk_groupRead {s : State} {x : Xl} {va n : Nat} (hok : memOk s = true) : memOk (groupRead s x va n).2 = true := by
  unfold groupRead
  dsimp only
  split
  · exact memOk_ctlRead hok
  · split
    · exact hok
    · exact memOk_leaveL1 hok

theorem memOk_groupReads {n : Nat} {xs : List (Nat × Xl)} {s : State} (hok : memOk s = true) : memOk (groupReads n xs s).2 = true := by
  induction xs generalizing s with
  | nil => exact hok
  | cons x t ih => exact ih (memOk_groupRead hok)

theorem memOk_readGroup {vas : List Nat} {n : Nat} {s : State} {k : State → List (List PByte) → State} (hok : memOk s = true)
    (hk : ∀ a x, memOk a = true → memOk (k a x) = true) :
    memOk (readGroup vas n s k) = true :=
  memOk_accessRange hok (fun _ _ ha => memOk_ite (memOk_stall ha _) (hk _ _ (memOk_groupReads ha)))

theorem memOk_checkStore {vas : List Nat} {s : State} {k : State → State} (hok : memOk s = true) (hk : ∀ a, memOk a = true → memOk
    (k a) = true) :
    memOk (checkStore vas s k) = true := memOk_accessRange hok (fun _ _ ha => hk _ ha)

theorem memOk_storeGroup {va : Nat} {ws : List DWord} {s : State} (hok : memOk s = true) : memOk (storeGroup va ws s) = true := by
  unfold storeGroup
  dsimp only
  refine memOk_foldl (fun _ _ ha => ?_) _ hok
  split
  · exact memOk_homePut (memOk_leaveL1 ha) _ _
  · exact ha

theorem memOk_expectGroup {s : State} {tag : Nat} (hok : memOk s = true) : memOk (expectGroup s tag) = true := memOk_mapStrands hok ..

theorem memOk_expectGroupStore {s : State} {tag : Nat} (hok : memOk s = true) : memOk (expectGroupStore s tag) = true :=
  memOk_mapStrands hok ..

theorem memOk_issueUld {d : Nat} {s : State} {va : Nat} {x : Xl} (hok : memOk s = true) : memOk (issueUld d s va x) = true :=
  memOk_ite (memOk_retire (memOk_setSkein hok _ _) _) (memOk_retire (memOk_send (memOk_expectGroup (memOk_toHomes hok))) _)

theorem memOkNext_execUld {d a : BitVec 5} {i : BitVec 14} {s : State} (hok : memOk s = true) : memOkNext (execUld d a i s) := by
  unfold execUld
  refine memOkNext_next ?_
  refine memOk_uniEnter hok _ _ _ _ _ _ ?_
  refine memOk_ite (memOk_stall hok _) ?_
  refine memOk_accessRange hok (fun _ _ ha => ?_)
  split
  · exact memOk_issueUld ha
  · exact ha

theorem memOk_issueUst {s : State} {va : Nat} {x : Xl} {bs : List Byte} (hok : memOk s = true) : memOk (issueUst s va x bs) = true :=
  memOk_ite (memOk_retire (memOk_keepStore (memOk_mapStrands hok ..)) _) (memOk_retire (memOk_send (memOk_expectGroupStore (memOk_toHomes
    (memOk_mapStrands hok ..)))) _)

theorem memOkNext_execUst {d a : BitVec 5} {i : BitVec 14} {s : State} (hok : memOk s = true) : memOkNext (execUst d a i s) := by
  unfold execUst
  refine memOkNext_next ?_
  refine memOk_uniEnter hok _ _ _ _ _ _ ?_
  refine memOk_ite (memOk_stall hok _) ?_
  refine memOk_accessRange hok (fun _ _ ha => ?_)
  split
  · exact memOk_issueUst ha
  · exact ha

/-! ## Copies (05) -/

theorem memOk_setCopy {s : State} {c : Copy} (hok : memOk s = true) : memOk (setCopy s c) = true := memOk_of_eq hok

theorem memOk_lowerCp {s : State} {sid ply : Nat} {ls : List (Nat × BitVec 4)} (hok : memOk s = true) :
    memOk (lowerCp s sid ply ls) = true := memOk_mapStrands hok ..

theorem memOk_dropCopy {s : State} {c : Copy} (hok : memOk s = true) : memOk (dropCopy s c) = true := memOk_lowerCp (memOk_of_eq hok)

theorem memOk_endCopy {s : State} {c : Copy} (hok : memOk s = true) : memOk (endCopy s c) = true :=
  memOk_dropCopy (memOk_ite (memOk_addCounter hok ..) hok)

theorem memOk_stopCopy {s : State} {c : Copy} {cause : Cause} {addr : DWord} (hok : memOk s = true) :
    memOk (stopCopy s c cause addr) = true := memOk_foldl (fun _ _ ha => memOk_setStrand ha _ _) _ (memOk_dropCopy hok)

theorem memOk_enterCopy {s : State} {c : Copy} (hok : memOk s = true) : memOk (enterCopy s c) = true :=
  memOk_ite (memOk_endCopy (memOk_of_eq hok)) (memOk_of_eq (memOk_of_eq hok))

theorem memOk_raiseCp {s : State} (hok : memOk s = true) : memOk (raiseCp s) = true := memOk_mapStrands hok ..

theorem memOk_issueCopy {c : Copy} {s : State} (hok : memOk s = true) : memOk (issueCopy c s) = true := by
  unfold issueCopy
  split
  · exact memOk_trapAll hok _ _
  · exact memOk_ite (memOk_stall hok _) (memOk_retire (memOk_enterCopy (memOk_raiseCp hok)) _)

theorem memOkOpt_copyPut {s : State} {red pa : Nat} {data : List PByte} (hok : memOk s = true) : memOkOpt (copyPut s red pa data) :=
  memOkOpt_homeWrite (memOk_ite hok (memOk_foldl (fun _ _ ha => memOk_fetchLine ha _) _ hok))

theorem memOk_flushRange {s : State} {core pa n : Nat} (hok : memOk s = true) : memOk (flushRange s core pa n) = true :=
  memOk_writeBack hok _

theorem memOk_sideRead {s : State} {c : Copy} {n : Nat} {side : Side} (hok : memOk s = true) : memOk (sideRead s c n side).2 = true := by
  unfold sideRead
  dsimp only
  split
  · exact hok
  · exact memOk_flushRange hok
  · exact hok

theorem memOk_readPieces {ps : List Piece} {s : State} {c : Copy} (hok : memOk s = true) : memOk (readPieces ps s c).1 = true := by
  induction ps generalizing s c with
  | nil => exact hok
  | cons x t ih =>
    cases x with
    | here a n side => exact ih (memOk_sideRead hok)
    | away slot x =>
      unfold readPieces
      split
      · exact ih hok
      · exact memOk_of_eq hok

theorem memOkOpt_sideWrite {s : State} {c : Copy} {data : List PByte} {side : Side} (hok : memOk s = true) :
    memOkOpt (sideWrite s c data side) := by
  unfold sideWrite
  dsimp only
  split
  · exact memOkOpt_some (memOk_setSkein hok _ _)
  · exact memOkOpt_copyPut (memOk_leaveRange hok)
  · exact memOkOpt_some hok

theorem memOk_pauseCopy {s : State} {c : Copy} {va entry kind : Nat} (hok : memOk s = true) :
    memOk (pauseCopy s c va entry kind) = true := by
  unfold pauseCopy
  dsimp only
  split
  · exact memOk_setCopy hok
  · exact memOk_setSkein (memOk_setCopy hok) _ _

theorem memOk_sendChunk {s : State} {c : Copy} {a : DWord} {data : List PByte} (hok : memOk s = true) :
    memOk (sendChunk s c a data) = true :=
  memOk_of_eq (s := setCopy s { c with state := .sent }) (memOk_setCopy hok)

theorem memOk_withPieces {s : State} {c : Copy} {ps : List Piece} {k : State → Copy → List PByte → State} (hok : memOk s = true)
    (hk : ∀ a x y, memOk a = true → memOk (k a x y) = true) :
    memOk (withPieces s c ps k) = true := memOk_ite (memOk_setCopy (memOk_readPieces hok)) (hk _ _ _ (memOk_readPieces hok))

theorem memOk_writeChunk {s : State} {c : Copy} {a : DWord} {n : Nat} {data : List PByte} {dst : Side} (hok : memOk s = true) :
    memOk (writeChunk s c a n data dst) = true := by
  unfold writeChunk
  dsimp only
  split
  · exact memOk_setCopy hok
  · rename_i t1 ht1
    exact memOk_setCopy ((memOkOpt_sideWrite (memOk_sideRead hok) t1 ht1))

theorem memOk_moveChunk {s : State} {c : Copy} {src dst : Side} (hok : memOk s = true) : memOk (moveChunk s c src dst) = true := by
  unfold moveChunk
  dsimp only
  refine memOk_withPieces hok (fun _ _ _ ha => ?_)
  split
  · exact memOk_sendChunk ha
  · exact memOk_writeChunk ha

theorem memOk_moveTree {s : State} {c : Copy} {n : Nat} {srcs : List Side} {dst : Side} (hok : memOk s = true) :
    memOk (moveTree s c n srcs dst) = true := memOk_withPieces hok (fun _ _ _ ha => memOk_writeChunk ha)

theorem memOk_keepSides {s : State} {c : Copy} {as : List (DWord × Side)} (hok : memOk s = true) : memOk (keepSides s c as) = true := by
  unfold keepSides
  dsimp only
  refine memOk_foldl (fun _ _ ha => ?_) _ hok
  split
  · exact memOk_ite (memOk_keepGrant ha) ha
  · exact ha

theorem memOkOpt_chunkStops {s : State} {c : Copy} {sides : List (Side × Nat)} {pin : Option (Nat × Nat)} (hok : memOk s = true) :
    memOkOpt (chunkStops s c sides pin) := by
  unfold chunkStops
  split
  · exact memOkOpt_some (memOk_pauseCopy hok)
  · exact memOkOpt_some (memOk_stopCopy hok)
  · exact memOkOpt_some (memOk_setCopy hok)
  · exact memOkOpt_some hok
  · exact memOkOpt_none

theorem memOkNext_execCopyChunk {n : Nat} {s : State} (hok : memOk s = true) : memOkNext (execCopyChunk n s) := by
  unfold execCopyChunk
  dsimp only
  refine memOkNext_next ?_
  split
  · exact hok
  · refine memOk_ite hok ?_
    split
    · exact memOk_ite hok (memOk_setCopy hok)
    · refine memOk_ite (memOk_ite (memOk_stopCopy hok) (memOk_sendChunk hok)) ?_
      refine memOk_ite hok ?_
      split
      · exact memOk_stopCopy hok
      · exact memOk_ite (memOk_ite hok (memOk_getD (memOkOpt_chunkStops hok) (memOk_moveTree (memOk_keepSides hok)))) (memOk_ite hok
            (memOk_getD (memOkOpt_chunkStops hok) (memOk_moveChunk (memOk_keepSides hok))))
    · exact hok

theorem memOkNext_execCopyComplete {n : Nat} {s : State} (hok : memOk s = true) : memOkNext (execCopyComplete n s) := by
  unfold execCopyComplete
  refine memOkNext_next ?_
  split
  · exact hok
  · split
    · exact memOk_ite (memOk_endCopy hok) hok
    · exact hok
    · exact memOk_ite (memOk_endCopy hok) hok
    · exact hok

theorem memOkNext_execFabricRefusal {tag cause addr : Nat} {s : State} (hok : memOk s = true) :
    memOkNext (execFabricRefusal tag cause addr s) := by
  unfold execFabricRefusal
  refine memOkNext_next ?_
  split
  · exact hok
  · exact memOk_stopCopy hok

theorem memOk_countRetry {s : State} {core : Nat} (hok : memOk s = true) : memOk (countRetry s core) = true := memOk_setIo hok _ _

theorem memOkNext_execCopyResendOnRetry {tag : Nat} {s : State} (hok : memOk s = true) : memOkNext (execCopyResendOnRetry tag s) := by
  unfold execCopyResendOnRetry
  dsimp only
  refine memOkNext_next ?_
  split
  · exact hok
  · exact memOk_countRetry (memOk_of_eq hok)

/-! ## Collectives (11) -/

theorem memOk_unbind {s : State} (hok : memOk s = true) :
    memOk (unbind s) = true := by
  unfold unbind
  dsimp only
  split
  · exact hok
  · rename_i l _
    split
    · exact memOk_setLaunch hok
    · exact memOk_of_eq (s := setLaunch s { l with bound := none, handle := 0 }) (memOk_setLaunch hok)

theorem memOk_bindHandle {va : DWord} {s : State} (hok : memOk s = true) : memOk (bindHandle va s) = true := by
  unfold bindHandle
  dsimp only
  refine memOk_ite (memOk_trapAll hok _ _) ?_
  refine memOk_readGroup hok (fun _ _ ha => ?_)
  refine memOk_ite (memOk_trapAll ha _ _) ?_
  refine memOk_retire ?_ _
  split
  · exact memOk_setLaunch (memOk_of_eq ha)
  · exact memOk_of_eq ha

theorem memOkNext_execCollh {a : BitVec 5} {s : State} (hok : memOk s = true) : memOkNext (execCollh a s) :=
  memOkNext_uniEnter hok (memOk_ite (memOk_stall hok _) (memOk_ite (memOk_retire (memOk_unbind hok) _) (memOk_bindHandle
    (memOk_unbind hok))))

theorem memOkNext_execCollhAbort {d : BitVec 5} {s : State} (hok : memOk s = true) : memOkNext (execCollhAbort d s) := by
  unfold execCollhAbort
  dsimp only
  refine memOkNext_next ?_
  refine memOk_uniEnter hok _ _ _ _ _ _ ?_
  split
  · exact memOk_trapAll hok _ _
  · exact memOk_ite (memOk_stall hok _) (memOk_retire (memOk_setWReg (memOk_of_eq (memOk_mapStrands hok ..))) _)

theorem memOkNext_execCollhTree {d a b : BitVec 5} {c : BitVec 6} {e : BitVec 1} {s : State} (hok : memOk s = true) :
    memOkNext (execCollhTree d a b c e s) := by
  unfold execCollhTree
  dsimp only
  refine memOkNext_next ?_
  refine memOk_uniEnter hok _ _ _ _ _ _ ?_
  split
  · exact memOk_trapAll hok _ _
  · exact memOk_ite (memOk_trapAll hok _ _) (memOk_ite (memOk_trapAll hok _ _) (memOk_ite (memOk_trapAll hok _ _) (memOk_ite
        (memOk_trapAll hok _ _) (memOk_ite (memOk_trapAll hok _ _) (memOk_ite (memOk_trapAll hok _ _) (memOk_ite (memOk_stall hok _)
        (memOk_retire (memOk_enterCopy (memOk_raiseCp hok)) _)))))))

theorem memOk_collTrap {s : State} {bad : List (Nat × Cause × DWord)} (hok : memOk s = true) : memOk (collTrap s bad) = true :=
  memOk_trapGroup hok _

theorem memOk_sendColl {s : State} {g : Guard} {e : CollEntry} {op : BitVec 2} {ls : List (Nat × Nat × Nat × Word)} {pkgs : List Nat}
    (hok : memOk s = true) :
    memOk (sendColl s g e op ls pkgs) = true := memOk_retire (memOk_of_eq (memOk_mapStrands hok ..)) _

theorem memOk_collLookup {e : CollEntry} {ls : List (Nat × Nat × Nat × Word)} {s : State} {k : State → List Nat → State}
    (hok : memOk s = true) (hk : ∀ a x, memOk a = true → memOk (k a x) = true) :
    memOk (collLookup e ls s k) = true :=
  memOk_accessLanes hok (fun _ _ ha => memOk_ite (memOk_stall ha _) (memOk_ite (hk _ _ (memOk_groupReads ha)) (memOk_collTrap
    (memOk_groupReads ha))))

theorem memOkNext_execColl {g : Guard} {d a b : BitVec 6} {o : BitVec 2} {s : State} (hok : memOk s = true) :
    memOkNext (execColl g d a b o s) := by
  unfold execColl
  dsimp only
  refine memOkNext_next ?_
  refine memOk_laneEnter hok _ ?_
  refine memOk_ite (memOk_retire hok _) ?_
  refine memOk_ite (memOk_stall hok _) ?_
  split
  · exact memOk_collTrap hok
  · exact memOk_ite (memOk_collTrap hok) (memOk_collLookup hok (fun _ _ ha => memOk_sendColl ha))

theorem memOkNext_execCollPacketAck {tag package : Nat} {ans : CollAnswer} {s : State} (hok : memOk s = true) :
    memOkNext (execCollPacketAck tag package ans s) := by
  unfold execCollPacketAck
  refine memOkNext_next ?_
  split
  · exact hok
  · extract_lets a c'
    have ha : memOk a = true := by
      simp only [a]
      split
      · exact hok
      · exact memOk_foldl (fun _ _ hb => memOk_ite hb (memOk_setStrand hb _ _)) _ hok
    exact memOk_ite hok (memOk_ite (memOk_lowerCp (memOk_of_eq ha)) (memOk_of_eq ha))

theorem memOkNext_execCollRetryResend {tag package : Nat} {s : State} (hok : memOk s = true) :
    memOkNext (execCollRetryResend tag package s) := by
  unfold execCollRetryResend
  dsimp only
  refine memOkNext_next ?_
  split
  · exact memOk_countRetry (memOk_of_eq hok)
  · exact hok

/-! ## Instruction fetch (08) -/

theorem memOk_fetchAt {s : State} {k : Skein} {m : Mode} {va : Nat} (hok : memOk s = true) : memOk (fetchAt s k m va).2.2 = true := by
  unfold fetchAt
  dsimp only
  split
  · exact hok
  · split
    · exact memOk_fillTlb hok
    · exact memOk_of_eq (memOk_fillTlb hok)

theorem memOk_fetchFail {s : State} {va : Nat} {c : Cause} {entry : Nat} (hok : memOk s = true) :
    memOk (fetchFail s va c entry) = true := by
  unfold fetchFail
  split
  · exact memOk_pageSave hok
  · exact memOk_trapAll hok _ _

theorem memOk_withFetch {vas : List Nat} {s : State} {k : State → List Word → State} (hok : memOk s = true)
    (hk : ∀ a x, memOk a = true → memOk (k a x) = true) : memOk (withFetch vas s k) = true := by
  induction vas generalizing s k with
  | nil => exact hk s [] hok
  | cons v t ih =>
    unfold withFetch
    dsimp only
    split
    · exact memOk_fetchFail (memOk_fetchAt hok)
    · exact ih (memOk_fetchAt hok) (fun a _ ha => hk a _ ha)

/-! ## Control flow (21) -/

theorem memOk_regroup {s : State} (hok : memOk s = true) : memOk (regroup s) = true := memOk_ite hok (memOk_splitPart hok ..)

theorem memOk_steer {s : State} {f : Nat → Strand → Strand} (hok : memOk s = true) : memOk (steer s f) = true :=
  memOk_tick (memOk_regroup (memOk_mapStrands hok ..))

theorem memOk_runTurns {i : Instr} {f : Strand → Turning} {s : State} (hok : memOk s = true) : memOk (runTurns i f s) = true :=
  memOk_ite (memOk_trapAll hok _ _) (memOk_withFetch hok (fun _ _ ha => memOk_withFetch ha (fun _ _ hb => memOk_steer hb)))

theorem memOk_tableJump {i : Instr} {x : BitVec 6} {off : BitVec 18} {callt : Bool} {s : State} (hok : memOk s = true) :
    memOk (tableJump i x off callt s) = true :=
  memOk_uniEnter hok _ _ _ _ _ _ (memOk_ite (memOk_trapAll hok _ _) (memOk_ite (memOk_stall hok _) (memOk_ite (memOk_trapGroup hok _)
    (memOk_withFetch hok (fun _ _ ha => memOk_ite (memOk_trapGroup ha _) (memOk_ite (memOk_trapGroup ha _) (memOk_ite
    (memOk_trapAll ha _ _) (memOk_withFetch ha (fun _ _ hb => memOk_steer hb)))))))))

/-! ## Cross-lane words (19) -/

theorem memOk_cross {f : LaneForm} {op : State → Nat → LaneOut} {s : State} (hok : memOk s = true) : memOk (cross f op s) = true :=
  memOk_laneEnter hok _ (memOk_retire (memOk_mapStrands hok ..) _)

theorem memOk_reduce {f : LaneForm} {d a op : Nat} {val : State → Nat → RedVal} {s : State} (hok : memOk s = true) :
    memOk (reduce f d a op val s) = true := memOk_laneEnter hok _ (memOk_retire (memOk_mapStrands hok ..) _)

theorem memOk_indirect {f : LaneForm} {a : Nat} {s : State} {k : State → State} (hok : memOk s = true) (hk : ∀ a, memOk a = true → memOk
    (k a) = true) :
    memOk (indirect f a s k) = true :=
  memOk_laneEnter hok _ (memOk_ite (memOk_stall hok _) (memOk_ite (memOk_trapGroup hok _) (hk _ hok)))

theorem memOkNext_execRdi {g : Guard} {d a : BitVec 6} {h : BitVec 1} {s : State} (hok : memOk s = true) :
    memOkNext (execRdi g d a h s) :=
  memOkNext_next (memOk_indirect hok (fun _ ha => memOk_ite (memOk_trapGroup ha _) (memOk_retire (memOk_mapStrands ha ..) _)))

/-! ## Save images (07) -/

theorem memOkOpt_ctxWrite {p ctx va : Nat} {ws : List DWord} {s : State} (hok : memOk s = true) : memOkOpt (ctxWrite p ctx va ws s) := by
  induction ws generalizing s va with
  | nil => exact memOkOpt_some hok
  | cons w t ih =>
    unfold ctxWrite
    split
    · exact ih (memOk_homePut hok _ _)
    · exact memOkOpt_none

theorem memOk_imagePatch {s : State} {k : Skein} {off : Nat} {ws : List DWord} (hok : memOk s = true) :
    memOk (imagePatch s k off ws) = true := memOk_getD (memOkOpt_ctxWrite hok) hok

theorem memOk_imagePut {s : State} {k : Skein} {off : Nat} {bs : List PByte} (hok : memOk s = true) :
    memOk (imagePut s k off bs) = true := by
  unfold imagePut
  split
  · exact memOk_homePut hok _ _
  · exact hok

/-! ## Field memory (03) -/

theorem memOk_putCell {s : State} {d : Domain} {pa : Nat} {v : Int} (hok : memOk s = true) : memOk (putCell s d pa v) = true :=
  memOk_writeMem hok _ _

theorem memOk_debitCell {s : State} {d : Domain} {c m pa : Nat} (hok : memOk s = true) : memOk (debitCell s d c m pa) = true :=
  memOk_ite (memOk_setDomain hok) (memOk_putCell hok)

theorem memOk_creditCell {s : State} {key c m pa : Nat} (hok : memOk s = true) : memOk (creditCell s key c m pa) = true := by
  unfold creditCell
  split
  · exact hok
  · exact memOk_ite (memOk_setDomain hok) (memOk_putCell hok)

theorem memOk_refundCell {s : State} {key c m : Nat} (hok : memOk s = true) : memOk (refundCell s key c m) = true := by
  unfold refundCell
  split
  · exact hok
  · refine memOk_ite (memOk_setDomain hok) ?_
    split
    · exact memOk_putCell hok
    · exact hok

theorem memOk_trapOne {s : State} {sid ply n : Nat} {i : TrapInfo} (hok : memOk s = true) : memOk (trapOne s sid ply n i) = true := by
  unfold trapOne
  extract_lets ps a
  have ha : memOk a = true := memOk_setParts hok
  exact memOk_trapEntry (memOk_ite (memOk_of_eq ha) ha) _ _

theorem memOk_finishDebits {s : State} {o : Origin} {n : Nat} (hok : memOk s = true) : memOk (finishDebits s o n) = true := by
  unfold finishDebits
  dsimp only
  refine memOk_ite hok ?_
  refine memOk_foldl (fun _ _ ha => ?_) _ (memOk_mapStrands hok ..)
  split
  · exact memOk_trapOne ha
  · exact ha

theorem memOk_decideLane {s : State} {x : XferLane} {wide : Bool} {r : Debit} {settled : Bool} (hok : memOk s = true) :
    memOk (decideLane s x wide r settled) = true := memOk_finishDebits (memOk_setStrand hok _ _)

theorem memOk_settleLane {s : State} {o : Origin} {lane cause : Nat} (hok : memOk s = true) : memOk (settleLane s o lane cause) = true :=
  memOk_ite (memOk_of_eq hok) (memOk_ite (memOk_imagePatch (memOk_setStrand hok _ _)) (memOk_setStrand hok _ _))

theorem memOk_sendCredit {s : State} {d : Domain} {x : XferLane} {m home fromPa : Nat} (hok : memOk s = true) :
    memOk (sendCredit s d x m home fromPa) = true :=
  memOk_ite (memOk_of_eq (memOk_of_eq (memOk_debitCell hok))) (memOk_of_eq (memOk_of_eq (memOk_debitCell hok)))

theorem memOk_debitHere {s : State} {d : Domain} {x : XferLane} (hok : memOk s = true) :
    memOk (debitHere s d x).2.2 = true := by
  unfold debitHere
  split
  · exact hok
  · split
    · exact hok
    · extract_lets home toPa both
      split
      · exact hok
      · split
        · exact memOk_creditCell (memOk_debitCell hok)
        · exact memOk_sendCredit hok

theorem memOk_tell {s : State} {dst part tag : Nat} {b : FabBody} (hok : memOk s = true) : memOk (tell s dst part tag b) = true :=
  memOk_of_eq hok

theorem memOk_creditHere {s : State} {key : Nat} {outside : Bool} {r : FieldRec} (hok : memOk s = true) :
    memOk (creditHere s key outside r).2 = true := by
  unfold creditHere
  split
  · exact hok
  · split
    · exact hok
    · split
      · exact memOk_creditCell hok
      · exact hok

theorem memOkNext_execXferCredit {n : Nat} {s : State} (hok : memOk s = true) : memOkNext (execXferCredit n s) := by
  unfold execXferCredit
  dsimp only
  refine memOkNext_next ?_
  split
  · exact memOk_replaceItem (memOk_creditHere hok)
  · exact hok

theorem memOk_dropTransit {s : State} {dom home : Nat} {r : FieldRec} {o : Origin} (hok : memOk s = true) :
    memOk (dropTransit s dom home r o) = true := by
  unfold dropTransit
  split
  · exact memOk_of_eq hok
  · exact hok

theorem memOk_putDecl {s : State} {core : Nat} {d : Domain} {f : Nat → Nat} (hok : memOk s = true) :
    memOk (putDecl s core d f) = true := by
  unfold putDecl
  dsimp only
  split
  · exact memOk_homePut (memOk_leaveL1 hok) _ _
  · exact hok

theorem memOk_wake {s : State} {w : Nat × Nat × List Nat × Nat} {v : DWord} (hok : memOk s = true) : memOk (wake s w v) = true :=
  memOk_mapStrands (memOk_setSkein hok _ _) ..

theorem memOk_wakeBack {s : State} {w : Nat × Nat × List Nat × Nat} {again : Bool} {eaddr : DWord} (hok : memOk s = true) :
    memOk (wakeBack s w again eaddr) = true :=
  memOk_ite (memOk_mapStrands hok ..) (memOk_foldl (fun _ _ ha => memOk_ite (memOk_trapOne ha) ha) _ (memOk_mapStrands hok ..))

theorem memOk_unmark {s : State} {d : Domain} (hok : memOk s = true) : memOk (unmark s d) = true := memOk_of_eq hok

theorem memOk_dropDomain {s : State} {d : Domain} (hok : memOk s = true) : memOk (dropDomain s d) = true :=
  memOk_of_eq (s := unmark s d) (memOk_unmark hok)

theorem memOk_announce {s : State} {dst : List Nat} {m : DomainMsg} (hok : memOk s = true) : memOk (announce s dst m) = true :=
  memOk_of_eq hok

theorem memOk_finishDeclare {s : State} {d : Domain} (hok : memOk s = true) : memOk (finishDeclare s d) = true := by
  unfold finishDeclare
  extract_lets a b
  have ha : memOk a = true := memOk_putDecl (memOk_setDomain hok)
  have hb : memOk b = true := memOk_of_eq ha
  split
  · exact memOk_wake hb
  · exact hb

theorem memOk_finishUndo {s : State} {d : Domain} (hok : memOk s = true) : memOk (finishUndo s d) = true := by
  unfold finishUndo
  dsimp only
  split
  · exact memOk_wakeBack (memOk_of_eq (s := dropDomain s d) (memOk_dropDomain hok))
  · exact memOk_of_eq (s := dropDomain s d) (memOk_dropDomain hok)

theorem memOk_finishRetire {s : State} {d : Domain} (hok : memOk s = true) : memOk (finishRetire s d) = true := by
  unfold finishRetire
  dsimp only
  split
  · exact memOk_wake (memOk_ite (memOk_putDecl (memOk_dropDomain hok)) (memOk_dropDomain hok))
  · exact memOk_ite (memOk_putDecl (memOk_dropDomain hok)) (memOk_dropDomain hok)

theorem memOk_domainStep {s : State} {key : Nat} (hok : memOk s = true) : memOk (domainStep s key) = true := by
  unfold domainStep
  split
  · exact hok
  · rename_i d _
    refine memOk_ite ?_ (memOk_ite hok ?_)
    · split
      · exact memOk_ite hok (memOk_ite (memOk_finishRetire hok) (memOk_announce (memOk_setDomain hok)))
      · exact hok
    · extract_lets spid
      split
      · split
        · exact memOk_ite (memOk_finishUndo hok) (memOk_announce (memOk_setDomain hok))
        · exact memOk_ite (memOk_finishDeclare hok) (memOk_announce (memOk_setDomain hok))
      · exact hok
      · exact memOk_finishDeclare hok
      · exact hok
      · exact memOk_finishUndo hok
      · exact memOk_ite hok (memOk_ite (memOk_finishRetire hok) (memOk_announce (memOk_setDomain hok)))
      · exact memOk_finishRetire hok

theorem memOk_debitFor {s : State} {d : Domain} {x : XferLane} (hok : memOk s = true) : memOk (debitFor s d x) = true :=
  memOk_domainStep (memOk_foldl (fun _ _ ha => memOk_tell ha) _ (memOk_of_eq (memOk_debitHere hok)))

theorem memOkNext_execXferDebit {n : Nat} {s : State} (hok : memOk s = true) : memOkNext (execXferDebit n s) := by
  unfold execXferDebit
  dsimp only
  refine memOkNext_next ?_
  split
  · split
    · split
      · exact memOk_decideLane (memOk_replaceItem hok)
      · exact memOk_tell (memOk_replaceItem hok)
      · exact hok
    · split
      · exact memOk_ite hok (memOk_ite (memOk_tell (memOk_replaceItem hok)) (memOk_ite hok (memOk_domainStep (memOk_decideLane
            (memOk_debitHere (memOk_replaceItem hok))))))
      · exact memOk_ite hok (memOk_debitFor (memOk_replaceItem hok))
      · exact hok
  · exact hok

theorem memOkNext_execXferCreditAck {n : Nat} {s : State} (hok : memOk s = true) : memOkNext (execXferCreditAck n s) := by
  unfold execXferCreditAck
  refine memOkNext_next ?_
  split
  · exact memOk_domainStep (memOk_settleLane (memOk_dropTransit (memOk_replaceItem hok)))
  · exact hok

theorem memOkNext_execXferCreditRefusal {n : Nat} {s : State} (hok : memOk s = true) : memOkNext (execXferCreditRefusal n s) := by
  unfold execXferCreditRefusal
  dsimp only
  refine memOkNext_next ?_
  split
  · exact memOk_domainStep (memOk_settleLane (memOk_refundCell (memOk_dropTransit (memOk_replaceItem hok))))
  · exact hok

theorem memOk_cellChecks {s : State} {g : Guard} {d : BitVec 6} {cells : List (BitVec 6)} {xfer : Bool} {word : DWord} {k : State → State}
    (hok : memOk s = true) (hk : ∀ a, memOk a = true → memOk (k a) = true) :
    memOk (cellChecks s g d cells xfer word k) = true := by
  unfold cellChecks
  dsimp only
  refine memOk_ite (hk _ hok) ?_
  split
  · exact memOk_pageSave hok
  · exact memOk_trapGroup hok _

theorem memOkNext_execXfer {g : Guard} {d a b : BitVec 6} {m : BitVec 1} {s : State} (hok : memOk s = true) :
    memOkNext (execXfer g d a b m s) :=
  memOkNext_next (memOk_laneEnter hok _ (memOk_ite (memOk_stall hok _) (memOk_cellChecks hok (fun _ ha => memOk_mapStrands (memOk_retire
    (memOk_send ha) _) ..))))

theorem memOkNext_execFld {g : Guard} {d a : BitVec 6} {h : BitVec 2} {s : State} (hok : memOk s = true) :
    memOkNext (execFld g d a h s) :=
  memOkNext_next (memOk_laneEnter hok _ (memOk_ite (memOk_stall hok _) (memOk_cellChecks hok (fun _ ha => memOk_retire (memOk_send
    (memOk_expectReplies ha)) _))))

theorem memOkNext_execFtot {d a : BitVec 5} {f : BitVec 2} {s : State} (hok : memOk s = true) : memOkNext (execFtot d a f s) := by
  unfold execFtot
  dsimp only
  refine memOkNext_next ?_
  refine memOk_uniEnter hok _ _ _ _ _ _ ?_
  refine memOk_ite (memOk_trapAll hok _ _) ?_
  split
  · exact memOk_trapAll hok _ _
  · exact memOk_ite (memOk_trapAll hok _ _) (memOk_ite (memOk_stall hok _) (memOk_ite (memOk_retire (memOk_setSkein hok _ _) _)
        (memOk_stall (memOk_of_eq (s := send s
  [Item.totalAsk s.seq s.cur.sid s.cur.ply (grp s) d.toNat f.toNat
      (if a = 0 then
        (curStrand s ((grp s).headD 0)).dom
      else wReg s a.toNat)]) (memOk_send hok)) _)))

theorem memOk_markField {s : State} {d : Domain} (hok : memOk s = true) : memOk (markField s d) = true :=
  memOk_foldl (fun _ _ ha => memOk_withFieldFrames (memOk_foldl (fun _ _ hb => memOk_ite (memOk_dropLine hb _) hb) _ ha)) _ hok

theorem memOk_declare {s : State} {dst : Nat} {ws : List DWord} {d : Domain} (hok : memOk s = true) : memOk (declare s dst ws d) = true :=
  memOk_domainStep (memOk_announce (memOk_stall (memOk_markField (memOk_of_eq hok)) _))

theorem memOkNext_execFdecl {d a : BitVec 5} {s : State} (hok : memOk s = true) : memOkNext (execFdecl d a s) :=
  memOkNext_uniEnter hok (memOk_ite (memOk_trapAll hok _ _) (memOk_readGroup hok (fun _ _ ha => memOk_ite (memOk_trapAll ha _ _)
    (memOk_ite (memOk_trapAll ha _ _) (memOk_readGroup ha (fun _ _ hb => memOk_readGroup hb (fun _ _ hc => memOk_checkStore hc
    (fun _ hd => memOk_ite (memOk_stall hd _) (memOk_ite (memOk_trapAll hd _ _) (memOk_declare hd))))))))))

theorem memOk_startRetire {s : State} {d : Domain} {waiter : Option (Nat × Nat × List Nat × Nat)} (hok : memOk s = true) :
    memOk (startRetire s d waiter) = true := memOk_domainStep (memOk_announce (memOk_announce (memOk_setDomain hok)))

theorem memOkNext_execFdeclRetire {d a : BitVec 5} {s : State} (hok : memOk s = true) : memOkNext (execFdeclRetire d a s) := by
  unfold execFdeclRetire
  dsimp only
  refine memOkNext_next ?_
  refine memOk_uniEnter hok _ _ _ _ _ _ ?_
  refine memOk_ite (memOk_trapAll hok _ _) ?_
  refine memOk_readGroup hok (fun _ _ ha => ?_)
  refine memOk_checkStore ha (fun _ hb => ?_)
  split
  · exact memOk_trapAll hb _ _
  · exact memOk_ite (memOk_trapAll hb _ _) (memOk_startRetire (memOk_stall hb _))

theorem memOk_takeCopy {s : State} {src spid slot handle ctx : Nat} {ws : List DWord} (hok : memOk s = true) :
    memOk (takeCopy s src spid slot handle ctx ws) = true := by
  unfold takeCopy
  dsimp only
  split
  · exact memOk_announce hok
  · split
    · exact memOk_announce hok
    · exact memOk_ite (memOk_announce hok) (memOk_announce (memOk_markField (memOk_of_eq hok)))

theorem memOk_takeAnswer {s : State} {spid slot package part : Nat} {f : Domain → Domain} (hok : memOk s = true) :
    memOk (takeAnswer s spid slot package part f) = true := by
  unfold takeAnswer
  split
  · exact hok
  · exact memOk_ite (memOk_domainStep (memOk_setDomain hok)) hok

theorem memOk_takeTotal {s : State} {src spid slot sum : Nat} (hok : memOk s = true) : memOk (takeTotal s src spid slot sum) = true := by
  unfold takeTotal
  dsimp only
  refine memOk_announce ?_
  split
  · exact memOk_ite (memOk_setDomain hok) hok
  · exact hok

theorem memOk_takeDrain {s : State} {src spid slot : Nat} (hok : memOk s = true) : memOk (takeDrain s src spid slot) = true := by
  unfold takeDrain
  split
  · exact memOk_ite (memOk_domainStep (memOk_setDomain hok)) (memOk_announce hok)
  · exact memOk_announce hok

theorem memOk_takeRelease {s : State} {src spid slot : Nat} (hok : memOk s = true) : memOk (takeRelease s src spid slot) = true := by
  unfold takeRelease
  dsimp only
  refine memOk_announce ?_
  split
  · exact memOk_ite (memOk_finishRetire hok) hok
  · exact hok

theorem memOkNext_execDomainDescriptorCopy {msg : DomainMsg} {s : State} (hok : memOk s = true) :
    memOkNext (execDomainDescriptorCopy msg s) := by
  unfold execDomainDescriptorCopy
  refine memOkNext_next ?_
  split
  · exact memOk_takeCopy hok
  · exact memOk_takeTotal hok
  · exact memOk_takeDrain hok
  · exact memOk_takeRelease hok
  · split
    · exact memOk_ite (memOk_startRetire hok) hok
    · exact hok
  · exact memOk_takeAnswer hok
  · exact memOk_takeAnswer hok

/-! ## Register allocation (07) -/

theorem memOk_growBy {s : State} {sid n : Nat} (hok : memOk s = true) : memOk (growBy s sid n) = true := memOk_setSkein hok _ _

theorem memOkNext_execRgrow {a : BitVec 5} {s : State} (hok : memOk s = true) : memOkNext (execRgrow a s) :=
  memOkNext_uniEnter hok (memOk_ite (memOk_trapAll hok _ _) (memOk_ite (memOk_retire (memOk_growBy hok) _) (memOk_stall hok _)))

theorem memOkNext_execRgtry {d a : BitVec 5} {s : State} (hok : memOk s = true) : memOkNext (execRgtry d a s) :=
  memOkNext_uniEnter hok (memOk_ite (memOk_trapAll hok _ _) (memOk_ite (memOk_retire (memOk_setWReg (memOk_growBy hok)) _) (memOk_retire
    (memOk_setWReg hok) _)))

theorem memOkNext_execRshrk {a : BitVec 5} {s : State} (hok : memOk s = true) : memOkNext (execRshrk a s) :=
  memOkNext_uniEnter hok (memOk_ite (memOk_trapAll hok _ _) (memOk_ite (memOk_stall hok _) (memOk_retire (memOk_setSkein (memOk_foldl
    (fun _ _ ha => memOk_setStrand ha _ _) _ hok) _ _) _)))

theorem memOk_grantAll {rs : List (Nat × Nat × Nat × Nat)} {s : State} (hok : memOk s = true) : memOk (grantAll rs s) = true := by
  induction rs generalizing s with
  | nil => exact hok
  | cons x t ih => exact memOk_ite (ih (memOk_mapStrands hok ..)) (memOk_ite (ih (memOk_mapStrands (memOk_growBy hok) ..)) hok)

theorem memOkNext_execRgrowDeadlockBreak {core : Nat} {s : State} (hok : memOk s = true) : memOkNext (execRgrowDeadlockBreak core s) := by
  unfold execRgrowDeadlockBreak
  dsimp only
  refine memOkNext_next ?_
  refine memOk_ite ?_ hok
  split
  · exact memOk_setSkein hok _ _
  · exact hok

/-! ## Fabric ingress (11) -/

theorem memOk_keepPort {s : State} {p src off : Nat} {t : Xl} (hok : memOk s = true) : memOk (keepPort s p src off t) = true :=
  memOk_ite (memOk_keepGrant hok) hok

theorem memOk_markApplied {s : State} {src kind tag : Nat} (hok : memOk s = true) : memOk (markApplied s src kind tag) = true :=
  memOk_of_eq hok

theorem memOk_holdIn {s : State} {p ctx src : Nat} {b : HeldBody} {spots : List (Nat × Nat × Nat × Bool)} (hok : memOk s = true) :
    memOk (holdIn s p ctx src b spots) = true := memOk_ite hok (memOk_of_eq hok)

theorem memOk_holdAccess {s : State} {p src : Nat} {b : HeldBody} {spots : List (Nat × Nat × Nat × Bool)} (hok : memOk s = true) :
    memOk (holdAccess s p src b spots) = true := memOk_holdIn hok

theorem memOk_unhold {s : State} {b : HeldBody} (hok : memOk s = true) : memOk (unhold s b) = true := memOk_of_eq hok

theorem memOk_answer {s : State} {pkt : FabPkt} {ok : Bool} {cause addr : Nat} (hok : memOk s = true) :
    memOk (answer s pkt ok cause addr) = true := memOk_unhold (memOk_of_eq hok)

theorem memOkOpt_performPut {s : State} {pkt : FabPkt} {red : Nat} {bytes : List PByte} {last : Bool} {count : Option (Nat × Nat)}
    {pa : Option Nat} (hok : memOk s = true) : memOkOpt (performPut s pkt red bytes last count pa) := by
  unfold performPut
  refine memOkOpt_map ?_ (fun a ha => ?_)
  · split
    · exact memOkOpt_some hok
    · exact memOkOpt_copyPut (memOk_foldl (fun _ _ hb => memOk_leaveRange hb) _ hok)
  · refine memOk_answer (memOk_markApplied ?_)
    split
    · exact memOk_ite (memOk_addCounter ha _ _ _) ha
    · exact ha

theorem memOk_ingressPut {s : State} {pkt : FabPkt} {red : Nat} {bytes : List PByte} {last rce : Bool} {rcnt rcore : Nat}
    (hok : memOk s = true) :
    memOk (ingressPut s pkt red bytes last rce rcnt rcore) = true := by
  unfold ingressPut
  dsimp only
  split
  · exact memOk_answer hok
  · refine memOk_ite (memOk_answer hok) ?_
    refine memOk_ite (memOk_answer hok) ?_
    refine memOk_ite (memOk_getD (memOkOpt_performPut hok) hok) ?_
    split
    · exact memOk_ite (memOk_getD (memOkOpt_performPut hok) hok) hok
    · split
      · exact memOk_getD (memOkOpt_ite memOkOpt_none (memOkOpt_performPut (memOk_ite hok (memOk_keepPort hok)))) (memOk_holdAccess
            (memOk_ite hok (memOk_keepPort hok)))
      · exact memOk_answer hok
      · exact hok

theorem memOk_reply {s : State} {pkt : FabPkt} {b : FabBody} (hok : memOk s = true) : memOk (reply s pkt b) = true := memOk_of_eq hok

theorem memOk_ingressDebit {s : State} {pkt : FabPkt} {r : FieldRec} {clip : Bool} (hok : memOk s = true) :
    memOk (ingressDebit s pkt r clip) = true := by
  unfold ingressDebit
  dsimp only
  split
  · exact memOk_foldl (fun _ _ ha => memOk_reply ha) _ hok
  · split
    · exact memOk_reply hok
    · exact memOk_ite hok (memOk_ite (memOk_of_eq hok) (memOk_debitFor hok))

theorem memOk_applyCredits {src home p n : Nat} {r : FieldRec} {s : State} (hok : memOk s = true) :
    memOk (applyCredits src home p n r s) = true := by
  induction n generalizing r s with
  | zero => exact hok
  | succ n ih =>
    unfold applyCredits
    extract_lets x u a pk v
    have hx : memOk x.2 = true := by
      simp only [x]
      split
      · exact hok
      · exact memOk_creditHere hok
    have hv : memOk v = true := memOk_of_eq (s := x.2) hx
    split
    · exact hv
    · exact ih (memOk_of_eq hv)

theorem memOk_ingressCredit {s : State} {pkt : FabPkt} {home : Nat} {r : FieldRec} (hok : memOk s = true) :
    memOk (ingressCredit s pkt home r) = true := by
  unfold ingressCredit
  dsimp only
  split
  · exact hok
  · exact memOk_ite (memOk_reply hok) (memOk_ite (memOk_applyCredits hok) (memOk_ite hok (memOk_of_eq hok)))

theorem memOk_ingressCredited {s : State} {home : Nat} {r : FieldRec} {cause : Nat} (hok : memOk s = true) :
    memOk (ingressCredited s home r cause) = true := by
  unfold ingressCredited
  dsimp only
  split
  · exact hok
  · exact memOk_domainStep (memOk_settleLane (memOk_ite (memOk_dropTransit hok) (memOk_refundCell (memOk_dropTransit hok))))

theorem memOk_refuseTotal {s : State} {i : Item} (hok : memOk s = true) : memOk (refuseTotal s i) = true := by
  unfold refuseTotal
  split
  · exact memOk_wakeBack (memOk_of_eq hok)
  · exact hok

theorem memOk_ingressSettled {s : State} {tag cause : Nat} (hok : memOk s = true) : memOk (ingressSettled s tag cause) = true := by
  unfold ingressSettled
  split
  · exact hok
  · exact memOk_domainStep (memOk_settleLane (memOk_of_eq hok))

theorem memOk_copyValue {s : State} {tag off v : Nat} (hok : memOk s = true) : memOk (copyValue s tag off v) = true := by
  unfold copyValue
  split
  · exact memOk_setCopy hok
  · exact hok

theorem memOk_ingressValue {s : State} {tag off v : Nat} (hok : memOk s = true) :
    memOk (ingressValue s tag off v) = true := by
  unfold ingressValue
  split
  · rename_i o acc uni p slot c t sent _
    extract_lets r
    exact memOk_of_eq (s := replaceItem s (s.flight.idxOf (.fieldAsk o acc uni p slot (c :: t) sent)) [r.1]) (memOk_replaceItem hok)
  · exact memOk_copyValue hok

theorem memOk_refuseRead {s : State} {tag off cause : Nat} (hok : memOk s = true) : memOk (refuseRead s tag off cause) = true := by
  unfold refuseRead
  split
  · exact memOk_stopCopy hok
  · exact memOk_ingressValue hok

theorem memOk_ingressMoved {s : State} {tag off moved cause : Nat} (hok : memOk s = true) :
    memOk (ingressMoved s tag off moved cause) = true := by
  unfold ingressMoved
  dsimp only
  split
  · exact memOk_refuseTotal hok
  · exact memOk_ite hok (memOk_refuseRead hok)
  · exact memOk_ite (memOk_decideLane (memOk_of_eq hok)) (memOk_domainStep (memOk_decideLane (memOk_of_eq hok)))

theorem memOk_ingressTotal {s : State} {tag i inj rem : Nat} (hok : memOk s = true) : memOk (ingressTotal s tag i inj rem) = true := by
  unfold ingressTotal
  dsimp only
  split
  · exact memOk_setSkein (memOk_wake (memOk_of_eq hok)) _ _
  · exact hok

theorem memOkNext_execFabricIngressAccess {pkt : FabPkt} {s : State} (hok : memOk s = true) :
    memOkNext (execFabricIngressAccess pkt s) := by
  unfold execFabricIngressAccess
  refine memOkNext_next ?_
  split
  · exact memOk_ingressPut hok
  · exact memOk_ite (memOk_reply hok) (memOk_reply hok)
  · exact memOk_ingressDebit hok
  · exact memOk_ingressCredit hok
  · exact memOk_ingressCredited hok
  · exact memOk_ingressMoved hok
  · exact memOk_ingressSettled hok
  · exact memOk_ingressValue hok
  · split
    · exact memOk_reply hok
    · exact memOk_reply hok
  · exact memOk_ingressTotal hok

theorem memOk_collAnswer {s : State} {pkt : CollPkt} {a : CollAnswer} (hok : memOk s = true) : memOk (collAnswer s pkt a) = true :=
  memOk_unhold (memOk_of_eq hok)

theorem memOkNext_execMovingHoldTimeout {n : Nat} {s : State} (hok : memOk s = true) : memOkNext (execMovingHoldTimeout n s) := by
  unfold execMovingHoldTimeout
  refine memOkNext_next ?_
  split
  · refine memOk_ite hok ?_
    split
    · exact memOk_answer hok
    · exact memOk_collAnswer hok
    · exact hok
  · split
    · exact hok
    · exact memOk_ite (memOk_countRetry (memOk_setCopy hok)) hok

theorem memOkOpt_performElems {op : BitVec 2} {rcore : Option Nat} {es : List (CollElem × Nat)} {s : State} (hok : memOk s = true) :
    memOkOpt (performElems op rcore es s) := by
  induction es generalizing s with
  | nil => exact memOkOpt_some hok
  | cons x t ih =>
    unfold performElems
    refine memOkOpt_bind (memOkOpt_copyPut ?_) (fun _ ha => ih ha)
    split
    · exact memOk_leaveRange hok
    · exact hok

theorem memOkOpt_performColl {s : State} {pkt : CollPkt} {e : CollEntry} {pas : List Nat} (hok : memOk s = true) :
    memOkOpt (performColl s pkt e pas) := by
  unfold performColl
  dsimp only
  refine memOkOpt_map (memOkOpt_performElems hok) (fun _ ha => ?_)
  refine memOk_collAnswer ?_
  refine memOk_markApplied ?_
  split
  · exact memOk_addCounter ha ..
  · exact ha

theorem memOk_ingressColl {s : State} {pkt : CollPkt} {p : Nat} {e : CollEntry} (hok : memOk s = true) :
    memOk (ingressColl s pkt p e) = true := by
  unfold ingressColl
  dsimp only
  split
  · exact memOk_collAnswer hok
  · exact hok
  · exact memOk_getD (memOkOpt_ite memOkOpt_none (memOkOpt_performColl (memOk_ite hok (memOk_foldl (fun _ _ ha =>
        memOk_keepPort ha) _ hok)))) (memOk_holdAccess (memOk_ite hok (memOk_foldl (fun _ _ ha => memOk_keepPort ha) _ hok)))

theorem memOkNext_execCollPacketIngress {pkt : CollPkt} {s : State} (hok : memOk s = true) : memOkNext (execCollPacketIngress pkt s) := by
  unfold execCollPacketIngress
  dsimp only
  refine memOkNext_next ?_
  split
  · exact memOk_collAnswer hok
  · refine memOk_ite (memOk_collAnswer hok) ?_
    refine memOk_ite (memOk_collAnswer hok) ?_
    split
    · exact memOk_collAnswer hok
    · exact memOk_ite (memOk_getD (memOkOpt_performColl hok) hok) hok
    · exact memOk_ite (memOk_ingressColl hok) (memOk_ite (memOk_collAnswer (memOk_setPart hok _ _)) (memOk_collAnswer hok))

/-! ## The matrix engine (10) -/

theorem memOk_needToken {a : Nat} {s : State} {k : State → State} (hok : memOk s = true) (hk : ∀ a, memOk a = true → memOk (k a) = true) :
    memOk (needToken a s k) = true := memOk_ite (hk _ hok) (memOk_trapAll hok _ _)

theorem memOk_needQueue {tl : Bool} {w : Wait} {s : State} {k : State → State} (hok : memOk s = true) (hk : ∀ a, memOk a = true → memOk
    (k a) = true) :
    memOk (needQueue tl w s k) = true := memOk_ite (memOk_stall hok _) (hk _ hok)

theorem memOk_pushMat {s : State} {r : MatReq} (hok : memOk s = true) : memOk (pushMat s r) = true := memOk_setSkein hok _ _

theorem memOk_enterMat {s : State} {o : MatOp} (hok : memOk s = true) : memOk (enterMat s o) = true :=
  memOk_retire (memOk_mapStrands (memOk_pushMat hok) ..) _

theorem memOk_inTurn {o : MatOp} {w : Wait} {s : State} {k : State → State} (hok : memOk s = true) (hk : ∀ a, memOk a = true → memOk
    (k a) = true) :
    memOk (inTurn o w s k) = true := by
  unfold inTurn
  dsimp only
  split
  · exact memOk_ite (memOk_stall hok _) (hk _ hok)
  · exact memOk_ite (hk _ (memOk_setSkein hok _ _)) (memOk_ite (memOk_stall hok _) (memOk_needQueue hok (fun _ ha => memOk_stall
        (memOk_pushMat ha) _)))

theorem memOk_leadQueue {s : State} {sid : Nat} (hok : memOk s = true) : memOk (leadQueue s sid) = true := memOk_setSkein hok _ _

theorem memOk_tileMove {t : Nat} {w : DWord} {op : Nat → MatOp} {s : State} (hok : memOk s = true) : memOk (tileMove t w op s) = true :=
  memOk_ite (memOk_trapAll hok _ _) (memOk_ite (memOk_trapAll hok _ _) (memOk_needQueue hok (fun _ ha => memOk_enterMat ha)))

theorem memOkNext_execMacq {k : BitVec 3} {s : State} (hok : memOk s = true) : memOkNext (execMacq k s) :=
  memOkNext_uniEnter hok (memOk_ite (memOk_retire hok _) (memOk_ite (memOk_trapAll hok _ _) (memOk_ite (memOk_retire
    (memOk_setSkein hok _ _) _) (memOk_stall hok _))))

theorem memOkNext_execMrel {k : BitVec 3} {s : State} (hok : memOk s = true) : memOkNext (execMrel k s) :=
  memOkNext_uniEnter hok (memOk_needToken hok (fun _ ha => memOk_ite (memOk_retire (memOk_setSkein ha _ _) _) (memOk_ite
    (memOk_stall ha _) (memOk_retire (memOk_pushMat (memOk_setSkein ha _ _)) _))))

theorem memOkNext_execMma {k a b : BitVec 3} {w : BitVec 5} {s : State} (hok : memOk s = true) : memOkNext (execMma k a b w s) := by
  unfold execMma
  dsimp only
  refine memOkNext_next ?_
  refine memOk_uniEnter hok _ _ _ _ _ _ ?_
  refine memOk_needToken hok (fun _ ha => ?_)
  refine memOk_ite (memOk_trapAll ha _ _) ?_
  refine memOk_ite (memOk_trapAll ha _ _) ?_
  refine memOk_ite (memOk_stall ha _) ?_
  split
  · exact memOk_trapAll ha _ _
  · exact memOk_needQueue ha (fun _ hb => memOk_enterMat hb)

theorem memOkNext_execMloop {k : BitVec 3} {a b : BitVec 2} {w : BitVec 5} {s : State} (hok : memOk s = true) :
    memOkNext (execMloop k a b w s) := by
  unfold execMloop
  dsimp only
  refine memOkNext_next ?_
  refine memOk_uniEnter hok _ _ _ _ _ _ ?_
  refine memOk_needToken hok (fun _ ha => ?_)
  refine memOk_ite (memOk_trapAll ha _ _) ?_
  refine memOk_ite (memOk_trapAll ha _ _) ?_
  refine memOk_ite (memOk_trapAll ha _ _) ?_
  refine memOk_ite (memOk_stall ha _) ?_
  split
  · exact memOk_trapAll ha _ _
  · exact memOk_needQueue ha (fun _ hb => memOk_ite (memOk_retire hb _) (memOk_enterMat (memOk_setSkein hb _ _)))

theorem memOkNext_execAmov {k : BitVec 3} {a : BitVec 5} {r : BitVec 3} {v : BitVec 6} {s : State} (hok : memOk s = true) :
    memOkNext (execAmov k a r v s) :=
  memOkNext_ite (memOkNext_next (memOk_trapAll hok _ _)) (memOkNext_next (memOk_uniEnter hok _ _ _ _ _ _ (memOk_needToken hok (fun _ ha =>
    memOk_ite (memOk_trapAll ha _ _) (memOk_ite (memOk_stall ha _) (memOk_inTurn ha (fun _ hb => memOk_retire
    (memOk_mapStrands hb ..) _)))))))

theorem memOkNext_execAqnt {k : BitVec 3} {a b : BitVec 5} {c t : BitVec 1} {l : BitVec 2} {f : BitVec 1} {s : State}
    (hok : memOk s = true) :
    memOkNext (execAqnt k a b c t l f s) :=
  memOkNext_uniEnter hok (memOk_needToken hok (fun _ ha => memOk_ite (memOk_trapAll ha _ _) (memOk_ite (memOk_trapAll ha _ _) (memOk_ite
    (memOk_trapAll ha _ _) (memOk_needQueue ha (fun _ hb => memOk_enterMat hb))))))

theorem memOkNext_execAclr {k : BitVec 3} {s : State} (hok : memOk s = true) : memOkNext (execAclr k s) :=
  memOkNext_uniEnter hok (memOk_needToken hok (fun _ ha => memOk_needQueue ha (fun _ hb => memOk_enterMat hb)))

theorem memOk_endRequest {s : State} {sid : Nat} {r : MatReq} (hok : memOk s = true) : memOk (endRequest s sid r) = true :=
  memOk_leadQueue (memOk_mapStrands (memOk_setSkein hok _ _) ..)

theorem memOkNext_execMatrixRequestPost {sid : Nat} {s : State} (hok : memOk s = true) : memOkNext (execMatrixRequestPost sid s) := by
  unfold execMatrixRequestPost
  dsimp only
  refine memOkNext_next ?_
  split
  · exact memOk_leadQueue hok
  · exact memOk_ite (memOk_leadQueue hok) (memOk_ite (memOk_ite (memOk_setSkein (memOk_leadQueue hok) _ _) (memOk_leadQueue hok))
        (memOk_ite (memOk_leadQueue hok) (memOk_setSkein (memOk_leadQueue hok) _ _)))

theorem memOkNext_execMatrixPassGrant {quad : Nat} {s : State} (hok : memOk s = true) : memOkNext (execMatrixPassGrant quad s) := by
  unfold execMatrixPassGrant
  dsimp only
  refine memOkNext_next ?_
  split
  · exact hok
  · exact memOk_setSkein hok _ _

theorem memOkNext_execMloopStepRetire {sid : Nat} {s : State} (hok : memOk s = true) : memOkNext (execMloopStepRetire sid s) := by
  unfold execMloopStepRetire
  dsimp only
  refine memOkNext_next ?_
  split
  · exact hok
  · exact memOk_ite hok (memOk_ite (memOk_endRequest (memOk_ite (memOk_addCounter (memOk_setSkein hok _ _) ..) (memOk_setSkein hok _ _)))
        (memOk_ite (memOk_addCounter (memOk_setSkein hok _ _) ..) (memOk_setSkein hok _ _)))

theorem memOk_performMat {s : State} {sid : Nat} {r : MatReq} (hok : memOk s = true) : memOk (performMat s sid r) = true := by
  unfold performMat
  dsimp only
  split
  · exact memOk_setSkein hok _ _
  · exact memOk_setSkein hok _ _
  · exact memOk_setSkein hok _ _
  · exact hok
  · exact memOk_mapStrands (memOk_setSkein hok _ _) ..
  · exact memOk_setSkein hok _ _
  · exact hok
  · exact hok
  · exact hok

theorem memOkNext_execMatrixRequestComplete {sid : Nat} {s : State} (hok : memOk s = true) :
    memOkNext (execMatrixRequestComplete sid s) := by
  unfold execMatrixRequestComplete
  refine memOkNext_next ?_
  split
  · exact hok
  · exact memOk_ite hok (memOk_endRequest (memOk_performMat hok))

/-! ## Homes that move (04 R88, R89) -/

theorem memOk_writeHomeEntry {s : State} {f d : Nat} (hok : memOk s = true) : memOk (writeHomeEntry s f d) = true :=
  memOk_putBytes hok _ _

theorem memOk_dropFrame {s : State} {f : Nat} (hok : memOk s = true) : memOk (dropFrame s f) = true := memOk_of_eq hok

theorem memOk_beginMove {s : State} {f d : Nat} (hok : memOk s = true) : memOk (beginMove s f d) = true :=
  memOk_of_eq (s := dropFrame (writeHomeEntry s f d) f) (memOk_dropFrame (memOk_writeHomeEntry hok))

theorem memOkNext_execAtmEpochEnd {s : State} (hok : memOk s = true) : memOkNext (execAtmEpochEnd s) := by
  unfold execAtmEpochEnd
  dsimp only
  refine memOkNext_next ?_
  refine memOk_of_eq (s := if (s.atmEn && BitVec.getLsbD s.homeBase 0) = true then
  List.foldl
   
      (fun b f =>
      match moveTo s f with
      | some d => beginMove b f d
      | none => b)
    s (epochFrames s)
else s) ?_
  refine memOk_ite ?_ hok
  refine memOk_foldl (fun _ _ ha => ?_) _ hok
  split
  · exact memOk_beginMove ha
  · exact ha

theorem memOkNext_execHomeMoveRelease {frame : Nat} {s : State} (hok : memOk s = true) : memOkNext (execHomeMoveRelease frame s) := by
  unfold execHomeMoveRelease
  dsimp only
  refine memOkNext_next ?_
  split
  · exact hok
  · exact memOk_ite hok (memOk_of_eq (memOk_foldl (fun _ _ ha => memOk_dropLine ha _) _ hok))

/-! ## Special registers (07) -/

theorem memOkNext_execSrd {g : Guard} {d : BitVec 6} {i : BitVec 14} {s : State} (hok : memOk s = true) : memOkNext (execSrd g d i s) :=
  memOkNext_next (memOk_laneEnter hok _ (memOk_ite (memOk_stall hok _) (memOk_retire (memOk_mapStrands hok ..) _)))

theorem memOkNext_execSwr {a : BitVec 5} {i : BitVec 14} {s : State} (hok : memOk s = true) : memOkNext (execSwr a i s) :=
  memOkNext_uniEnter hok (memOk_ite (memOk_trapAll hok _ _) (memOk_ite (memOk_stall hok _) (memOk_retire (memOk_mapStrands hok ..) _)))

theorem memOkNext_execSwrLsmode {a : BitVec 5} {s : State} (hok : memOk s = true) : memOkNext (execSwrLsmode a s) :=
  memOkNext_uniEnter hok (memOk_ite (memOk_trapAll hok _ _) (memOk_ite (memOk_trapAll hok _ _) (memOk_retire (memOk_setCore hok) _)))

theorem memOkNext_execLsmodeTakesEffect {core : Nat} {s : State} (hok : memOk s = true) : memOkNext (execLsmodeTakesEffect core s) := by
  unfold execLsmodeTakesEffect
  dsimp only
  refine memOkNext_next ?_
  split
  · exact memOk_ite hok (memOk_setCore hok)
  · exact hok

theorem memOk_undecoded {s : State} {w f : Word} (hok : memOk s = true) : memOk (undecoded s w f) = true :=
  memOk_ite (memOk_trapGroup hok _) (memOk_ite (memOk_trapGroup hok _) (memOk_retire hok _))

/-! ## Waiting and meeting (21) -/

theorem memOk_deliverWith {s : State} {info : Strand → Option TrapInfo} {drop : Strand → Strand} (hok : memOk s = true) :
    memOk (deliverWith s info drop) = true := memOk_trapGroup (memOk_mapStrands hok ..) _

theorem memOk_deliverFaults {cp xf : Bool} {s : State} {k : State → State} (hok : memOk s = true) (hk : ∀ a, memOk a = true → memOk
    (k a) = true) :
    memOk (deliverFaults cp xf s k) = true := memOk_ite (memOk_deliverWith hok) (memOk_ite (memOk_deliverWith hok) (hk _ hok))

theorem memOkNext_execWait {l s' c : BitVec 4} {t x : BitVec 3} {s : State} (hok : memOk s = true) : memOkNext (execWait l s' c t x s) :=
  memOkNext_uniEnter hok (memOk_deliverFaults hok (fun _ ha => memOk_ite (memOk_retire ha _) (memOk_stall ha _)))

theorem memOk_setBar {s : State} {sid name : Nat} {b : Barrier} (hok : memOk s = true) : memOk (setBar s sid name b) = true :=
  memOk_setSkein hok _ _

theorem memOk_releaseWait {s : State} {sid : Nat} {w : Wait} (hok : memOk s = true) : memOk (releaseWait s sid w) = true :=
  memOk_foldl (fun _ _ ha => memOk_ite (memOk_setStrand ha _ _) ha) _ hok

theorem memOk_partAll {s : State} {sid : Nat} (hok : memOk s = true) : memOk (partAll s sid) = true :=
  memOk_foldl (fun _ _ ha => memOk_setParts ha) _ hok

theorem memOk_refocus {s : State} (hok : memOk s = true) : memOk (refocus s) = true := memOk_of_eq hok

theorem memOk_judgeBar {s : State} {sid name : Nat} (hok : memOk s = true) : memOk (judgeBar s sid name) = true :=
  memOk_ite (memOk_releaseWait (memOk_setSkein (memOk_setBar hok) _ _)) hok

theorem memOk_judgeBars {s : State} {sid : Nat} (hok : memOk s = true) : memOk (judgeBars s sid) = true :=
  memOk_partAll (memOk_foldl (fun _ _ ha => memOk_judgeBar ha) _ hok)

theorem memOk_arrive {s : State} {sid ply n name count : Nat} (hok : memOk s = true) : memOk (arrive s sid ply n name count) = true :=
  memOk_judgeBar (memOk_setBar hok)

theorem memOk_setWait {s : State} {n : Nat} {w : Wait} (hok : memOk s = true) : memOk (setWait s n w) = true := memOk_setStrand hok _ _

theorem memOk_settleParts {s : State} (hok : memOk s = true) : memOk (settleParts s) = true :=
  memOk_tick (memOk_refocus (memOk_partAll hok))

theorem memOkNext_execBar {name : BitVec 4} {c : BitVec 10} {s : State} (hok : memOk s = true) : memOkNext (execBar name c s) :=
  memOkNext_uniEnter hok (memOk_ite (memOk_settleParts (memOk_judgeBar hok)) (memOk_ite (memOk_trapAll hok _ _) (memOk_ite
    (memOk_stall hok _) (memOk_settleParts (memOk_foldl (fun _ _ ha => memOk_arrive (memOk_setWait ha)) _ hok)))))

theorem memOkNext_execBara {name : BitVec 4} {c : BitVec 10} {s : State} (hok : memOk s = true) : memOkNext (execBara name c s) :=
  memOkNext_uniEnter hok (memOk_ite (memOk_trapAll hok _ _) (memOk_ite (memOk_stall hok _) (memOk_retire (memOk_partAll (memOk_foldl
    (fun _ _ ha => memOk_arrive ha) _ hok)) _)))

theorem memOkNext_execBarw {name : BitVec 4} {s : State} (hok : memOk s = true) : memOkNext (execBarw name s) :=
  memOkNext_uniEnter hok (memOk_ite (memOk_settleParts (memOk_judgeBar hok)) (memOk_ite (memOk_stall hok _) (memOk_ite (memOk_stall hok _)
    (memOk_retire hok _))))

theorem memOkNext_execTwist {s : State} (hok : memOk s = true) : memOkNext (execTwist s) :=
  memOkNext_uniEnter hok (memOk_ite (memOk_tick (memOk_refocus (memOk_mapStrands (memOk_setParts (memOk_mapStrands hok ..)) ..)))
    (memOk_tick (memOk_mapStrands hok ..)))

theorem memOk_dropSbar {s : State} {launch level place : Nat} (hok : memOk s = true) : memOk (dropSbar s launch level place) = true :=
  memOk_of_eq hok

theorem memOk_joinSbar {s : State} {launch level place : Nat} (hok : memOk s = true) : memOk (joinSbar s launch level place) = true :=
  memOk_ite hok (memOk_of_eq (s := dropSbar s launch level place) (memOk_dropSbar hok))

theorem memOk_releaseSaved {s : State} {sid : Nat} {w : Wait} (hok : memOk s = true) : memOk (releaseSaved s sid w) = true :=
  memOk_foldl (fun _ _ ha => memOk_ite (memOk_imagePatch ha) ha) _ hok

theorem memOk_releaseMember {s : State} {w : Wait} {sid : Nat} (hok : memOk s = true) : memOk (releaseMember s w sid) = true :=
  memOk_partAll (memOk_releaseWait (memOk_setSkein (memOk_ite (memOk_acquire hok) (memOk_releaseSaved hok)) _ _))

theorem memOk_judgeSbar {s : State} {launch level place : Nat} (hok : memOk s = true) : memOk (judgeSbar s launch level place) = true :=
  memOk_ite (memOk_foldl (fun _ _ ha => memOk_releaseMember ha) _ (memOk_dropSbar hok)) hok

theorem memOk_judgeSbars {s : State} (hok : memOk s = true) : memOk (judgeSbars s) = true :=
  memOk_foldl (fun _ _ ha => memOk_judgeSbar ha) _ hok

theorem memOk_rejudgeWaits {s : State} {sid ply : Nat} (hok : memOk s = true) : memOk (rejudgeWaits s sid ply) = true :=
  memOk_judgeSbars (memOk_of_eq hok)

theorem memOk_endStrands {s : State} {sid ply : Nat} {ns : List Nat} (hok : memOk s = true) : memOk (endStrands s sid ply ns) = true := by
  unfold endStrands
  dsimp only
  exact memOk_exitSkein (memOk_rejudgeWaits (memOk_judgeBars (memOk_ite (memOk_setSkein (memOk_setParts (memOk_mapStrands hok ..)) _ _)
      (memOk_setParts (memOk_mapStrands hok ..)))))

theorem memOk_settleDead {s : State} {sid ply n : Nat} (hok : memOk s = true) : memOk (settleDead s sid ply n) = true := by
  unfold settleDead
  dsimp only
  exact memOk_ite (memOk_endStrands hok) (memOk_rejudgeWaits (memOk_judgeBars (memOk_setParts (memOk_setStrand hok _ _))))

theorem memOk_exitFaults {s : State} {k : State → State} (hok : memOk s = true) (hk : ∀ a, memOk a = true → memOk (k a) = true) :
    memOk (exitFaults s k) = true := memOk_ite (memOk_deliverWith hok) (memOk_ite (memOk_deliverWith hok) (hk _ hok))

theorem memOkNext_execExit {s : State} (hok : memOk s = true) : memOkNext (execExit s) :=
  memOkNext_next (memOk_uniEnter hok _ _ _ _ _ _ (memOk_ite (memOk_trapAll hok _ _) (memOk_exitFaults hok (fun _ ha =>
    memOk_ite (memOk_stall ha _) (memOk_tick (memOk_withCur (memOk_endStrands ha)))))))

theorem memOk_writeOrdered {s : State} {u : Bool} (hok : memOk s = true) : memOk (writeOrdered s u) = true := memOk_writeBack hok _

theorem memOkNext_execSbar {l : BitVec 3} {s : State} (hok : memOk s = true) : memOkNext (execSbar l s) :=
  memOkNext_uniEnter hok (memOk_ite (memOk_trapAll hok _ _) (memOk_ite (memOk_stall (memOk_writeOrdered hok) _) (memOk_tick (memOk_refocus
    (memOk_judgeSbar (memOk_mapStrands (memOk_ite (memOk_writeOrdered hok) (memOk_joinSbar (memOk_writeOrdered hok))) ..))))))

theorem memOk_endFence {s : State} {f : Fence} (hok : memOk s = true) : memOk (endFence s f) = true :=
  memOk_ite (memOk_acquire (memOk_of_eq hok)) (memOk_of_eq hok)

theorem memOk_settleFences {s : State} (hok : memOk s = true) : memOk (settleFences s) = true := by
  unfold settleFences
  refine memOk_foldl (fun _ _ ha => ?_) _ hok
  split
  · exact memOk_ite (memOk_endFence ha) ha
  · exact ha

theorem memOkNext_execFence {sc : BitVec 3} {k : BitVec 2} {c x : BitVec 1} {s : State} (hok : memOk s = true) :
    memOkNext (execFence sc k c x s) :=
  memOkNext_uniEnter hok (memOk_retire (memOk_settleFences (memOk_of_eq (memOk_ite (memOk_writeOrdered hok) hok))) _)

theorem memOkNext_execUown {a : BitVec 5} {p : BitVec 4} {s : State} (hok : memOk s = true) : memOkNext (execUown a p s) := by
  unfold execUown
  dsimp only
  refine memOkNext_next ?_
  refine memOk_uniEnter hok _ _ _ _ _ _ ?_
  refine memOk_ite (memOk_trapAll hok _ _) ?_
  split
  · exact memOk_trapAll hok _ _
  · exact memOk_retire (memOk_setSkein hok _ _) _

/-! ## The trigger unit (05) -/

theorem memOk_judgeTriggers {s : State} {core : Nat} (hok : memOk s = true) : memOk (judgeTriggers s core) = true :=
  memOk_ite hok (memOk_of_eq hok)

theorem memOkNext_execTrig {d a : BitVec 5} {s : State} (hok : memOk s = true) : memOkNext (execTrig d a s) := by
  unfold execTrig
  dsimp only
  refine memOkNext_next ?_
  refine memOk_uniEnter hok _ _ _ _ _ _ ?_
  refine memOk_ite (memOk_stall hok _) ?_
  refine memOk_ite (memOk_trapAll hok _ _) ?_
  refine memOk_ite (memOk_trapAll hok _ _) ?_
  refine memOk_ite (memOk_trapAll hok _ _) ?_
  split
  · exact memOk_trapAll hok _ _
  · exact memOk_retire (memOk_setWReg hok) _
  · exact memOk_ite (memOk_stall hok _) (memOk_retire (memOk_setWReg (memOk_judgeTriggers (memOk_raiseCp (memOk_of_eq hok)))) _)

theorem memOkNext_execTrigCancel {d a : BitVec 5} {s : State} (hok : memOk s = true) : memOkNext (execTrigCancel d a s) := by
  unfold execTrigCancel
  dsimp only
  refine memOkNext_next ?_
  refine memOk_uniEnter hok _ _ _ _ _ _ ?_
  split
  · exact memOk_retire (memOk_setWReg hok) _
  · exact memOk_retire (memOk_setWReg (memOk_lowerCp (memOk_of_eq hok))) _

/-! ## Saving and restoring (14) -/

theorem memOkOpt_ctxPut {p ctx n va : Nat} {data : List PByte} {s : State} (hok : memOk s = true) : memOkOpt (ctxPut p ctx n va data s) := by
  induction n generalizing s va data with
  | zero => exact memOkOpt_some hok
  | succ n ih =>
    unfold ctxPut
    split
    · exact ih (memOk_homePut hok _ _)
    · exact memOkOpt_none

theorem memOk_dropGrants {s : State} {sid : Nat} (hok : memOk s = true) : memOk (dropGrants s sid) = true := memOk_of_eq hok

theorem memOk_settleSkein {s : State} {sid : Nat} (hok : memOk s = true) : memOk (settleSkein s sid) = true :=
  memOk_foldl (fun _ _ ha => memOk_setStrand ha _ _) _ (memOk_dropGrants (memOk_of_eq (memOk_writeBack hok _)))

theorem memOkOpt_writeImage {s : State} {sid va : Nat} {trs : List Trigger} (hok : memOk s = true) : memOkOpt (writeImage s sid va trs) :=
  memOkOpt_ctxPut hok

theorem memOk_unplace {s : State} {sid : Nat} (hok : memOk s = true) : memOk (unplace s sid) = true :=
  memOk_foldl (fun _ _ ha => memOk_setStrand ha _ _) _ (memOk_setSkein (memOk_of_eq hok) _ _)

theorem memOk_postFault {s : State} {k : Skein} (hok : memOk s = true) : memOk (postFault s k) = true := by
  unfold postFault
  split
  · exact memOk_setPart hok _ _
  · exact hok

theorem memOk_countSaved {s : State} {k : Skein} (hok : memOk s = true) : memOk (countSaved s k) = true :=
  memOk_ite (memOk_setPart hok _ _) hok

theorem memOk_resetContext {s : State} {p tgt : Nat} (hok : memOk s = true) : memOk (resetContext s p tgt) = true :=
  memOk_foldl (fun _ _ ha => memOk_completeLaunch ha) _ (memOk_foldl (fun _ _ ha => memOk_killSkein ha) _ (memOk_of_eq hok))

theorem memOk_endPreempt {s : State} {p st : Nat} (hok : memOk s = true) : memOk (endPreempt s p st) = true :=
  memOk_postEvent (memOk_setPart hok _ _) _

theorem memOk_failSave {s : State} {sid : Nat} (hok : memOk s = true) : memOk (failSave s sid) = true := by
  unfold failSave
  dsimp only
  split
  · exact memOk_endPreempt (memOk_resetContext hok)
  · exact memOk_killSkein hok

theorem memOk_saveSkein {s : State} {sid : Nat} (hok : memOk s = true) : memOk (saveSkein s sid) = true := by
  unfold saveSkein
  dsimp only
  split
  · exact memOk_failSave hok
  · rename_i t1 ht1
    split
    · exact memOk_countSaved (memOk_postFault (memOk_setSkein (memOk_unplace ((memOkOpt_writeImage (memOk_settleSkein hok) t1 ht1))) _ _))
    · exact memOk_countSaved (memOk_setSkein (memOk_unplace ((memOkOpt_writeImage (memOk_settleSkein hok) t1 ht1))) _ _)
    · exact memOk_countSaved (memOk_setSkein (memOk_unplace ((memOkOpt_writeImage (memOk_settleSkein hok) t1 ht1))) _ _)
    · exact memOk_countSaved (memOk_unplace ((memOkOpt_writeImage (memOk_settleSkein hok) t1 ht1)))

theorem memOk_resumeCopies {s : State} {sid core n : Nat} {ws : List Nat} (hok : memOk s = true) :
    memOk (resumeCopies s sid core n ws) = true := memOk_foldl (fun _ _ ha => memOk_setStrand ha _ _) _ (memOk_of_eq hok)

theorem memOk_rearm {s : State} {sid core n : Nat} {ws : List Nat} (hok : memOk s = true) : memOk (rearm s sid core n ws) = true :=
  memOk_ite (memOk_of_eq hok) (memOk_judgeTriggers (memOk_foldl (fun _ _ ha => memOk_of_eq ha) _ (memOk_of_eq hok)))

theorem memOk_strandsFrom {s : State} {sid : Nat} {k : Skein} {bs : List PByte} {fresh : Bool} (hok : memOk s = true) :
    memOk (strandsFrom s sid k bs fresh) = true := memOk_foldl (fun _ _ ha => memOk_setStrand ha _ _) _ hok

theorem memOk_allParts {s : State} {sid : Nat} (hok : memOk s = true) : memOk (allParts s sid) = true :=
  memOk_partAll (memOk_foldl (fun _ _ ha => memOk_setParts ha) _ hok)

theorem memOk_arrivals {s : State} {sid : Nat} {old : Skein} {was : List (Nat × Wait)} (hok : memOk s = true) :
    memOk (arrivals s sid old was) = true := memOk_setSkein hok _ _

theorem memOk_moveSbars {s : State} {sid : Nat} (hok : memOk s = true) : memOk (moveSbars s sid) = true := by
  unfold moveSbars
  dsimp only
  refine memOk_foldl (fun _ _ ha => ?_) _ (memOk_of_eq hok)
  split
  · exact memOk_setStrand (memOk_joinSbar ha) _ _
  · exact ha

theorem memOk_moveFences {s : State} {sid core : Nat} (hok : memOk s = true) : memOk (moveFences s sid core) = true := memOk_of_eq hok

theorem memOk_activate {s : State} {sid : Nat} (hok : memOk s = true) : memOk (activate s sid) = true :=
  memOk_foldl (fun _ _ ha => memOk_setSkein ha _ _) _ hok

theorem memOk_comesToRun {s : State} {p ctx : Nat} (hok : memOk s = true) : memOk (comesToRun s p ctx) = true := memOk_setPart hok _ _

theorem memOk_restoreSkein {s : State} {sid core : Nat} (hok : memOk s = true) : memOk (restoreSkein s sid core) = true := by
  unfold restoreSkein
  dsimp only
  split
  · exact memOk_killSkein hok
  · exact memOk_ite (memOk_killSkein hok) (memOk_judgeSbars (memOk_rearm (memOk_resumeCopies (memOk_acquire (memOk_moveFences
        (memOk_moveSbars (memOk_activate (memOk_allParts (memOk_arrivals (memOk_strandsFrom (memOk_setSkein (memOk_of_eq
        (s := comesToRun s (getSkein s sid).restoring.part
  (getSkein s sid).restoring.ctx) (memOk_comesToRun hok)) _ _)))))))))))

theorem memOk_patchReplies {s : State} {k : Skein} {ply n : Nat} {rs : List Reply} (hok : memOk s = true) :
    memOk (patchReplies s k ply n rs) = true := memOk_imagePatch hok

theorem memOk_lateFold {s : State} {o : Origin} {lane va : Nat} {old : List Byte} (hok : memOk s = true) :
    memOk (lateFold s o lane va old) = true := memOk_ite hok (memOk_imagePatch (memOk_setStrand hok _ _))

theorem memOk_lateLane {s : State} {o : Origin} {lane : Nat} {bs : List PByte} (hok : memOk s = true) :
    memOk (lateLane s o lane bs) = true :=
  memOk_patchReplies (memOk_setStrand (memOk_ite (memOk_imagePatch (memOk_foldl (fun _ _ ha => memOk_imagePut ha) _ hok)) (memOk_foldl
    (fun _ _ ha => memOk_imagePut ha) _ hok)) _ _)

theorem memOkNext_execLateReply {n : Nat} {s : State} (hok : memOk s = true) : memOkNext (execLateReply n s) := by
  unfold execLateReply
  dsimp only
  refine memOkNext_next ?_
  split
  · exact memOk_ite (memOk_foldl (fun _ _ ha => memOk_lateLane ha) _ (memOk_replaceItem hok)) hok
  · exact memOk_foldl (fun _ _ ha => memOk_lateFold (memOk_lateLane ha)) _ (memOk_replaceItem hok)
  · exact hok

theorem memOk_loseReplies {s : State} {o : Origin} {m : Nat} (hok : memOk s = true) : memOk (loseReplies s o m) = true :=
  memOk_ite hok (memOk_ite (memOk_patchReplies (memOk_imagePatch (memOk_setStrand hok _ _))) (memOk_setStrand hok _ _))

theorem memOk_lostEvent {s : State} {sid va : Nat} (hok : memOk s = true) : memOk (lostEvent s sid va) = true := memOk_postEvent hok _

theorem memOkNext_execReplyLostTimeout {n : Nat} {s : State} (hok : memOk s = true) : memOkNext (execReplyLostTimeout n s) := by
  unfold execReplyLostTimeout
  refine memOkNext_next ?_
  split
  · split
    · exact hok
    · exact memOk_lostEvent (memOk_foldl (fun _ _ ha => memOk_loseReplies ha) _ (memOk_of_eq hok))
  · split
    · exact hok
    · exact memOk_lostEvent (memOk_loseReplies hok)

theorem memOkNext_execSksv {d a b : BitVec 5} {s : State} (hok : memOk s = true) : memOkNext (execSksv d a b s) := by
  unfold execSksv
  dsimp only
  refine memOkNext_next ?_
  refine memOk_uniEnter hok _ _ _ _ _ _ ?_
  refine memOk_ite (memOk_trapAll hok _ _) ?_
  refine memOk_ite (memOk_ite (memOk_stall hok _) (memOk_ite (memOk_retire (memOk_setWReg hok) _) (memOk_retire
      (memOk_setWReg hok) _))) ?_
  split
  · exact memOk_retire (memOk_setWReg hok) _
  · exact memOk_ite (memOk_retire (memOk_setWReg hok) _) (memOk_ite (memOk_trapAll hok _ _) (memOk_ite (memOk_retire
        (memOk_setWReg hok) _) (memOk_stall (memOk_foldl (fun _ _ ha => memOk_setSkein ha _ _) _ hok) _)))

theorem memOkNext_execSkrs {d a b : BitVec 5} {s : State} (hok : memOk s = true) : memOkNext (execSkrs d a b s) := by
  unfold execSkrs
  dsimp only
  refine memOkNext_next ?_
  refine memOk_uniEnter hok _ _ _ _ _ _ ?_
  refine memOk_ite (memOk_trapAll hok _ _) ?_
  split
  · exact memOk_retire (memOk_setWReg hok) _
  · exact memOk_ite (memOk_retire (memOk_setWReg (memOk_setSkein hok _ _)) _) (memOk_retire (memOk_setWReg hok) _)

/-! ## Deterministic launches (15) -/

theorem memOk_revokeAll {s : State} {p ctx base k : Nat} (hok : memOk s = true) : memOk (revokeAll s p ctx base k) = true :=
  memOk_of_eq hok

theorem memOkOpt_lendTask {k : Skein} {sid : Nat} {x : Nat × Nat × Bool} {s : State} (hok : memOk s = true) :
    memOkOpt (lendTask k sid x s) :=
  memOkOpt_ite (memOkOpt_some (memOk_changeState (memOk_revokeAll (memOk_cutRegion hok)))) memOkOpt_none

theorem memOkOpt_lendTasks {k : Skein} {sid : Nat} {xs : List (Nat × Nat × Bool)} {s : State} (hok : memOk s = true) :
    memOkOpt (lendTasks k sid xs s) := by
  induction xs generalizing s with
  | nil => exact memOkOpt_some hok
  | cons x t ih => exact memOkOpt_bind (memOkOpt_lendTask hok) (fun _ ha => ih ha)

theorem memOk_returnTask {k : Skein} {sid : Nat} {s : State} {x : Nat × Nat × Bool} (hok : memOk s = true) :
    memOk (returnTask k sid s x) = true := by
  unfold returnTask
  dsimp only
  split
  · exact hok
  · exact memOk_ite hok (memOk_ite (memOk_changeState (memOk_revokeAll hok)) (memOk_ite (memOk_changeState (memOk_handBack
        (memOk_revokeAll hok))) hok))

theorem memOk_returnTasks {s : State} {l : Launch} {sid p : Nat} (hok : memOk s = true) : memOk (returnTasks s l sid p) = true :=
  memOk_foldl (fun _ _ ha => memOk_returnTask ha) _ hok

theorem memOk_startPhase {s : State} {sid : Nat} (hok : memOk s = true) : memOk (startPhase s sid) = true := by
  unfold startPhase
  dsimp only
  split
  · exact hok
  · split
    · exact memOk_killSkein hok
    · split
      · exact memOk_killSkein hok
      · rename_i t1 ht1
        refine memOk_ite (memOkOpt_lendTasks hok t1 ht1) ?_
        split
        · rename_i t2 ht2
          exact memOk_setSkein ((memOkOpt_writeImage (memOkOpt_lendTasks hok t1 ht1) t2 ht2)) _ _
        · exact memOk_killSkein (memOkOpt_lendTasks hok t1 ht1)

theorem memOk_logWrite {s : State} {l : Launch} {va : Nat} {w : DWord} (hok : memOk s = true) : memOk (logWrite s l va w) = true :=
  memOk_getD (memOkOpt_ctxWrite hok) hok

theorem memOk_markCommitted {s : State} {sid : Nat} (hok : memOk s = true) : memOk (markCommitted s sid) = true :=
  memOk_ite (memOk_setSkein hok _ _) (memOk_foldl (fun _ _ ha => memOk_ite (memOk_setStrand ha _ _) ha) _ (memOk_setSkein hok _ _))

theorem memOk_digestTrap {s : State} {sid : Nat} (hok : memOk s = true) : memOk (digestTrap s sid) = true :=
  memOk_foldl (fun _ _ ha => memOk_ite (memOk_trapOne (memOk_setStrand ha _ _)) ha) _ (memOk_postEvent (memOk_setSkein hok _ _) _)

theorem memOk_commitSkein {s : State} {sid : Nat} (hok : memOk s = true) : memOk (commitSkein s sid) = true := by
  unfold commitSkein
  dsimp only
  split
  · exact hok
  · refine memOk_ite hok ?_
    refine memOk_ite (memOk_markCommitted hok) ?_
    split
    · exact memOk_markCommitted (memOk_returnTasks (memOk_logWrite (memOk_setSkein (memOk_writeBack hok _) _ _)))
    · exact memOk_ite (memOk_markCommitted (memOk_setSkein (memOk_writeBack hok _) _ _)) (memOk_digestTrap (memOk_setSkein
          (memOk_writeBack hok _) _ _))
    · exact memOk_ite (memOk_markCommitted (memOk_setSkein (memOk_writeBack hok _) _ _)) (memOk_digestTrap (memOk_setSkein
          (memOk_writeBack hok _) _ _))
    · exact memOk_markCommitted (memOk_returnTasks (memOk_setSkein (memOk_writeBack hok _) _ _))

theorem memOkNext_execPhase {s : State} (hok : memOk s = true) : memOkNext (execPhase s) :=
  memOkNext_uniEnter hok (memOk_ite (memOk_trapAll hok _ _) (memOk_ite (memOk_stall hok _) (memOk_commitSkein (memOk_stall hok _))))

theorem memOk_advanceSkein {s : State} {sid : Nat} (hok : memOk s = true) : memOk (advanceSkein s sid) = true := by
  unfold advanceSkein
  dsimp only
  split
  · exact hok
  · exact memOk_ite (memOk_startPhase (memOk_partAll (memOk_foldl (fun _ _ ha => memOk_setStrand ha _ _) _ (memOk_setSkein hok _ _))))
        (memOk_partAll (memOk_foldl (fun _ _ ha => memOk_setStrand ha _ _) _ (memOk_setSkein hok _ _)))

theorem memOk_restartPhase {s : State} {l : Launch} (hok : memOk s = true) : memOk (restartPhase s l) = true :=
  memOk_foldl (fun _ _ ha => memOk_setSkein (memOk_ite (memOk_unplace (memOk_dropGrants ha)) ha) _ _) _ (memOk_setLaunch hok)

theorem memOk_settlePhase {s : State} {l : Launch} (hok : memOk s = true) : memOk (settlePhase s l) = true :=
  memOk_setLaunch (memOk_ite (memOk_logWrite (memOk_ite hok (memOk_foldl (fun _ _ ha => memOk_returnTasks ha) _ hok))) (memOk_ite hok
    (memOk_foldl (fun _ _ ha => memOk_returnTasks ha) _ hok)))

theorem memOk_advanceAll {s : State} {num : Nat} (hok : memOk s = true) : memOk (advanceAll s num) = true := by
  unfold advanceAll
  dsimp only
  refine memOk_foldl (fun _ _ ha => ?_) _ hok
  split
  · exact ha
  · exact memOk_ite (memOk_advanceSkein ha) ha

theorem memOkNext_execPhaseAllCommitted {num : Nat} {s : State} (hok : memOk s = true) : memOkNext (execPhaseAllCommitted num s) := by
  unfold execPhaseAllCommitted
  dsimp only
  refine memOkNext_next ?_
  split
  · exact memOk_foldl (fun _ _ ha => memOk_commitSkein ha) _ hok
  · exact memOk_ite (memOk_advanceAll (memOk_foldl (fun _ _ ha => memOk_commitSkein ha) _ hok)) (memOk_ite (memOk_restartPhase
        (memOk_foldl (fun _ _ ha => memOk_commitSkein ha) _ hok)) (memOk_advanceAll (memOk_settlePhase (memOk_foldl (fun _ _ ha =>
        memOk_commitSkein ha) _ hok))))

theorem memOkNext_execOrderGateTimeout {n : Nat} {s : State} (hok : memOk s = true) : memOkNext (execOrderGateTimeout n s) := by
  unfold execOrderGateTimeout
  refine memOkNext_next ?_
  split
  · exact hok
  · exact memOk_ite (memOk_postEvent (memOk_setOrder hok) _) hok

/-! ## Launches and their placement (12) -/

theorem memOk_acceptLaunch {s : State} {l : Launch} (hok : memOk s = true) : memOk (acceptLaunch s l) = true := memOk_of_eq hok

theorem memOkNext_execLnch {d a b : BitVec 5} {s : State} (hok : memOk s = true) : memOkNext (execLnch d a b s) := by
  unfold execLnch
  dsimp only
  refine memOkNext_next ?_
  refine memOk_uniEnter hok _ _ _ _ _ _ ?_
  split
  · exact memOk_stall hok _
  · exact memOk_retire (memOk_setWReg hok) _
  · exact memOk_retire (memOk_setWReg (memOk_acceptLaunch hok)) _

theorem memOk_placeOn {s : State} {l : Launch} {core : Nat} (hok : memOk s = true) : memOk (placeOn s l core) = true :=
  memOk_ite (memOk_startPhase (memOk_judgeLaunches (memOk_setLaunch (memOk_activate (memOk_foldl (fun s b ha => memOk_setStrand ha _ _) _
    (memOk_setSkein (memOk_of_eq (s := comesToRun s l.part l.ctx) (memOk_comesToRun hok)) _ _)))))) (memOk_judgeLaunches (memOk_setLaunch
    (memOk_activate (memOk_foldl (fun s b ha => memOk_setStrand ha _ _) _ (memOk_setSkein (memOk_of_eq (s := comesToRun s l.part l.ctx)
    (memOk_comesToRun hok)) _ _)))))

theorem memOkOpt_placeNext {num : Nat} {s : State} (hok : memOk s = true) : memOkOpt (placeNext num s) := by
  unfold placeNext
  dsimp only
  split
  · exact memOkOpt_none
  · exact memOkOpt_ite memOkOpt_none (memOkOpt_mapOf (fun _ => memOk_placeOn hok))

theorem memOkOpt_placeGang {num n : Nat} {s : State} (hok : memOk s = true) : memOkOpt (placeGang num n s) := by
  induction n generalizing s with
  | zero => exact memOkOpt_some hok
  | succ n ih => exact memOkOpt_bind (memOkOpt_placeNext hok) (fun _ ha => ih ha)

theorem memOkOpt_restoreNext {sid : Nat} {s : State} (hok : memOk s = true) : memOkOpt (restoreNext sid s) := by
  unfold restoreNext
  dsimp only
  split
  · exact memOkOpt_none
  · exact memOkOpt_mapOf (fun _ => memOk_restoreSkein hok)

theorem memOkOpt_restoreGang {xs : List Nat} {s : State} (hok : memOk s = true) : memOkOpt (restoreGang xs s) := by
  induction xs generalizing s with
  | nil => exact memOkOpt_some hok
  | cons x t ih => exact memOkOpt_bind (memOkOpt_restoreNext hok) (fun _ ha => ih ha)

theorem memOkOpt_tryCand {s : State} {c : Cand} (hok : memOk s = true) : memOkOpt (tryCand s c) := by
  unfold tryCand
  split
  · split
    · exact memOkOpt_none
    · exact memOkOpt_ite (memOkOpt_restoreGang hok) (memOkOpt_restoreNext hok)
  · split
    · exact memOkOpt_none
    · exact memOkOpt_ite (memOkOpt_placeGang hok) (memOkOpt_placeNext hok)

theorem memOk_schedule {s : State} {p : Nat} {x : Cand × State} (hok : memOk s = true) (hx : schedule s p = some x) : memOk x.2 = true := by
  unfold schedule at hx
  split at hx
  · obtain ⟨c, -, hc⟩ := List.exists_of_findSome?_eq_some hx
    obtain ⟨a, ha, rfl⟩ := Option.map_eq_some_iff.mp hc
    exact memOkOpt_tryCand hok a ha
  · cases hx

theorem memOk_makeRoom {s : State} {p : Nat} (hok : memOk s = true) : memOk (makeRoom s p) = true := by
  unfold makeRoom
  dsimp only
  split
  · exact memOk_ite (memOk_setSkein hok _ _) hok
  · exact hok

theorem memOkNext_execSkeinPlacement {p : Nat} {s : State} (hok : memOk s = true) : memOkNext (execSkeinPlacement p s) := by
  unfold execSkeinPlacement
  refine memOkNext_next ?_
  split
  · rename_i x hx
    exact memOk_schedule hok hx
  · exact memOk_makeRoom hok

theorem memOkNext_execSkeinRestore {sid : Nat} {s : State} (hok : memOk s = true) : memOkNext (execSkeinRestore sid s) := by
  unfold execSkeinRestore
  refine memOkNext_next ?_
  split
  · rename_i x a hx
    exact memOk_ite (memOk_schedule hok hx) hok
  · exact hok

theorem memOkNext_execPlacementWaitTimeout {p : Nat} {s : State} (hok : memOk s = true) : memOkNext (execPlacementWaitTimeout p s) := by
  unfold execPlacementWaitTimeout
  dsimp only
  refine memOkNext_next ?_
  split
  · exact memOk_ite (memOk_setLaunch hok) hok
  · exact hok

theorem memOk_takeSlot {s : State} {e : Nat × Nat} {till : DWord} (hok : memOk s = true) : memOk (takeSlot s e till) = true :=
  memOk_setSkein hok _ _

theorem memOk_giveSlot {s : State} {e : Nat × Nat} (hok : memOk s = true) : memOk (giveSlot s e) = true := memOk_setSkein hok _ _

theorem memOk_promote {s : State} {core : Nat} {ply : Option (Nat × Nat)} {f : Nat × Nat → Bool} {till : DWord} (hok : memOk s = true) :
    memOk (promote s core ply f till) = true := by
  unfold promote
  split
  · exact hok
  · refine memOk_ite (memOk_takeSlot hok) ?_
    split
    · exact memOk_takeSlot (memOk_giveSlot hok)
    · exact hok

theorem memOk_endInterval {s : State} {p : Nat} {watts : Option Nat} (hok : memOk s = true) : memOk (endInterval s p watts) = true :=
  memOk_ite hok (memOk_setPart hok _ _)

theorem memOkNext_execPreemptDeadline {p : Nat} {s : State} (hok : memOk s = true) : memOkNext (execPreemptDeadline p s) :=
  memOkNext_next (memOk_ite (memOk_ite (memOk_endPreempt hok) (memOk_stopSkeins (memOk_setPart hok _ _))) hok)

theorem memOkNext_execSliceExpiry {p : Nat} {s : State} (hok : memOk s = true) : memOkNext (execSliceExpiry p s) := by
  unfold execSliceExpiry
  dsimp only
  refine memOkNext_next ?_
  refine memOk_ite hok ?_
  split
  · exact hok
  · exact memOk_setPart hok _ _

theorem memOkNext_execPoisonTrap {sid ply n : Nat} {s : State} (hok : memOk s = true) : memOkNext (execPoisonTrap sid ply n s) :=
  memOkNext_next (memOk_ite hok (memOk_ite (memOk_trapOne (memOk_setStrand hok _ _)) (memOk_trapOne (memOk_setStrand hok _ _))))

/-! ## The package as the host sees it (01, 16) -/

theorem memOkNext_execMigrationDescriptorTake {die : Nat} {s : State} (hok : memOk s = true) :
    memOkNext (execMigrationDescriptorTake die s) :=
  memOkNext_next (memOk_ite hok (memOk_ite (memOk_of_eq hok) (memOk_ite (memOk_setIo hok _ _) (memOk_setIo hok _ _))))

theorem memOk_endDescriptor {s : State} {die code : Nat} (hok : memOk s = true) : memOk (endDescriptor s die code) = true :=
  memOk_ite (memOk_postEvent (memOk_setIo (memOk_writeDwords hok _ _) _ _) _) (memOk_setIo (memOk_writeDwords hok _ _) _ _)

theorem memOkNext_execMigrationMoveDone {die : Nat} {s : State} (hok : memOk s = true) : memOkNext (execMigrationMoveDone die s) := by
  unfold execMigrationMoveDone
  dsimp only
  refine memOkNext_next ?_
  refine memOk_ite hok ?_
  split
  · exact memOk_endDescriptor hok
  · exact memOk_endDescriptor (memOk_moveFrame hok _ _)

theorem memOk_onBus {r : DWord × State} (hok : memOk r.2 = true) : memOk (onBus r) = true := memOk_of_eq hok

theorem memOkNext_execEventInterruptTimer {part : Nat} {s : State} (hok : memOk s = true) : memOkNext (execEventInterruptTimer part s) :=
  memOkNext_next (memOk_ite hok (memOk_of_eq (s := setPart s part { getPart s part with evUncovered := 0 }) (memOk_setPart hok _ _)))

theorem memOkNext_execRegisterWrite {reg : RegAddr} {w : DWord} {s : State} (hok : memOk s = true) :
    memOkNext (execRegisterWrite reg w s) := by
  unfold execRegisterWrite
  refine memOkNext_next ?_
  split
  · exact memOk_ite (memOk_ctlWrite hok) hok
  · exact memOk_cfgWrite hok

theorem memOk_hostRefuse {s : State} (hok : memOk s = true) : memOk (hostRefuse s) = true := memOk_of_eq hok

theorem memOk_hostRead {s : State} {ps : List ((Nat × Nat) × Xl)} (hok : memOk s = true) : memOk (hostRead s ps) = true :=
  memOk_ite (memOk_hostRefuse hok) (memOk_of_eq hok)

theorem memOkOpt_hostPut {bytes : List Byte} {n : Nat} {xs : List (Nat × Nat × Nat × Bool)} {s : State} (hok : memOk s = true) :
    memOkOpt (hostPut bytes n xs s) := by
  induction xs generalizing s n with
  | nil => exact memOkOpt_some (memOk_of_eq hok)
  | cons x t ih => exact memOkOpt_bind (memOkOpt_homeWrite hok) (fun _ ha => ih ha)

theorem memOk_hostHeld {s : State} {h : Held} {bytes : List Byte} (hok : memOk s = true) : memOk (hostHeld s h bytes) = true :=
  memOk_ite (memOk_getD (memOkOpt_map (memOkOpt_hostPut hok) (fun _ ha => memOk_unhold ha)) hok) hok

theorem memOk_hostPieces {s : State} {part ctx off : Nat} {acc : HostAcc} {sides : List ((Nat × Nat) × Side × Bool)}
    (hok : memOk s = true) :
    memOk (hostPieces s part ctx off acc sides) = true := by
  unfold hostPieces
  dsimp only
  refine memOk_ite (memOk_hostRefuse hok) ?_
  refine memOk_ite hok ?_
  split
  · exact memOk_hostRead hok
  · exact memOk_getD (memOkOpt_hostPut hok) (memOk_holdIn hok)

theorem memOkNext_execHostWindowAccess {part off : Nat} {acc : HostAcc} {s : State} (hok : memOk s = true) :
    memOkNext (execHostWindowAccess part off acc s) := by
  unfold execHostWindowAccess
  dsimp only
  refine memOkNext_next ?_
  refine memOk_ite (memOk_hostRefuse (memOk_getD (memOkOpt_mapOf (fun _ => memOk_unhold hok)) hok)) ?_
  split
  · exact memOk_hostHeld hok
  · exact memOk_hostPieces hok

theorem memOk_configure {s : State} {cs : List PartCfg} (hok : memOk s = true) : memOk (configure s cs) = true :=
  memOk_ite (memOk_foldl (fun _ _ ha => memOk_ite (memOk_setPart ha _ _) ha) _ hok) hok

theorem memOkNext_execPowerOn {cfg : BringUp} {s : State} (hok : memOk s = true) : memOkNext (execPowerOn cfg s) :=
  memOkNext_next (memOk_ite hok (memOk_of_eq memOk_reset))

theorem memOk_monitor {s : State} {h : Health} (hok : memOk s = true) : memOk (monitor s h) = true :=
  memOk_ite (memOk_of_eq hok) (memOk_postEvent (memOk_of_eq hok) _)

theorem memOkNext_execPbootWrite {part : Nat} {w : DWord} {s : State} (hok : memOk s = true) : memOkNext (execPbootWrite part w s) := by
  unfold execPbootWrite
  dsimp only
  refine memOkNext_next ?_
  refine memOk_ite (memOk_setPart hok _ _) ?_
  split
  · exact memOk_setPart (memOk_setPart hok _ _) _ _
  · exact memOk_setPart hok _ _
  · exact memOk_ite (memOk_acceptLaunch (memOk_setPart hok _ _)) (memOk_setPart hok _ _)

theorem memOk_resetHalt {s : State} {p : Nat} (hok : memOk s = true) : memOk (resetHalt s p) = true :=
  memOk_ite (memOk_setPart (memOk_setPart hok _ _) _ _) (memOk_foldl (fun _ _ ha => memOk_ite ha (memOk_stopRecord ha ..)) _
    (memOk_setPart hok _ _))

theorem memOk_resetKill {s : State} {p : Nat} (hok : memOk s = true) : memOk (resetKill s p) = true :=
  memOk_judgeLaunches (memOk_of_eq (memOk_foldl (fun _ _ ha => memOk_killSkein ha) _ hok))

theorem memOk_newKey {s : State} {p : Nat} (hok : memOk s = true) : memOk (newKey s p) = true := memOk_setPart hok _ _

theorem memOkNext_execPrstReset {part : Nat} {w : DWord} {s : State} (hok : memOk s = true) : memOkNext (execPrstReset part w s) :=
  memOkNext_next (memOk_ite hok (memOk_postEvent (memOk_newKey (memOk_resetZero (memOk_resetKill (memOk_resetHalt hok)) _)) _))

theorem memOk_loseHolders {s : State} {q : Nat} (hok : memOk s = true) : memOk (loseHolders s q) = true :=
  memOk_foldl (fun _ _ ha => memOk_postEvent ha _) _ (memOk_revokeLost (memOk_of_eq hok))

theorem memOk_refundRecord {s : State} {t : Transit} (hok : memOk s = true) : memOk (refundRecord s t) = true :=
  memOk_domainStep (memOk_settleLane (memOk_refundCell (memOk_dropTransit hok)))

theorem memOk_refundAll {s : State} {q : Nat} (hok : memOk s = true) : memOk (refundAll s q) = true :=
  memOk_foldl (fun _ _ ha => memOk_postEvent ha _) _ (memOk_foldl (fun _ _ ha => memOk_refundRecord ha) _ hok)

theorem memOk_loseItem {q : Nat} {s : State} {i : Item} (hok : memOk s = true) : memOk (loseItem q s i) = true := by
  unfold loseItem
  dsimp only
  split
  · refine memOk_ite (memOk_ite (memOk_of_eq hok) hok) ?_
    split
    · exact hok
    · exact memOk_ite (memOk_domainStep (memOk_settleLane (memOk_of_eq hok))) (memOk_ite (memOk_domainStep (memOk_decideLane
          (memOk_of_eq hok))) hok)
  · exact memOk_ite (memOk_ingressValue hok) hok
  · exact memOk_ite (memOk_refuseTotal hok) hok
  · exact hok

theorem memOk_loseAsked {s : State} {q : Nat} (hok : memOk s = true) : memOk (loseAsked s q) = true := by
  unfold loseAsked
  refine memOk_foldl (fun _ _ ha => ?_) _ hok
  split
  · exact memOk_copyValue ha
  · exact ha

theorem memOk_loseCopies {s : State} {q : Nat} (hok : memOk s = true) : memOk (loseCopies s q) = true :=
  memOk_foldl (fun _ _ ha => memOk_stopCopy ha) _ hok

theorem memOk_nextOr {s : State} {o : Host.Outcome State Fault Refusal} (hok : memOk s = true) (ho : memOkNext o) : memOk (nextOr s o) = true := by
  unfold nextOr
  split
  · exact ho _ rfl
  · exact hok

theorem memOk_loseColls {s : State} {q : Nat} (hok : memOk s = true) : memOk (loseColls s q) = true :=
  memOk_foldl (fun _ _ ha => memOk_nextOr ha (memOkNext_execCollPacketAck ha)) _ hok

theorem memOk_loseAcks {s : State} {q : Nat} (hok : memOk s = true) : memOk (loseAcks s q) = true := by
  unfold loseAcks
  refine memOk_foldl (fun _ _ ha => ?_) _ hok
  split
  · exact memOk_domainStep (memOk_setDomain ha)
  · exact ha

theorem memOk_loseDeclarer {s : State} {q : Nat} (hok : memOk s = true) : memOk (loseDeclarer s q) = true := by
  unfold loseDeclarer
  refine memOk_foldl (fun _ _ ha => ?_) _ hok
  split
  · exact memOk_finishUndo ha
  · exact memOk_finishRetire ha
  · exact ha

theorem memOkNext_execPackageLost {package : Nat} {s : State} (hok : memOk s = true) : memOkNext (execPackageLost package s) :=
  memOkNext_next (memOk_ite hok (memOk_loseDeclarer (memOk_loseAcks (memOk_loseColls (memOk_loseCopies (memOk_loseAsked (memOk_foldl
    (fun _ _ ha => memOk_loseItem ha) _ (memOk_refundAll (memOk_loseHolders (memOk_of_eq hok))))))))))

/-! ## Handlers, caches and queues (22) -/

theorem memOkNext_execSysc {g : Guard} {i : BitVec 8} {s : State} (hok : memOk s = true) : memOkNext (execSysc g i s) :=
  memOkNext_next (memOk_laneEnter hok _ (memOk_ite (memOk_tick (memOk_mapStrands hok ..)) (memOk_trapGroup (memOk_mapStrands hok ..) _)))

theorem memOkNext_execHret {s : State} (hok : memOk s = true) : memOkNext (execHret s) := by
  unfold execHret
  refine memOkNext_next ?_
  refine memOk_uniEnter hok _ _ _ _ _ _ ?_
  refine memOk_ite (memOk_trapAll hok _ _) ?_
  split
  · exact memOk_tick (memOk_killSkein hok)
  · exact memOk_steer hok

theorem memOk_invalidate {x : Named} {s : State} (hok : memOk s = true) : memOk (invalidate x s) = true :=
  memOk_ite (memOk_stall (memOk_writeBack (memOk_of_eq hok) _) _) (memOk_retire (memOk_writeBack (memOk_of_eq hok) _) _)

theorem memOkNext_execTlbi {a b : BitVec 5} {s : State} (hok : memOk s = true) : memOkNext (execTlbi a b s) := by
  unfold execTlbi
  refine memOkNext_next ?_
  refine memOk_uniEnter hok _ _ _ _ _ _ ?_
  split
  · exact memOk_trapAll hok _ _
  · exact memOk_trapAll hok _ _
  · exact memOk_invalidate hok

theorem memOkNext_execTlbiCtx {b : BitVec 5} {s : State} (hok : memOk s = true) : memOkNext (execTlbiCtx b s) := by
  unfold execTlbiCtx
  refine memOkNext_next ?_
  refine memOk_uniEnter hok _ _ _ _ _ _ ?_
  split
  · exact memOk_trapAll hok _ _
  · exact memOk_invalidate hok

theorem memOk_onRange {w : DWord} {s : State} {k : State → Nat → Nat → State} (hok : memOk s = true) (hk : ∀ a x y, memOk a = true → memOk
    (k a x y) = true) :
    memOk (onRange w s k) = true := by
  unfold onRange
  split
  · exact memOk_trapAll hok _ _
  · exact hk _ _ _ hok

theorem memOk_flushOwn {s : State} {base len : Nat} (hok : memOk s = true) : memOk (flushOwn s base len) = true := memOk_writeBack hok _

theorem memOkNext_execCfluInv {a : BitVec 5} {s : State} (hok : memOk s = true) : memOkNext (execCfluInv a s) :=
  memOkNext_uniEnter hok (memOk_onRange hok (fun _ _ _ ha => memOk_retire (memOk_stopFills (memOk_dropL1 (memOk_flushOwn ha))) _))

theorem memOkNext_execMsgs {d a b q : BitVec 5} {s : State} (hok : memOk s = true) : memOkNext (execMsgs d a b q s) :=
  memOkNext_uniEnter hok (memOk_ite (memOk_retire (memOk_setWReg (memOk_setPart hok _ _)) _) (memOk_retire (memOk_setWReg
    (memOk_setPart hok _ _)) _))

theorem memOk_receive {d a b : BitVec 5} {none_ : State → State} {s : State} (hok : memOk s = true) (hnone_ : ∀ a, memOk a = true → memOk
    (none_ a) = true) :
    memOk (receive d a b none_ s) = true := by
  unfold receive
  dsimp only
  refine memOk_ite (memOk_trapAll hok _ _) ?_
  refine memOk_ite (memOk_trapAll hok _ _) ?_
  split
  · exact hnone_ _ hok
  · refine memOk_accessRange hok (fun _ _ ha => ?_)
    split
    · refine memOk_ite (memOk_stall ha _) ?_
      split
      · exact memOk_stall ha _
      · rename_i t2 ht2
        exact memOk_retire (memOk_setWReg (memOk_setPart ((memOkOpt_homeWrite (memOk_leaveL1 ha) t2 ht2)) _ _)) _
    · exact ha

theorem memOk_enableDigest {s : State} {on : Bool} (hok : memOk s = true) : memOk (enableDigest s on) = true := memOk_mapStrands hok ..

theorem memOk_issueFold {s : State} {ws : List (Nat × Xl)} (hok : memOk s = true) : memOk (issueFold s ws) = true :=
  memOk_retire (memOk_send (memOk_ite (memOk_toHomes (memOk_foldl (fun _ _ ha => memOk_mapStrands ha ..) _ (memOk_mapStrands hok ..)))
    (memOk_expectGroup (memOk_toHomes (memOk_foldl (fun _ _ ha => memOk_mapStrands ha ..) _ (memOk_mapStrands hok ..)))))) _

theorem memOkNext_execDgstFold {a b : BitVec 5} {s : State} (hok : memOk s = true) : memOkNext (execDgstFold a b s) :=
  memOkNext_uniEnter hok (memOk_ite (memOk_trapAll hok _ _) (memOk_ite (memOk_trapAll hok _ _) (memOk_ite (memOk_stall hok _)
    (memOk_accessRange hok (fun _ _ ha => memOk_issueFold ha)))))

theorem memOk_withDescriptor {h : DWord} {s : State} {k : State → List Nat → State} (hok : memOk s = true)
    (hk : ∀ a x, memOk a = true → memOk (k a x) = true) :
    memOk (withDescriptor h s k) = true := memOk_ite (memOk_trapAll hok _ _) (memOk_readGroup hok (fun _ _ ha => hk _ _ ha))

theorem memOk_flushWord {s : State} {pa : Nat} (hok : memOk s = true) : memOk (flushWord s pa) = true :=
  memOk_dropL1 (memOk_writeBack hok _)

theorem memOk_armOrder {play : Bool} {d a : BitVec 5} {s : State} (hok : memOk s = true) : memOk (armOrder play d a s) = true :=
  memOk_withDescriptor hok (fun _ _ ha => memOk_ite (memOk_trapAll ha _ _) (memOk_ite (memOk_trapAll ha _ _) (memOk_ite
    (memOk_trapAll ha _ _) (memOk_accessRange ha (fun _ _ hb => memOk_accessRange hb (fun _ _ hc => memOk_ite (memOk_retire
    (memOk_setWReg hc) _) (memOk_ite (memOk_retire (memOk_setWReg hc) _) (memOk_retire (memOk_setWReg (memOk_enableDigest (memOk_of_eq
    (memOk_flushWord hc)))) _))))))))

theorem memOk_finishOrder {s : State} {e : OrderEntry} (hok : memOk s = true) : memOk (finishOrder s e).2 = true := by
  unfold finishOrder
  split
  · exact hok
  · exact memOk_closeChunk hok

theorem memOkNext_execOrdrOff {d a : BitVec 5} {s : State} (hok : memOk s = true) : memOkNext (execOrdrOff d a s) := by
  unfold execOrdrOff
  dsimp only
  refine memOkNext_next ?_
  refine memOk_uniEnter hok _ _ _ _ _ _ ?_
  refine memOk_withDescriptor hok (fun _ _ ha => ?_)
  refine memOk_checkStore ha (fun _ hb => ?_)
  split
  · exact memOk_retire (memOk_setWReg hb) _
  · exact memOk_retire (memOk_setWReg (memOk_storeGroup (memOk_of_eq (memOk_finishOrder hb)))) _

/-! ## Every instruction and every event -/

/-- Every instruction and every event keeps the form (log entry 1). -/
theorem memOkNext_exec {i : Instr} {s : State} (hok : memOk s = true) : memOkNext (exec i s) := by
  cases i with
  | iadd => exact memOkNext_alu hok
  | iaddi => exact memOkNext_alu hok
  | isub => exact memOkNext_alu hok
  | iadds => exact memOkNext_alu hok
  | imul => exact memOkNext_alu hok
  | imulhs => exact memOkNext_alu hok
  | imulhu => exact memOkNext_alu hok
  | imad => exact memOkNext_alu hok
  | imins => exact memOkNext_alu hok
  | iminu => exact memOkNext_alu hok
  | imaxs => exact memOkNext_alu hok
  | imaxu => exact memOkNext_alu hok
  | and => exact memOkNext_alu hok
  | or => exact memOkNext_alu hok
  | xor => exact memOkNext_alu hok
  | andn => exact memOkNext_alu hok
  | andi => exact memOkNext_alu hok
  | ori => exact memOkNext_alu hok
  | xori => exact memOkNext_alu hok
  | shl => exact memOkNext_alu hok
  | shr => exact memOkNext_alu hok
  | sar => exact memOkNext_alu hok
  | shli => exact memOkNext_alu hok
  | shri => exact memOkNext_alu hok
  | sari => exact memOkNext_alu hok
  | bfx => exact memOkNext_alu hok
  | bfi => exact memOkNext_alu hok
  | popc => exact memOkNext_alu hok
  | clz => exact memOkNext_alu hok
  | brev => exact memOkNext_alu hok
  | icmps => exact memOkNext_alu hok
  | icmpu => exact memOkNext_alu hok
  | icmpsi => exact memOkNext_alu hok
  | sel => exact memOkNext_alu hok
  | mov => exact memOkNext_alu hok
  | movi => exact memOkNext_alu hok
  | movhi => exact memOkNext_alu hok
  | srd => exact memOkNext_execSrd hok
  | plog => exact memOkNext_alu hok
  | pmovPack => exact memOkNext_alu hok
  | pmovUnpack => exact memOkNext_alu hok
  | faddF32 => exact memOkNext_alu hok
  | fmulF32 => exact memOkNext_alu hok
  | ffmaF32 => exact memOkNext_alu hok
  | fminF32 => exact memOkNext_alu hok
  | fmaxF32 => exact memOkNext_alu hok
  | fcmpF32 => exact memOkNext_alu hok
  | frcpF32 => exact memOkNext_alu hok
  | frsqF32 => exact memOkNext_alu hok
  | fex2F32 => exact memOkNext_alu hok
  | flg2F32 => exact memOkNext_alu hok
  | faddBf16x2 => exact memOkNext_alu hok
  | fmulBf16x2 => exact memOkNext_alu hok
  | ffmaBf16x2 => exact memOkNext_alu hok
  | faddF16x2 => exact memOkNext_alu hok
  | fmulF16x2 => exact memOkNext_alu hok
  | ffmaF16x2 => exact memOkNext_alu hok
  | faddF64 => exact memOkNext_alu hok
  | fmulF64 => exact memOkNext_alu hok
  | ffmaF64 => exact memOkNext_alu hok
  | tsumF32 => exact memOkNext_alu hok
  | cvt => exact memOkNext_alu hok
  | f2fx => exact memOkNext_alu hok
  | fx2f => exact memOkNext_alu hok
  | idp4s => exact memOkNext_alu hok
  | idp4u => exact memOkNext_alu hok
  | tdec => exact memOkNext_alu hok
  | tenc => exact memOkNext_alu hok
  | tblo => exact memOkNext_alu hok
  | tbhi => exact memOkNext_alu hok
  | bsel => exact memOkNext_alu hok
  | shfl => exact memOkNext_next (memOk_cross hok)
  | shfli => exact memOkNext_next (memOk_cross hok)
  | vote => exact memOkNext_next (memOk_cross hok)
  | lred => exact memOkNext_next (memOk_reduce hok)
  | lscan => exact memOkNext_next (memOk_reduce hok)
  | lprev => exact memOkNext_next (memOk_cross hok)
  | rdi => exact memOkNext_execRdi hok
  | wri => exact memOkNext_next (memOk_indirect hok (fun _ ha => memOk_retire (memOk_mapStrands ha ..) _))
  | ldl => exact memOkNext_execLdl hok
  | ldlfe => exact memOkNext_execLdlfe hok
  | stl => exact memOkNext_execStl hok
  | stlfe => exact memOkNext_next (memOk_localEnter hok (fun _ _ ha => memOk_retire (memOk_storeLanes ha) _))
  | atoml => exact memOkNext_execAtoml hok
  | ldg => exact memOkNext_next (memOk_gather hok)
  | ldgc => exact memOkNext_next (memOk_gather hok)
  | stg => exact memOkNext_execStg hok
  | atomga => exact memOkNext_next (memOk_atomic hok)
  | atomgb => exact memOkNext_next (memOk_atomic hok)
  | atomg64 => exact memOkNext_next (memOk_atomic hok)
  | redg => exact memOkNext_next (memOk_atomic hok)
  | xfer => exact memOkNext_execXfer hok
  | fld => exact memOkNext_execFld hok
  | coll => exact memOkNext_execColl hok
  | sysc => exact memOkNext_execSysc hok
  | xw => exact memOkNext_alu hok
  | nop => exact memOkNext_uniEnter hok (memOk_retire hok _)
  | uadd => exact memOkNext_uniAlu hok
  | uaddi => exact memOkNext_uniAlu hok
  | usub => exact memOkNext_uniAlu hok
  | umul => exact memOkNext_uniAlu hok
  | uand => exact memOkNext_uniAlu hok
  | uor => exact memOkNext_uniAlu hok
  | uxor => exact memOkNext_uniAlu hok
  | ushl => exact memOkNext_uniAlu hok
  | ushr => exact memOkNext_uniAlu hok
  | usar => exact memOkNext_uniAlu hok
  | umin => exact memOkNext_uniAlu hok
  | umax => exact memOkNext_uniAlu hok
  | umovi => exact memOkNext_uniAlu hok
  | umovhi => exact memOkNext_uniAlu hok
  | umov => exact memOkNext_uniAlu hok
  | br => exact memOkNext_uniEnter hok (memOk_steer hok)
  | brs => exact memOkNext_uniEnter hok (memOk_ite (memOk_trapAll hok _ _) (memOk_steer hok))
  | join => exact memOkNext_uniEnter hok (memOk_runTurns hok)
  | brt => exact memOkNext_next (memOk_tableJump hok)
  | call => exact memOkNext_uniEnter hok (memOk_ite (memOk_trapAll hok _ _) (memOk_steer hok))
  | ret => exact memOkNext_uniEnter hok (memOk_runTurns hok)
  | callt => exact memOkNext_next (memOk_tableJump hok)
  | ubr => exact memOkNext_uniEnter hok (memOk_steer hok)
  | twist => exact memOkNext_execTwist hok
  | exit => exact memOkNext_execExit hok
  | wait => exact memOkNext_execWait hok
  | yield => exact memOkNext_uniEnter hok (memOk_mapStrands (memOk_retire hok _) ..)
  | bar => exact memOkNext_execBar hok
  | bara => exact memOkNext_execBara hok
  | barw => exact memOkNext_execBarw hok
  | sbar => exact memOkNext_execSbar hok
  | fence => exact memOkNext_execFence hok
  | uld => exact memOkNext_execUld hok
  | ust => exact memOkNext_execUst hok
  | uown => exact memOkNext_execUown hok
  | srdu => exact memOkNext_uniEnter hok (memOk_ite (memOk_stall hok _) (memOk_retire (memOk_setWReg hok) _))
  | swr => exact memOkNext_execSwr hok
  | swrLsmode => exact memOkNext_execSwrLsmode hok
  | swrPcap => exact memOkNext_uniEnter hok (memOk_retire (memOk_setPart hok _ _) _)
  | rgrow => exact memOkNext_execRgrow hok
  | rgtry => exact memOkNext_execRgtry hok
  | rshrk => exact memOkNext_execRshrk hok
  | vwbs => exact memOkNext_uniEnter hok (memOk_ite (memOk_trapAll hok _ _) (memOk_retire (memOk_mapStrands hok ..) _))
  | copy => exact memOkNext_uniEnter hok (memOk_issueCopy hok)
  | copy2d => exact memOkNext_uniEnter hok (memOk_issueCopy hok)
  | copyp => exact memOkNext_uniEnter hok (memOk_issueCopy hok)
  | trig => exact memOkNext_execTrig hok
  | trigCancel => exact memOkNext_execTrigCancel hok
  | cntrAdd => exact memOkNext_uniEnter hok (memOk_ite (memOk_stall hok _) (memOk_retire (memOk_addCounter hok ..) _))
  | cntrSet => exact memOkNext_uniEnter hok (memOk_ite (memOk_stall hok _) (memOk_retire (memOk_setCounter hok) _))
  | cntrRead => exact memOkNext_uniEnter hok (memOk_retire (memOk_setWReg hok) _)
  | collh => exact memOkNext_execCollh hok
  | collhAbort => exact memOkNext_execCollhAbort hok
  | collhTree => exact memOkNext_execCollhTree hok
  | lend => exact memOkNext_uniEnter hok (memOk_lendRegion hok)
  | lendShare => exact memOkNext_uniEnter hok (memOk_lendRegion hok)
  | retn => exact memOkNext_execRetn hok
  | retnRecall => exact memOkNext_execRetnRecall hok
  | retnReclaim => exact memOkNext_execRetnReclaim hok
  | split => exact memOkNext_execSplit hok
  | mend => exact memOkNext_execMend hok
  | tqry => exact memOkNext_execTqry hok
  | fdom => exact memOkNext_uniEnter hok (memOk_ite (memOk_trapAll hok _ _) (memOk_retire (memOk_mapStrands hok ..) _))
  | ftot => exact memOkNext_execFtot hok
  | fdecl => exact memOkNext_execFdecl hok
  | fdeclRetire => exact memOkNext_execFdeclRetire hok
  | tcfg => exact memOkNext_uniEnter hok (memOk_inTurn hok (fun _ ha => memOk_retire (memOk_setSkein ha _ _) _))
  | tld => exact memOkNext_uniEnter hok (memOk_tileMove hok)
  | tst => exact memOkNext_uniEnter hok (memOk_tileMove hok)
  | macq => exact memOkNext_execMacq hok
  | mrel => exact memOkNext_execMrel hok
  | mma => exact memOkNext_execMma hok
  | mloop => exact memOkNext_execMloop hok
  | amov => exact memOkNext_execAmov hok
  | aqnt => exact memOkNext_execAqnt hok
  | aclr => exact memOkNext_execAclr hok
  | phase => exact memOkNext_execPhase hok
  | dgstRead => exact memOkNext_uniEnter hok (memOk_retire (memOk_setWReg hok) _)
  | dgstOn => exact memOkNext_uniEnter hok (memOk_retire (memOk_enableDigest hok) _)
  | dgstOff => exact memOkNext_uniEnter hok (memOk_ite (memOk_trapAll hok _ _) (memOk_retire (memOk_enableDigest hok) _))
  | dgstClr => exact memOkNext_uniEnter hok (memOk_ite (memOk_trapAll hok _ _) (memOk_retire (memOk_mapStrands hok ..) _))
  | dgstFold => exact memOkNext_execDgstFold hok
  | ordrOff => exact memOkNext_execOrdrOff hok
  | ordrRec => exact memOkNext_uniEnter hok (memOk_armOrder hok)
  | ordrPlay => exact memOkNext_uniEnter hok (memOk_armOrder hok)
  | tret => exact memOkNext_uniEnter hok (memOk_ite (memOk_trapAll hok _ _) (memOk_steer hok))
  | hcall => exact memOkNext_uniEnter hok (memOk_ite (memOk_trapAll hok _ _) (memOk_steer hok))
  | hret => exact memOkNext_execHret hok
  | lnch => exact memOkNext_execLnch hok
  | sksv => exact memOkNext_execSksv hok
  | skrs => exact memOkNext_execSkrs hok
  | tlbi => exact memOkNext_execTlbi hok
  | tlbiCtx => exact memOkNext_execTlbiCtx hok
  | tlbiAll => exact memOkNext_uniEnter hok (memOk_invalidate hok)
  | brk => exact memOkNext_uniEnter hok (memOk_trapAll hok _ _)
  | halt => exact memOkNext_uniEnter hok (memOk_tick (memOk_raiseHalt hok _ _))
  | cflu => exact memOkNext_uniEnter hok (memOk_onRange hok (fun _ _ _ ha => memOk_retire (memOk_flushOwn ha) _))
  | cfluInv => exact memOkNext_execCfluInv hok
  | cfluI => exact memOkNext_uniEnter hok (memOk_onRange hok (fun _ _ _ ha => memOk_retire (memOk_of_eq ha) _))
  | msgs => exact memOkNext_execMsgs hok
  | msgr => exact memOkNext_uniEnter hok (memOk_receive hok (fun _ ha => memOk_stall ha _))
  | msgrTry => exact memOkNext_uniEnter hok (memOk_receive hok (fun _ ha => memOk_retire (memOk_setWReg ha) _))
  | gatherPacketAtHome => exact memOkNext_execGatherPacketAtHome hok
  | gatherPacketAtStack => exact memOkNext_execGatherPacketAtStack hok
  | gatherReply => exact memOkNext_execGatherReply hok
  | atomicAtHome => exact memOkNext_execAtomicAtHome hok
  | atomicReply => exact memOkNext_execAtomicReply hok
  | routerCombine => exact memOkNext_execRouterCombine hok
  | atmEpochEnd => exact memOkNext_execAtmEpochEnd hok
  | homeMoveRelease => exact memOkNext_execHomeMoveRelease hok
  | grantRequest => exact memOkNext_execGrantRequest hok
  | grantInstall => exact memOkNext_execGrantInstall hok
  | grantRevoke => exact memOkNext_execGrantRevoke hok
  | tokenStateChange => exact memOkNext_execTokenStateChange hok
  | coreFailure => exact memOkNext_execCoreFailure hok
  | xferDebit => exact memOkNext_execXferDebit hok
  | xferCredit => exact memOkNext_execXferCredit hok
  | xferCreditAck => exact memOkNext_execXferCreditAck hok
  | xferCreditRefusal => exact memOkNext_execXferCreditRefusal hok
  | fieldRecordResend => exact memOkNext_next (memOk_of_eq hok)
  | domainDescriptorCopy => exact memOkNext_execDomainDescriptorCopy hok
  | copyChunk => exact memOkNext_execCopyChunk hok
  | copyComplete => exact memOkNext_execCopyComplete hok
  | fabricIngressAccess => exact memOkNext_execFabricIngressAccess hok
  | fabricRefusal => exact memOkNext_execFabricRefusal hok
  | triggerEvaluation => exact memOkNext_next (memOk_foldl (fun _ _ ha => memOk_enterCopy ha) _ (memOk_of_eq hok))
  | lsmodeTakesEffect => exact memOkNext_execLsmodeTakesEffect hok
  | ldlfeGranuleFilled => exact memOkNext_next (memOk_mapStrands hok ..)
  | rgrowGrant => exact memOkNext_next (memOk_grantAll hok)
  | rgrowDeadlockBreak => exact memOkNext_execRgrowDeadlockBreak hok
  | matrixRequestPost => exact memOkNext_execMatrixRequestPost hok
  | matrixPassGrant => exact memOkNext_execMatrixPassGrant hok
  | mloopStepRetire => exact memOkNext_execMloopStepRetire hok
  | matrixRequestComplete => exact memOkNext_execMatrixRequestComplete hok
  | collPacketIngress => exact memOkNext_execCollPacketIngress hok
  | collRetryResend => exact memOkNext_execCollRetryResend hok
  | skeinPlacement => exact memOkNext_execSkeinPlacement hok
  | placementWaitTimeout => exact memOkNext_execPlacementWaitTimeout hok
  | plySwap => exact memOkNext_next (memOk_promote hok)
  | plyAntiStarvation => exact memOkNext_next (memOk_promote hok)
  | powerInterval => exact memOkNext_next (memOk_foldl (fun _ _ ha => memOk_endInterval ha) _ hok)
  | skeinSave => exact memOkNext_next (memOk_ite (memOk_saveSkein hok) hok)
  | skeinRestore => exact memOkNext_execSkeinRestore hok
  | lateReply => exact memOkNext_execLateReply hok
  | replyLostTimeout => exact memOkNext_execReplyLostTimeout hok
  | saveStopTimeout => exact memOkNext_next (memOk_ite (memOk_failSave hok) hok)
  | poisonTrap => exact memOkNext_execPoisonTrap hok
  | prectlReq => exact memOkNext_next (memOk_prectlSet hok)
  | prectlResume => exact memOkNext_next (memOk_prectlSet hok)
  | preemptDeadline => exact memOkNext_execPreemptDeadline hok
  | sliceExpiry => exact memOkNext_execSliceExpiry hok
  | dbgctlHalt => exact memOkNext_next (memOk_dbgctlSet hok)
  | dbgctlRelease => exact memOkNext_next (memOk_dbgctlSet hok)
  | haltStopTimeout => exact memOkNext_next (memOk_ite (memOk_stopRecord hok ..) hok)
  | phaseAllCommitted => exact memOkNext_execPhaseAllCommitted hok
  | orderGateTimeout => exact memOkNext_execOrderGateTimeout hok
  | shadowLatchRepeat => exact memOkNext_next (memOk_of_eq (memOk_tick hok))
  | migbaseWrite => exact memOkNext_next (memOk_migWrite hok)
  | migtailWrite => exact memOkNext_next (memOk_migTail hok)
  | migrationDescriptorTake => exact memOkNext_execMigrationDescriptorTake hok
  | migrationMoveDone => exact memOkNext_execMigrationMoveDone hok
  | chretWrite => exact memOkNext_next (memOk_chretSet hok)
  | frmoveWrite => exact memOkNext_next (memOk_frmoveSet hok)
  | movingHoldTimeout => exact memOkNext_execMovingHoldTimeout hok
  | retrycntRead => exact memOkNext_next (memOk_onBus (memOk_ctlRead hok))
  | atmctlWrite => exact memOkNext_next (memOk_atmctlSet hok)
  | atmcntRead => exact memOkNext_next (memOk_onBus (memOk_ctlRead hok))
  | homebaseWrite => exact memOkNext_next (memOk_homebaseSet hok)
  | tokbaseWrite => exact memOkNext_next (memOk_tokbaseSet hok)
  | colldropRead => exact memOkNext_next (memOk_onBus (memOk_setPart hok _ _))
  | evlostRead => exact memOkNext_next (memOk_onBus (memOk_setPart hok _ _))
  | replaysRead => exact memOkNext_next (memOk_onBus (memOk_of_eq hok))
  | mqpushWord0 => exact memOkNext_next (memOk_ite (memOk_pushWord0 hok) hok)
  | mqpushWord1 => exact memOkNext_next (memOk_ite (memOk_pushWord1 hok) hok)
  | prstReset => exact memOkNext_execPrstReset hok
  | partitionResetDone => exact memOkNext_next (memOk_ite (memOk_setPart hok _ _) hok)
  | pbootWrite => exact memOkNext_execPbootWrite hok
  | evctlWrite => exact memOkNext_next (memOk_evctlSet hok)
  | evheadWrite => exact memOkNext_next (memOk_evheadSet hok)
  | eventInterruptTimer => exact memOkNext_execEventInterruptTimer hok
  | hostWindowAccess => exact memOkNext_execHostWindowAccess hok
  | channelEvent => exact memOkNext_next (memOk_postEvent hok _)
  | keyRelease => exact memOkNext_next (memOk_ite (memOk_of_eq hok) hok)
  | spdmMeasurementRequest => exact memOkNext_next (memOk_ite (memOk_of_eq hok) hok)
  | powerOn => exact memOkNext_execPowerOn hok
  | portDownTimeout => exact memOkNext_next (memOk_ite (memOk_of_eq hok) hok)
  | packageLost => exact memOkNext_execPackageLost hok
  | flitCrcReplay => exact memOkNext_next (memOk_tick hok)
  | registerWrite => exact memOkNext_execRegisterWrite hok
  | copyResendOnRetry => exact memOkNext_execCopyResendOnRetry hok
  | collPacketAck => exact memOkNext_execCollPacketAck hok
  | powerLoss => exact memOkNext_next (memOk_of_eq memOk_reset)

/-! ## Uncorrectable errors -/

theorem memOk_markBad {s : State} {ws : List Nat} (hok : memOk s = true) : memOk (markBad s ws) = true := by
  rw [memOk_iff] at hok ⊢
  obtain ⟨hm, hb, hr⟩ := hok
  exact ⟨hm, Tbl.wf_foldl (fun w : Nat => w) (fun _ => true) ws hb, hr⟩

theorem memOk_halfError {s : State} {pa : Nat} (hok : memOk s = true) : memOk (halfError s pa) = true := memOk_ite (memOk_markBad hok) hok

theorem memOk_wordError {s : State} {pa : Nat} (hok : memOk s = true) : memOk (wordError s pa) = true := memOk_ite (memOk_markBad hok) hok

theorem memOk_loseRecord {s : State} {t : Transit} (hok : memOk s = true) : memOk (loseRecord s t) = true :=
  memOk_postEvent (memOk_refundRecord (memOk_of_eq hok)) _

theorem memOk_transitError {s : State} {n : Nat} {mirror : Bool} (hok : memOk s = true) : memOk (transitError s n mirror) = true := by
  unfold transitError
  dsimp only
  split
  · exact hok
  · exact memOk_ite (memOk_of_eq hok) (memOk_loseRecord (memOk_of_eq hok))

theorem memOk_repairTransit {s : State} {n : Nat} (hok : memOk s = true) : memOk (repairTransit s n) = true := by
  unfold repairTransit
  split
  · exact hok
  · exact memOk_of_eq hok

theorem memOk_laneError {s : State} {sid ply n lane : Nat} (hok : memOk s = true) : memOk (laneError s sid ply n lane) = true :=
  memOk_ite (memOk_setStrand hok _ _) hok

theorem memOk_uniError {s : State} {sid w : Nat} (hok : memOk s = true) : memOk (uniError s sid w) = true :=
  memOk_ite (memOk_setSkein hok _ _) hok

theorem memOk_onResident {s : State} {sid : Nat} {f : Skein → Skein} (hok : memOk s = true) : memOk (onResident s sid f) = true :=
  memOk_ite (memOk_setSkein hok _ _) hok

theorem memOk_l1Error {s : State} {core pa : Nat} (hok : memOk s = true) : memOk (l1Error s core pa) = true :=
  memOk_dropL1 (memOk_writeBack (memOk_of_eq hok) _)

theorem memOk_findError {s : State} {e : ErrorAt} (hok : memOk s = true) : memOk (findError s e) = true := by
  unfold findError
  split
  · exact memOk_halfError hok
  · exact memOk_wordError hok
  · exact memOk_transitError hok
  · exact memOk_repairTransit hok
  · exact hok
  · exact memOk_laneError hok
  · exact memOk_uniError hok
  · exact memOk_onResident hok
  · exact memOk_onResident hok
  · exact memOk_onResident hok
  · exact memOk_l1Error hok
  · exact memOk_ite (memOk_failSave hok) hok

/-! ## Energy (12 R228) -/

theorem memOk_chargeIssue {s t : State} {w f : Word} (hok : memOk t = true) : memOk (chargeIssue s w f t) = true := memOk_of_eq hok

theorem memOk_account {s t : State} (hok : memOk t = true) : memOk (account s t) = true := memOk_of_eq hok

theorem memOkNext_onNext {f : State → State} {o : Host.Outcome State Fault Refusal} (hf : ∀ a, memOk a = true → memOk (f a) = true)
    (ho : memOkNext o) : memOkNext (onNext f o) := by
  unfold onNext
  split
  · exact memOkNext_next (hf _ (ho _ rfl))
  · exact fun _ h => nomatch h
  · exact fun _ h => nomatch h

/-! ## The schedule -/

theorem memOk_takesTurn {s : State} {g : Group} (hok : memOk s = true) : memOk (takesTurn s g) = true :=
  memOk_ite (memOk_of_eq hok) (memOk_setSkein (memOk_of_eq hok) _ _)

theorem memOkOpt_fencesDue {s : State} (hok : memOk s = true) : memOkOpt (fencesDue s) :=
  memOkOpt_ite (memOkOpt_ite memOkOpt_none (memOkOpt_some (memOk_settleFences hok))) memOkOpt_none

theorem memOk_evict {s : State} {core pa : Nat} (hok : memOk s = true) : memOk (evict s core pa) = true :=
  memOk_dropL1 (memOk_writeBack hok _)

theorem memOk_evictPage {s : State} {core ctx base : Nat} (hok : memOk s = true) : memOk (evictPage s core ctx base) = true :=
  memOk_of_eq hok

theorem memOk_evictWord {s : State} {core va : Nat} (hok : memOk s = true) : memOk (evictWord s core va) = true := memOk_of_eq hok

theorem memOk_stopAgent {s : State} {p i : Nat} (hok : memOk s = true) : memOk (stopAgent s p i) = true :=
  memOk_ite (memOk_stopRecord hok ..) hok

/-! ## Turns -/

theorem memOkNext_runWords {w f : Word} {s : State} (hok : memOk s = true) : memOkNext (runWords w f s) := by
  unfold runWords
  refine memOkNext_onNext (fun _ ha => memOk_chargeIssue ha) ?_
  split
  · exact memOkNext_exec hok
  · exact memOkNext_next (memOk_undecoded hok)

theorem memOkNext_issue {s : State} {g : Group} (hok : memOk s = true) : memOkNext (issue s g) := by
  unfold issue
  dsimp only
  split
  · exact memOkNext_next (memOk_fetchFail (memOk_fetchAt (memOk_takesTurn hok)))
  · refine memOkNext_ite ?_ (memOkNext_runWords (memOk_fetchAt (memOk_takesTurn hok)))
    split
    · exact memOkNext_next (memOk_fetchFail (memOk_fetchAt (memOk_fetchAt (memOk_takesTurn hok))))
    · exact memOkNext_runWords (memOk_fetchAt (memOk_fetchAt (memOk_takesTurn hok)))

theorem memOkOpt_changed {s : State} {i : Instr} (hok : memOk s = true) : memOkOpt (changed s i) := by
  unfold changed
  split
  · rename_i t1 ht1
    exact memOkOpt_ite memOkOpt_none (memOkOpt_some ((memOkNext_exec hok t1 ht1)))
  · exact memOkOpt_none

theorem memOkNext_takeTurn {t : Turn} {s : State} (hok : memOk s = true) : memOkNext (takeTurn t s) := by
  cases t with
  | issue g => exact memOkNext_ite (memOkNext_issue hok) (memOkNext_next (memOk_tick hok))
  | event i =>
    refine memOkNext_ite ?_ (memOkNext_next (memOk_tick hok))
    split
    · rename_i a ha
      exact memOkNext_next (memOk_tick (memOkNext_exec hok a ha))
    · exact memOkNext_exec hok
  | evictL1 core pa => exact memOkNext_next (memOk_tick (memOk_evict hok))
  | evictTlb core ctx base => exact memOkNext_next (memOk_tick (memOk_evictPage hok))
  | evictI core va => exact memOkNext_next (memOk_tick (memOk_evictWord hok))
  | evictHome line => exact memOkNext_next (memOk_tick (memOk_dropLine hok _))
  | settle sid ply n => exact memOkNext_next (memOk_tick (memOk_ite (memOk_settleDead hok) hok))
  | stopAgent p i => exact memOkNext_next (memOk_tick (memOk_stopAgent hok))
  | error e => exact memOkNext_next (memOk_tick (memOk_findError hok))
  | monitor h => exact memOkNext_next (memOk_tick (memOk_monitor hok))
  | configure cs => exact memOkNext_next (memOk_tick (memOk_configure hok))
  | half n => exact memOkNext_next (memOk_tick (memOk_finishHalf hok))
  | upper on => exact memOkNext_next (memOk_tick (memOk_of_eq hok))
  | lag sid ply on => exact memOkNext_next (memOk_tick (memOk_lagPly hok))
  | see sid ply reg => exact memOkNext_next (memOk_tick (memOk_seeW hok))

theorem memOkNext_nextIssue {s : State} (hok : memOk s = true) : memOkNext (nextIssue s) := by
  unfold nextIssue
  split
  · exact memOkNext_issue hok
  · split
    · exact memOkNext_issue hok
    · exact memOkNext_next (memOk_tick hok)
    · exact memOkNext_next (memOk_tick (memOk_of_eq hok))

theorem memOkNext_proceed {s : State} (hok : memOk s = true) : memOkNext (proceed s) := by
  unfold proceed
  split
  · exact memOkNext_next (memOk_tick (memOk_stopRecord hok ..))
  · split
    · exact memOkNext_next (memOk_tick (memOk_finishHalf hok))
    · split
      · rename_i t1 ht1
        exact memOkNext_next (memOk_tick ((memOkOpt_findSome (fun _ => memOkOpt_changed hok) _ t1 ht1)))
      · exact memOkNext_nextIssue hok

theorem memOkNext_unpowered {s : State} (hok : memOk s = true) : memOkNext (unpowered s) := by
  unfold unpowered
  split
  · split
    · exact memOkNext_exec (memOk_of_eq hok)
    · exact memOkNext_next (memOk_of_eq hok)
  · exact memOkNext_next (memOk_of_eq hok)
  · exact memOkNext_next hok

theorem memOkNext_act {s : State} (hok : memOk s = true) : memOkNext (act s) := by
  unfold act
  split
  · exact memOkNext_exec hok
  · split
    · exact memOkNext_next (memOk_settleDead hok)
    · split
      · rename_i t ht
        exact memOkNext_next (memOkOpt_fencesDue hok t ht)
      · split
        · rename_i t rest _
          exact memOkNext_takeTurn (s := { s with agenda := rest }) (memOk_of_eq hok)
        · exact memOkNext_proceed hok

/-! ## One step -/

theorem memOkNext_step {s : State} (hok : memOk s = true) : memOkNext (step s) := by
  unfold step
  split
  · exact fun _ h => nomatch h
  · exact memOkNext_ite (memOkNext_unpowered hok) (memOkNext_onNext (fun _ ha => memOk_account ha) (memOkNext_act hok))

/-- Settles O55: every operation keeps the form, and a step is made of them. -/
theorem stepKeepsMemoryCanonical : Obligations.step_keeps_memory_canonical := fun _ t hok ht => memOkNext_step hok t ht

end Sys2Proof.Machine
end

section
/-! The Reset columns of the register maps (O54). -/

namespace Sys2Proof.Machine

/-- 04 R90, R91 and 01 R29: of the die's registers ATMCTL alone has a reset value other than 0. -/
theorem ctlRead_reset_atmctl : (ctlRead State.reset 0 0x080).1 = 0x41000001 ∧
    ∀ die < 2, ∀ off ∈ [0x000, 0x008, 0x010, 0x018, 0x020, 0x040, 0x048, 0x050, 0x058, 0x088, 0x090],
      (ctlRead State.reset die off).1 = 0 := by decide

/-- 05 R104: FWCTL reads LOG2SIZE 16. -/
theorem ctlRead_reset_fieldWindow : ∀ p < 8, (ctlRead State.reset 0 (0x100 + 0x20 * p)).1 = 0 ∧
    (ctlRead State.reset 0 (0x108 + 0x20 * p)).1 = 16 ∧ (ctlRead State.reset 0 (0x110 + 0x20 * p)).1 = 0 ∧
    (ctlRead State.reset 0 (0x400 + 0x10 * p)).1 = 0 := by decide

/-- 14 R259: PRECTL holds DEADLINE 1000. -/
theorem ctlRead_reset_prectl : ∀ p < 8, (ctlRead State.reset 0 (0x200 + 0x40 * p)).1 = 1000 * 2 ^ 8 ∧
    ∀ off ∈ [0x208, 0x210, 0x218, 0x220], (ctlRead State.reset 0 (off + 0x40 * p)).1 = 0 := by decide

/-- 16 R285 to R293: every partition has the registers of `Partition.reset`. -/
theorem getPart_reset (p : Nat) : getPart State.reset p = Partition.reset := rfl

/-- Settles O54: each group of registers by its reset table; memory, its poison and the held lines are empty. -/
theorem resetValues : Obligations.reset_values := by
  refine ⟨ctlRead_reset_atmctl, ctlRead_reset_fieldWindow, ctlRead_reset_prectl, fun p _ => ?_, ?_, memOk_reset, fun _ => rfl⟩
  · rw [getPart_reset]
    decide
  · exact ⟨fun _ _ => rfl, rfl, fun _ => rfl, fun _ => ⟨rfl, rfl⟩⟩

end Sys2Proof.Machine
end

section
/-! A change of LSMODE waits for the accesses in the core's banks (O52). -/

namespace Sys2Proof.Machine

/-- A 16-byte LDS of core 0 with one half in its banks (06 R109). -/
def bankHalf : Half :=
  { org := { core := 0, die := 0, sid := 0, ply := 0, tag := 0, ctx := 0, pc := 0, acq := false, rel := false }
    strands := [0], near := true, write := false, lanes := [] }

/-- Core 0 with a mode change that is pending while one of its banks is busy. -/
def lsmodePending : State :=
  { State.reset with cores := [(0, { Core.reset with pend := some true })], flight := [.half bankHalf] }

/-- The change does not take effect before the access has finished (06 R114). -/
theorem execLsmodeTakesEffect_lsmodePending : execLsmodeTakesEffect 0 lsmodePending = .next lsmodePending := rfl

/-- Refutes O52: its clause on LSMODE_TAKES_EFFECT lets every pending change take effect, but the change waits while an access of the
core is in the banks; in `lsmodePending` the step leaves the change pending. -/
theorem not_registerEventResults : ¬ Obligations.register_event_results := by
  unfold Obligations.register_event_results
  intro h
  obtain ⟨hls, -⟩ := h lsmodePending 0 0 0 0 0 0 0 0 false
  have hnext : execLsmodeTakesEffect 0 lsmodePending = _ := hls true rfl
  rw [execLsmodeTakesEffect_lsmodePending] at hnext
  have hpend := congrArg (fun t => (getCore t 0).pend) (Host.Outcome.next.inj hnext)
  exact absurd hpend (by decide)

end Sys2Proof.Machine
end

section
/-! What an event, and a write into a saved skein's image, leave as it was. -/

namespace Sys2Proof.Machine

/-- A later state differs from `s` in nothing but what an event changes (16 R287): the partitions' rings and counts, what is sent to the
host, and the events held. -/
def eventPart (s t : State) : Prop := t = { s with parts := t.parts, hostOut := t.hostOut, evHeld := t.evHeld }

theorem eventPart_refl (s : State) : eventPart s s := rfl

theorem eventPart_trans {s t u : State} (h : eventPart s t) (k : eventPart t u) : eventPart s u := by
  unfold eventPart at *
  rw [k, h]

theorem postTo_eventPart (s : State) (p : Nat) (e : Event) : eventPart s (postTo s p e) := by
  unfold postTo
  dsimp only
  split
  · rfl
  · split <;> rfl

theorem postEvent_eventPart (s : State) (e : Event) : eventPart s (postEvent s e) := by
  unfold postEvent
  split
  · exact List.foldlRecOn _ _ (eventPart_refl s) (fun _ h p _ => eventPart_trans h (postTo_eventPart _ p e))
  · exact postTo_eventPart s _ e

@[simp] theorem postEvent_skeins (s : State) (e : Event) : (postEvent s e).skeins = s.skeins := by
  rw [postEvent_eventPart s e]

@[simp] theorem writeMem_skeins (s : State) (pa : Nat) (data : List PByte) : (writeMem s pa data).skeins = s.skeins := by
  unfold writeMem
  split
  · rfl
  · split <;> rfl

@[simp] theorem homePut_skeins (s : State) (pa : Nat) (data : List PByte) : (homePut s pa data).skeins = s.skeins := by
  unfold homePut
  split
  · exact postEvent_skeins _ _
  · exact writeMem_skeins _ _ _

theorem ctxWrite_skeins {p ctx : Nat} {ws : List DWord} {va : Nat} {s t : State} (h : ctxWrite p ctx va ws s = some t) :
    t.skeins = s.skeins := by
  induction ws generalizing va s with
  | nil =>
    rw [ctxWrite] at h
    rw [Option.some.inj h]
  | cons w ws ih =>
    rw [ctxWrite] at h
    split at h
    · rw [ih h, homePut_skeins]
    · cases h

@[simp] theorem imagePatch_skeins (s : State) (k : Skein) (off : Nat) (ws : List DWord) : (imagePatch s k off ws).skeins = s.skeins := by
  unfold imagePatch
  cases h : ctxWrite k.part k.ctx (imageVa s k + off) ws s with
  | none => rfl
  | some t => exact ctxWrite_skeins h

@[simp] theorem patchReplies_skeins (s : State) (k : Skein) (ply n : Nat) (rs : List Reply) :
    (patchReplies s k ply n rs).skeins = s.skeins := imagePatch_skeins ..

end Sys2Proof.Machine
end

section
/-! The packet, atomic and reply events (O48): an equation for each way in which one completes. -/

namespace Sys2Proof.Machine

/-! ## Packets (01 R14, R16) -/

/-- A lane that is not finished has bytes left. -/
theorem not_finished (l : LaneAcc) : (!l.finished) = decide (l.done < l.size) := by
  simp only [LaneAcc.finished, ← decide_not, Nat.not_le]

theorem execGatherPacketAtHome_together {s t : State} {n : Nat} {p : Packet} (hi : s.flight[n]? = some (.gatherHome p))
    (ht : runTogether s p = some t) : execGatherPacketAtHome n s = .next t := by
  simp only [execGatherPacketAtHome, hi, ht, Option.getD_some]

theorem execGatherPacketAtHome_atSlice {s : State} {n : Nat} {p : Packet} (hi : s.flight[n]? = some (.gatherHome p))
    (ht : runTogether s p = none) : execGatherPacketAtHome n s = .next (atSlice s n p) := by
  simp only [execGatherPacketAtHome, hi, ht, Option.getD_none]

theorem execGatherPacketAtHome_fieldAsk {s : State} {n pt slot : Nat} {o : Origin} {l : LaneAcc} {uni : Option (List Nat × Option Nat)}
    {cs : List CellRead} (hi : s.flight[n]? = some (.fieldAsk o l uni pt slot cs false)) (hm : mayPerform s n = true) :
    execGatherPacketAtHome n s = .next { replaceItem s n [(askCells s o l uni pt slot cs).1] with
      fabricOut := s.fabricOut ++ (askCells s o l uni pt slot cs).2 } := by
  simp only [execGatherPacketAtHome, hi, hm, if_true]

theorem atSlice_none {s : State} {n : Nat} {p : Packet} (h : nextSlice s p = none) :
    atSlice s n p = replaceItem s n [.gatherStack p] := by
  simp only [atSlice, h]

theorem execGatherPacketAtStack_together {s t : State} {n : Nat} {p : Packet} (hi : s.flight[n]? = some (.gatherStack p))
    (ht : runTogether s p = some t) : execGatherPacketAtStack n s = .next t := by
  simp only [execGatherPacketAtStack, hi, ht, Option.getD_some]

theorem execGatherReply_resident {s : State} {n : Nat} {fill : Bool} {p : Packet} (hi : s.flight[n]? = some (.gatherReply fill p))
    (hp : (getSkein s p.org.sid).place = .resident) : execGatherReply n s = .next (takeReply (replaceItem s n []) fill p) := by
  simp [execGatherReply, hi, hp, resident]

theorem execGatherReply_saved {s : State} {n : Nat} {fill : Bool} {p : Packet} (hi : s.flight[n]? = some (.gatherReply fill p))
    (hp : (getSkein s p.org.sid).place = .saved) : execGatherReply n s = .next s := by
  simp [execGatherReply, hi, hp]

theorem execLateReply_gather {s : State} {n : Nat} {fill : Bool} {p : Packet} (hi : s.flight[n]? = some (.gatherReply fill p))
    (hp : (getSkein s p.org.sid).place = .saved) :
    execLateReply n s = .next (p.lanes.foldl (fun b l => lateLane b p.org l.lane l.data) (replaceItem s n [])) := by
  simp [execLateReply, hi, hp]

/-! ## Atomics (04 R83, R86, 20 R336) -/

/-- A lane with an address that no later lane names is performed by itself. -/
theorem closedRun_head {n pa : Nat} {l : List (Nat × Nat)} (h : ∀ e ∈ l, e.2 ≠ pa) : closedRun [] ((n, pa) :: l) = [n] := by
  have hno : l.any (fun y => [pa].contains y.2) = false := by
    simpa using fun a b hab => h (a, b) hab
  simp only [closedRun, hno, Bool.false_eq_true, if_false]

/-- The later requests of an S-page request's instruction. -/
def atomMates (s : State) (n : Nat) (r : AtomReq) : List AtomReq :=
  (s.flight.drop (n + 1)).filterMap (fun i => match i with
    | .atomic q => if q.kind = .sequential ∧ sameInstr r q = true then some q else none
    | _ => none)

theorem mem_atomMates {s : State} {n : Nat} {r q : AtomReq} (h : q ∈ atomMates s n r) :
    Item.atomic q ∈ s.flight.drop (n + 1) ∧ q.kind = .sequential ∧ sameInstr r q = true := by
  obtain ⟨i, hi, hq⟩ := List.mem_filterMap.1 h
  cases i with
  | atomic x =>
    simp only [Option.ite_none_right_eq_some, Option.some.injEq] at hq
    obtain ⟨hx, rfl⟩ := hq
    exact ⟨hi, hx⟩
  | _ => cases hq

/-- A request at the head of those of its instruction, performed alone or with as many of them as its word asks for. -/
def atomTurn (s : State) (r : AtomReq) (rs : List AtomReq) : State :=
  match closedRun [] (rs.zipIdx.map (fun e => (e.2, e.1.pa))) with
  | [_] => atomAtHome s r
  | ns => (atomRun (rs.take ns.length) s).getD s

/-- What a request does that may be performed now. -/
theorem execAtomicAtHome_may {s : State} {n : Nat} {r : AtomReq} (hi : s.flight[n]? = some (.atomic r)) (hm : mayPerform s n = true)
    (hh : heldAt s r.die r.pa = false) :
    execAtomicAtHome n s = .next (atomTurn s r (r :: if r.kind = .sequential then atomMates s n r else [])) := by
  have hmates : ((s.flight.drop (n + 1)).filterMap (fun i => match i with
      | .atomic q => if r.kind = .sequential ∧ q.kind = .sequential ∧ sameInstr r q then some q else none
      | _ => none)) = if r.kind = .sequential then atomMates s n r else [] := by
    split
    · rename_i hk
      simp only [hk, true_and]
      rfl
    · rename_i hk
      simp only [hk, false_and, if_false]
      exact List.filterMap_eq_nil_iff.2 (fun i _ => by cases i <;> rfl)
  rw [← hmates]
  simp only [execAtomicAtHome, hi, hm, hh, Bool.not_false, Bool.and_true, if_true]
  rfl

theorem execAtomicAtHome_alone {s : State} {n : Nat} {r : AtomReq} (hi : s.flight[n]? = some (.atomic r)) (hm : mayPerform s n = true)
    (hh : heldAt s r.die r.pa = false)
    (ho : r.kind ≠ .sequential ∨ ∀ q, Item.atomic q ∈ s.flight.drop (n + 1) → q.kind = .sequential → sameInstr r q = true → q.pa ≠ r.pa) :
    execAtomicAtHome n s = .next (atomAtHome s r) := by
  rw [execAtomicAtHome_may hi hm hh]
  have hpa : ∀ q ∈ (if r.kind = .sequential then atomMates s n r else []), q.pa ≠ r.pa := by
    intro q hq
    split at hq
    · rename_i hk
      obtain ⟨hin, hseq, hsame⟩ := mem_atomMates hq
      exact (ho.resolve_left (not_not_intro hk)) q hin hseq hsame
    · cases hq
  rw [atomTurn, List.zipIdx_cons, List.map_cons, closedRun_head]
  intro e he
  obtain ⟨⟨q, k⟩, hq, rfl⟩ := List.mem_map.1 he
  exact hpa q (List.fst_mem_of_mem_zipIdx hq)

theorem execAtomicAtHome_run {s : State} {n a b : Nat} {rest : List Nat} {r : AtomReq} (hi : s.flight[n]? = some (.atomic r))
    (hm : mayPerform s n = true) (hh : heldAt s r.die r.pa = false) (hk : r.kind = .sequential)
    (hr : closedRun [] ((r :: atomMates s n r).zipIdx.map (fun e => (e.2, e.1.pa))) = a :: b :: rest) :
    execAtomicAtHome n s = .next ((atomRun ((r :: atomMates s n r).take (rest.length + 2)) s).getD s) := by
  rw [execAtomicAtHome_may hi hm hh]
  simp only [atomTurn, hk, if_true, hr, List.length_cons]

theorem execAtomicReply_resident {s : State} {n : Nat} {r : AtomReq} {olds : List (DWord × Bool)}
    (hi : s.flight[n]? = some (.atomReply r olds)) (hp : ∀ l ∈ r.lanes, (getSkein s l.org.sid).place = .resident) :
    execAtomicReply n s = .next ((r.lanes.zip olds).foldl (fun b e =>
      takeOld (if e.1.org.acq && r.kind != .unordered then acquire b (getSkein b e.1.org.sid).core false else b) r e.1 e.2)
        (replaceItem s n [])) := by
  have hlane : ∀ e ∈ r.lanes.zip olds, (getSkein s e.1.org.sid).place = .resident := fun e he => hp e.1 (List.of_mem_zip he).1
  have hlate : (r.lanes.zip olds).filter (fun e => (getSkein s e.1.org.sid).place == .saved) = [] :=
    List.filter_eq_nil_iff.2 (fun e he => by rw [hlane e he]; decide)
  have hnow : (r.lanes.zip olds).filter (fun e => resident s e.1.org.sid) = r.lanes.zip olds :=
    List.filter_eq_self.2 (fun e he => by rw [resident, hlane e he]; rfl)
  simp only [execAtomicReply, hi, hlate, hnow, List.isEmpty_nil, if_true]

theorem execRouterCombine_meet {s : State} {n m : Nat} {r q : AtomReq} (hn : s.flight[n]? = some (.atomic r))
    (hm : s.flight[m]? = some (.atomic q)) (hlt : n < m) (hc : mayCombine s r q = true) (h1 : meets s n n r = true)
    (h2 : meets s n m q = true) :
    execRouterCombine n m s = .next (replaceItem (replaceItem s m []) n [.atomic (combined r q)]) := by
  simp only [execRouterCombine, hn, hm, hlt, hc, h1, h2, and_self, if_true]

/-! ## Homes that move (04 R88, R89) -/

/-- The die with the highest counter is one of those that were asked. -/
theorem busiest_mem (s : State) (f : Nat) (l : List Nat) {o : Option Nat} {d : Nat}
    (h : l.foldl (fun b d => match b with
      | none => some d
      | some e => if atomicsOf s f e < atomicsOf s f d then some d else some e) o = some d) : o = some d ∨ d ∈ l := by
  induction l generalizing o with
  | nil => exact .inl h
  | cons x l ih =>
    rcases ih h with hx | hx
    · cases o with
      | none => exact .inr (Option.some.inj hx ▸ List.mem_cons_self)
      | some e =>
        dsimp only at hx
        split at hx
        · exact .inr (Option.some.inj hx ▸ List.mem_cons_self)
        · exact .inl hx
    · exact .inr (List.mem_cons_of_mem x hx)

theorem moveTo_some {s : State} {f d : Nat} (h : moveTo s f = some d) : d ≠ homeDie s f ∧ s.atmThresh.toNat ≤ atomicsOf s f d ∧
    2 * atomicsOf s f (homeDie s f) ≤ atomicsOf s f d ∧ Tbl.get 0 s.movedAgo f = 0 ∧ Tbl.get 0 s.fieldFrames f = 0 ∧
    holdsTokens s f = false ∧ ∀ x ∈ s.homeMoves, x.1 ≠ f := by
  unfold moveTo at h
  dsimp only at h
  split at h
  · cases h
  · rename_i hfree
    have hmem := (busiest_mem s f _ h).resolve_left (fun hn => nomatch hn)
    obtain ⟨-, hd⟩ := List.mem_filter.1 hmem
    simp only [Bool.and_eq_true, bne_iff_ne, decide_eq_true_eq] at hd
    simp only [Bool.or_eq_true, bne_iff_ne, List.any_eq_true, beq_iff_eq, not_or, Decidable.not_not, Bool.not_eq_true, not_exists, not_and] at hfree
    obtain ⟨⟨hne, hth⟩, htwice⟩ := hd
    obtain ⟨⟨⟨hago, hfld⟩, htok⟩, hmv⟩ := hfree
    exact ⟨hne, hth, htwice, hago, hfld, htok, hmv⟩

@[simp] theorem dropLine_mem (s : State) (line : Nat) : (dropLine s line).mem = s.mem := by
  unfold dropLine
  dsimp only
  split <;> rfl

theorem foldl_dropLine_mem (s : State) (l : List Nat) : (l.foldl dropLine s).mem = s.mem :=
  List.foldlRecOn (motive := fun b => b.mem = s.mem) l _ rfl (fun b h x _ => (dropLine_mem b x).trans h)

theorem execHomeMoveRelease_drained {s : State} {f old new : Nat} (hm : s.homeMoves.find? (fun x => x.1 == f) = some (f, old, new))
    (hd : ∀ i ∈ s.flight, i.at_ f old = false) : answers (execHomeMoveRelease f s) (fun t => t.atmCnt = min (s.atmCnt + 1) 0xFFFFFFFF ∧
      t.homeMoves = s.homeMoves.filter (fun x => x.1 != f) ∧ t.mem = s.mem) := by
  have hno : s.flight.any (fun i => i.at_ f old) = false := by simpa using hd
  unfold execHomeMoveRelease
  rw [hm]
  simp only [hno, Bool.false_eq_true, if_false]
  exact ⟨_, rfl, rfl, rfl, foldl_dropLine_mem s _⟩

theorem execHomeMoveRelease_waits {s : State} {f old new : Nat} (hm : s.homeMoves.find? (fun x => x.1 == f) = some (f, old, new))
    (hd : ∃ i ∈ s.flight, i.at_ f old = true) : execHomeMoveRelease f s = .next s := by
  have hsome : s.flight.any (fun i => i.at_ f old) = true := List.any_eq_true.2 hd
  unfold execHomeMoveRelease
  rw [hm]
  simp only [hsome, if_true]

/-! ## Replies declared lost (14 R258) -/

@[simp] theorem loseReplies_skeins (s : State) (o : Origin) (m : Nat) : (loseReplies s o m).skeins = s.skeins := by
  unfold loseReplies
  dsimp only
  split
  · rfl
  · split
    · rw [patchReplies_skeins, imagePatch_skeins, setStrand_skeins]
    · rfl

theorem foldl_loseReplies_skeins (o : Origin) (l : List Nat) (s : State) : (l.foldl (fun b x => loseReplies b o x) s).skeins = s.skeins :=
  List.foldlRecOn (motive := fun b => b.skeins = s.skeins) l _ rfl (fun b h x _ => (loseReplies_skeins b o x).trans h)

theorem execReplyLostTimeout_flight {s : State} {n va : Nat} {i : Item} {o : Origin} (hi : s.flight[n]? = some i)
    (ha : i.askers.find? (fun a => acrossSave s a.1) = some (o, va)) : execReplyLostTimeout n s = .next (postEvent
      ((List.range 8).foldl (fun b x => loseReplies b o x) { s with flight := s.flight.flatMap (Item.without o) })
      { part := (getSkein s o.sid).part, type := 8, w1 := dw (getSkein s o.sid).launch, w2 := dw (getSkein s o.sid).index, w3 := dw va }) := by
  have hk := foldl_loseReplies_skeins o (List.range 8) { s with flight := s.flight.flatMap (Item.without o) }
  simp only [execReplyLostTimeout, hi, ha, lostEvent, getSkein, hk]

theorem execReplyLostTimeout_orphan {s : State} {n m : Nat} {o : Origin} (hn : s.flight.length ≤ n)
    (ho : (orphans s)[n - s.flight.length]? = some (o, m)) :
    execReplyLostTimeout n s = .next (lostEvent (loseReplies s o m) o.sid 0) := by
  simp only [execReplyLostTimeout, List.getElem?_eq_none hn, ho]

/-- Settles O48: each event by the equations above; what remains is the model's own definition. -/
theorem packetAndAtomicEventResults : Obligations.packet_and_atomic_event_results := by
  intro s n m frame p r q o fill olds
  refine ⟨fun hi ht hs => ?_, fun t ht => ⟨fun hi => execGatherPacketAtHome_together hi ht, fun hi => execGatherPacketAtStack_together hi ht⟩,
    fun k hi ht hs => ?_, fun l uni pt slot cs hi hm => execGatherPacketAtHome_fieldAsk hi hm, fun hi ht => ?_,
    execGatherReply_resident, fun hi hp => ⟨execGatherReply_saved hi hp, execLateReply_gather hi hp⟩, execAtomicAtHome_alone,
    fun a b rest hi hm hh hk hr => execAtomicAtHome_run hi hm hh hk hr, rfl, execAtomicReply_resident, execRouterCombine_meet,
    fun a ha => ?_, fun d => moveTo_some,
    fun old new hm => ⟨execHomeMoveRelease_drained hm, execHomeMoveRelease_waits hm⟩, fun i va => execReplyLostTimeout_flight,
    fun j => execReplyLostTimeout_orphan⟩
  · exact (execGatherPacketAtHome_atSlice hi ht).trans (by rw [atSlice_none hs])
  · refine (execGatherPacketAtHome_atSlice hi ht).trans ?_
    simp only [atSlice, hs, not_finished]
    rfl
  · show execGatherPacketAtStack n s = _
    simp only [execGatherPacketAtStack, hi, ht, Option.getD_none, not_finished]
    rfl
  · simp only [← Bool.and_eq_true] at ha
    subst ha
    rfl

end Sys2Proof.Machine
end

section
/-! The package events (O53): an equation for each way in which one completes. -/

namespace Sys2Proof.Machine

/-! ## Partitions that are there -/

theorem ne_reset_of_present {x : Partition} (h : x.present = true) : x ≠ Partition.reset := by
  rintro rfl
  cases h

theorem getPart_setPart_self {x : Partition} (h : x.present = true) (s : State) (p : Nat) : getPart (setPart s p x) p = x := by
  simp only [getPart, setPart, Tbl.set, ne_reset_of_present h, if_false, Tbl.get_put_self]

theorem getPart_setPart_ne {x : Partition} (h : x.present = true) (s : State) {p q : Nat} (hne : q ≠ p) :
    getPart (setPart s p x) q = getPart s q := by
  simp only [getPart, setPart, Tbl.set, ne_reset_of_present h, if_false, Tbl.get_put_ne _ _ _ hne]

/-! ## Power (12 R226) -/

theorem endInterval_ticks (s : State) (p : Nat) (w : Option Nat) : (endInterval s p w).ticks = s.ticks := by
  unfold endInterval
  dsimp only
  split <;> rfl

theorem endInterval_ne (s : State) {p q : Nat} (w : Option Nat) (hne : q ≠ p) : getPart (endInterval s p w) q = getPart s q := by
  unfold endInterval
  dsimp only
  split
  · rfl
  · rename_i h
    exact getPart_setPart_ne (by simpa using h) s hne

theorem endInterval_self {s : State} {p : Nat} (h : (getPart s p).present = true) (w : Option Nat) : getPart (endInterval s p w) p =
    { getPart s p with permit := (w.map (nextPermit s (getPart s p))).getD (getPart s p).permit, pcap := (getPart s p).pcapNext } := by
  unfold endInterval
  dsimp only
  rw [if_neg (by simp [h])]
  exact getPart_setPart_self (by exact h) s p

theorem nextPermit_of_ticks {s t : State} (h : t.ticks = s.ticks) : nextPermit t = nextPermit s := by
  funext x w
  simp only [nextPermit, h]

theorem foldl_endInterval_ne (f : Nat → Option Nat) {p : Nat} (l : List Nat) (hp : p ∉ l) (s : State) :
    getPart (l.foldl (fun a q => endInterval a q (f q)) s) p = getPart s p := by
  induction l generalizing s with
  | nil => rfl
  | cons q l ih =>
    obtain ⟨hne, hl⟩ := not_or.1 (fun h => hp (List.mem_cons.2 h))
    exact (ih hl _).trans (endInterval_ne s (f q) hne)

/-- Each partition's interval ends once, by its own power. -/
theorem foldl_endInterval_self (f : Nat → Option Nat) {p : Nat} {l : List Nat} (hl : l.Nodup) (hp : p ∈ l) {s : State}
    (h : (getPart s p).present = true) : getPart (l.foldl (fun a q => endInterval a q (f q)) s) p =
      { getPart s p with permit := ((f p).map (nextPermit s (getPart s p))).getD (getPart s p).permit, pcap := (getPart s p).pcapNext } := by
  induction l generalizing s with
  | nil => cases hp
  | cons q l ih =>
    obtain ⟨hq, hnd⟩ := List.nodup_cons.1 hl
    rw [List.foldl_cons]
    by_cases hpq : p = q
    · subst hpq
      rw [foldl_endInterval_ne f l hq, endInterval_self h]
    · have hkeep := endInterval_ne s (f q) hpq
      rw [ih hnd ((List.mem_cons.1 hp).resolve_left hpq) (by rw [hkeep]; exact h), hkeep, nextPermit_of_ticks (endInterval_ticks s q (f q))]

theorem execPowerInterval_part {s : State} {p watts : Nat} (hp : p < 8) (h : (getPart s p).present = true) :
    answers (execPowerInterval [(p, watts)] s) (fun t => getPart t p =
      { getPart s p with permit := nextPermit s (getPart s p) watts, pcap := (getPart s p).pcapNext }) := by
  refine ⟨_, rfl, (foldl_endInterval_self _ List.nodup_range (List.mem_range.2 hp) h).trans ?_⟩
  simp only [List.find?_cons, beq_self_eq_true, Option.map_some, Option.getD_some]

/-- The permit falls under a cap that was passed, rises under one that was not, and stays from 1 to 64 (12 R226). -/
theorem nextPermit_moves (s : State) (x : Partition) (w : Nat) : (x.pcap = w → nextPermit s x w = x.permit) ∧
    (x.pcap < w → 1 ≤ nextPermit s x w ∧ nextPermit s x w ≤ max 1 (x.permit - 1)) ∧
    (w < x.pcap → nextPermit s x w ≤ 64 ∧ min 64 (x.permit + 1) ≤ nextPermit s x w) := by
  unfold nextPermit
  refine ⟨fun h => ?_, fun h => ?_, fun h => ?_⟩
  · simp only [h, Nat.lt_irrefl, if_false]
  · simp only [h, if_true]
    omega
  · simp only [h, Nat.lt_asymm h, if_true, if_false]
    omega

/-! ## Timed stops (14 R267, 15 R282) -/

theorem execHaltStopTimeout_runs {s : State} {p agent : Nat} (hh : (getPart s p).halted = true) (ha : (agentsOf s p).contains agent = true)
    (hw : (getPart s p).stopWritten.contains agent = false) : execHaltStopTimeout p agent s = .next (stopRecord s p agent false) := by
  simp only [execHaltStopTimeout, hh, ha, hw, Bool.not_false, Bool.and_true, if_true]

theorem execOrderGateTimeout_opens {s : State} {n : Nat} {e : OrderEntry} (he : s.orders[n]? = some e) (hp : e.play = true)
    (hd : e.div = false) (hw : gateWaits s e = true) : execOrderGateTimeout n s = .next
      (postEvent (setOrder s { e with div := true }) { part := e.part, type := 11, w1 := dw e.desc, w2 := dw e.used, w3 := 0 }) := by
  simp only [execOrderGateTimeout, he, hp, hd, hw, Bool.not_false, Bool.and_true, if_true]

/-! ## The migration engines (01 R22 to R26) -/

theorem execMigrationDescriptorTake_runs {s : State} {die : Nat} (hdie : die < 2) (hr : engineRuns s die = true)
    (hb : (getIo s die).migBusy = false) (hne : (getIo s die).migHead ≠ (getIo s die).migTail)
    (hp : populated s ((getIo s die).migBase.toNat + 32 * (getIo s die).migHead) = true) :
    execMigrationDescriptorTake die s = .next (
      let d := getIo s die
      let pa := d.migBase.toNat + 32 * d.migHead
      let ws := bytesDwords 4 (readBytes s pa 32)
      if fieldOf (ws.getD 3 0).toNat 0 8 ≠ 0 then setIo s die { d with migErr := true }.advance
      else setIo s die { d with migBusy := true, migPa := pa, migDesc := ws }) := by
  simp only [execMigrationDescriptorTake, hr, hb, hp, Nat.not_le.2 hdie, beq_false_of_ne hne, decide_false, Bool.not_true, Bool.or_self,
    Bool.false_eq_true, if_false]

/-- The code that ends the descriptor taken without a move, if there is one. -/
def takenCode (s : State) (die : Nat) : Option Nat :=
  let d := getIo s die
  descriptorCode s (d.migDesc.getD 0 0).toNat (d.migDesc.getD 1 0).toNat (d.migDesc.getD 2 0).toNat

theorem execMigrationMoveDone_code {s : State} {die c : Nat} (hdie : die < 2) (hb : (getIo s die).migBusy = true)
    (hs : engineStopped s die = false) (hc : takenCode s die = some c) :
    execMigrationMoveDone die s = .next (endDescriptor s die c) := by
  unfold takenCode at hc
  unfold execMigrationMoveDone
  dsimp only at hc ⊢
  rw [if_neg (by simpa [hb, hs] using hdie), hc]

theorem execMigrationMoveDone_moves {s : State} {die : Nat} (hdie : die < 2) (hb : (getIo s die).migBusy = true)
    (hs : engineStopped s die = false) (hc : takenCode s die = none) : execMigrationMoveDone die s = .next (
      let src := ((getIo s die).migDesc.getD 0 0).toNat
      endDescriptor (moveFrame s src ((getIo s die).migDesc.getD 1 0).toNat) die (if frameBad s src then 2 else 1)) := by
  unfold takenCode at hc
  unfold execMigrationMoveDone
  dsimp only at hc ⊢
  rw [if_neg (by simpa [hb, hs] using hdie), hc]

/-! ## The load/store window (16 R284) -/

/-- What a host access that may be kept before a gate finds kept. -/
def hostKept (s : State) (part off : Nat) (acc : HostAcc) : Option (Held × List Byte) :=
  match acc with
  | .read _ => none
  | .write bs => (heldOf s (.host part off bs)).map (fun h => (h, bs))

theorem hostKept_none {s : State} {part off : Nat} {acc : HostAcc} (h : ∀ bs, acc = .write bs → heldOf s (.host part off bs) = none) :
    hostKept s part off acc = none := by
  cases acc with
  | read _ => rfl
  | write bs => simp only [hostKept, h bs rfl, Option.map_none]

theorem hostKept_some {s : State} {part off : Nat} {bs : List Byte} {h : Held} (hh : heldOf s (.host part off bs) = some h) :
    hostKept s part off (.write bs) = some (h, bs) := by
  simp only [hostKept, hh, Option.map_some]

/-- A window that is off, an access beyond it, or one of no bytes. -/
def windowRefuses (s : State) (part off : Nat) (acc : HostAcc) : Prop :=
  closed s (getPart s part) = true ∨ (getPart s part).lswBase.getLsbD 0 = false ∨ 2 ^ 36 < off + accSize acc ∨ accSize acc = 0

theorem execHostWindowAccess_refused {s : State} {part off : Nat} {acc : HostAcc} (h : windowRefuses s part off acc) :
    execHostWindowAccess part off acc s =
      .next (hostRefuse (((hostKept s part off acc).map (fun h => unhold s h.1.body)).getD s)) := by
  have hcond : (closed s (getPart s part) || !((getPart s part).lswBase.getLsbD 0) || decide (2 ^ 36 < off + accSize acc) ||
      accSize acc == 0) = true := by
    simpa [windowRefuses, or_assoc] using h
  simp only [execHostWindowAccess, hcond, if_true]
  rfl

theorem execHostWindowAccess_open {s : State} {part off : Nat} {acc : HostAcc} (hc : closed s (getPart s part) = false)
    (hon : (getPart s part).lswBase.getLsbD 0 = true) (hin : off + accSize acc ≤ 2 ^ 36) (hk : accSize acc ≠ 0) :
    execHostWindowAccess part off acc s = .next (match hostKept s part off acc with
      | some (h, bs) => hostHeld s h bs
      | none =>
        let x := getPart s part
        hostPieces s part x.lswCtx.toNat off acc
          ((framePieces (accSize acc / 0x10000 + 2) (fieldOf x.lswBase.toNat 16 41 * 0x10000 + off) (accSize acc)).map (fun e =>
            (e, outsideSide s part x.lswCtx.toNat .copyAgent e.1 e.2 (accWrites acc))))) := by
  simp only [execHostWindowAccess, hc, hon, Nat.not_lt.2 hin, beq_false_of_ne hk, decide_false, Bool.not_true, Bool.or_false,
    Bool.false_eq_true, if_false]
  rfl

/-- Pieces that all pass, each with what it translates to. -/
theorem zip_passed {ps : List (Nat × Nat)} {xs : List Xl} {f : Nat × Nat → Side × Bool} (h : ps.map f = xs.map (fun x => (Side.inGlobal x, false))) :
    ps.map (fun e => (e, f e)) = (ps.zip xs).map (fun e => (e.1, Side.inGlobal e.2, false)) := by
  induction ps generalizing xs with
  | nil => rfl
  | cons p ps ih =>
    cases xs with
    | nil => cases h
    | cons x xs =>
      obtain ⟨hp, hps⟩ := List.cons.inj h
      simp only [List.map_cons, List.zip_cons_cons, hp, ih hps]

theorem hostPieces_passed (s : State) (part ctx off : Nat) (acc : HostAcc) (ok : List ((Nat × Nat) × Xl)) :
    hostPieces s part ctx off acc (ok.map (fun e => (e.1, Side.inGlobal e.2, false))) = match acc with
      | .read _ => hostRead s ok
      | .write bs => (hostPut bs 0 (hostSpots ok) s).getD (holdIn s part ctx (here s) (.host part off bs) (hostSpots ok)) := by
  cases acc <;> simp [hostPieces, List.filterMap_map, Function.comp_def]

/-- An access through an open window whose pieces all pass and that nothing holds is performed; a write that a gate holds is kept. -/
theorem execHostWindowAccess_passed {s : State} {part off : Nat} {acc : HostAcc} {xs : List Xl} (hc : closed s (getPart s part) = false)
    (hon : (getPart s part).lswBase.getLsbD 0 = true) (hin : off + accSize acc ≤ 2 ^ 36) (hk : accSize acc ≠ 0)
    (hx : (framePieces (accSize acc / 0x10000 + 2) (fieldOf (getPart s part).lswBase.toNat 16 41 * 0x10000 + off) (accSize acc)).map (fun e =>
      outsideSide s part (getPart s part).lswCtx.toNat .copyAgent e.1 e.2 (accWrites acc)) = xs.map (fun x => (Side.inGlobal x, false)))
    (hh : hostKept s part off acc = none) : execHostWindowAccess part off acc s = .next (
      let ok := (framePieces (accSize acc / 0x10000 + 2) (fieldOf (getPart s part).lswBase.toNat 16 41 * 0x10000 + off) (accSize acc)).zip xs
      match acc with
      | .read _ => hostRead s ok
      | .write bs => (hostPut bs 0 (hostSpots ok) s).getD
          (holdIn s part (getPart s part).lswCtx.toNat (here s) (.host part off bs) (hostSpots ok))) := by
  rw [execHostWindowAccess_open hc hon hin hk, hh]
  dsimp only
  rw [zip_passed hx, hostPieces_passed]

/-! ## Bring-up, keys and measurement (16 R294; 01 R30, R31) -/

theorem execKeyRelease_measured {s : State} (hp : s.powered = true) (hm : ∀ b, 1 ≤ b → b ≤ 4 → b ∈ s.measured) :
    execKeyRelease s = .next { s with keys := true } := by
  have hall : (rangeFrom 1 4).all s.measured.contains = true := by
    simp [rangeFrom, hm]
  simp only [execKeyRelease, hp, hall, Bool.and_self, if_true]

theorem execKeyRelease_unmeasured {s : State} (h : s.powered = false ∨ ∃ b, 1 ≤ b ∧ b ≤ 4 ∧ b ∉ s.measured) :
    execKeyRelease s = .next s := by
  have hcond : (s.powered && (rangeFrom 1 4).all s.measured.contains) = false := by
    rcases h with hp | ⟨b, h1, h4, hb⟩
    · rw [hp, Bool.false_and]
    · rw [Bool.and_eq_false_iff]
      refine .inr (List.all_eq_false.2 ⟨b, ?_, by simpa using hb⟩)
      simp only [rangeFrom, List.mem_cons, List.not_mem_nil, or_false]
      omega
  simp only [execKeyRelease, hcond, Bool.false_eq_true, if_false]

theorem execSpdmMeasurementRequest_measures {s : State} {block : Nat} (hp : s.powered = true) (h1 : 1 ≤ block) (h4 : block ≤ 4) :
    answers (execSpdmMeasurementRequest block s) (fun t => block ∈ t.measured ∧ (∀ b ∈ s.measured, b ∈ t.measured) ∧
      t.hostOut = s.hostOut ++ [.measurement block (measurement s block)]) := by
  simp only [execSpdmMeasurementRequest, hp, h1, h4, decide_true, Bool.and_self, if_true]
  refine ⟨_, rfl, ?_⟩
  dsimp only
  split
  · rename_i hb
    exact ⟨List.contains_iff_mem.1 hb, fun _ h => h, rfl⟩
  · exact ⟨List.mem_append_right _ List.mem_cons_self, fun _ h => List.mem_append_left _ h, rfl⟩

theorem length_eraseDups_le (l : List Nat) : l.eraseDups.length ≤ l.length := by
  induction h : l.length using Nat.strongRecOn generalizing l with
  | ind n ih =>
    cases l with
    | nil => simp
    | cons a l =>
      have hf := List.length_filter_le (fun b => !b == a) l
      have := ih (l.filter (fun b => !b == a)).length (by rw [← h, List.length_cons]; omega) _ rfl
      rw [List.eraseDups_cons, ← h, List.length_cons, List.length_cons]
      omega

/-- A list that loses no length with its repeats has none. -/
theorem nodup_of_length_eraseDups {l : List Nat} (h : l.eraseDups.length = l.length) : l.Nodup := by
  induction l with
  | nil => exact List.nodup_nil
  | cons a l ih =>
    rw [List.eraseDups_cons, List.length_cons, List.length_cons, Nat.add_right_cancel_iff] at h
    have hd := length_eraseDups_le (l.filter (fun b => !b == a))
    have hf := List.length_filter_le (fun b => !b == a) l
    have hself : l.filter (fun b => !b == a) = l := List.filter_eq_self.2 (List.length_filter_eq_length_iff.1 (by omega))
    rw [hself] at h
    refine List.nodup_cons.2 ⟨fun ha => ?_, ih h⟩
    have := List.filter_eq_self.1 hself a ha
    simp at this

theorem bringUpOk_nodup {cfg : BringUp} (h : bringUpOk cfg = true) : (cfg.parts.map (fun c => c.num)).Nodup := by
  simp only [bringUpOk, Bool.and_eq_true, decide_eq_true_eq] at h
  obtain ⟨⟨-, hlen⟩, -⟩ := h
  exact nodup_of_length_eraseDups (by rw [hlen, List.length_map])

/-- The partitions as a list of configurations sets them, one after another. -/
def configuredParts (n : Nat) (cs : List PartCfg) (t : Tbl Partition) : Tbl Partition :=
  cs.foldl (fun m c => Tbl.set Partition.reset m c.num (freshPart c n)) t

theorem set_freshPart (m : Tbl Partition) (k n : Nat) (c : PartCfg) :
    Tbl.set Partition.reset m k (freshPart c n) = Tbl.put (freshPart c n) m k := by
  rw [Tbl.set, if_neg (ne_reset_of_present rfl)]

theorem get_configuredParts_ne {n k : Nat} {cs : List PartCfg} (h : k ∉ cs.map (fun c => c.num)) (t : Tbl Partition) :
    Tbl.get Partition.reset (configuredParts n cs t) k = Tbl.get Partition.reset t k := by
  induction cs generalizing t with
  | nil => rfl
  | cons c cs ih =>
    obtain ⟨hne, hcs⟩ := not_or.1 (fun hk => h (List.mem_cons.2 hk))
    rw [configuredParts, List.foldl_cons, set_freshPart]
    exact (ih hcs _).trans (Tbl.get_put_ne _ _ _ hne)

/-- Partitions with numbers of their own each get their configuration. -/
theorem get_configuredParts {n : Nat} {cs : List PartCfg} (hnd : (cs.map (fun c => c.num)).Nodup) {c : PartCfg} (hc : c ∈ cs)
    (t : Tbl Partition) : Tbl.get Partition.reset (configuredParts n cs t) c.num = freshPart c n := by
  induction cs generalizing t with
  | nil => cases hc
  | cons x cs ih =>
    obtain ⟨hx, hcs⟩ := List.nodup_cons.1 hnd
    rcases List.mem_cons.1 hc with rfl | hin
    · rw [configuredParts, List.foldl_cons, set_freshPart]
      exact (get_configuredParts_ne hx _).trans (Tbl.get_put_self _ _ _ _)
    · exact ih hcs hin _

theorem execPowerOn_sets {s : State} {cfg : BringUp} (hp : s.powered = false) (hok : bringUpOk cfg = true) :
    execPowerOn cfg s = .next { State.reset with
      powered := true, package := cfg.package, tierMiB := cfg.tierMiB, parts := configuredParts cfg.parts.length cfg.parts [],
      ticks := s.ticks, agenda := s.agenda, hostOut := s.hostOut, fabricOut := s.fabricOut } := by
  simp only [execPowerOn, hp, hok, Bool.not_true, Bool.or_self, Bool.false_eq_true, if_false]
  rfl

theorem execPowerOn_stays {s : State} {cfg : BringUp} (h : s.powered = true ∨ bringUpOk cfg = false) : execPowerOn cfg s = .next s := by
  have hcond : (s.powered || !(bringUpOk cfg)) = true := by simpa using h
  simp only [execPowerOn, hcond, if_true]

theorem execPbootWrite_accepts {s : State} {part : Nat} {w : DWord} {l : Launch} :
    let y := { getPart s part with pbootRec := keep w 6 56, pbootWait := false }
    closed s y = false → (∀ m ∈ s.launches, ¬ (m.part = part ∧ m.dispatcher = true)) →
    judgeMessage (setPart s part y) part (keep w 6 56) (y.lswCtx.setWidth 64) 0 0 = .accepted l → l.prio = 31 → l.super = true →
    execPbootWrite part w s = .next (acceptLaunch (setPart s part y) { l with dispatcher := true }) := by
  intro y hc hd hj hprio hsuper
  have hany : s.launches.any (fun m => m.part == part && m.dispatcher) = false := by simpa using hd
  unfold execPbootWrite
  dsimp only
  rw [if_neg (by rw [hc, setPart_launches, hany]; decide), hj]
  simp only [hprio, hsuper, and_self, if_true]
  rfl

/-! ## Partition reset (16 R295) -/

theorem execPrstReset_stays {s : State} {part : Nat} {w : DWord}
    (h : w.getLsbD 0 = false ∨ (getPart s part).busy = true ∨ (getPart s part).present = false) : execPrstReset part w s = .next s := by
  have hcond : (!(w.getLsbD 0) || (getPart s part).busy || !(getPart s part).present) = true := by
    simpa [or_assoc] using h
  simp only [execPrstReset, hcond, if_true]

theorem execPrstReset_resets {s : State} {part : Nat} {w : DWord} (hw : w.getLsbD 0 = true) (hb : (getPart s part).busy = false)
    (hp : (getPart s part).present = true) : execPrstReset part w s =
      .next (postEvent (newKey (resetZero (resetKill (resetHalt s part) part) part) part) { part := part, type := 5, w1 := 4, w2 := 0, w3 := 0 }) := by
  simp only [execPrstReset, hw, hb, hp, Bool.not_true, Bool.or_self, Bool.false_eq_true, if_false]

theorem execPartitionResetDone_busy {s : State} {part : Nat} (hb : (getPart s part).busy = true) : execPartitionResetDone part s =
    .next (setPart s part { getPart s part with busy := false, halted := false, raiser := none, stopWritten := [] }) := by
  unfold execPartitionResetDone
  dsimp only
  rw [if_pos hb]

/-! ## Links and lost packages (11 R195) -/

theorem execPortDownTimeout_leaves {s : State} {port : Nat} (hp : port < 16) (hn : port ∉ s.portsGone) :
    execPortDownTimeout port s = .next { s with portsGone := s.portsGone ++ [port] } := by
  have hcond : (decide (port < 16) && !(s.portsGone.contains port)) = true := by simp [hp, hn]
  simp only [execPortDownTimeout, hcond, if_true]

theorem execPackageLost_stays {s : State} {q : Nat} (h : q = here s ∨ q ∈ s.lostPkgs) : execPackageLost q s = .next s := by
  unfold execPackageLost
  rw [if_pos (by simpa using h)]

/-- The state after a package is recorded as lost, before what depends on it is. -/
def recordLost (s : State) (q : Nat) : State :=
  { s with lostPkgs := s.lostPkgs ++ [q], domains := s.domains.map (fun d => d.lose q),
           heldCredits := s.heldCredits.filter (fun h => h.1 != q) }

theorem execPackageLost_records {s : State} {q : Nat} (hh : q ≠ here s) (hn : q ∉ s.lostPkgs) : execPackageLost q s = .next (
    let a := refundAll (loseHolders (recordLost s q) q) q
    loseDeclarer (loseAcks (loseColls (loseCopies (loseAsked (a.flight.foldl (loseItem q) a) q) q) q) q) q) := by
  unfold execPackageLost
  rw [if_neg (by simpa using ⟨hh, hn⟩)]
  rfl

/-- What a lost package's regions leave as it was; a flight with nothing in it stays so. -/
theorem loseHolders_keeps (s : State) (q : Nat) : (loseHolders s q).transits = s.transits ∧ (loseHolders s q).copies = s.copies ∧
    (loseHolders s q).collWaits = s.collWaits ∧ (loseHolders s q).domains = s.domains ∧
    (s.flight = [] → (loseHolders s q).flight = []) := by
  unfold loseHolders
  extract_lets held hit a
  have hev : eventPart (revokeLost a) ((hit.map (fun r => (r.part, r.ctx))).eraseDups.foldl (fun b c =>
      postEvent b { part := c.1, type := 2, w1 := dw c.2, w2 := dw (hit.filter (fun r => r.part == c.1 && r.ctx == c.2)).length, w3 := 0 })
      (revokeLost a)) :=
    List.foldlRecOn _ _ (eventPart_refl _) (fun _ h c _ => eventPart_trans h (postEvent_eventPart _ _))
  rw [hev]
  exact ⟨rfl, rfl, rfl, rfl, fun hf => by simp [revokeLost, a, hf]⟩

theorem refundAll_nil {s : State} (h : s.transits = []) (q : Nat) : refundAll s q = s := by
  simp [refundAll, h]

/-- With nothing in flight, no copy, no COLL, no domain and no record, a lost package costs its regions and shares only. -/
theorem execPackageLost_quiet {s : State} {q : Nat} (hh : q ≠ here s) (hn : q ∉ s.lostPkgs) (hf : s.flight = []) (hc : s.copies = [])
    (hw : s.collWaits = []) (hd : s.domains = []) (ht : s.transits = []) : execPackageLost q s = .next (loseHolders { s with
      lostPkgs := s.lostPkgs ++ [q], domains := [], heldCredits := s.heldCredits.filter (fun h => h.1 != q) } q) := by
  have hrec : recordLost s q = { s with
      lostPkgs := s.lostPkgs ++ [q], domains := [], heldCredits := s.heldCredits.filter (fun h => h.1 != q) } := by
    rw [recordLost, hd, List.map_nil]
  obtain ⟨kt, kc, kw, kd, kf⟩ := loseHolders_keeps (recordLost s q) q
  rw [execPackageLost_records hh hn, ← hrec]
  generalize loseHolders (recordLost s q) q = a at kt kc kw kd kf
  have hac : a.copies = [] := kc.trans hc
  have haw : a.collWaits = [] := kw.trans hw
  have had : a.domains = [] := by rw [kd, recordLost, hd, List.map_nil]
  have haf : a.flight = [] := kf hf
  simp only [refundAll_nil (kt.trans ht), haf, List.foldl_nil, loseAsked, loseCopies, loseColls, loseAcks, loseDeclarer, hac, haw, had,
    List.filter_nil, List.map_nil]

/-- Settles O53: each event by the equations above. -/
theorem packageEventResults : Obligations.package_event_results := by
  intro s die part off port package block p n agent watts acc w cfg xs d x
  refine ⟨fun hp hpres => ?_, execHaltStopTimeout_runs, fun e => execOrderGateTimeout_opens, fun hdie hr hb hne hpop => ?_,
    fun hdie hb hs => ?_, fun h hno => ?_, fun h bs g hacc hg => ?_, execKeyRelease_measured, execKeyRelease_unmeasured,
    execSpdmMeasurementRequest_measures, fun hp hok => ?_, execPowerOn_stays, rfl, fun l => execPbootWrite_accepts,
    execPrstReset_stays, execPrstReset_resets, execPartitionResetDone_busy, execPortDownTimeout_leaves, rfl, execPackageLost_stays,
    execPackageLost_records, execPackageLost_quiet, fun k hk hc hon hin hk0 => ?_, fun bs g hacc hc hon hin hbs hg => ?_⟩
  · obtain ⟨t, ht, hpart⟩ := execPowerInterval_part (watts := watts) hp hpres
    refine ⟨t, ht, ?_⟩
    dsimp only
    rw [hpart]
    exact ⟨rfl, nextPermit_moves s (getPart s p) watts⟩
  · have hrun := execMigrationDescriptorTake_runs hdie hr hb hne hpop
    exact ⟨fun h0 => hrun.trans (by rw [if_neg (not_not_intro h0)]), fun h0 => hrun.trans (by rw [if_pos h0]; rfl)⟩
  · exact ⟨fun c => execMigrationMoveDone_code hdie hb hs, execMigrationMoveDone_moves hdie hb hs⟩
  · refine (execHostWindowAccess_refused h).trans ?_
    rw [hostKept_none hno]
    rfl
  · subst hacc
    refine (execHostWindowAccess_refused h).trans ?_
    rw [hostKept_some hg]
    rfl
  · exact ⟨_, execPowerOn_sets hp hok, rfl, rfl, rfl, rfl, rfl, rfl, rfl, rfl, rfl, rfl,
      fun c hc => get_configuredParts (bringUpOk_nodup hok) hc []⟩
  · subst hk
    intro ps hx
    cases acc with
    | read m => exact ⟨fun _ => execHostWindowAccess_passed hc hon hin hk0 hx rfl, fun bs hacc => nomatch hacc⟩
    | write bs =>
      refine ⟨(nomatch ·), fun bs' hacc hno => ?_⟩
      cases hacc
      exact execHostWindowAccess_passed hc hon hin hk0 hx (by rw [hostKept, hno, Option.map_none])
  · subst hacc
    refine (execHostWindowAccess_open (acc := .write bs) hc hon hin hbs).trans ?_
    rw [hostKept_some hg]
    rfl

end Sys2Proof.Machine
end

section
/-! Owner tokens (O37, O38): what each token word does once its checks pass. -/

namespace Sys2Proof.Machine

/-! ## The entries of the token words -/

theorem onRegion_malformed {s : State} {w : DWord} {wide : Nat} {k : State → Nat → Nat → State} (h : regionWord w = none) :
    onRegion s w wide k = trapAll s .token (regionBase w) := by
  simp only [onRegion, h]

/-- 02 R48: a hand-off under way on the region holds the word. -/
theorem onRegion_waits {s : State} {w : DWord} {wide base n : Nat} {k : State → Nat → Nat → State} (h : regionWord w = some (base, n))
    (hh : handOff s (curSkein s).part (curSkein s).ctx base (wide * 2 ^ n) = true) : onRegion s w wide k = stall s .home := by
  simp only [onRegion, h, hh, if_true]

theorem onRegion_runs {s : State} {w : DWord} {wide base n : Nat} {k : State → Nat → Nat → State} (h : regionWord w = some (base, n))
    (hh : handOff s (curSkein s).part (curSkein s).ctx base (wide * 2 ^ n) = false) : onRegion s w wide k = k s base n := by
  simp only [onRegion, h, hh, Bool.false_eq_true, if_false]

theorem onWhole_malformed {s : State} {w : DWord} {k : State → Region → State} (h : regionWord w = none) :
    onWhole s w k = trapAll s .token (regionBase w) := onRegion_malformed h

theorem onWhole_waits {s : State} {w : DWord} {base n : Nat} {k : State → Region → State} (h : regionWord w = some (base, n))
    (hh : handOff s (curSkein s).part (curSkein s).ctx base (2 ^ n) = true) : onWhole s w k = stall s .home :=
  onRegion_waits h (by rwa [Nat.one_mul])

theorem onWhole_absent {s : State} {w : DWord} {base n : Nat} {k : State → Region → State} (h : regionWord w = some (base, n))
    (hh : handOff s (curSkein s).part (curSkein s).ctx base (2 ^ n) = false)
    (hr : wholeRegion s (curSkein s).part (curSkein s).ctx base n = none) : onWhole s w k = trapAll s .token (regionBase w) :=
  (onRegion_runs h (by rwa [Nat.one_mul])).trans (by rw [hr])

theorem onWhole_runs {s : State} {w : DWord} {base n : Nat} {k : State → Region → State} {r : Region} (h : regionWord w = some (base, n))
    (hh : handOff s (curSkein s).part (curSkein s).ctx base (2 ^ n) = false)
    (hr : wholeRegion s (curSkein s).part (curSkein s).ctx base n = some r) :
    onWhole s w k = if r.lost then trapAll s .token (regionBase w) else k s r :=
  (onRegion_runs h (by rwa [Nat.one_mul])).trans (by rw [hr])

/-! ## LEND and LEND.SHARE (02 R50, R51) -/

theorem exec_lend {s : State} {d a : BitVec 5} (h : uniFree s .user [d.toNat, a.toNat] []) :
    exec (.lend d a) s = .next (lendRegion (wReg s d.toNat) (wReg s a.toNat) false s) :=
  congrArg _ (uniEnter_free _ rfl h (by simp) (by simp))

theorem exec_lendShare {s : State} {d a : BitVec 5} (h : uniFree s .user [d.toNat, a.toNat] []) :
    exec (.lendShare d a) s = .next (lendRegion (wReg s d.toNat) (wReg s a.toNat) true s) :=
  congrArg _ (uniEnter_free _ rfl h (by simp) (by simp))

/-- Whether a region can be lent, or shared, to a holder (02 R50, R51). -/
def Region.mayGive (r : Region) (x : Holder) (share : Bool) : Bool :=
  if share then r.mayShare x else r.shares == 0 && decide (r.depth < 3) && r.holder != x

theorem mayGive_lend {r : Region} {x : Holder} : r.mayGive x false = true ↔ r.shares = 0 ∧ r.depth < 3 ∧ r.holder ≠ x := by
  simp [Region.mayGive, and_assoc]

section
variable {s : State} {w h : DWord} {base n : Nat} {share : Bool}

theorem lendRegion_malformed (hw : regionWord w = none) : lendRegion w h share s = trapAll s .token (regionBase w) :=
  onRegion_malformed hw

theorem lendRegion_waits (hw : regionWord w = some (base, n))
    (hh : handOff s (curSkein s).part (curSkein s).ctx base (2 ^ n) = true) : lendRegion w h share s = stall s .home :=
  onRegion_waits hw (by rwa [Nat.one_mul])

/-- Nothing stands in the way of LEND but the region's own holder, lends and shares: what passes these is cut out and handed off. -/
theorem lendRegion_of_holder (hw : regionWord w = some (base, n))
    (hh : handOff s (curSkein s).part (curSkein s).ctx base (2 ^ n) = false) {x : Holder} (hx : holderWord s (curSkein s) h = some x)
    {r : Region} (hr : r = regionOf s (curSkein s).part (curSkein s).ctx base) (hl : r.lost = false) (hn : n ≤ r.k)
    (ht : tokenRoom s (curSkein s).part (r.k - n + (if listedRegion s r then 0 else 1)) = true)
    (hm : matchesHolder s (skeinAsker s s.cur.sid) (curSkein s).ctx r.holder = true) :
    lendRegion w h share s = if r.mayGive x share then
        startHandOff (cutRegion s r ((halve base n (r.k - n) r).1 :: (halve base n (r.k - n) r).2)) (if share then .share x else .lend x)
          (halve base n (r.k - n) r).1
      else trapAll s .token (regionBase w) := by
  refine (onRegion_runs hw (by rwa [Nat.one_mul])).trans ?_
  simp only [hx, ← hr, hl, hm, ht, hn, decide_true, Bool.not_false, Bool.not_true, Bool.and_true, Bool.true_and, Bool.or_false]
  cases hg : r.mayGive x share <;> rw [Region.mayGive] at hg <;> simp only [hg] <;> rfl

/-- LEND traps where the holder word, the region, the table or the issuer forbids it. -/
theorem lendRegion_refused (hw : regionWord w = some (base, n))
    (hh : handOff s (curSkein s).part (curSkein s).ctx base (2 ^ n) = false)
    {r : Region} (hr : r = regionOf s (curSkein s).part (curSkein s).ctx base)
    (hno : holderWord s (curSkein s) h = none ∨ r.lost = true ∨ r.k < n ∨
      tokenRoom s (curSkein s).part (r.k - n + (if listedRegion s r then 0 else 1)) = false ∨
      matchesHolder s (skeinAsker s s.cur.sid) (curSkein s).ctx r.holder = false) :
    lendRegion w h share s = trapAll s .token (regionBase w) := by
  refine (onRegion_runs hw (by rwa [Nat.one_mul])).trans ?_
  simp only [← hr]
  cases hx : holderWord s (curSkein s) h with
  | none => rfl
  | some x =>
    refine if_pos ?_
    obtain hno | hno | hno | hno | hno := hno
    · exact nomatch hx.symm.trans hno
    · simp [hno]
    · simp [Nat.not_le.2 hno]
    · rw [hno]; exact Bool.or_true _
    · simp [hno]

end

/-! ## RETN and RETN.RECALL (02 R52) -/

/-- What RETN does with a whole region that is not lost. -/
def retnRegion (w : DWord) (s : State) (r : Region) : State :=
  let x := skeinAsker s s.cur.sid
  if (shareOf s x r).isSome then startHandOff s .unshare r
  else if matchesHolder s x r.ctx r.holder && r.depth != 0 && r.shares == 0 then startHandOff s .retn r
  else trapAll s .token (regionBase w)

/-- What RETN.RECALL does with a whole region that is not lost. -/
def recallRegion (w : DWord) (s : State) (r : Region) : State :=
  if matchesHolder s (skeinAsker s s.cur.sid) r.ctx ((r.chain[r.depth - 1]?).getD r.holder) && (r.depth != 0 || r.shares != 0) then
    startHandOff s .recall r
  else trapAll s .token (regionBase w)

theorem exec_retn {s : State} {d : BitVec 5} (h : uniFree s .user [d.toNat] []) :
    exec (.retn d) s = .next (onWhole s (wReg s d.toNat) (retnRegion (wReg s d.toNat))) :=
  congrArg _ (uniEnter_free _ rfl h (by simp) (by simp))

theorem exec_retnRecall {s : State} {d : BitVec 5} (h : uniFree s .user [d.toNat] []) :
    exec (.retnRecall d) s = .next (onWhole s (wReg s d.toNat) (recallRegion (wReg s d.toNat))) :=
  congrArg _ (uniEnter_free _ rfl h (by simp) (by simp))

section
variable {s : State} {w : DWord} {r : Region}

theorem retnRegion_unshare (h : (shareOf s (skeinAsker s s.cur.sid) r).isSome = true) :
    retnRegion w s r = startHandOff s .unshare r := if_pos h

theorem retnRegion_retn (hs : shareOf s (skeinAsker s s.cur.sid) r = none)
    (hm : matchesHolder s (skeinAsker s s.cur.sid) r.ctx r.holder = true) (hd : r.depth ≠ 0) (h0 : r.shares = 0) :
    retnRegion w s r = startHandOff s .retn r := by
  simp [retnRegion, hs, hm, hd, h0]

theorem retnRegion_refused (hs : shareOf s (skeinAsker s s.cur.sid) r = none)
    (h : matchesHolder s (skeinAsker s s.cur.sid) r.ctx r.holder = false ∨ r.depth = 0 ∨ r.shares ≠ 0) :
    retnRegion w s r = trapAll s .token (regionBase w) := by
  obtain h | h | h := h <;> simp [retnRegion, hs, h]

theorem recallRegion_recall (hm : matchesHolder s (skeinAsker s s.cur.sid) r.ctx ((r.chain[r.depth - 1]?).getD r.holder) = true)
    (h : r.depth ≠ 0 ∨ r.shares ≠ 0) : recallRegion w s r = startHandOff s .recall r := by
  obtain h | h := h <;> simp [recallRegion, hm, h]

theorem recallRegion_refused
    (h : matchesHolder s (skeinAsker s s.cur.sid) r.ctx ((r.chain[r.depth - 1]?).getD r.holder) = false ∨ (r.depth = 0 ∧ r.shares = 0)) :
    recallRegion w s r = trapAll s .token (regionBase w) := by
  obtain h | ⟨hd, h0⟩ := h
  · simp [recallRegion, h]
  · simp [recallRegion, hd, h0]

end

/-- Settles O37: each word by its entry, `lendRegion`, `retnRegion` and `recallRegion`. -/
theorem tokenHandOffResults : Obligations.token_hand_off_results := by
  intro s d a base n w k me no
  refine ⟨fun hu hw => ?_, fun hu hw => ?_, fun hu hw hh x hx hl hn ht hm => ?_, fun hu hw hh hno => ?_, fun hu hw hh => ?_,
    fun hu hw hh => ?_, fun hu hw hh hr => ?_, fun hu hw hh r hr => ?_⟩
  · rw [exec_lend hu, exec_lendShare hu, lendRegion_malformed hw, lendRegion_malformed hw]
    exact ⟨rfl, rfl⟩
  · rw [exec_retn hu, exec_retnRecall hu, onWhole_malformed hw, onWhole_malformed hw]
    exact ⟨rfl, rfl⟩
  · rw [exec_lend hu, exec_lendShare hu, lendRegion_of_holder hw hh hx rfl hl hn ht hm, lendRegion_of_holder hw hh hx rfl hl hn ht hm]
    refine ⟨fun h0 hd hne => ?_, fun hno => ?_, fun hg => ?_, fun hg => ?_⟩
    · exact congrArg _ (if_pos (mayGive_lend.2 ⟨h0, hd, hne⟩))
    · refine congrArg _ (if_neg fun hg => ?_)
      obtain ⟨h0, hd, hne⟩ := mayGive_lend.1 hg
      obtain hno | hno | hno := hno
      · exact hno h0
      · exact Nat.not_lt.2 hno hd
      · exact hne hno
    · exact congrArg _ (if_pos hg)
    · exact congrArg _ (if_neg (Bool.eq_false_iff.1 hg))
  · rw [exec_lend hu, exec_lendShare hu, lendRegion_refused hw hh rfl hno, lendRegion_refused hw hh rfl hno]
    exact ⟨rfl, rfl⟩
  · rw [exec_lend hu, exec_lendShare hu, lendRegion_waits hw hh, lendRegion_waits hw hh]
    exact ⟨rfl, rfl⟩
  · rw [exec_retn hu, exec_retnRecall hu, onWhole_waits hw hh, onWhole_waits hw hh]
    exact ⟨rfl, rfl⟩
  · rw [exec_retn hu, exec_retnRecall hu, onWhole_absent hw hh hr, onWhole_absent hw hh hr]
    exact ⟨rfl, rfl⟩
  · rw [exec_retn hu, exec_retnRecall hu, onWhole_runs hw hh hr, onWhole_runs hw hh hr]
    have kept : r.lost = false → ¬ r.lost = true := Bool.eq_false_iff.1
    refine ⟨fun hl => ?_, fun hl hs => ?_, fun hl hs hm hd h0 => ?_, fun hl hm h => ?_, fun hl hs hno => ?_, fun hl hno => ?_⟩
    · rw [if_pos hl, if_pos hl]
      exact ⟨rfl, rfl⟩
    · rw [if_neg (kept hl), retnRegion_unshare hs]
    · rw [if_neg (kept hl), retnRegion_retn hs hm hd h0]
    · rw [if_neg (kept hl), recallRegion_recall hm h]
    · rw [if_neg (kept hl), retnRegion_refused hs hno]
    · rw [if_neg (kept hl), recallRegion_refused hno]

/-! ## RETN.RECLAIM, SPLIT, MEND and TQRY (02 R52 to R54) -/

/-- What RETN.RECLAIM does with a region word where no hand-off is under way. -/
def reclaimRegion (w : DWord) (s : State) (base n : Nat) : State :=
  match wholeRegion s (curSkein s).part (curSkein s).ctx base n with
  | none => trapAll s .token (regionBase w)
  | some r => if r.lost then retire (putRegion s { r.back with lost := false }) 4 else trapAll s .token (regionBase w)

/-- What SPLIT does with a whole region that is not lost. -/
def splitRegion (w : DWord) (s : State) (r : Region) : State :=
  if !(matchesHolder s (skeinAsker s s.cur.sid) r.ctx r.holder) || r.shares != 0 || r.k == 12 ||
      !(tokenRoom s r.part (if listedRegion s r then 1 else 2)) then trapAll s .token (regionBase w)
  else
    let c := halve r.base (r.k - 1) 1 r
    retire (cutRegion s r (c.1 :: c.2)) 4

/-- What MEND does with a region word where no hand-off is under way. -/
def mendRegion (w : DWord) (s : State) (base n : Nat) : State :=
  let k := curSkein s
  match wholeRegion s k.part k.ctx base n, wholeRegion s k.part k.ctx (base + 2 ^ n) n with
  | some lo, some hi =>
    if n = 40 ∨ base / 2 ^ n % 2 = 1 ∨ !(matchesHolder s (skeinAsker s s.cur.sid) k.ctx lo.holder) ∨ lo.lost ∨ hi.lost ∨
        lo.shares ≠ 0 ∨ hi.shares ≠ 0 ∨ lo.chain ≠ hi.chain then trapAll s .token (regionBase w)
    else
      let a := { s with regions := s.regions.filter (fun x => !x.same lo && !x.same hi) }
      retire (putRegion a { lo with k := n + 1, sharers := [] }) 4
  | _, _ => trapAll s .token (regionBase w)

theorem exec_retnReclaim {s : State} {d : BitVec 5} (h : uniFree s .hypervisor [d.toNat] []) :
    exec (.retnReclaim d) s = .next (onRegion s (wReg s d.toNat) 1 (reclaimRegion (wReg s d.toNat))) :=
  congrArg _ (uniEnter_free _ rfl h (by simp) (by simp))

theorem exec_split {s : State} {d : BitVec 5} (h : uniFree s .user [d.toNat] []) :
    exec (.split d) s = .next (onWhole s (wReg s d.toNat) (splitRegion (wReg s d.toNat))) :=
  congrArg _ (uniEnter_free _ rfl h (by simp) (by simp))

theorem exec_mend {s : State} {d : BitVec 5} (h : uniFree s .user [d.toNat] []) :
    exec (.mend d) s = .next (onRegion s (wReg s d.toNat) 2 (mendRegion (wReg s d.toNat))) :=
  congrArg _ (uniEnter_free _ rfl h (by simp) (by simp))

theorem exec_tqry {s : State} {d a : BitVec 5} {f : BitVec 9} (hw : (Instr.tqry d a f).wf = true)
    (h : uniFree s .user [a.toNat] [d.toNat, d.toNat + 1]) :
    exec (.tqry d a f) s = .next (
      if 2 ^ 57 ≤ (wReg s a.toNat).toNat then trapAll s .prot (wReg s a.toNat)
      else if handOff s (curSkein s).part (curSkein s).ctx (wReg s a.toNat).toNat 1 then stall s .home
      else
        let x := tqryWords (regionOf s (curSkein s).part (curSkein s).ctx (wReg s a.toNat).toNat) f.toNat
        retire (setSkein s s.cur.sid (((curSkein s).setW s.cur.ply d.toNat x.1).setW s.cur.ply (d.toNat + 1) x.2)) 4) :=
  congrArg _ (uniEnter_free _ hw h (by simp) (by simp))

section
variable {s : State} {w : DWord} {base n : Nat}

theorem reclaimRegion_whole {r : Region} (hr : wholeRegion s (curSkein s).part (curSkein s).ctx base n = some r) :
    reclaimRegion w s base n =
      if r.lost then retire (putRegion s { r.back with lost := false }) 4 else trapAll s .token (regionBase w) := by
  rw [reclaimRegion, hr]

theorem splitRegion_halves {r : Region} (hm : matchesHolder s (skeinAsker s s.cur.sid) r.ctx r.holder = true) (h0 : r.shares = 0)
    (hk : r.k ≠ 12) (ht : tokenRoom s r.part (if listedRegion s r then 1 else 2) = true) :
    splitRegion w s r = retire (cutRegion s r ((halve r.base (r.k - 1) 1 r).1 :: (halve r.base (r.k - 1) 1 r).2)) 4 := by
  refine if_neg ?_
  rw [ht]
  simp [hm, h0, hk]

theorem mendRegion_joins {lo hi : Region} (hlo : wholeRegion s (curSkein s).part (curSkein s).ctx base n = some lo)
    (hhi : wholeRegion s (curSkein s).part (curSkein s).ctx (base + 2 ^ n) n = some hi) (h40 : n ≠ 40) (hev : base / 2 ^ n % 2 = 0)
    (hm : matchesHolder s (skeinAsker s s.cur.sid) (curSkein s).ctx lo.holder = true) (hl : lo.lost = false) (hh : hi.lost = false)
    (hs : lo.shares = 0) (hs' : hi.shares = 0) (hc : lo.chain = hi.chain) :
    mendRegion w s base n = retire (putRegion { s with regions := s.regions.filter (fun x => !x.same lo && !x.same hi) }
      { lo with k := n + 1, sharers := [] }) 4 := by
  simp only [mendRegion, hlo, hhi]
  refine if_neg ?_
  simp [h40, hev, hm, hl, hh, hs, hs', hc]

end

/-- Settles O38: each word by its entry and what it does with the region that it names. -/
theorem tokenTableResults : Obligations.token_table_results := by
  intro s d a f base n w k me
  refine ⟨fun hu hw hh r hr => ?_, fun hu hw hh => ?_, fun hu hw => ⟨fun hh => ?_, fun hh => ?_⟩, fun hf hu hva hh => ?_,
    fun hu hw hh r hr hl hm h0 hk ht => ?_, fun hu hw hh lo hi hlo hhi h40 hev hm hl hl' hs hs' hc => ?_, fun hf hu hva hh => ?_,
    fun hf hu hva => ?_⟩
  · rw [exec_retnReclaim hu, onRegion_runs hw (by rwa [Nat.one_mul]), reclaimRegion_whole hr]
    exact ⟨fun hl => congrArg _ (if_pos hl), fun hl => congrArg _ (if_neg (Bool.eq_false_iff.1 hl))⟩
  · rw [exec_retnReclaim hu, onRegion_waits hw (by rwa [Nat.one_mul])]
  · rw [exec_split hu, onWhole_waits hw hh]
  · rw [exec_mend hu, onRegion_waits hw hh]
  · rw [exec_tqry hf hu, if_neg (Nat.not_le.2 hva), if_pos hh]
  · rw [exec_split hu, onWhole_runs hw hh hr, if_neg (Bool.eq_false_iff.1 hl), splitRegion_halves hm h0 hk ht]
  · rw [exec_mend hu, onRegion_runs hw hh, mendRegion_joins hlo hhi h40 hev hm hl hl' hs hs' hc]
  · rw [exec_tqry hf hu, if_neg (Nat.not_le.2 hva), if_neg (Bool.eq_false_iff.1 hh)]
  · rw [exec_tqry hf hu, if_pos hva]

end Sys2Proof.Machine
end

section
/-! TLBI and CFLU (O46): what each word does once its checks pass. -/

namespace Sys2Proof.Machine

/-! ## TLBI (02 R39, 22 R385) -/

/-- What TLBI does with a range word and a context word. -/
def tlbiNamed (w c : DWord) (s : State) : State :=
  match rangeWord w, contextWord (curSkein s) c with
  | none, _ => trapAll s .prot w
  | some _, none => trapAll s .prot c
  | some r, some c => invalidate { part := (curSkein s).part, ctx := some c, base := r.1, len := 2 ^ r.2 } s

theorem exec_tlbi {s : State} {a b : BitVec 5} (h : uniFree s .supervisor [a.toNat, b.toNat] []) :
    exec (.tlbi a b) s = .next (tlbiNamed (wReg s a.toNat) (wReg s b.toNat) s) :=
  congrArg _ (uniEnter_free _ rfl h (by simp) (by simp))

theorem exec_tlbiCtx {s : State} {b : BitVec 5} {c : Nat} (h : uniFree s .supervisor [b.toNat] [])
    (hc : contextWord (curSkein s) (wReg s b.toNat) = some c) :
    exec (.tlbiCtx b) s = .next (invalidate { part := (curSkein s).part, ctx := some c, base := 0, len := 2 ^ 57 } s) :=
  congrArg _ ((uniEnter_free _ rfl h (by simp) (by simp)).trans (by simp only [hc]))

theorem exec_tlbiAll {s : State} (h : uniFree s .supervisor [] []) :
    exec .tlbiAll s = .next (invalidate { part := (curSkein s).part, ctx := none, base := 0, len := 2 ^ 57 } s) :=
  congrArg _ (uniEnter_free _ rfl h (by simp) (by simp))

/-- A strand below the mode that a uniform word needs: the group traps PRIV before anything else (08 R136). -/
theorem uniEnter_priv {i : Instr} {need : Mode} {tiles accs reads writes : List Nat} {s : State} (k : State → State) {m : Nat}
    (hm : m ∈ grp s) (h : (curStrand s m).mode.reaches need = false) :
    uniEnter i need tiles accs reads writes s k = trapAll s .priv (instrWord i) :=
  if_pos (List.any_eq_true.2 ⟨m, hm, by simp [h]⟩)

/-- `Copy.begunIn` in the words of 02 R39. -/
theorem begunIn_iff (s : State) (x : Named) (c : Copy) : c.begunIn s x = true ↔
    c.state = .asked ∧ ((spaceOf c.src = 0 ∧ x.has (getSkein s c.sid).part (getSkein s c.sid).ctx c.src.toNat c.spans.1 = true) ∨
      (spaceOf c.dst = 0 ∧ x.has (getSkein s c.sid).part (getSkein s c.sid).ctx c.dst.toNat c.spans.2 = true)) := by
  simp [Copy.begunIn]

/-! ## CFLU (22 R388) -/

theorem onRange_malformed {s : State} {w : DWord} {k : State → Nat → Nat → State} (h : regionWord w = none) :
    onRange w s k = trapAll s .prot w := by
  simp only [onRange, h]

theorem onRange_runs {s : State} {w : DWord} {base n : Nat} {k : State → Nat → Nat → State} (h : regionWord w = some (base, n)) :
    onRange w s k = k s base (2 ^ n) := by
  simp only [onRange, h]

/-- CFLU.INV once its word is checked. -/
def flushDrop (s : State) (base len : Nat) : State :=
  let core := curCore s
  let ctx := (curSkein s).ctx
  let b := dropL1 (flushOwn s base len) (fun l => l.core == core && l.ctx == ctx && overlap l.va 64 base len)
  retire (stopFills b core (fun l c => c == ctx && overlap l.va l.size base len)) 4

/-- CFLU.I once its word is checked. -/
def flushInstrs (s : State) (base len : Nat) : State :=
  retire { s with icache := s.icache.filter (fun l =>
    !((coresOf s (curSkein s).part).contains l.core && l.ctx == (curSkein s).ctx && overlap l.va 4 base len)) } 4

section
variable {s : State} {a : BitVec 5} (h : uniFree s .user [a.toNat] [])
include h

theorem exec_cflu : exec (.cflu a) s = .next (onRange (wReg s a.toNat) s (fun s base len => retire (flushOwn s base len) 4)) :=
  congrArg _ (uniEnter_free _ rfl h (by simp) (by simp))

theorem exec_cfluInv : exec (.cfluInv a) s = .next (onRange (wReg s a.toNat) s flushDrop) :=
  congrArg _ (uniEnter_free _ rfl h (by simp) (by simp))

theorem exec_cfluI : exec (.cfluI a) s = .next (onRange (wReg s a.toNat) s flushInstrs) :=
  congrArg _ (uniEnter_free _ rfl h (by simp) (by simp))

end

/-- Settles O46: each word by its entry; what a TLBI that passes its checks does is `invalidate`. -/
theorem cacheAndTranslationResults : Obligations.cache_and_translation_results := by
  intro s a b k w since out next
  have hnext : ∀ x, next x = invalidate x s := by
    intro x
    simp only [next, out, ← begunIn_iff]
    rfl
  refine ⟨fun hu => ⟨fun hr => ?_, fun r hr hc => ?_, fun r c hr hc => ?_⟩, fun hu c hc => ?_, fun hu => ?_, fun ⟨m, hm, hmode⟩ => ?_,
    fun hu hw => ?_, fun hu base n hw => ?_⟩
  · rw [exec_tlbi hu, tlbiNamed, hr]
  · rw [exec_tlbi hu, tlbiNamed, hr, hc]
  · rw [exec_tlbi hu, tlbiNamed, hr, hc, hnext]
  · rw [exec_tlbiCtx hu hc, hnext]
  · rw [exec_tlbiAll hu, hnext]
  · exact congrArg _ (uniEnter_priv _ hm (by rw [hmode]; rfl))
  · rw [exec_cflu hu, exec_cfluInv hu, exec_cfluI hu, onRange_malformed hw, onRange_malformed hw, onRange_malformed hw]
    exact ⟨rfl, rfl, rfl⟩
  · rw [exec_cflu hu, exec_cfluInv hu, exec_cfluI hu, onRange_runs hw, onRange_runs hw, onRange_runs hw]
    exact ⟨rfl, rfl, rfl⟩

end Sys2Proof.Machine
end

section
/-! The entries of a table in canonical form. -/

namespace Sys2Proof

variable {α : Type}

/-- An entry of a table in canonical form is what a read of its key gives. -/
theorem Tbl.get_of_mem [DecidableEq α] {d : α} {t : Tbl α} {n : Nat} (hw : Tbl.wfFrom d n t = true) {e : Nat × α} (h : e ∈ t) :
    n ≤ e.1 ∧ e.2 ≠ d ∧ Tbl.get d t e.1 = e.2 := by
  induction t generalizing n with
  | nil => cases h
  | cons x t ih =>
    simp only [Tbl.wfFrom, Bool.and_eq_true, decide_eq_true_eq] at hw
    obtain ⟨⟨hn, hd⟩, hw⟩ := hw
    obtain rfl | h := List.mem_cons.1 h
    · exact ⟨hn, hd, if_pos rfl⟩
    · obtain ⟨hlt, hne, hget⟩ := ih hw h
      refine ⟨by omega, hne, ?_⟩
      rw [Tbl.get, if_neg (by omega), if_neg (by omega), hget]

/-- In canonical form a key that is erased is not listed. -/
theorem Tbl.ne_of_mem_erase [DecidableEq α] {d : α} {t : Tbl α} (hw : Tbl.wf d t = true) {i : Nat} {e : Nat × α}
    (h : e ∈ Tbl.erase t i) : e.1 ≠ i := by
  rintro rfl
  obtain ⟨-, hne, hget⟩ := Tbl.get_of_mem (Tbl.wf_erase hw e.1) h
  exact hne (hget.symm.trans (Tbl.get_erase_self hw e.1))

theorem Tbl.mem_of_mem_erase {t : Tbl α} {i : Nat} {e : Nat × α} (h : e ∈ Tbl.erase t i) : e ∈ t := by
  induction t with
  | nil => exact h
  | cons x t ih =>
    rw [Tbl.erase] at h
    split at h
    · exact List.mem_cons_of_mem _ h
    · split at h
      · exact h
      · exact (List.mem_cons.1 h).elim (fun he => he ▸ List.mem_cons_self) (fun he => List.mem_cons_of_mem _ (ih he))

end Sys2Proof
end

section
/-! The failure of a core (02 R56; O49): its resident skeins are killed, and what they leave behind. -/

namespace Sys2Proof.Machine

/-- A later state differs from `s` in nothing but what the end of a launch changes (12 R221, 16 R287). -/
def launchPart (s t : State) : Prop := t = { s with
  launches := t.launches, sbars := t.sbars, colls := t.colls, counters := t.counters, evalPending := t.evalPending, parts := t.parts,
  hostOut := t.hostOut, evHeld := t.evHeld }

theorem completeLaunch_launchPart (s : State) (l : Launch) : launchPart s (completeLaunch s l) := by
  have hev : ∀ {t : State} (e : Event), launchPart s t → launchPart s (postEvent t e) := by
    intro t e ht
    unfold launchPart at *
    rw [postEvent_eventPart t e, ht]
  unfold completeLaunch
  dsimp only
  split
  · exact hev _ rfl
  · split
    · rfl
    · split
      · exact hev _ rfl
      · rfl

theorem launchExit_launchPart (s : State) (num : Nat) : launchPart s (launchExit s num) := by
  unfold launchExit
  split
  · rfl
  · dsimp only
    split
    · exact completeLaunch_launchPart s _
    · rfl

/-- What a skein leaves behind when it is killed because its core has failed (14 R252, 02 R56). -/
theorem killSkein_coreLost (s : State) (sid inner : Nat) : (killSkein s sid inner true).package = s.package ∧
    (killSkein s sid inner true).skeins = Tbl.erase s.skeins sid ∧
    (killSkein s sid inner true).strands = s.strands.filter (fun e => e.1 / 128 != sid) ∧
    (killSkein s sid inner true).regions =
      (loseRegions s.regions (here s) (getSkein s sid).part (getSkein s sid).ctx (skeinAgent (getSkein s sid))).1 := by
  unfold killSkein
  dsimp only
  rw [launchExit_launchPart, postEvent_eventPart]
  exact ⟨rfl, rfl, rfl, rfl⟩

/-- A region with no share of a holder left, and lost if it was the holder's (02 R56). -/
def Region.release (r : Region) (me : Holder) : Region :=
  { r with sharers := r.sharers.map (fun h => if h.1 = me then (h.1, 0) else h), lost := r.lost || decide (r.chain.getLast? = some me) }

theorem loseRegions_fst (rs : List Region) (pkg p c : Nat) (ag : Agent) : (loseRegions rs pkg p c ag).1 =
    rs.map (fun r => if r.part = p ∧ r.ctx = c then r.release { package := pkg, ctx := c, agent := ag } else r) := by
  have mine : ∀ h : Holder, (h.package == pkg && h.ctx == c && h.agent == ag) = decide (h = { package := pkg, ctx := c, agent := ag }) := by
    rintro ⟨p', c', a'⟩
    simp [Bool.beq_eq_decide_eq, Bool.and_assoc]
  refine List.map_congr_left fun r _ => ?_
  simp only [mine, decide_eq_true_eq]
  by_cases hpc : r.part = p ∧ r.ctx = c
  · obtain ⟨rfl, rfl⟩ := hpc
    cases hlast : r.chain.getLast? with
    | none => simp [Region.release, hlast]
    | some h => by_cases hh : h = { package := pkg, ctx := r.ctx, agent := ag } <;> simp [Region.release, hlast, hh]
  · have hb : (r.part == p && r.ctx == c) = false := by simpa using hpc
    simp [hpc, hb]

/-- A region that a holder has nothing left of but what is lost: lost if it was the holder's, and no share of the holder's counts. -/
def Region.releasedBy (r : Region) (me : Holder) : Prop :=
  (r.chain.getLast? = some me → r.lost = true) ∧ ∀ h ∈ r.sharers, h.1 = me → h.2 = 0

theorem release_releasedBy (r : Region) (me : Holder) : (r.release me).releasedBy me := by
  refine ⟨fun hlast => by simpa [Region.release] using .inr hlast, fun h hh hme => ?_⟩
  obtain ⟨x, hx, rfl⟩ := List.mem_map.1 hh
  by_cases hxm : x.1 = me <;> simp_all

theorem Region.releasedBy.release {r : Region} {me : Holder} (h : r.releasedBy me) (other : Holder) : (r.release other).releasedBy me := by
  refine ⟨fun hlast => by simp [Region.release, h.1 hlast], fun y hy hme => ?_⟩
  obtain ⟨x, hx, rfl⟩ := List.mem_map.1 hy
  by_cases hxo : x.1 = other
  · simp [hxo]
  · rw [if_neg hxo] at hme ⊢
    exact h.2 x hx hme

/-- Nothing is left of skein `i` of package `pkg`, which was `z`: no entry of it, no strand, and no region or share that it holds. -/
def skeinGone (pkg i : Nat) (z : Skein) (t : State) : Prop :=
  (∀ e ∈ t.skeins, e.1 ≠ i) ∧ (∀ e ∈ t.strands, e.1 / 128 ≠ i) ∧ ∀ e ∈ t.regions, e.part = z.part → e.ctx = z.ctx →
    e.releasedBy { package := pkg, ctx := z.ctx, agent := skeinAgent z }

theorem skeinGone_killSkein {s : State} {pkg i : Nat} {z : Skein} (h : skeinGone pkg i z s) (sid inner : Nat) :
    skeinGone pkg i z (killSkein s sid inner true) := by
  obtain ⟨hk, ht, hr⟩ := h
  obtain ⟨-, kk, kt, kr⟩ := killSkein_coreLost s sid inner
  rw [skeinGone, kk, kt, kr, loseRegions_fst]
  refine ⟨fun e he => hk e (Tbl.mem_of_mem_erase he), fun e he => ht e ((List.mem_filter.1 he).1), fun e he hp hc => ?_⟩
  obtain ⟨r, hrm, rfl⟩ := List.mem_map.1 he
  split at hp
  · rw [if_pos ‹_›] at hc ⊢
    exact (hr r hrm hp hc).release _
  · rw [if_neg ‹_›] at hc ⊢
    exact hr r hrm hp hc

theorem killSkein_skeinGone {s : State} (hw : Tbl.wf Skein.reset s.skeins = true) (sid inner : Nat) :
    skeinGone (here s) sid (getSkein s sid) (killSkein s sid inner true) := by
  obtain ⟨-, kk, kt, kr⟩ := killSkein_coreLost s sid inner
  rw [skeinGone, kk, kt, kr, loseRegions_fst]
  refine ⟨fun e he => Tbl.ne_of_mem_erase hw he, fun e he => by simpa using (List.mem_filter.1 he).2, fun e he hp hc => ?_⟩
  obtain ⟨r, hrm, rfl⟩ := List.mem_map.1 he
  split at hp
  · rw [if_pos ‹_›]
    exact release_releasedBy r _
  · rename_i hno
    rw [if_neg hno] at hc
    exact absurd ⟨hp, hc⟩ hno

/-- Every skein that is killed, one after another, is gone. -/
theorem foldl_killSkein_skeinGone {i : Nat} (sids : List Nat) {s : State} (hw : Tbl.wf Skein.reset s.skeins = true) (hi : i ∈ sids) :
    skeinGone (here s) i (getSkein s i) (sids.foldl (fun b sid => killSkein b sid 0 true) s) := by
  induction sids generalizing s with
  | nil => cases hi
  | cons sid sids ih =>
    obtain ⟨kp, kk, -, -⟩ := killSkein_coreLost s sid 0
    rw [List.foldl_cons]
    by_cases hsid : i = sid
    · subst hsid
      exact List.foldlRecOn (motive := skeinGone (here s) i (getSkein s i)) sids _ (killSkein_skeinGone hw i 0)
        (fun _ h sid _ => skeinGone_killSkein h sid 0)
    · have hpkg : here (killSkein s sid 0 true) = here s := by rw [here, kp, here]
      have hsame : getSkein (killSkein s sid 0 true) i = getSkein s i := by rw [getSkein, kk, Tbl.get_erase_ne hw hsid, getSkein]
      rw [← hpkg, ← hsame]
      exact ih (kk ▸ Tbl.wf_erase hw sid) ((List.mem_cons.1 hi).resolve_left hsid)

theorem tokenLoss_keeps (s : State) (p : Nat) (sids : List Nat) :
    (tokenLoss s p sids).skeins = s.skeins ∧ (tokenLoss s p sids).package = s.package := by
  unfold tokenLoss
  refine List.foldlRecOn (motive := fun b : State => b.skeins = s.skeins ∧ b.package = s.package) _ _ ⟨rfl, rfl⟩ fun b h c _ => ?_
  dsimp only
  split
  · exact h
  · rw [postEvent_eventPart]
    exact h

/-- CORE_FAILURE where the skein table is in canonical form (log entry 1): its caches, grants and triggers go, and every skein that was
resident on the core is gone. -/
theorem execCoreFailure_canonical {s : State} (hw : Tbl.wf Skein.reset s.skeins = true) (core : Nat) :
    answers (execCoreFailure core s) (fun t => (∀ l ∈ t.l1, l.core ≠ core) ∧ (∀ e ∈ t.tlb, e.core ≠ core) ∧ (∀ l ∈ t.icache, l.core ≠ core) ∧
      (∀ e ∈ t.grants, e.core ≠ core ∧ e.core ≠ engineCache core) ∧ (∀ e ∈ t.triggers, e.core ≠ core) ∧
      ∀ i ∈ residentOn s core, skeinGone (here s) i (getSkein s i) t) := by
  obtain ⟨hk, hp⟩ := tokenLoss_keeps (setCore s core { getCore s core with failed := true })
    (partOf (setCore s core { getCore s core with failed := true }) core) (residentOn s core)
  refine ⟨_, rfl, fun l hl => ?_, fun e he => ?_, fun l hl => ?_, fun e he => ?_, fun e he => ?_, fun i hi => ?_⟩
  · simpa using (List.mem_filter.1 hl).2
  · simpa using (List.mem_filter.1 he).2
  · simpa using (List.mem_filter.1 hl).2
  · simpa using (List.mem_filter.1 he).2
  · simpa using (List.mem_filter.1 he).2
  · have hgone := foldl_killSkein_skeinGone (residentOn s core) (hk ▸ hw) hi
    rw [here, hp, getSkein, hk] at hgone
    exact hgone

/-- A skein table that lists skein 0 twice, against the canonical form: resident on core 0, and saved. -/
def skeinListedTwice : State :=
  { State.reset with skeins := [(0, { Skein.reset with place := .resident }), (0, { Skein.reset with place := .saved })] }

/-- Core 0 fails: its resident skein 0 is killed, which takes the first entry of skein 0 away and leaves the second. -/
theorem execCoreFailure_skeinListedTwice : ∃ t, execCoreFailure 0 skeinListedTwice = .next t ∧ t.skeins = [(0, { Skein.reset with place := .saved })] :=
  ⟨_, rfl, by decide⟩

/-- Refutes O49: its clause on CORE_FAILURE says of every state that no entry of a skein resident on the core is left, but a killed
skein loses one entry of its key only, so one that the table lists twice keeps the other, as in `skeinListedTwice`. In a state whose
skein table is in canonical form the clause holds (`execCoreFailure_canonical`). -/
theorem not_grantAndTransferEventResults : ¬ Obligations.grant_and_transfer_event_results := by
  unfold Obligations.grant_and_transfer_event_results
  intro h
  obtain ⟨-, -, -, -, hcore, -⟩ := h skeinListedTwice 0 0 0 0 0 0 0 0 0 0 0 0 0 0 .context false []
    { core := 0, part := 0, package := 0, agent := .context, ctx := 0, base := 0, k := 0, write := false, back := false } .retn 0
    { org := bankHalf.org, dom := 0, lane := 0, fromCell := 0, toCell := 0, mag := 0, neg := false, clip := false, dest := 0, destSup := false, stage := 0 }
    (domainFrom State.reset 0 0 0 0 0 [] [] [])
    { seq := 0, amount := 0, toCell := 0, fromCell := 0, slot := 0, package := 0, lane := 0, tag := 0 } bankHalf.org
  obtain ⟨t, ht, -, -, -, -, -, hgone⟩ := hcore
  obtain ⟨u, hu, hskeins⟩ := execCoreFailure_skeinListedTwice
  obtain rfl : u = t := Host.Outcome.next.inj (hu.symm.trans ht)
  obtain ⟨hkey, -, -⟩ := hgone 0 (by decide)
  exact hkey (0, { Skein.reset with place := .saved }) (by rw [hskeins]; exact List.mem_singleton_self _) rfl

end Sys2Proof.Machine
end

section
/-! Field memory (O32, O39): what each field word does once its checks pass. -/

namespace Sys2Proof.Machine

/-! ## XFER and FLD (03 R70 to R72, R78) -/

theorem mem_lanesOf {m : BitVec 4} {j : Nat} : j ∈ lanesOf m ↔ j < 4 ∧ m.getLsbD j = true := by
  simp only [lanesOf, List.mem_filter, List.mem_cons, List.not_mem_nil, or_false]
  exact and_congr_left fun _ => by omega

/-- Where no active lane's cells fail, the word goes on to its own effect. -/
theorem cellChecks_pass {s : State} {g : Guard} {d : BitVec 6} {cells : List (BitVec 6)} {xfer : Bool} {word : DWord} (k : State → State)
    (h : ∀ n ∈ grp s, ∀ j < 4, ((curStrand s n).active g).getLsbD j = true → cellFault s n j d cells xfer word = none) :
    cellChecks s g d cells xfer word k = k s := by
  refine if_pos (List.isEmpty_iff.2 (List.filterMap_eq_nil_iff.2 fun l hl => ?_))
  obtain ⟨n, hn, hl⟩ := List.mem_flatMap.1 hl
  obtain ⟨j, hj, rfl⟩ := List.mem_map.1 hl
  obtain ⟨hlt, hact⟩ := mem_lanesOf.1 hj
  exact Option.map_eq_none_iff.2 (h n hn j hlt hact)

/-- What XFER leaves in strand `n` of its group: it waits for its debits, in an entry for its own lanes among them. -/
def Strand.beginDebits (t : Strand) (tag : Nat) (xs : List XferLane) (n : Nat) : Strand :=
  let ls := laneMask (fun j => xs.any (fun x => x.lane == 4 * n + j))
  if xs = [] then t
  else { t with wait := .debit, xfers := if ls = 0 then t.xfers else t.xfers ++ [⟨tag, t.pc - 4, ls, ls, 0, 0, 0, 0⟩] }

/-- `Strand.beginDebits` by its cases, as XFER writes them. -/
theorem beginDebits_eq (t : Strand) (tag : Nat) (xs : List XferLane) (n : Nat) :
    t.beginDebits tag xs n =
      let ls := laneMask (fun j => xs.any (fun x => x.lane == 4 * n + j))
      if xs.isEmpty then t
      else if ls = 0 then { t with wait := .debit }
      else { t with wait := .debit,
                    xfers := t.xfers ++ [{ tag := tag, addr := t.pc - 4, undecided := ls, awaiting := ls, failed := 0,
                                           causes := 0, sync := 0, syncCauses := 0 }] } := by
  cases xs with
  | nil => rfl
  | cons x xs =>
    simp only [Strand.beginDebits, List.isEmpty_cons, reduceCtorEq, Bool.false_eq_true, if_false]
    split <;> rfl

/-- XFER sends its debits, and its strands wait for them. -/
theorem exec_xfer {s : State} {g : Guard} {d a b : BitVec 6} {m : BitVec 1}
    (h : laneFree s g .user [] [cellRegs s d, [a.toNat], [b.toNat]]) (hxf : ∀ n ∈ acting s g, (curStrand s n).xf < 63)
    (hfence : heldByFence s (fun f => f.cp && f.xf) s.cur.sid s.cur.ply s.seq (grp s) = false)
    (hcell : ∀ n ∈ grp s, ∀ j < 4, ((curStrand s n).active g).getLsbD j = true →
      cellFault s n j d [a, b] true (instrWord (.xfer g d a b m)) = none) :
    exec (.xfer g d a b m) s =
      .next (mapStrands (retire (send s ((xferLanes s g d a b (m == 1)).map Item.debit)) 4) s.cur.sid s.cur.ply (grp s)
        (fun n t => t.beginDebits s.seq (xferLanes s g d a b (m == 1)) n)) := by
  have hroom : (acting s g).any (fun n => decide (63 ≤ (curStrand s n).xf)) = false :=
    List.any_eq_false.2 fun n hn => by simpa using hxf n hn
  refine congrArg Host.Outcome.next ((laneEnter_free _ rfl ⟨?_, ?_, ?_⟩ h rfl ?_ ?_).trans ?_)
  · exact fun vs hvs => .inr hvs
  · exact fun v hv => nomatch hv
  · intro v hv
    obtain hv | hv := List.mem_append.1 hv
    · exact ⟨_, by simp, hv⟩
    · exact ⟨[v], List.mem_cons_of_mem _ (List.mem_map_of_mem (f := fun x => [x]) hv), List.mem_singleton_self v⟩
  · exact fun h8 => nomatch h8
  · exact fun _ hw => nomatch hw
  · rw [hroom, hfence, if_neg (by decide), cellChecks_pass _ hcell]
    exact congrArg (mapStrands _ _ _ _) (funext fun n => funext fun t => (beginDebits_eq t _ _ n).symm)

/-- FLD sends the reads of its cells, and a reply entry awaits them. -/
theorem exec_fld {s : State} {g : Guard} {d a : BitVec 6} {h : BitVec 2} (hh : h.toNat < 2)
    (hl : laneFree s g .user [cellRegs s d] [[a.toNat]]) (hld : ∀ n ∈ acting s g, (curStrand s n).replies.length < 63)
    (hcp : cpHolds s false false = false)
    (hcell : ∀ n ∈ grp s, ∀ j < 4, ((curStrand s n).active g).getLsbD j = true →
      cellFault s n j d [a] false (instrWord (.fld g d a h)) = none) :
    exec (.fld g d a h) s = .next (retire (send (expectReplies s (origin s 0).tag d.toNat (fun n => if wideOf s n then 2 else 1)
      ((fldLanes s g a).map (fun l => l.1))) (fldItems s (origin s 0) (fldLanes s g a))) 4) := by
  have hroom : (acting s g).any (fullLd s) = false := List.any_eq_false.2 fun n hn => by simpa [fullLd] using hld n hn
  refine congrArg Host.Outcome.next ((laneEnter_free _ ?_ ⟨?_, ?_, ?_⟩ hl rfl ?_ ?_).trans ?_)
  · exact decide_eq_true hh
  · exact fun vs hvs => .inr hvs
  · exact fun v hv => ⟨_, List.mem_singleton_self _, hv⟩
  · exact fun v hv => ⟨_, List.mem_singleton_self _, hv⟩
  · exact fun h8 => nomatch h8
  · exact fun _ hw => nomatch hw
  · rw [hroom, hcp, if_neg (by decide), cellChecks_pass _ hcell]

/-! ## FDOM (03 R65) -/

/-- FDOM with a register other than W0: only a declared domain whose total home is not lost becomes the group's. -/
theorem exec_fdom {s : State} {w : BitVec 5} (h : uniFree s .user [w.toNat] []) (h0 : w ≠ 0) :
    exec (.fdom w) s = .next (if (domainOf s (curSkein s) (wReg s w.toNat)).any (fun d => !d.totalLost) then
      groupResult s (fun t => { t with dom := wReg s w.toNat }) else trapAll s .prot (wReg s w.toNat)) := by
  refine congrArg Host.Outcome.next ((uniEnter_free _ rfl h (by simp) (by simp)).trans ?_)
  simp only [h0, if_false, bne_iff_ne.2 h0, Bool.true_and]
  cases (domainOf s (curSkein s) (wReg s w.toNat)).any (fun d => !d.totalLost) <;> rfl

/-- W0 is never poisoned, nor awaited. -/
theorem uniFree_w0 {s : State} {need : Mode} (h : uniFree s need [] []) : uniFree s need [0] [] := by
  obtain ⟨hmode, -⟩ := h
  exact ⟨hmode, fun w hw => .inl (List.mem_singleton.1 hw), fun _ hw => (nomatch hw), fun w hw => by
    rw [List.mem_singleton.1 hw]; rfl⟩

theorem exec_fdom_w0 {s : State} (h : uniFree s .user [] []) :
    exec (.fdom 0) s = .next (groupResult s (fun t => { t with dom := 0 })) :=
  congrArg Host.Outcome.next (uniEnter_free _ rfl (uniFree_w0 h) (by simp) (by simp))

/-- Settles O32: each word by its equation. -/
theorem fieldTransferResults : Obligations.field_transfer_results := by
  intro s g d a b m h w
  refine ⟨fun hl hxf hfence hcell => exec_xfer hl hxf hfence hcell, fun hh hl hld hcp hcell => exec_fld hh hl hld hcp hcell,
    fun hu h0 hd => ?_, exec_fdom_w0, fun hu h0 hd => ?_⟩
  · obtain ⟨dm, hdm, hlive⟩ := hd
    rw [exec_fdom hu h0, if_pos (by simp [hdm, hlive])]
  · rw [exec_fdom hu h0, if_neg (by simpa [Option.any_eq_true] using hd)]

/-! ## FTOT (03 R68) -/

/-- A total asked of the package of the total home, for which the group waits. -/
def askTotal (s : State) (d sel : Nat) (g : DWord) (m : Domain) : State :=
  stall { send s [Item.totalAsk s.seq s.cur.sid s.cur.ply (grp s) d sel g] with
    fabricOut := s.fabricOut ++ [FabricOut.packet (m.owner m.totalCell)
      { src := here s, spid := spidOf s m.part, tag := s.seq * 32, off := 0, body := .fieldTotals m.slot }] } .acks

/-- What FTOT does once it has its handle. -/
def readTotal (s : State) (d sel : Nat) (g : DWord) : State :=
  match domainOf s (curSkein s) g with
  | none => trapAll s .prot g
  | some m =>
    if m.totalLost then trapAll s .prot g
    else if (grp s).any (fun n => (curStrand s n).xf != 0) then stall s .poll
    else if m.owner m.totalCell = here s then
      retire (setSkein s s.cur.sid ((curSkein s).setPair s.cur.ply d (totalSel sel m.initial m.injected m.removed))) 4
    else askTotal s d sel g m

theorem headD_mem_grp {s : State} (h : grp s ≠ []) : (grp s).headD 0 ∈ grp s := by
  rw [List.headD_eq_head?_getD, List.head?_eq_some_head h]
  exact List.head_mem h

/-- A strand's domain differs from the first strand's exactly when two strands differ. -/
theorem dom_differs_iff {s : State} (h : grp s ≠ []) :
    (grp s).any (fun n => (curStrand s n).dom != (curStrand s ((grp s).headD 0)).dom) = true ↔
      ∃ n ∈ grp s, ∃ m ∈ grp s, (curStrand s n).dom ≠ (curStrand s m).dom := by
  simp only [List.any_eq_true, bne_iff_ne]
  refine ⟨fun ⟨n, hn, hne⟩ => ⟨n, hn, _, headD_mem_grp h, hne⟩, fun ⟨n, hn, m, hm, hne⟩ => ?_⟩
  by_cases hd : (curStrand s n).dom = (curStrand s ((grp s).headD 0)).dom
  · exact ⟨m, hm, fun hd' => hne (hd.trans hd'.symm)⟩
  · exact ⟨n, hn, hd⟩

section
variable {s : State} {d a : BitVec 5} {f : BitVec 2} {g : DWord}

/-- FTOT takes its handle from a register, or with W0 from its strands, when they agree on one. -/
theorem exec_ftot (hf : (Instr.ftot d a f).wf = true) (hu : uniFree s .user [a.toNat] [d.toNat, d.toNat + 1])
    (hg : (a ≠ 0 ∧ g = wReg s a.toNat) ∨ (a = 0 ∧ g ≠ 0 ∧ grp s ≠ [] ∧ ∀ n ∈ grp s, (curStrand s n).dom = g)) :
    exec (.ftot d a f) s = .next (readTotal s d.toNat f.toNat g) := by
  refine congrArg Host.Outcome.next ((uniEnter_free _ hf hu (by simp) (by simp)).trans ?_)
  obtain ⟨ha, rfl⟩ | ⟨rfl, h0, hne, hdom⟩ := hg
  · simp only [beq_eq_false_iff_ne.2 ha, Bool.false_and, Bool.false_eq_true, if_false, ha]
    rfl
  · have hhead : (curStrand s ((grp s).headD 0)).dom = g := hdom _ (headD_mem_grp hne)
    have hsame : (grp s).any (fun n => (curStrand s n).dom != g) = false :=
      List.any_eq_false.2 fun n hn => by simp [hdom n hn]
    simp only [hhead, hsame, beq_eq_false_iff_ne.2 h0, Bool.or_self, Bool.and_false, Bool.false_eq_true, if_false, if_true]
    rfl

/-- FTOT with W0 traps where its strands hold no domain, or not the same. -/
theorem exec_ftot_undecided (hf : (Instr.ftot d 0 f).wf = true) (hu : uniFree s .user [0] [d.toNat, d.toNat + 1]) (hne : grp s ≠ [])
    (hdom : (∀ n ∈ grp s, (curStrand s n).dom = 0) ∨ ∃ n ∈ grp s, ∃ m ∈ grp s, (curStrand s n).dom ≠ (curStrand s m).dom) :
    exec (.ftot d 0 f) s = .next (trapAll s .prot 0) := by
  refine congrArg Host.Outcome.next ((uniEnter_free _ hf hu (by simp) (by simp)).trans (if_pos ?_))
  obtain hdom | hdom := hdom
  · rw [hdom _ (headD_mem_grp hne)]
    rfl
  · rw [(dom_differs_iff hne).2 hdom]
    exact Bool.or_true _

theorem readTotal_undeclared {sel n : Nat} (h : domainOf s (curSkein s) g = none) : readTotal s n sel g = trapAll s .prot g := by
  rw [readTotal, h]

variable {m : Domain} (hm : domainOf s (curSkein s) g = some m)
include hm

theorem readTotal_lost {sel n : Nat} (h : m.totalLost = true) : readTotal s n sel g = trapAll s .prot g := by
  simp only [readTotal, hm, h, if_true]

theorem readTotal_waits {sel n : Nat} (hl : m.totalLost = false) (h : ∃ n ∈ grp s, (curStrand s n).xf ≠ 0) :
    readTotal s n sel g = stall s .poll := by
  have hany : (grp s).any (fun n => (curStrand s n).xf != 0) = true := by simpa using h
  simp only [readTotal, hm, hl, hany, Bool.false_eq_true, if_false, if_true]

theorem readTotal_settled {sel n : Nat} (hl : m.totalLost = false) (h : ∀ n ∈ grp s, (curStrand s n).xf = 0) :
    readTotal s n sel g = if m.owner m.totalCell = here s then
      retire (setSkein s s.cur.sid ((curSkein s).setPair s.cur.ply n (totalSel sel m.initial m.injected m.removed))) 4
      else askTotal s n sel g m := by
  have hany : (grp s).any (fun n => (curStrand s n).xf != 0) = false := by simpa using h
  simp only [readTotal, hm, hl, hany, Bool.false_eq_true, if_false]

end

/-- `totalSel` in the words of 03 R68. -/
theorem totalSel_eq (f : BitVec 2) (i inj rem : BitVec 128) :
    totalSel f.toNat i inj rem = if f = 0 then i + inj - rem else if f = 1 then inj else if f = 2 then rem else i := by
  obtain rfl | rfl | rfl | rfl : f = 0 ∨ f = 1 ∨ f = 2 ∨ f = 3 := by
    revert f
    decide
  all_goals rfl

/-! ## FDECL and FDECL.RETIRE (03 R60, R61, R64) -/

theorem exec_fdecl_misaligned {s : State} {d a : BitVec 5} (hu : uniFree s .supervisor [a.toNat] [d.toNat])
    (hal : (wReg s a.toNat).toNat % 64 ≠ 0) :
    exec (.fdecl d a) s = .next (trapAll s .misalign (wReg s a.toNat)) ∧
      exec (.fdeclRetire d a) s = .next (trapAll s .misalign (wReg s a.toNat)) :=
  ⟨congrArg Host.Outcome.next ((uniEnter_free _ rfl hu (by simp) (by simp)).trans (if_pos hal)),
    congrArg Host.Outcome.next ((uniEnter_free _ rfl hu (by simp) (by simp)).trans (if_pos hal))⟩

/-- The addresses of the package list's entries. -/
def listAddrs (ws : List DWord) : List Nat :=
  let list := (ws.getD 2 0).toNat
  let w1 := (ws.getD 1 0).toNat
  (List.range (if list = 0 then 0 else (fieldOf w1 0 32 + 2 ^ fieldOf w1 40 6) / 2 ^ fieldOf w1 40 6)).map (fun i => list + 4 * i)

/-- The addresses of the source and sink indices. -/
def tapAddrs (ws : List DWord) : List Nat :=
  let tab := (ws.getD 3 0).toNat
  let w4 := (ws.getD 4 0).toNat
  if tab = 0 then []
  else (List.range (min 16 (fieldOf w4 0 5))).map (fun i => tab + 4 * i) ++
    (List.range (min 16 (fieldOf w4 8 5))).map (fun i => tab + 0x40 + 4 * i)

/-- What FDECL does once all that it reads, and its store, have passed their checks. -/
def declareRead (s : State) (dst : Nat) (h : DWord) (ws : List DWord) (list taps : List Nat) : State :=
  let k := curSkein s
  let slot := freeSlot s k.part h
  let m := domainFrom s k.part k.ctx (slot.getD 0) h (here s) ws list taps
  if underWay s k h then stall s .poll
  else if declBad s ws m list || slot.isNone then trapAll s .prot h
  else declare s dst ws m

theorem declareRead_declares {s : State} {dst n : Nat} {h : DWord} {ws : List DWord} {list taps : List Nat}
    (hw : underWay s (curSkein s) h = false) (hn : freeSlot s (curSkein s).part h = some n)
    (hb : declBad s ws (domainFrom s (curSkein s).part (curSkein s).ctx n h (here s) ws list taps) list = false) :
    declareRead s dst h ws list taps =
      declare s dst ws (domainFrom s (curSkein s).part (curSkein s).ctx n h (here s) ws list taps) := by
  simp only [declareRead, hw, hn, Option.getD_some, hb, Option.isNone_some, Bool.or_self, Bool.false_eq_true, if_false]

/-- FDECL reads the descriptor, the list and the table, and checks its store, before it judges them. -/
theorem exec_fdecl {s : State} {d a : BitVec 5} {h : DWord} {ws : List DWord} {r1 r2 r3 : List (List PByte) × State}
    {x1 x2 x3 : List Xl} {x4 : Xl} (hh : h = wReg s a.toNat)
    (e1 : r1 = readsGive s (dwordsAt h.toNat 8) 8 x1) (ew : ws = r1.1.map (fun b => dw (pval b)))
    (e2 : r2 = readsGive r1.2 (listAddrs ws) 4 x2) (e3 : r3 = readsGive r2.2 (tapAddrs ws) 4 x3)
    (hu : uniFree s .supervisor [a.toNat] [d.toNat]) (hal : h.toNat % 64 = 0) (hr1 : readsPass s (dwordsAt h.toNat 8) 8 x1)
    (hlist : (ws.getD 2 0).toNat % 4 = 0) (htab : (ws.getD 3 0).toNat % 4 = 0) (hr2 : readsPass r1.2 (listAddrs ws) 4 x2)
    (hr3 : readsPass r2.2 (tapAddrs ws) 4 x3) (hst : rangePasses r3.2 .store [h.toNat + 0x28] 8 8 [x4]) :
    exec (.fdecl d a) s = .next (declareRead (keptXl r3.2 [x4]) d.toNat h ws (r2.1.map pval) (r3.1.map pval)) := by
  subst e3 e2 ew e1 hh
  refine congrArg Host.Outcome.next ((uniEnter_free _ rfl hu (by simp) (by simp)).trans ?_)
  refine (if_neg (not_not_intro hal)).trans ((readGroup_passes _ hr1).trans ?_)
  refine (if_neg (not_not_intro hlist)).trans ((if_neg (not_not_intro htab)).trans ?_)
  exact (readGroup_passes _ hr2).trans ((readGroup_passes _ hr3).trans (checkStore_passes _ hst))

/-- FDECL.RETIRE of a declared domain that is not retiring yet begins its retirement. -/
theorem exec_fdeclRetire {s : State} {d a : BitVec 5} {h : DWord} {r : List (List PByte) × State} {x1 : List Xl} {x2 : Xl} {m : Domain}
    (hh : h = wReg s a.toNat) (e : r = readsGive s (dwordsAt h.toNat 8) 8 x1) (hu : uniFree s .supervisor [a.toNat] [d.toNat])
    (hal : h.toNat % 64 = 0) (hr : readsPass s (dwordsAt h.toNat 8) 8 x1) (hst : rangePasses r.2 .store [h.toNat + 0x28] 8 8 [x2])
    (hm : domainOf (keptXl r.2 [x2]) (curSkein (keptXl r.2 [x2])) h = some m) (hdecl : bitOf (pval (r.1.getD 5 [])) 63 = true)
    (hre : m.retiring = false) :
    exec (.fdeclRetire d a) s =
      let t := keptXl r.2 [x2]
      .next (startRetire (stall t .acks) m (some (t.cur.sid, t.cur.ply, grp t, d.toNat))) := by
  subst e hh
  refine congrArg Host.Outcome.next ((uniEnter_free _ rfl hu (by simp) (by simp)).trans ?_)
  refine (if_neg (not_not_intro hal)).trans ((readGroup_passes _ hr).trans ((checkStore_passes _ hst).trans ?_))
  simp only [hm, hdecl, hre, Bool.not_true, Bool.or_self, Bool.false_eq_true, if_false]

@[simp] theorem here_stall (s : State) (w : Wait) : here (stall s w) = here s := by rw [here, stall_package, here]

@[simp] theorem spidOf_stall (s : State) (w : Wait) (p : Nat) : spidOf (stall s w) p = spidOf s p := by
  rw [spidOf, getPart, stall_parts, spidOf, getPart]

/-- A stall changes nothing that `startRetire` asks of the state. -/
theorem startRetire_stall (s : State) (w : Wait) (m : Domain) (o : Option (Nat × Nat × List Nat × Nat)) :
    startRetire (stall s w) m o =
      let q := m.agreed.filter (fun p => !(s.lostPkgs.contains p))
      domainStep (announce (announce (setDomain (stall s w) { m with stage := .draining, awaiting := q, agreed := q, waiter := o }) q
        (.drain (here s) (spidOf s m.part) m.slot)) (if m.declarer = here s ∨ s.lostPkgs.contains m.declarer = true then [] else [m.declarer])
        (.retire (here s) (spidOf s m.part) m.slot)) m.key := by
  simp only [startRetire, stall_lostPkgs, here_stall, spidOf_stall]

/-- Settles O39: FTOT by `readTotal`, FDECL by `declareRead`, FDECL.RETIRE by `startRetire`. -/
theorem fieldDeclarationResults : Obligations.field_declaration_results := by
  intro s d a f h k
  refine ⟨fun g hf hu hg => ?_, exec_ftot_undecided, fun x1 x2 x3 x4 => ?_, exec_fdecl_misaligned, fun x1 x2 m => ?_⟩
  · rw [exec_ftot hf hu hg]
    refine ⟨fun hno => by rw [readTotal_undeclared hno], fun m hm => ⟨fun hl => by rw [readTotal_lost hm hl],
      fun hl hx => by rw [readTotal_waits hm hl hx], fun hl hx => ?_⟩⟩
    rw [readTotal_settled hm hl hx, totalSel_eq]
    exact ⟨fun hown => congrArg _ (if_pos hown), fun hown => congrArg _ (if_neg hown)⟩
  · intro r1 ws w b vl r2 vt r3 t hu hal hr1 hlist htab hr2 hr3 hst hway n hn m hbad
    exact (exec_fdecl rfl rfl rfl rfl rfl hu hal hr1 hlist htab hr2 hr3 hst).trans (congrArg _ (declareRead_declares hway hn hbad))
  · intro r t hu hal hr hst hm hdecl hre q
    exact (exec_fdeclRetire rfl rfl hu hal hr hst hm hdecl hre).trans (congrArg _ (startRetire_stall _ _ _ _))

end Sys2Proof.Machine
end

section
/-! Copies as they issue, and the trigger unit (O34, O35): what each word does once its checks pass. -/

namespace Sys2Proof.Machine

/-! ## COPY, COPY2D and COPYP (05 R92 to R94) -/

theorem exec_copy {s : State} {d a b : BitVec 5} {r : BitVec 2} {e : BitVec 1} {c : BitVec 6}
    (h : uniFree s .user [d.toNat, a.toNat, b.toNat] []) : exec (.copy d a b r e c) s =
      .next (issueCopy (newCopy s .copy (r ++ e ++ c) (wReg s d.toNat) (wReg s a.toNat) (wReg s b.toNat) 0) s) :=
  congrArg _ (uniEnter_free _ rfl h (by simp) (by simp))

theorem exec_copy2d {s : State} {d a b : BitVec 5} {r : BitVec 2} {e : BitVec 1} {c : BitVec 6} (hw : (Instr.copy2d d a b r e c).wf = true)
    (h : uniFree s .user [d.toNat, a.toNat, b.toNat, b.toNat + 1] []) : exec (.copy2d d a b r e c) s =
      .next (issueCopy (newCopy s .copy2d (r ++ e ++ c) (wReg s d.toNat) (wReg s a.toNat) (wReg s b.toNat) (wReg s (b.toNat + 1))) s) :=
  congrArg _ (uniEnter_free _ hw h (by simp) (by simp))

theorem exec_copyp {s : State} {d a b : BitVec 5} {r : BitVec 2} {e : BitVec 1} {c : BitVec 6}
    (h : uniFree s .user [d.toNat, a.toNat, b.toNat] []) : exec (.copyp d a b r e c) s =
      .next (issueCopy (newCopy s .copyp (r ++ e ++ c) (wReg s d.toNat) (wReg s a.toNat) (wReg s b.toNat) 0) s) :=
  congrArg _ (uniEnter_free _ rfl h (by simp) (by simp))

/-- A copy that fails a check traps; one that passes them enters, or waits while there is no room for one more. -/
theorem issueCopy_outcomes {s : State} {x : Copy} {o : Host.Outcome State Fault Refusal} (h : o = .next (issueCopy x s)) :
    (∀ f, copyRefused s (curSkein s) x = some f → o = .next (trapAll s f.1 f.2)) ∧
      (copyRefused s (curSkein s) x = none → copyFull s = false → o = .next (retire (enterCopy (raiseCp s) x) 4)) ∧
      (copyRefused s (curSkein s) x = none → copyFull s = true → o = .next (stall s .poll)) := by
  subst h
  refine ⟨fun f hf => ?_, fun hok hroom => ?_, fun hok hfull => ?_⟩
  · rw [issueCopy, hf]
  · simp only [issueCopy, hok, hroom, Bool.false_eq_true, if_false]
  · simp only [issueCopy, hok, hfull, if_true]

/-- Settles O34: each word issues the copy that its operands describe, and `issueCopy` has three outcomes. -/
theorem copyIssueResults : Obligations.copy_issue_results := by
  intro s d a b r e c
  exact ⟨fun hu => issueCopy_outcomes (exec_copy hu), fun hw hu => issueCopy_outcomes (exec_copy2d hw hu),
    fun hu => issueCopy_outcomes (exec_copyp hu)⟩

/-! ## TRIG (05 R105, R106) -/

/-- The words of the record that an address names in a skein's local store. -/
def recordWords (k : Skein) (off : Nat) : List DWord := bytesDwords 8 ((lsRead k off 64).map (fun b => b.val))

/-- The record at an address as the group arms it, in the lowest free slot of its core. -/
def groupTrigger (s : State) (off : Nat) : Trigger :=
  { core := (curSkein s).core, slot := (freeTrigger s (curSkein s).core).getD 0, sid := s.cur.sid, ply := s.cur.ply,
    lanes := groupLanes s, addr := off, seq := s.seq, mode := curMode s, words := recordWords (curSkein s) off }

/-- What TRIG does with an address once the checks of 08 R136 have passed; its answer goes to W`d`. -/
def armRecord (s : State) (d : Nat) (w : DWord) : State :=
  let k := curSkein s
  let t := groupTrigger s (lsOffset w)
  if banksShut s (curCore s) then stall s .poll
  else if lsOffset w % 64 ≠ 0 then trapAll s .misalign w
  else if k.lsSize < lsOffset w + 64 then trapAll s .lsbound w
  else if recordBad t.words then trapAll s .prot w
  else
    match copyRefused s k t.action, freeTrigger s k.core with
    | some f, _ => trapAll s f.1 f.2
    | none, none => uniResult s d 1
    | none, some _ =>
      if (grp s).any (fun n => decide (63 ≤ (curStrand s n).cp)) then stall s .poll
      else uniResult (judgeTriggers (raiseCp { s with triggers := s.triggers ++ [t], seq := s.seq + 1 }) k.core) d 0

theorem exec_trig {s : State} {d a : BitVec 5} (h : uniFree s .user [a.toNat] [d.toNat]) :
    exec (.trig d a) s = .next (armRecord s d.toNat (wReg s a.toNat)) :=
  congrArg _ (uniEnter_free _ rfl h (by simp) (by simp))

section
variable {s : State} {d : Nat} {w : DWord}

theorem armRecord_shut (hb : banksShut s (curCore s) = true) : armRecord s d w = stall s .poll := if_pos hb

variable (hb : banksShut s (curCore s) = false)
include hb

theorem armRecord_misaligned (ho : lsOffset w % 64 ≠ 0) : armRecord s d w = trapAll s .misalign w := by
  simp only [armRecord, hb, ho, Bool.false_eq_true, if_false, ne_eq, not_false_eq_true, if_true]

variable (ho : lsOffset w % 64 = 0)
include ho

theorem armRecord_outside (hl : (curSkein s).lsSize < lsOffset w + 64) : armRecord s d w = trapAll s .lsbound w := by
  simp only [armRecord, hb, ho, hl, Bool.false_eq_true, if_false, ne_eq, not_true_eq_false, if_true]

variable (hl : lsOffset w + 64 ≤ (curSkein s).lsSize)
include hl

theorem armRecord_malformed (hr : recordBad (recordWords (curSkein s) (lsOffset w)) = true) : armRecord s d w = trapAll s .prot w := by
  simp only [armRecord, groupTrigger, hb, ho, Nat.not_lt.2 hl, hr, Bool.false_eq_true, if_false, ne_eq, not_true_eq_false, if_true]

variable (hr : recordBad (recordWords (curSkein s) (lsOffset w)) = false)
  (ha : copyRefused s (curSkein s) (groupTrigger s (lsOffset w)).action = none)
include hr ha

theorem armRecord_full (hf : freeTrigger s (curSkein s).core = none) : armRecord s d w = uniResult s d 1 := by
  have hw : recordBad (groupTrigger s (lsOffset w)).words = false := hr
  simp only [armRecord, hb, ho, Nat.not_lt.2 hl, hw, ha, hf, Bool.false_eq_true, if_false, ne_eq, not_true_eq_false]

theorem armRecord_arms {n : Nat} (hf : freeTrigger s (curSkein s).core = some n) (hcp : ∀ n ∈ grp s, (curStrand s n).cp < 63) :
    armRecord s d w = uniResult (judgeTriggers
      (raiseCp { s with triggers := s.triggers ++ [groupTrigger s (lsOffset w)], seq := s.seq + 1 }) (curSkein s).core) d 0 := by
  have hw : recordBad (groupTrigger s (lsOffset w)).words = false := hr
  have hroom : (grp s).any (fun n => decide (63 ≤ (curStrand s n).cp)) = false :=
    List.any_eq_false.2 fun n hn => by simpa using hcp n hn
  simp only [armRecord, hb, ho, Nat.not_lt.2 hl, hw, ha, hf, hroom, Bool.false_eq_true, if_false, ne_eq, not_true_eq_false]

end

/-- A record that agrees with the group's in all but its slot is the group's once it stands in the lowest free slot. -/
theorem eq_groupTrigger {s : State} {off : Nat} {t : Trigger} (hcore : t.core = (curSkein s).core) (hsid : t.sid = s.cur.sid)
    (hply : t.ply = s.cur.ply) (hlanes : t.lanes = groupLanes s) (haddr : t.addr = off) (hseq : t.seq = s.seq) (hmode : t.mode = curMode s)
    (hwords : t.words = recordWords (curSkein s) off) :
    { t with slot := (freeTrigger s (curSkein s).core).getD 0 } = groupTrigger s off := by
  simp only [groupTrigger, hcore, hsid, hply, hlanes, haddr, hseq, hmode, hwords]

/-! ## TRIG.CANCEL (05 R106) -/

/-- What TRIG.CANCEL does with an address: the oldest record that the skein has armed from it is disarmed. -/
def disarmRecord (s : State) (d : Nat) (w : DWord) : State :=
  match oldestTrigger s s.cur.sid (lsOffset w) with
  | none => uniResult s d 0
  | some t => uniResult (lowerCp { s with triggers := s.triggers.filter (fun x => x.seq != t.seq) } t.sid t.ply t.lanes) d 1

theorem exec_trigCancel {s : State} {d a : BitVec 5} (h : uniFree s .user [a.toNat] [d.toNat]) :
    exec (.trigCancel d a) s = .next (disarmRecord s d.toNat (wReg s a.toNat)) :=
  congrArg _ (uniEnter_free _ rfl h (by simp) (by simp))

theorem oldestTrigger_none {s : State} {sid off : Nat} (h : ∀ t ∈ s.triggers, ¬(t.sid = sid ∧ t.addr = off)) :
    oldestTrigger s sid off = none := by
  have hno : s.triggers.filter (fun t => t.sid == sid && t.addr == off) = [] :=
    List.filter_eq_nil_iff.2 fun t ht => by simpa using h t ht
  rw [oldestTrigger, hno, List.foldl_nil]

/-! ## Counters (05 R104) -/

section
variable {s : State} {a : BitVec 5} {c : BitVec 6} (h : uniFree s .user [a.toNat] [])
include h

theorem exec_cntrAdd : exec (.cntrAdd a c) s = .next (if watchedAway s then stall s .poll
    else retire (addCounter s (curCore s) c.toNat ((wReg s a.toNat).setWidth 32)) 4) :=
  congrArg _ (uniEnter_free _ rfl h (by simp) (by simp))

theorem exec_cntrSet : exec (.cntrSet a c) s = .next (if watchedAway s then stall s .poll
    else retire (setCounter s (curCore s) c.toNat ((wReg s a.toNat).setWidth 32)) 4) :=
  congrArg _ (uniEnter_free _ rfl h (by simp) (by simp))

end

theorem exec_cntrRead {s : State} {d : BitVec 5} {c : BitVec 6} (h : uniFree s .user [] [d.toNat]) :
    exec (.cntrRead d c) s = .next (uniResult s d.toNat ((counter s (curCore s) c.toNat).setWidth 64)) :=
  congrArg _ (uniEnter_free _ rfl h (by simp) (by simp))

/-- Settles O35: TRIG by `armRecord`, TRIG.CANCEL by `disarmRecord`, the counters by their entries. -/
theorem triggerAndCounterResults : Obligations.trigger_and_counter_results := by
  intro s d a c w k words
  refine ⟨fun hu hb ho => ?_, fun hu hb ho hl => ?_, fun hu hb ho hl hr => ?_, ?_, fun hu hb => ?_, fun hu hno => ?_, fun hu t ht => ?_,
    fun hu hw => ?_, fun hu hw => ?_, exec_cntrRead⟩
  · rw [exec_trig hu, armRecord_misaligned hb ho]
  · rw [exec_trig hu, armRecord_outside hb ho hl]
  · rw [exec_trig hu, armRecord_malformed hb ho hl hr]
  · intro hu hb ho hl hr t hcore hsid hply hlanes haddr hseq hmode hwords ha
    have ht := eq_groupTrigger hcore hsid hply hlanes haddr hseq hmode hwords
    have hact : copyRefused s k (groupTrigger s (lsOffset w)).action = none := ht ▸ ha
    refine ⟨fun hf => ?_, fun hf hcp => ?_⟩
    · rw [exec_trig hu, armRecord_full hb ho hl hr hact hf]
    · have hslot : (freeTrigger s (curSkein s).core).getD 0 = t.slot := by rw [hf, Option.getD_some]
      rw [hslot] at ht
      rw [exec_trig hu, armRecord_arms hb ho hl hr hact hf hcp, ← ht]
  · rw [exec_trig hu, armRecord_shut hb]
  · rw [exec_trigCancel hu, disarmRecord, oldestTrigger_none hno]
  · rw [exec_trigCancel hu, disarmRecord, ht]
  · rw [exec_cntrAdd hu, exec_cntrSet hu, if_neg (Bool.eq_false_iff.1 hw), if_neg (Bool.eq_false_iff.1 hw)]
    exact ⟨rfl, rfl⟩
  · rw [exec_cntrAdd hu, exec_cntrSet hu, if_pos hw, if_pos hw]
    exact ⟨rfl, rfl⟩

end Sys2Proof.Machine
end

section
/-! The events of the copy, trigger, matrix and fabric engines (O50): an equation for each way in which one completes. -/

namespace Sys2Proof.Machine

/-! ## Chunks of a copy (05 R96, R101) -/

/-- What a copy from one source does with its next chunk, once nothing forbids it to move. -/
def chunkTurn (s : State) (c : Copy) : State :=
  let src := copySide s c c.here_.1 c.chunk false
  let dst := copySide s c c.here_.2 c.chunk true
  if sideAwaits s c c.chunk src then s
  else (chunkStops s c [(src, 3), (dst, 4)] (copyPin s c c.here_.2 c.chunk)).getD
    (moveChunk (keepSides s c [(c.here_.1, src), (c.here_.2, dst)]) c src dst)

/-- What a tree reduce does with its next chunk, once nothing forbids it to move. -/
def treeTurn (s : State) (c : Copy) : State :=
  let srcs := c.slots.map (fun a => copySide s c a c.treeChunk false)
  let dst := copySide s c (c.dst + dw c.progress) c.treeChunk true
  if srcs.any (sideAwaits s c c.treeChunk) then s
  else (chunkStops s c (srcs.map (fun x => (x, 3)) ++ [(dst, 4)]) (copyPin s c (c.dst + dw c.progress) c.treeChunk)).getD
    (moveTree (keepSides s c (c.slots.zip srcs ++ [(c.dst + dw c.progress, dst)])) c c.treeChunk srcs dst)

section
variable {s : State} {n : Nat} {c : Copy} (hi : s.copies[n]? = some c)
include hi

section
variable (hr : copyRuns s c = true)
include hr

theorem execCopyChunk_moves (hst : c.state = .running) (h0 : c.total ≠ 0) (hp : c.progress ≠ c.total)
    (hf : c.progress = 0 → copyOnField s c = none) :
    execCopyChunk n s = .next (if c.kind = .tree then treeTurn s c else chunkTurn s c) := by
  have hno : (if c.progress = 0 then copyOnField s c else none) = none := by
    split
    · exact hf ‹_›
    · rfl
  simp only [execCopyChunk, hi, hr, hst, h0, hp, hno, Bool.not_true, Bool.false_eq_true, if_false]
  rfl

theorem execCopyChunk_onField {va : Nat} (hst : c.state = .running) (h0 : c.total ≠ 0) (hp : c.progress = 0)
    (hf : copyOnField s c = some va) : execCopyChunk n s = .next (stopCopy s c .fstore (dw va)) := by
  simp only [execCopyChunk, hi, hr, hst, h0, hp, h0.symm, hf, Bool.not_true, Bool.false_eq_true, if_false, if_true]

theorem execCopyChunk_empty (hst : c.state = .running) (h0 : c.total = 0) :
    execCopyChunk n s = .next (if fieldOf c.dst.toNat 39 21 ∈ s.lostPkgs then stopCopy s c .prot c.dst else sendChunk s c c.dst []) := by
  simp only [execCopyChunk, hi, hr, hst, h0, List.contains_iff_mem, Bool.not_true, Bool.false_eq_true, if_false, if_true]

theorem execCopyChunk_acked (hst : c.state = .sent) (ha : chunkAcked s c = true) (hp : c.progress + c.chunk ≠ c.total) :
    execCopyChunk n s = .next (setCopy s { c with state := .running, progress := c.progress + c.chunk }) := by
  simp [execCopyChunk, hi, hr, hst, ha, hp]

end

theorem execCopyComplete_sent (hst : c.state = .sent) :
    execCopyComplete n s = .next (if c.progress + c.chunk = c.total ∧ chunkAcked s c = true then endCopy s c else s) := by
  simp only [execCopyComplete, hi, hst, Bool.and_eq_true, decide_eq_true_eq]

theorem execCopyComplete_running (hst : c.state = .running) (hk : c.kind ≠ .copyp) :
    execCopyComplete n s = .next (if c.progress = c.total then endCopy s c else s) := by
  cases hkind : c.kind with
  | copyp => exact absurd hkind hk
  | _ => simp only [execCopyComplete, hi, hst, hkind]

end

theorem chunkAcked_here {s : State} {c : Copy} (h : fieldOf c.dst.toNat 39 21 = s.package.toNat) : chunkAcked s c =
    (copyCuts c.here_.2 c.chunk).all (fun x => wasApplied s s.package.toNat 0 (copyTag c (c.progress + x.1))) := by
  rw [chunkAcked, h, bne_self_eq_false, Bool.false_or]

theorem execFabricRefusal_stops {s : State} {tag : Nat} {c : Copy} (h : copyOfTag s tag = some c) (cause addr : Nat) :
    execFabricRefusal tag cause addr s = .next (stopCopy s c (causeAt cause) (dw addr)) := by
  simp only [execFabricRefusal, h]

/-! ## Packets that go again (01 R28, 11 R206) -/

/-- A write of an I/O die's registers changes nothing else. -/
theorem setIo_eq (s : State) (d : Nat) (x : IoDie) : setIo s d x = { s with io0 := (setIo s d x).io0, io1 := (setIo s d x).io1 } := by
  unfold setIo
  split <;> rfl

theorem countRetry_eq (s : State) (core : Nat) :
    countRetry s core = { s with io0 := (countRetry s core).io0, io1 := (countRetry s core).io1 } := setIo_eq s _ _

/-- The packet under a copy's tag. -/
def FabricOut.isPacket (tag : Nat) : FabricOut → Bool
  | .packet _ p => p.tag == tag
  | _ => false

/-- The COLL packet to a package under a tag. -/
def FabricOut.isColl (package tag : Nat) : FabricOut → Bool
  | .coll q p => q == package && p.tag == tag
  | _ => false

/-- What was sent is longer by one once something of it goes again. -/
theorem length_append_find? {α : Type} {l : List α} {p : α → Bool} {x : α} (hx : x ∈ l) (hp : p x = true) :
    (l ++ (l.find? p).toList).length = l.length + 1 := by
  rw [List.length_append, Option.length_toList, if_pos (List.find?_isSome.2 ⟨x, hx, hp⟩)]

theorem execCopyResendOnRetry_again {s : State} {tag : Nat} {c : Copy} (h : copyOfTag s tag = some c) :
    execCopyResendOnRetry tag s =
      .next (countRetry { s with fabricOut := s.fabricOut ++ (s.fabricOut.find? (FabricOut.isPacket tag)).toList } c.core) := by
  simp only [execCopyResendOnRetry, h]
  rfl

theorem execCollRetryResend_again {s : State} {tag package : Nat} {w : CollWait}
    (h : s.collWaits.find? (fun c => c.tag == tag && c.peers.contains package) = some w) :
    execCollRetryResend tag package s =
      .next (countRetry { s with fabricOut := s.fabricOut ++ (s.fabricOut.find? (FabricOut.isColl package tag)).toList }
        (getSkein s w.sid).core) := by
  simp only [execCollRetryResend, h]
  rfl

/-- A copy's packet that is refused for a retry goes again, and the copy stands. -/
theorem execCopyResendOnRetry_sends {s : State} {tag : Nat} {c : Copy} (h : copyOfTag s tag = some c) (package : Nat) (pkt : FabPkt) :
    answers (execCopyResendOnRetry tag s) (fun t => t.copies = s.copies ∧ t.mem = s.mem ∧
      (FabricOut.packet package pkt ∈ s.fabricOut → pkt.tag = tag → t.fabricOut.length = s.fabricOut.length + 1)) := by
  refine ⟨_, execCopyResendOnRetry_again h, ?_⟩
  rw [countRetry_eq]
  exact ⟨rfl, rfl, fun hm ht => length_append_find? hm (beq_iff_eq.2 ht)⟩

/-- A COLL packet that is refused for a retry goes again, and its COLL waits on. -/
theorem execCollRetryResend_sends {s : State} {tag package : Nat} {w : CollWait} (hw : w ∈ s.collWaits) (ht : w.tag = tag)
    (hp : package ∈ w.peers) (pkt : CollPkt) : answers (execCollRetryResend tag package s) (fun t => t.collWaits = s.collWaits ∧
      (FabricOut.coll package pkt ∈ s.fabricOut → pkt.tag = tag → t.fabricOut.length = s.fabricOut.length + 1)) := by
  have hsome : (s.collWaits.find? (fun c => c.tag == tag && c.peers.contains package)).isSome = true :=
    List.find?_isSome.2 ⟨w, hw, by simpa using ⟨ht, hp⟩⟩
  obtain ⟨v, hv⟩ := Option.isSome_iff_exists.1 hsome
  refine ⟨_, execCollRetryResend_again hv, ?_⟩
  rw [countRetry_eq]
  exact ⟨rfl, fun hm htag => length_append_find? hm (by simpa [FabricOut.isColl] using htag)⟩

/-! ## The matrix engine (10 R182, R183, R188) -/

section
variable {s a : State} {sid : Nat} {k : Skein} {r : MatReq} {q : List MatReq} (ha : leadQueue s sid = a) (hk : getSkein a sid = k)
  (hq : k.queue = r :: q) (hp : k.place = .resident) (hh : (getPart a k.part).halted = false)
include ha hk hq hp hh

section
variable (hst : r.stage = .queued) (hquad : (posted a (k.core / 4)).length < 32)
  (hcore : ((posted a (k.core / 4)).filter (fun e => (getSkein a e.1).core == k.core)).length < 8)
include hst hquad hcore

theorem execMatrixRequestPost_posts (hg : r.op.byGroup = false) (hop : r.op ≠ .loop) : execMatrixRequestPost sid s =
    .next (setSkein a sid (setHead k { r with stage := .posted, age := s.cycle.toNat })) := by
  have hcycle : a.cycle = s.cycle := ha ▸ rfl
  simp [execMatrixRequestPost, ha, hk, hq, hp, hh, hst, hg, hquad, hcore, hop, hcycle]

theorem execMatrixRequestPost_fetches (hop : r.op = .loop) (hs : k.saving = none)
    (hw : k.chain.ahead = none → fetchWaits a k k.chain.done = false) : execMatrixRequestPost sid s =
    .next (setSkein a sid (Chain.fetch (setHead k { r with stage := .posted, age := s.cycle.toNat }))) := by
  have hcycle : a.cycle = s.cycle := ha ▸ rfl
  have hfetch : (k.chain.ahead.isNone && fetchWaits a k k.chain.done) = false := by
    cases hahead : k.chain.ahead with
    | none => simp [hw hahead]
    | some x => rfl
  simp [execMatrixRequestPost, ha, hk, hq, hp, hh, hst, hquad, hcore, hop, hs, hfetch, hcycle, MatOp.byGroup]

end

theorem execMatrixRequestPost_prefetches (hst : r.stage ≠ .queued) (hop : r.op = .loop) (hah : k.chain.ahead = none)
    (hn : k.chain.done + 1 < k.chain.n) (hw : fetchWaits a k (k.chain.done + 1) = false) :
    execMatrixRequestPost sid s = .next (setSkein a sid (Chain.prefetch k)) := by
  simp [execMatrixRequestPost, ha, hk, hq, hp, hh, hst, hop, hah, hn, hw]

end

theorem execMatrixPassGrant_first {s : State} {quad : Nat} {e : Nat × MatReq} {es : List (Nat × MatReq)}
    (h : sortBy (matBefore s) ((posted s quad).filter (fun e => !(getPart s (getSkein s e.1).part).halted)) = e :: es) :
    execMatrixPassGrant quad s = .next (setSkein s e.1 (setHead (getSkein s e.1) { e.2 with stage := .granted })) := by
  simp only [execMatrixPassGrant, h]

/-- A skein with its chain's current step added to the accumulator, and the request `r` at the head queued for the next step. -/
def Skein.afterStep (k : Skein) (r : MatReq) : Skein :=
  let c := k.chain
  let x := c.tiles c.done
  { setHead (matStep k c.acc x.1 x.2 c.sa c.sb (c.sca, c.scb) (c.done * cfgCols (tileCfgOf k x.1))) { r with stage := .queued } with
    chain := { c with done := c.done + 1, sca := [], scb := [] } }

/-- A skein with a request in its queue is not the one that an unlisted key reads as, so it is read as it was written. -/
theorem getSkein_setSkein_queued {k : Skein} (h : k.queue ≠ []) (s : State) (sid : Nat) : getSkein (setSkein s sid k) sid = k := by
  have hne : k ≠ Skein.reset := fun hr => h (congrArg Skein.queue hr)
  simp only [getSkein, setSkein, Tbl.set, hne, if_false, Tbl.get_put_self]

section
variable {s : State} {sid : Nat} {r : MatReq} {q : List MatReq} (hq : (getSkein s sid).queue = r :: q) (hst : r.stage = .granted)
  (hp : (getSkein s sid).place = .resident)
include hq hst hp

theorem execMloopStepRetire_step (hop : r.op = .loop) (hce : (getSkein s sid).chain.ce = false)
    (hn : (getSkein s sid).chain.done + 1 < (getSkein s sid).chain.n) :
    execMloopStepRetire sid s = .next (setSkein s sid ((getSkein s sid).afterStep r)) := by
  have hlast : decide ((getSkein s sid).chain.n ≤ (getSkein s sid).chain.done + 1) = false := decide_eq_false (Nat.not_le.2 hn)
  have hgo : (r.op != .loop || r.stage != .granted || (getSkein s sid).place != .resident) = false := by simp [hop, hst, hp]
  simp only [execMloopStepRetire, Skein.afterStep, hq, hgo, hce, hlast, Bool.false_eq_true, if_false]

/-- A step before a chain's last leaves the chain one step further. -/
theorem execMloopStepRetire_further (hop : r.op = .loop) (hce : (getSkein s sid).chain.ce = false)
    (hn : (getSkein s sid).chain.done + 1 < (getSkein s sid).chain.n) : answers (execMloopStepRetire sid s) (fun t =>
      (getSkein t sid).chain.done = (getSkein s sid).chain.done + 1 ∧ (getSkein t sid).chain.active = (getSkein s sid).chain.active) := by
  refine ⟨_, execMloopStepRetire_step hq hst hp hop hce hn, ?_⟩
  dsimp only
  rw [getSkein_setSkein_queued (List.cons_ne_nil _ _)]
  exact ⟨rfl, rfl⟩

theorem execMatrixRequestComplete_performs (hop : r.op ≠ .loop) (hb : r.op.usesBanks = true → banksShut s (getSkein s sid).core = false) :
    execMatrixRequestComplete sid s = .next (endRequest (performMat s sid r) sid r) := by
  have hbanks : (r.op.usesBanks && banksShut s (getSkein s sid).core) = false := by
    rw [Bool.and_eq_false_imp]
    exact hb
  simp only [execMatrixRequestComplete, hq, hst, hp, hbanks, beq_false_of_ne hop, bne_self_eq_false, Bool.or_self, Bool.false_eq_true,
    if_false]

end

/-! ## Puts and reads of cells (11 R197, 14 R267) -/

theorem execFabricIngressAccess_cell {s : State} {pkt : FabPkt} {slot cell p : Nat} {d : Domain} (hb : pkt.body = .fieldRead slot cell)
    (hs : partOfSpid s pkt.spid = some p) (hc : closed s (getPart s p) = false) (hd : domainAt s pkt.spid slot = some d) :
    execFabricIngressAccess pkt s = .next (reply s pkt (.fieldValue (cellRead s d cell))) := by
  simp only [execFabricIngressAccess, hb, hs, hc, hd, Option.any_some, Bool.false_eq_true, if_false]

theorem execFabricIngressAccess_closed {s : State} {pkt : FabPkt} {slot cell p : Nat} (hb : pkt.body = .fieldRead slot cell)
    (hs : partOfSpid s pkt.spid = some p) (hc : closed s (getPart s p) = true) :
    execFabricIngressAccess pkt s = .next (reply s pkt (.fieldMoved 0 Cause.prot.code)) := by
  simp only [execFabricIngressAccess, hb, hs, hc, Option.any_some, if_true]

theorem execFabricIngressAccess_put {s : State} {pkt : FabPkt} {red : BitVec 2} {bytes : List PByte} {last rce : Bool} {rcnt rcore : Nat}
    (hb : pkt.body = .put red bytes last rce rcnt rcore) :
    execFabricIngressAccess pkt s = .next (ingressPut s pkt red.toNat bytes last rce rcnt rcore) := by
  simp only [execFabricIngressAccess, hb]

/-- A put that is new here and passes its checks is performed, or held at a moving frame or before a gate. -/
theorem ingressPut_passes {s : State} {pkt : FabPkt} {red : Nat} {bytes : List PByte} {last rce : Bool} {rcnt rcore p : Nat} {x : Xl}
    {moves : Bool} (hs : partOfSpid s pkt.spid = some p) (hnew : wasApplied s pkt.src 0 pkt.tag = false)
    (hc : closed s (getPart s p) = false) (hrc : rce = true → rcore ∈ coresOf s p) (hne : bytes ≠ []) (hheld : heldOf s (.put pkt) = none)
    (hw : windowSide s p pkt.src pkt.off bytes.length true = (.inGlobal x, moves)) :
    ingressPut s pkt red bytes last rce rcnt rcore =
      let a := if moves then s else keepPort s p pkt.src pkt.off x
      (if moves then none else performPut a pkt red bytes last (if rce then some (rcore, rcnt) else none) (some x.pa)).getD
        (holdAccess a p pkt.src (.put pkt) [((getPart s p).windowVa pkt.off, x.pa, bytes.length, moves)]) := by
  have hcores : (rce && !((coresOf s p).contains rcore)) = false := by
    cases rce with
    | false => rfl
    | true => simpa using hrc rfl
  have hbytes : bytes.isEmpty = false := List.isEmpty_eq_false_iff.2 hne
  simp only [ingressPut, hs, hnew, hc, hcores, hbytes, hheld, hw, Bool.or_self, Bool.false_eq_true, if_false]

/-! ## Accesses that are held (01 R28) -/

section
variable {s : State} {n : Nat} {h : Held} (hi : s.heldPkts[n]? = some h)
include hi

theorem execMovingHoldTimeout_ready (hr : h.ready s = true) : execMovingHoldTimeout n s = .next s := by
  simp only [execMovingHoldTimeout, hi, hr, if_true]

variable (hr : h.ready s = false)
include hr

theorem execMovingHoldTimeout_put {pkt : FabPkt} (hb : h.body = .put pkt) :
    execMovingHoldTimeout n s = .next (answer s pkt false retryStatus (fabricAddr s pkt.off)) := by
  simp only [execMovingHoldTimeout, hi, hr, hb, Bool.false_eq_true, if_false]

theorem execMovingHoldTimeout_coll {pkt : CollPkt} (hb : h.body = .coll pkt) :
    execMovingHoldTimeout n s = .next (collAnswer s pkt .retry) := by
  simp only [execMovingHoldTimeout, hi, hr, hb, Bool.false_eq_true, if_false]

end

theorem execMovingHoldTimeout_copy {s : State} {n : Nat} {c : Copy} (hn : s.heldPkts.length ≤ n)
    (hc : s.copies[n - s.heldPkts.length]? = some c) : execMovingHoldTimeout n s =
      .next (if c.writesMoving s = true then countRetry (setCopy s { c with pin := none }) c.core else s) := by
  simp only [execMovingHoldTimeout, List.getElem?_eq_none hn, hc]

/-! ## COLL packets and their answers (11 R206, R210) -/

theorem execCollPacketIngress_stranger {s : State} {pkt : CollPkt} (h : partOfSpid s pkt.spid = none) :
    execCollPacketIngress pkt s = .next (collAnswer s pkt (.refused Cause.prot.code 0)) := by
  simp only [execCollPacketIngress, h]

theorem execCollPacketIngress_current {s : State} {pkt : CollPkt} {p : Nat} {e : Nat × CollEntry} (hs : partOfSpid s pkt.spid = some p)
    (hnew : wasApplied s pkt.src 2 pkt.tag = false) (hc : closed s (getPart s p) = false) (hheld : heldOf s (.coll pkt) = none)
    (he : s.colls.find? (fun x => x.1 == collKey p pkt.id) = some e) (hat : e.2.attempt = BitVec.ofNat 16 pkt.attempt) :
    execCollPacketIngress pkt s = .next (ingressColl s pkt p e.2) := by
  have hlate : (e.2.attempt - BitVec.ofNat 16 pkt.attempt).toNat = 0 := by rw [hat, BitVec.sub_self, BitVec.toNat_zero]
  simp only [execCollPacketIngress, hs, hnew, hc, hheld, he, hlate, Bool.false_eq_true, if_false, if_true]

/-- The last answer ends a COLL. -/
theorem execCollPacketAck_last {s : State} {tag package : Nat} {w : CollWait}
    (h : s.collWaits.find? (fun x => x.tag == tag && x.peers.contains package) = some w) (hp : w.peers = [package]) :
    execCollPacketAck tag package .performed s =
      .next (lowerCp { s with collWaits := s.collWaits.filter (fun x => x.tag != tag) } w.sid w.ply w.lanes) := by
  have hnone : (w.peers.filter (fun q => q != package)).isEmpty = true := by simp [hp]
  simp only [execCollPacketAck, h, reduceCtorEq, if_false, answerFault, hnone, if_true]

/-- Settles O50: each event by the equations above. -/
theorem engineEventResults : Obligations.engine_event_results := by
  intro s n sid core quad tag package c r q pkt cp w a k
  refine ⟨fun hi hr hst h0 hp hf => ⟨fun hk haw => ?_, fun hk haw => ?_⟩,
    fun hi hr hst h0 hp va hf => execCopyChunk_onField hi hr hst h0 hp hf,
    fun hi hr hst _ h0 => execCopyChunk_empty hi hr hst h0,
    fun hi hst hack => ?_,
    fun hi hst hack => ⟨fun hp hr => execCopyChunk_acked hi hr hst hack hp, fun hp => ?_⟩,
    fun hi hst hk => ⟨fun hp => ?_, fun hp => ?_⟩,
    fun cause addr hc => execFabricRefusal_stops hc cause addr,
    fun hc => execCopyResendOnRetry_sends hc package pkt,
    chunkAcked_here, rfl,
    fun hq hp hh => ⟨fun hst hg hquad hcore => ⟨fun hop => ?_, fun hop hs hw => ?_⟩, fun hst hop hah hn hw => ?_⟩,
    fun e es => execMatrixPassGrant_first,
    fun hq hop hst hp hce hn => execMloopStepRetire_further hq hst hp hop hce hn,
    fun hq hop hst hp hb => execMatrixRequestComplete_performs hq hst hp hop hb,
    fun slot cell p hb hs => ⟨fun d hc hd => execFabricIngressAccess_cell hb hs hc hd, fun hc => execFabricIngressAccess_closed hb hs hc⟩,
    fun red bytes last rce rcnt rcore hb => ⟨execFabricIngressAccess_put hb, fun p x moves hs hnew hc hrc hne hheld hw => ?_⟩,
    fun held hi hr => execMovingHoldTimeout_ready hi hr,
    fun held hi hr => ⟨fun hb => execMovingHoldTimeout_put hi hr hb, fun hb => execMovingHoldTimeout_coll hi hr hb⟩,
    fun hn hc => execMovingHoldTimeout_copy hn hc,
    fun hs => execCollPacketIngress_stranger hs,
    fun p e hs hnew hc hheld he hat => execCollPacketIngress_current hs hnew hc hheld he hat,
    fun hw hp => execCollPacketAck_last hw hp,
    fun x hx ht hp => execCollRetryResend_sends hx ht hp cp⟩
  · refine (execCopyChunk_moves hi hr hst h0 hp hf).trans (congrArg _ ?_)
    rw [if_neg hk, chunkTurn, if_neg (Bool.eq_false_iff.1 haw)]
  · refine (execCopyChunk_moves hi hr hst h0 hp hf).trans (congrArg _ ?_)
    rw [if_pos hk, treeTurn, if_neg (Bool.eq_false_iff.1 (List.any_eq_false.2 fun x hx => Bool.eq_false_iff.1 (haw x hx)))]
  · exact (execCopyComplete_sent hi hst).trans (congrArg _ (if_neg fun h => Bool.eq_false_iff.1 hack h.2))
  · exact (execCopyComplete_sent hi hst).trans (congrArg _ (if_pos ⟨hp, hack⟩))
  · exact (execCopyComplete_running hi hst hk).trans (congrArg _ (if_pos hp))
  · exact (execCopyComplete_running hi hst hk).trans (congrArg _ (if_neg hp))
  · exact execMatrixRequestPost_posts rfl rfl hq hp hh hst hquad hcore hg hop
  · exact execMatrixRequestPost_fetches rfl rfl hq hp hh hst hquad hcore hop hs hw
  · exact execMatrixRequestPost_prefetches rfl rfl hq hp hh hst hop hah hn hw
  · exact (execFabricIngressAccess_put hb).trans (congrArg _ (ingressPut_passes hs hnew hc hrc hne hheld hw))

end Sys2Proof.Machine
end

section
/-! Extension words, the register allocation and the special registers (O17, O26, O27): what each word does once its checks pass. -/

namespace Sys2Proof.Machine

/-! ## Extension words (08 R140 to R144) -/

/-- Results added one after another: each part is that of all of them, in order. -/
theorem foldl_laneOut {α : Type} (f : α → LaneOut) (l : List α) (o : LaneOut) :
    l.foldl (fun o e => { regs := o.regs ++ (f e).regs, preds := o.preds ++ (f e).preds, flags := o.flags ||| (f e).flags }) o =
      { regs := o.regs ++ (l.map f).flatMap (fun q => q.regs), preds := o.preds ++ (l.map f).flatMap (fun q => q.preds),
        flags := (l.map f).foldl (fun x q => x ||| q.flags) o.flags } := by
  induction l generalizing o with
  | nil => simp
  | cons e l ih => simp [ih]

/-- What a lane writes over a block: the results of its elements, in order (08 R143). -/
theorem blockOut_eq (x : Ext) (op : Alu) (d a b c : Nat) (v : Nat → Word) (p : Nat → Bool) :
    blockOut x op d a b c v p =
      let out := x.offsets.map (fun e => op x.sat x.rnd (d + e) (a + e) (b + e) (c + e) v p)
      { regs := out.flatMap (fun o => o.regs), preds := out.flatMap (fun o => o.preds), flags := out.foldl (fun f o => f ||| o.flags) 0 } :=
  foldl_laneOut _ _ _

/-- An XW and its follower that meet their checks: every active lane computes its block, and the group goes on behind both words. -/
theorem exec_xw {s : State} {r c : BitVec 3} {sx : BitVec 1} {m : BitVec 3} {u : BitVec 6} {p : BitVec 2} {w : Word}
    (hw : (Instr.xw r c sx m u p w).wf = true) :
    let g : Guard := ⟨w.extractLsb' 21 3, w.extractLsb' 20 1⟩
    let x := xwExt r c sx m u p w
    let sh := (xwOp w).1
    let d := (w.extractLsb' 14 6).toNat
    let a := (w.extractLsb' 8 6).toNat
    let b := (w.extractLsb' 2 6).toNat
    let src := [blockRegs x a sh.a, blockRegs x b sh.b, blockRegs x (x.s3.getD d) sh.c]
    laneFree s g .user [blockRegs x d sh.d] src → blocksUnsplit s (blockRegs x d sh.d :: src) →
    exec (.xw r c sx m u p w) s = .next (laneResult s g 8 (fun t j =>
      blockOut x (xwOp w).2 d a b (x.s3.getD d) (fun r => t.v r j) (fun q => t.pred j q))) :=
  fun hl hu => congrArg Host.Outcome.next
    (alu_free hw hl (fun _ => hu) (.inr (by simp)) (.inr (by simp)) (.inr (by simp)) (.inr (by simp)))

/-- Settles O17: an XW runs its follower's operation over the block, and a block's results are those of its elements. -/
theorem extensionWordResults : Obligations.extension_word_results := by
  intro s r c sx m u p w x op reg els hw hl hu
  refine (exec_xw hw hl hu).trans (congrArg _ ?_)
  simp only [blockOut_eq]
  rfl

/-! ## RGROW and RGTRY (07 R124, 21 R370) -/

/-- What `n` more registers per lane add to a skein's use. -/
theorem regUse_add (k : Skein) (m n : Nat) : regUse k (m + n) - regUse k m = k.plies * k.strands * 4 * n := by
  rw [regUse, regUse, ← Nat.mul_sub]
  congr 1
  omega

theorem growBad_iff (k : Skein) (n : Nat) : growBad k n = true ↔
    (n = 0 ∨ n % 8 ≠ 0 ∨ 1024 < k.nreg + n ∨ 131072 < k.plies * k.strands * 4 * (k.nreg + n + 16)) := by
  simp only [growBad, Bool.or_eq_true, beq_iff_eq, bne_iff_ne, decide_eq_true_eq, or_assoc]
  rfl

theorem growFits_iff (s : State) (k : Skein) (n : Nat) : growFits s k n = true ↔
    poolUsed s k.core + k.plies * k.strands * 4 * n ≤ 131072 := by
  rw [growFits, regUse_add, decide_eq_true_iff, poolSize]

/-- The registers that a uniform word writes may be checked apart from those it reads. -/
theorem uniFree_join {s : State} {need : Mode} {reads writes : List Nat} (hr : uniFree s need reads []) (hw : uniFree s need [] writes) :
    uniFree s need reads writes := by
  obtain ⟨hm, hbad, -, hra⟩ := hr
  obtain ⟨-, -, hmay, hwa⟩ := hw
  exact ⟨hm, hbad, hmay, fun w h => (List.mem_append.1 h).elim (fun h => hra w (List.mem_append_left _ h)) (hwa w)⟩

theorem exec_rgrow {s : State} {a : BitVec 5} (h : uniFree s .user [a.toNat] []) :
    exec (.rgrow a) s = .next (if growBad (curSkein s) (wReg s a.toNat).toNat then trapAll s .regwin (instrWord (.rgrow a))
      else if growFits s (curSkein s) (wReg s a.toNat).toNat then retire (growBy s s.cur.sid (wReg s a.toNat).toNat) 4
      else stall s (.grow (wReg s a.toNat).toNat)) :=
  congrArg _ (uniEnter_free _ rfl h (by simp) (by simp))

theorem exec_rgtry {s : State} {d a : BitVec 5} (h : uniFree s .user [a.toNat] [d.toNat]) :
    exec (.rgtry d a) s = .next (if growBad (curSkein s) (wReg s a.toNat).toNat then trapAll s .regwin (instrWord (.rgtry d a))
      else if growFits s (curSkein s) (wReg s a.toNat).toNat then uniResult (growBy s s.cur.sid (wReg s a.toNat).toNat) d.toNat 0
      else uniResult s d.toNat 1) :=
  congrArg _ (uniEnter_free _ rfl h (by simp) (by simp))

/-! ## RSHRK and VWBS (07 R123, R124, 21 R371) -/

/-- The strands of a skein, by ply and number. -/
theorem any_skeinAll {k : Skein} {f : Nat × Nat → Bool} :
    (skeinAll k).any f = true ↔ ∃ p < k.plies, ∃ m < k.strands, f (p, m) = true := by
  simp [skeinAll, List.any_flatMap, List.any_map]

section
variable {s : State} {a : BitVec 5} (h : uniFree s .user [a.toNat] [])
include h

/-- RSHRK of a number that is not allowed, or of registers that a strand's window reaches. -/
theorem exec_rshrk_refused (hbad : let n := (wReg s a.toNat).toNat
      n = 0 ∨ n % 8 ≠ 0 ∨ (curSkein s).nreg < n + 8 ∨ ∃ p < (curSkein s).plies, ∃ m < (curSkein s).strands,
        (curSkein s).nreg - n ≤ (getStrand s (strandKey s.cur.sid p m)).vwb) :
    exec (.rshrk a) s = .next (trapAll s .regwin (instrWord (.rshrk a))) := by
  refine congrArg Host.Outcome.next ((uniEnter_free _ rfl h (by simp) (by simp)).trans (if_pos ?_))
  simpa only [any_skeinAll, decide_eq_true_eq] using hbad

/-- RSHRK of registers that no strand's window reaches and no reply has still to write. -/
theorem exec_rshrk_removes (h0 : (wReg s a.toNat).toNat ≠ 0) (h8 : (wReg s a.toNat).toNat % 8 = 0)
    (hle : (wReg s a.toNat).toNat + 8 ≤ (curSkein s).nreg)
    (hfree : ∀ p < (curSkein s).plies, ∀ m < (curSkein s).strands, let t := getStrand s (strandKey s.cur.sid p m)
      t.vwb < (curSkein s).nreg - (wReg s a.toNat).toNat ∧
        ∀ r ∈ t.replies, r.sup = true ∨ r.reg + r.count ≤ (curSkein s).nreg - (wReg s a.toNat).toNat) :
    let left := (curSkein s).nreg - (wReg s a.toNat).toNat
    exec (.rshrk a) s = .next (retire (setSkein ((skeinAll (curSkein s)).foldl (fun b e =>
      setStrand b (strandKey s.cur.sid e.1 e.2) ((getStrand b (strandKey s.cur.sid e.1 e.2)).shrink left)) s) s.cur.sid
        { curSkein s with nreg := left }) 4) := by
  refine congrArg Host.Outcome.next ((uniEnter_free _ rfl h (by simp) (by simp)).trans ((if_neg ?_).trans (if_neg ?_)))
  · rw [any_skeinAll]
    rintro (hn | hn | hn | ⟨p, hp, m, hm, hv⟩)
    · exact h0 hn
    · exact hn h8
    · omega
    · exact absurd (of_decide_eq_true hv) (Nat.not_le.2 (hfree p hp m hm).1)
  · rw [any_skeinAll]
    rintro ⟨p, hp, m, hm, hr⟩
    obtain ⟨r, hr, hlate⟩ := List.any_eq_true.1 hr
    obtain ⟨hsup, hlt⟩ := Bool.and_eq_true_iff.1 hlate
    rcases (hfree p hp m hm).2 r hr with hs | hs
    · simp [hs] at hsup
    · exact absurd (of_decide_eq_true hlt) (Nat.not_lt.2 hs)

theorem exec_vwbs : exec (.vwbs a) s = .next (
    if (wReg s a.toNat).toNat % 8 ≠ 0 ∨ (curSkein s).nreg ≤ (wReg s a.toNat).toNat then trapAll s .regwin (instrWord (.vwbs a))
    else groupResult s (fun t => { t with vwb := (wReg s a.toNat).toNat })) :=
  congrArg _ (uniEnter_free _ rfl h (by simp) (by simp))

end

/-- Settles O26: each word by its equation; what is refused and what fits is as `growBad_iff` and `growFits_iff` say. -/
theorem registerWindowResults : Obligations.register_window_results := by
  intro s d a h k n bad fits more
  have hbad : growBad k n = true ↔ bad := growBad_iff k n
  have hfits : growFits s k n = true ↔ fits := growFits_iff s k n
  refine ⟨fun hb hf => ?_, fun hb hf => ?_, fun hb => ?_, fun hd hb => ?_, fun hd hb => ?_,
    fun h0 h8 hle hfree => exec_rshrk_removes h h0 h8 hle hfree, fun hb => exec_rshrk_refused h hb, fun h8 hlt => ?_, fun hb => ?_⟩
  · exact (exec_rgrow h).trans (congrArg _ ((if_neg (hb ∘ hbad.1)).trans (if_pos (hfits.2 hf))))
  · exact (exec_rgrow h).trans (congrArg _ ((if_neg (hb ∘ hbad.1)).trans (if_neg (hf ∘ hfits.1))))
  · exact (exec_rgrow h).trans (congrArg _ (if_pos (hbad.2 hb)))
  · refine (exec_rgtry (uniFree_join h hd)).trans (congrArg _ ((if_neg (hb ∘ hbad.1)).trans ?_))
    simp only [← hfits]
    rfl
  · exact (exec_rgtry (uniFree_join h hd)).trans (congrArg _ (if_pos (hbad.2 hb)))
  · exact (exec_vwbs h).trans (congrArg _ (if_neg fun hn => hn.elim (· h8) (Nat.not_le.2 hlt)))
  · exact (exec_vwbs h).trans (congrArg _ (if_pos hb))

/-! ## SRDU and SWR (07 R129, R130; 21 R368, R369) -/

theorem exec_srdu {s : State} {d : BitVec 5} {i : BitVec 14} (hl : srListed i.toNat = true) (h : uniFree s (srMode i.toNat) [] [d.toNat]) :
    let l := if i = 0 ∨ i = 0x101 then srLane s else ((grp s).headD 0, 0)
    exec (.srdu d i) s = .next (if srWaits s i.toNat [l.1] then stall s .poll else uniResult s d.toNat (srRead s i.toNat l.1 l.2)) :=
  congrArg _ (uniEnter_free (i := .srdu d i) _ hl h (by simp) (by simp))

/-- An access of a special register other than FSTAT never waits. -/
theorem srWaits_other {s : State} {i : Nat} {ns : List Nat} (hi : i ≠ 0x018) : srWaits s i ns = false := by
  simp [srWaits, hi]

/-- An access of FSTAT does not wait for strands with no earlier AQNT left. -/
theorem srWaits_free {s : State} {i : Nat} {ns : List Nat} (h : ∀ n ∈ ns, requantizing s n = false) : srWaits s i ns = false := by
  rw [srWaits, List.any_eq_false.2 fun n hn => by simp [h n hn], Bool.and_false]

/-- SWR that meets its checks, of a register other than ENERGYQ. -/
theorem exec_swr {s : State} {a : BitVec 5} {i : BitVec 14} (hw : (Instr.swr a i).wf = true) (h : uniFree s (srMode i.toNat) [a.toNat] [])
    (he : i ≠ 0x205) (hs : srWaits s i.toNat (grp s) = false) :
    exec (.swr a i) s = .next (groupResult s (fun t => t.swr i.toNat (wReg s a.toNat))) := by
  refine congrArg Host.Outcome.next ((uniEnter_free _ hw h (by simp) (by simp)).trans ?_)
  rw [if_neg fun hi => he hi.1, hs]
  rfl

/-- The bits of a word from `n` up are zero where its value is below `2 ^ n`. -/
theorem ushiftRight_eq_zero_iff (w : DWord) (n : Nat) : w >>> n = 0 ↔ w.toNat < 2 ^ n := by
  rw [← BitVec.toNat_inj, BitVec.toNat_ushiftRight, Nat.shiftRight_eq_div_pow]
  simp

/-- SWR of ENERGYQ: a value above 255 traps ILLEGAL. -/
theorem exec_swr_energyq {s : State} {a : BitVec 5} (h : uniFree s .hypervisor [a.toNat] []) :
    exec (.swr a 0x205) s = .next (if (wReg s a.toNat).toNat < 256 then
      groupResult s (fun t => { t with energySel := (wReg s a.toNat).setWidth 8 }) else trapAll s .illegal (instrWord (.swr a 0x205))) := by
  refine congrArg Host.Outcome.next ((uniEnter_free _ rfl h (by simp) (by simp)).trans ?_)
  have hz : wReg s a.toNat >>> 8 = 0 ↔ (wReg s a.toNat).toNat < 256 := ushiftRight_eq_zero_iff _ 8
  by_cases hlt : (wReg s a.toNat).toNat < 256
  · rw [if_pos hlt, if_neg fun hn => hn.2 (hz.2 hlt), srWaits_other (by decide)]
    rfl
  · rw [if_neg hlt, if_pos ⟨rfl, fun h0 => hlt (hz.1 h0)⟩]

/-- SWR of LSMODE: the reserved bits are checked before the change to MODE 0. -/
theorem exec_swrLsmode {s : State} {a : BitVec 5} (h : uniFree s .supervisor [a.toNat] []) :
    exec (.swrLsmode a) s = .next (if 4 ≤ (wReg s a.toNat).toNat then trapAll s .illegal (instrWord (.swrLsmode a))
      else if (wReg s a.toNat).getLsbD 0 = false ∧ slottedOn s (curCore s) = true then trapAll s .prot 0
      else retire (setCore s (curCore s) { getCore s (curCore s) with pend := some ((wReg s a.toNat).getLsbD 0) }) 4) := by
  refine congrArg Host.Outcome.next ((uniEnter_free _ rfl h (by simp) (by simp)).trans ?_)
  have hz : wReg s a.toNat >>> 2 ≠ 0 ↔ 4 ≤ (wReg s a.toNat).toNat := (not_congr (ushiftRight_eq_zero_iff _ 2)).trans Nat.not_lt
  simp only [hz, Bool.and_eq_true, Bool.not_eq_true']

theorem exec_swrPcap {s : State} {a : BitVec 5} (h : uniFree s .hypervisor [a.toNat] []) :
    exec (.swrPcap a) s = .next (retire (setPart s (curSkein s).part { getPart s (curSkein s).part with
      pcapNext := capOf s (curSkein s).part (wReg s a.toNat).toNat }) 4) :=
  congrArg _ (uniEnter_free _ rfl h (by simp) (by simp))

/-! ## The registers that SWR writes, one by one (21 R369) -/

/-- A change of the trap-state set that EDEPTH names (21 R369). -/
theorem setTrapSet_trapSet (t : Strand) (f : TrapSet → TrapSet) :
    t.setTrapSet (f t.trapSet) = if t.edepth = 2 then { t with set2 := f t.set2 } else { t with set1 := f t.set1 } := by
  unfold Strand.setTrapSet Strand.trapSet
  split <;> rfl

theorem swr_epc (t : Strand) (w : DWord) : t.swr 0x100 w = if t.edepth = 0 then t
    else if t.edepth = 2 then { t with set2 := { t.set2 with epc := w &&& ~~~ 3 } } else { t with set1 := { t.set1 with epc := w &&& ~~~ 3 } } :=
  congrArg (ite (t.edepth = 0) t) (setTrapSet_trapSet t fun x => { x with epc := w &&& ~~~ 3 })

theorem swr_emask (t : Strand) (w : DWord) : t.swr 0x102 w = if t.edepth = 0 then t
    else if t.edepth = 2 then { t with set2 := { t.set2 with emask := w.setWidth 4 } } else { t with set1 := { t.set1 with emask := w.setWidth 4 } } :=
  congrArg (ite (t.edepth = 0) t) (setTrapSet_trapSet t fun x => { x with emask := w.setWidth 4 })

theorem swr_escr (t : Strand) {k : Nat} (w : DWord) (hlo : 0x106 ≤ k) (hhi : k ≤ 0x10D) :
    t.swr k w = { t with escr := Tbl.set 0 t.escr (k - 0x106) w } := by
  unfold Strand.swr
  split
  case h_8 => rfl
  all_goals omega

/-- ESCR0 to ESCR7 are writable in S mode, by SWR itself. -/
theorem escr_access {k : Nat} (hlo : 0x106 ≤ k) (hhi : k ≤ 0x10D) :
    (srWritable k && k != 0x110 && k != 0x203) = true ∧ srMode k = .supervisor := by
  have each : ∀ j < 8, (srWritable (0x106 + j) && 0x106 + j != 0x110 && 0x106 + j != 0x203) = true ∧ srMode (0x106 + j) = .supervisor := by
    decide
  obtain ⟨j, rfl⟩ := Nat.exists_eq_add_of_le hlo
  exact each j (by omega)

/-- SWR of ESCR0 to ESCR7. -/
theorem exec_swr_escr {s : State} {a : BitVec 5} {i : BitVec 14} (h : uniFree s .supervisor [a.toNat] []) (hlo : 0x106 ≤ i.toNat)
    (hhi : i.toNat ≤ 0x10D) :
    exec (.swr a i) s = .next (groupResult s (fun t => { t with escr := Tbl.set 0 t.escr (i.toNat - 0x106) (wReg s a.toNat) })) := by
  obtain ⟨hwf, hmode⟩ := escr_access hlo hhi
  rw [exec_swr hwf (hmode ▸ h) (by rintro rfl; simp at hhi) (srWaits_other (by omega))]
  simp only [swr_escr _ _ hlo hhi]

/-- A writable register from 100h on lies beyond the reach of U mode (07 R129). -/
theorem user_not_reaches_srMode {i : Nat} (hlo : 0x100 ≤ i) (hw : srWritable i = true) : Mode.user.reaches (srMode i) = false := by
  have hlisted : srListed i = true := by
    simp [srWritable, srListed] at hw ⊢
    omega
  rw [srMode, hlisted, if_neg (by simp)]
  split <;> rfl

/-- Settles O27: each word by its equation; a strand in U mode fails the first check. -/
theorem specialRegisterResults : Obligations.special_register_results := by
  rintro s d a i w rfl
  refine ⟨fun hl h hq => ?_, fun h hq => ?_, fun h => ⟨?_, ?_, ?_, fun hlo hhi => exec_swr_escr h hlo hhi, fun hlt hgo => ?_, fun hge => ?_,
    fun hlt hb hs => ?_⟩, fun h => ⟨?_, ?_, fun hlt => ?_, fun hge => ?_, exec_swrPcap h⟩, fun hlo hw _ _ ⟨n, hn, hm⟩ => ?_⟩
  · have hready : srWaits s i.toNat [(if i = 0 ∨ i = 0x101 then srLane s else ((grp s).headD 0, 0)).1] = false := by
      by_cases hi : i = 0x018
      · exact srWaits_free (by simpa [hi] using hq hi)
      · exact srWaits_other fun hn => hi (BitVec.eq_of_toNat_eq hn)
    exact (exec_srdu hl h).trans (congrArg _ (if_neg (Bool.eq_false_iff.1 hready)))
  · exact exec_swr rfl h (by decide) (srWaits_free hq)
  · refine (exec_swr rfl h (by decide) (srWaits_other (by decide))).trans ?_
    simp only [← swr_epc]
    rfl
  · refine (exec_swr rfl h (by decide) (srWaits_other (by decide))).trans ?_
    simp only [← swr_emask]
    rfl
  · exact exec_swr rfl h (by decide) (srWaits_other (by decide))
  · rw [exec_swrLsmode h, if_neg (Nat.not_le.2 hlt), if_neg fun hs => ?_]
    rcases hgo with h0 | h0
    · exact absurd (hs.1.symm.trans h0) (by decide)
    · exact absurd (hs.2.symm.trans h0) (by decide)
  · rw [exec_swrLsmode h, if_pos hge]
  · rw [exec_swrLsmode h, if_neg (Nat.not_le.2 hlt), if_pos ⟨hb, hs⟩]
  · exact exec_swr rfl h (by decide) (srWaits_other (by decide))
  · exact exec_swr rfl h (by decide) (srWaits_other (by decide))
  · rw [exec_swr_energyq h, if_pos hlt]
  · rw [exec_swr_energyq h, if_neg (Nat.not_lt.2 hge)]
  · exact congrArg _ (uniEnter_priv _ hn (by rw [hm]; exact user_not_reaches_srMode hlo hw))

end Sys2Proof.Machine
end

section
/-! The round trip of the encoding (O58, and words written out from the spec, O57): every word is the join of its fields, so the
encoder gives back the word that a row reads. -/

namespace Sys2Proof

/-! ## Fields of a word -/

/-- The field of a word that starts at a bit and is as wide as `x` holds `x`. -/
def HasField (w : Word) (start : Nat) {n : Nat} (x : BitVec n) : Prop := w.extractLsb' start n = x

@[simp] theorem hasField_self {w : Word} {start n : Nat} : HasField w start (w.extractLsb' start n) := rfl

theorem hasField_fixed {w : Word} {start n k : Nat} : HasField w start (BitVec.ofNat n k) ↔ w.extractLsb' start n = BitVec.ofNat n k :=
  Iff.rfl

/-- A field holds two values side by side just when its two parts hold them. The width of the whole is not matched, since a word's
width is written as a number. -/
theorem hasField_append {w : Word} {start m n : Nat} {x : BitVec m} {y : BitVec n} :
    HasField w start (n := no_index (m + n)) (x ++ y) ↔ HasField w (start + n) x ∧ HasField w start y := by
  unfold HasField
  rw [← fields_join (w := w) (start := start) (len := n) rfl]
  refine ⟨fun h => ⟨?_, ?_⟩, fun ⟨hx, hy⟩ => by rw [hx, hy]⟩
  · simpa only [BitVec.extractLsb'_append_eq_left] using congrArg (BitVec.extractLsb' n m) h
  · simpa only [BitVec.extractLsb'_append_eq_right] using congrArg (BitVec.extractLsb' 0 n) h

/-- A word is its one field of all bits. -/
theorem singleton_eq_iff {w x : Word} : [x] = [w] ↔ HasField w 0 x := by
  simp [HasField, eq_comm]

/-! ## What a row reads is written back -/

/-- The instruction that a row reads from a word, if it reads one, has that word as its encoding. -/
def WritesBack (w : Word) (r : Option Instr) : Prop := ∀ i, r = some i → encode i = [w]

theorem writesBack_none {w : Word} : WritesBack w none := fun _ h => nomatch h

/-- A row all of whose bits are opcode and operands. -/
theorem writesBack_some {w : Word} {i : Instr} : WritesBack w (some i) ↔ encode i = [w] := by
  simp [WritesBack]

/-- A row that reads a word only if its fixed fields hold their values. -/
theorem writesBack_ite {w : Word} {c : Prop} [Decidable c] {i : Instr} :
    WritesBack w (if c then some i else none) ↔ (c → encode i = [w]) := by
  simp [WritesBack]

/-- Rows that share an opcode byte: the first one that reads the word. -/
theorem writesBack_orElse {w : Word} {r q : Option Instr} (hr : WritesBack w r) (hq : WritesBack w q) :
    WritesBack w (r.orElse fun _ => q) := by
  rcases r with _ | x
  · exact hq
  · exact hr

/-- A choice between two groups of rows. -/
theorem writesBack_choice {w : Word} {c : Prop} [Decidable c] {r q : Option Instr} (hr : WritesBack w r) (hq : WritesBack w q) :
    WritesBack w (if c then r else q) := by
  split
  · exact hr
  · exact hq

/-! ## The rows, by the upper half of their opcode byte

Each row is checked in two moves: its encoding is taken apart into fields, and each field is the one that the row has read, the opcode
byte, or a fixed field whose value the row has tested. -/

section
variable {w : Word} {op : Nat}

theorem writesBack_ops00 (ho : opByte w = op) : WritesBack w (decodeOps00 op w) := by
  unfold decodeOps00
  split
  case h_17 => exact writesBack_none
  all_goals
    simp only [rowIadd, rowIaddi, rowIsub, rowIadds, rowImul, rowImulhs, rowImulhu, rowImad, rowImins, rowIminu, rowImaxs,
      rowImaxu, rowAnd, rowOr, rowXor, rowAndn, writesBack_some, encode, singleton_eq_iff, hasField_append]
    simp [hasField_fixed, ← opByte_bits ho]

theorem writesBack_ops10 (ho : opByte w = op) : WritesBack w (decodeOps10 op w) := by
  unfold decodeOps10
  split
  case h_17 => exact writesBack_none
  all_goals
    simp only [rowAndi, rowOri, rowXori, rowShl, rowShr, rowSar, rowShli, rowShri, rowSari, rowBfx, rowBfi, rowPopc, rowClz,
      rowBrev, rowIcmps, rowIcmpu, writesBack_some, writesBack_ite, encode, singleton_eq_iff, hasField_append]
    simp +contextual [hasField_fixed, ← opByte_bits ho]

theorem writesBack_ops20 (ho : opByte w = op) : WritesBack w (decodeOps20 op w) := by
  unfold decodeOps20
  split
  case h_17 => exact writesBack_none
  all_goals repeat' apply writesBack_orElse
  all_goals
    simp only [rowIcmpsi, rowSel, rowMov, rowMovi, rowMovhi, rowSrd, rowPlog, rowPmovPack, rowPmovUnpack, rowFaddF32,
      rowFmulF32, rowFfmaF32, rowFminF32, rowFmaxF32, rowFcmpF32, rowFrcpF32, rowFrsqF32, writesBack_some, writesBack_ite, encode,
      singleton_eq_iff, hasField_append]
    simp +contextual [hasField_fixed, ← opByte_bits ho]

theorem writesBack_ops30 (ho : opByte w = op) : WritesBack w (decodeOps30 op w) := by
  unfold decodeOps30
  split
  case h_17 => exact writesBack_none
  all_goals
    simp only [rowFex2F32, rowFlg2F32, rowFaddBf16x2, rowFmulBf16x2, rowFfmaBf16x2, rowFaddF16x2, rowFmulF16x2, rowFfmaF16x2,
      rowFaddF64, rowFmulF64, rowFfmaF64, rowTsumF32, rowCvt, rowF2fx, rowFx2f, rowIdp4s, writesBack_some, writesBack_ite, encode,
      singleton_eq_iff, hasField_append]
    simp +contextual [hasField_fixed, ← opByte_bits ho]

theorem writesBack_ops40 (ho : opByte w = op) : WritesBack w (decodeOps40 op w) := by
  unfold decodeOps40
  split
  case h_17 => exact writesBack_none
  all_goals
    simp only [rowIdp4u, rowTdec, rowTenc, rowTblo, rowTbhi, rowBsel, rowShfl, rowShfli, rowVote, rowLred, rowLscan, rowLprev,
      rowRdi, rowWri, rowLdl, rowLdlfe, writesBack_some, writesBack_ite, encode, singleton_eq_iff, hasField_append]
    simp +contextual [hasField_fixed, ← opByte_bits ho]

theorem writesBack_ops50 (ho : opByte w = op) : WritesBack w (decodeOps50 op w) := by
  unfold decodeOps50
  split
  case h_15 => exact writesBack_none
  all_goals
    simp only [rowStl, rowStlfe, rowAtoml, rowLdg, rowLdgc, rowStg, rowAtomga, rowAtomgb, rowAtomg64, rowRedg, rowXfer, rowFld,
      rowColl, rowSysc, writesBack_some, writesBack_ite, encode, singleton_eq_iff, hasField_append]
    simp +contextual [hasField_fixed, ← opByte_bits ho]

theorem writesBack_ops80 (ho : opByte w = op) : WritesBack w (decodeOps80 op w) := by
  unfold decodeOps80
  split
  case h_17 => exact writesBack_none
  all_goals
    simp only [rowNop, rowUadd, rowUaddi, rowUsub, rowUmul, rowUand, rowUor, rowUxor, rowUshl, rowUshr, rowUsar, rowUmin,
      rowUmax, rowUmovi, rowUmovhi, rowUmov, writesBack_some, writesBack_ite, encode, singleton_eq_iff, hasField_append]
    simp +contextual [hasField_fixed, ← opByte_bits ho]

theorem writesBack_ops90 (ho : opByte w = op) : WritesBack w (decodeOps90 op w) := by
  unfold decodeOps90
  split
  case h_17 => exact writesBack_none
  all_goals
    simp only [rowBr, rowBrs, rowJoin, rowBrt, rowCall, rowRet, rowCallt, rowUbr, rowTwist, rowExit, rowWait, rowYield, rowBar,
      rowBara, rowBarw, rowSbar, writesBack_some, writesBack_ite, encode, singleton_eq_iff, hasField_append]
    simp +contextual [hasField_fixed, ← opByte_bits ho]

theorem writesBack_opsA0 (ho : opByte w = op) : WritesBack w (decodeOpsA0 op w) := by
  unfold decodeOpsA0
  split
  case h_17 => exact writesBack_none
  all_goals repeat' apply writesBack_orElse
  all_goals
    simp only [rowFence, rowUld, rowUst, rowUown, rowSrdu, rowSwrLsmode, rowSwrPcap, rowSwr, rowRgrow, rowRgtry, rowRshrk,
      rowVwbs, rowCopy, rowCopy2d, rowCopyp, rowTrig, rowTrigCancel, rowCntrAdd, rowCntrSet, rowCntrRead, rowCollh, rowCollhAbort,
      rowCollhTree, writesBack_some, writesBack_ite, encode, singleton_eq_iff, hasField_append]
    simp +contextual [hasField_fixed, ← opByte_bits ho]

theorem writesBack_opsB0 (ho : opByte w = op) : WritesBack w (decodeOpsB0 op w) := by
  unfold decodeOpsB0
  split
  case h_17 => exact writesBack_none
  all_goals repeat' apply writesBack_orElse
  all_goals
    simp only [rowLend, rowLendShare, rowRetn, rowRetnRecall, rowRetnReclaim, rowSplit, rowMend, rowTqry, rowFdom, rowFtot,
      rowFdecl, rowFdeclRetire, rowTcfg, rowTld, rowTst, rowMacq, rowMrel, rowMma, rowMloop, rowAmov, writesBack_ite, encode,
      singleton_eq_iff, hasField_append]
    simp +contextual [hasField_fixed, ← opByte_bits ho]

theorem writesBack_opsC0 (ho : opByte w = op) : WritesBack w (decodeOpsC0 op w) := by
  unfold decodeOpsC0
  split
  case h_17 => exact writesBack_none
  all_goals repeat' apply writesBack_orElse
  all_goals
    simp only [rowAqnt, rowAclr, rowPhase, rowDgstRead, rowDgstOn, rowDgstOff, rowDgstClr, rowDgstFold, rowOrdrOff, rowOrdrRec,
      rowOrdrPlay, rowTret, rowHcall, rowHret, rowLnch, rowSksv, rowSkrs, rowTlbi, rowTlbiCtx, rowTlbiAll, rowBrk, rowHalt, rowCflu,
      rowCfluInv, rowCfluI, rowMsgs, writesBack_ite, encode, singleton_eq_iff, hasField_append]
    simp +contextual [hasField_fixed, ← opByte_bits ho]

theorem writesBack_opsD0 (ho : opByte w = op) : WritesBack w (decodeOpsD0 op w) := by
  unfold decodeOpsD0
  split
  case h_2 => exact writesBack_none
  all_goals repeat' apply writesBack_orElse
  all_goals
    simp only [rowMsgr, rowMsgrTry, writesBack_ite, encode, singleton_eq_iff, hasField_append]
    simp +contextual [hasField_fixed, ← opByte_bits ho]

/-- What the row of an opcode byte reads is written back (08 R149). -/
theorem writesBack_rowAt (ho : opByte w = op) : WritesBack w (rowAt op w) :=
  writesBack_choice (writesBack_ops00 ho) <| writesBack_choice (writesBack_ops10 ho) <| writesBack_choice (writesBack_ops20 ho) <|
  writesBack_choice (writesBack_ops30 ho) <| writesBack_choice (writesBack_ops40 ho) <| writesBack_choice (writesBack_ops50 ho) <|
  writesBack_choice writesBack_none <| writesBack_choice (writesBack_ops80 ho) <| writesBack_choice (writesBack_ops90 ho) <|
  writesBack_choice (writesBack_opsA0 ho) <| writesBack_choice (writesBack_opsB0 ho) <| writesBack_choice (writesBack_opsC0 ho) <|
  writesBack_opsD0 ho

end

theorem rowXw_eq_some {w f : Word} {i : Instr} : rowXw w f = some i ↔ w.extractLsb' 0 6 = 0 ∧ Instr.xw (w.extractLsb' 21 3)
    (w.extractLsb' 18 3) (w.extractLsb' 17 1) (w.extractLsb' 14 3) (w.extractLsb' 8 6) (w.extractLsb' 6 2) f = i := by
  simp [rowXw]

/-- An XW and its follower are written back as the two words (08 R140). -/
theorem encode_of_rowXw {w f : Word} {i : Instr} (ho : opByte w = 0x7F) (h : rowXw w f = some i) : encode i = [w, f] := by
  obtain ⟨hz, rfl⟩ := rowXw_eq_some.1 h
  refine congrArg (· ++ [f]) (singleton_eq_iff.2 ?_)
  simp only [hasField_append]
  simp [hasField_fixed, ← opByte_bits ho, hz]

/-! ## Decoding and encoding -/

/-- The check of an instruction that a row has read (08 R136 step 4). -/
theorem wfChecked_eq_ok {x i : Instr} {e : DecodeError} :
    (if x.wf = true then Except.ok x else .error e) = .ok i ↔ x = i ∧ i.wf = true := by
  constructor
  · intro h
    split at h
    · cases h
      exact ⟨rfl, ‹_›⟩
    · cases h
  · rintro ⟨rfl, hw⟩
    exact if_pos hw

/-- A word with another opcode than that of XW decodes by its row. -/
theorem decodeWords_row {w f : Word} {i : Instr} (ho : opByte w ≠ 0x7F) :
    decodeWords w f = .ok i ↔ opAssigned (opByte w) = true ∧ decodeRow w = some i ∧ i.wf = true := by
  rw [decodeWords, if_neg ho]
  by_cases ha : opAssigned (opByte w) = true
  · rw [if_pos ha]
    rcases decodeRow w with _ | x
    · simp
    · simpa [ha] using wfChecked_eq_ok
  · simp [ha]

/-- A word with the opcode of XW decodes with its follower, if that accepts an XW. -/
theorem decodeWords_xw {w f : Word} {i : Instr} (ho : opByte w = 0x7F) :
    decodeWords w f = .ok i ↔ (xwAccept (opByte f)).isSome = true ∧ rowXw w f = some i ∧ i.wf = true := by
  rw [decodeWords, if_pos ho]
  by_cases ha : (xwAccept (opByte f)).isSome = true
  · rw [if_neg (by simpa [Option.isSome_iff_ne_none] using ha)]
    rcases rowXw w f with _ | x
    · simp
    · simpa [ha] using wfChecked_eq_ok
  · rw [if_pos (by simpa using ha)]
    simp [ha]

namespace Laws.RowReads

/-- The row of every instruction reads its word back. -/
theorem statement (i : Instr) : Statement i :=
  i.casesOn iadd iaddi isub iadds imul imulhs imulhu imad imins iminu imaxs imaxu and or xor andn andi ori xori shl shr sar shli shri sari
    bfx bfi popc clz brev icmps icmpu icmpsi sel mov movi movhi srd plog pmovPack pmovUnpack faddF32 fmulF32 ffmaF32 fminF32 fmaxF32
    fcmpF32 frcpF32 frsqF32 fex2F32 flg2F32 faddBf16x2 fmulBf16x2 ffmaBf16x2 faddF16x2 fmulF16x2 ffmaF16x2 faddF64 fmulF64 ffmaF64
    tsumF32 cvt f2fx fx2f idp4s idp4u tdec tenc tblo tbhi bsel shfl shfli vote lred lscan lprev rdi wri ldl ldlfe stl stlfe atoml
    ldg ldgc stg atomga atomgb atomg64 redg xfer fld coll sysc xw nop uadd uaddi usub umul uand uor uxor ushl ushr usar umin umax
    umovi umovhi umov br brs join brt call ret callt ubr twist exit wait yield bar bara barw sbar fence uld ust uown srdu swr
    swrLsmode swrPcap rgrow rgtry rshrk vwbs copy copy2d copyp trig trigCancel cntrAdd cntrSet cntrRead collh collhAbort collhTree
    lend lendShare retn retnRecall retnReclaim split mend tqry fdom ftot fdecl fdeclRetire tcfg tld tst macq mrel mma mloop amov
    aqnt aclr phase dgstRead dgstOn dgstOff dgstClr dgstFold ordrOff ordrRec ordrPlay tret hcall hret lnch sksv skrs tlbi tlbiCtx
    tlbiAll brk halt cflu cfluInv cfluI msgs msgr msgrTry triggerEvaluation poisonTrap gatherPacketAtHome gatherPacketAtStack
    gatherReply lateReply atomicAtHome atomicReply grantRequest grantInstall grantRevoke tokenStateChange xferDebit xferCredit
    xferCreditAck xferCreditRefusal matrixRequestPost matrixPassGrant mloopStepRetire matrixRequestComplete skeinSave pbootWrite
    preemptDeadline copyChunk copyComplete fabricIngressAccess collPacketAck homeMoveRelease lsmodeTakesEffect rgrowGrant
    rgrowDeadlockBreak phaseAllCommitted skeinPlacement migrationMoveDone migrationDescriptorTake plySwap copyResendOnRetry
    fabricRefusal collPacketIngress domainDescriptorCopy coreFailure placementWaitTimeout hostWindowAccess fieldRecordResend
    collRetryResend routerCombine atmEpochEnd ldlfeGranuleFilled plyAntiStarvation powerInterval skeinRestore replyLostTimeout
    saveStopTimeout prectlReq prectlResume sliceExpiry dbgctlHalt dbgctlRelease haltStopTimeout orderGateTimeout shadowLatchRepeat
    migbaseWrite migtailWrite chretWrite frmoveWrite movingHoldTimeout retrycntRead atmctlWrite atmcntRead homebaseWrite
    tokbaseWrite colldropRead evlostRead replaysRead mqpushWord0 mqpushWord1 prstReset partitionResetDone evctlWrite evheadWrite
    eventInterruptTimer channelEvent keyRelease spdmMeasurementRequest powerOn portDownTimeout packageLost flitCrcReplay
    registerWrite powerLoss

end Laws.RowReads

/-- An instruction of one word is what its word decodes to. -/
theorem decodeWords_of_encode {i : Instr} {w f : Word} (hw : i.wf = true) (he : encode i = [w]) : decodeWords w f = .ok i :=
  have ⟨hx, ha, hr⟩ := (Laws.RowReads.statement i hw).1 w he
  (decodeWords_row hx).2 ⟨ha, hr, hw⟩

/-- An XW that is well formed has a follower that accepts it. -/
theorem xwAccept_of_rowXw {w f : Word} {i : Instr} (hr : rowXw w f = some i) (hw : i.wf = true) : (xwAccept (opByte f)).isSome = true := by
  obtain ⟨-, rfl⟩ := rowXw_eq_some.1 hr
  cases ha : xwAccept (opByte f) with
  | none => simp [Instr.wf, xwWf, ha] at hw
  | some _ => rfl

/-- An instruction of two words is what they decode to. -/
theorem decodeWords_of_encode_pair {i : Instr} {w f : Word} (hw : i.wf = true) (he : encode i = [w, f]) : decodeWords w f = .ok i :=
  have ⟨hx, hr⟩ := (Laws.RowReads.statement i hw).2 w f he
  (decodeWords_xw hx).2 ⟨xwAccept_of_rowXw hr hw, hr, hw⟩

/-- What words decode to is well formed, and is encoded as the first or as both. -/
theorem encode_of_decodeWords {i : Instr} {w f : Word} (h : decodeWords w f = .ok i) :
    i.wf = true ∧ (encode i = [w] ∨ encode i = [w, f]) := by
  by_cases ho : opByte w = 0x7F
  · obtain ⟨-, hr, hw⟩ := (decodeWords_xw ho).1 h
    exact ⟨hw, .inr (encode_of_rowXw ho hr)⟩
  · obtain ⟨-, hr, hw⟩ := (decodeWords_row ho).1 h
    exact ⟨hw, .inl (writesBack_rowAt rfl i (rowAt_eq rfl ▸ hr))⟩

/-- Settles O58: an instruction's row reads its word back, and what a row reads is written back. -/
theorem decodingAndEncodingAgree : Obligations.decoding_and_encoding_agree :=
  fun _ _ _ => ⟨decodeWords_of_encode, decodeWords_of_encode_pair, encode_of_decodeWords⟩

/-- Settles O57: each word that has a meaning is the encoding of its instruction; in each of the others a reserved opcode or field
is set. -/
theorem wordsDecodeToTheirInstructions : Obligations.words_decode_to_their_instructions := by
  refine ⟨?_, ?_, ?_, ?_, ?_, ?_, ?_, ?_, ?_, ?_, ?_, ?_, ?_, ⟨_, rfl⟩, ⟨_, rfl⟩, ⟨_, rfl⟩⟩
  case refine_4 => exact decodeWords_of_encode_pair rfl rfl
  all_goals exact decodeWords_of_encode rfl rfl

end Sys2Proof
end

section
/-! A step of an issuing group (O56): what it does first, how the group fetches and executes, and what its energy leaves alone. -/

namespace Sys2Proof

theorem Tbl.put_ne_nil {α : Type} (x : α) (t : Tbl α) (i : Nat) : Tbl.put x t i ≠ [] := by
  rcases t with _ | ⟨⟨k, v⟩, t⟩
  · exact List.cons_ne_nil _ _
  · unfold Tbl.put
    split
    · exact List.cons_ne_nil _ _
    · split
      · exact List.cons_ne_nil _ _
      · exact List.cons_ne_nil _ _

end Sys2Proof

namespace Sys2Proof.Machine

/-! ## What a step does (12 R214, R223) -/

section
variable {s : State} (hb : s.badPa = none) (hp : s.powered = true) (hc : mustCome s = none) (hs : mustSettle s = none)
  (hf : fencesDue s = none)
include hb hp hc hs hf

/-- With nothing that must come first, a step takes the next turn of the schedule. -/
theorem step_of_turn {t : Turn} {rest : List Turn} (ha : s.agenda = t :: rest) :
    step s = onNext (account s) (takeTurn t { s with agenda := rest }) := by
  simp only [step, hb, hp, Bool.not_true, Bool.false_eq_true, if_false, act, hc, hs, hf, ha]

/-- With an empty schedule besides, it does what is due, and then goes on with the round. -/
theorem step_of_idle (ha : s.agenda = []) : step s = onNext (account s) (proceed s) := by
  simp only [step, hb, hp, Bool.not_true, Bool.false_eq_true, if_false, act, hc, hs, hf, ha]

end

theorem takeTurn_issue {s : State} {g : Group} (h : itsTurn s g = true) : takeTurn (.issue g) s = issue s g := if_pos h

/-- With nothing due, the next part in the round issues. -/
theorem proceed_issues {s : State} {g : Group} (hs : stopNext s = none) (hh : halfDue s = none)
    (he : (dueEvents s).findSome? (changed s) = none) (hr : (roundLeft s).findSome? (nextPart s) = some g) : proceed s = issue s g := by
  simp only [proceed, hs, hh, he, nextIssue, hr]

/-! ## The group that takes its ply's turn (12 R214) -/

/-- A skein with a turn noted is not the one that an unlisted key reads as, so it is read as it was written. -/
theorem getSkein_setSkein_turn {k : Skein} (h : k.turn ≠ []) (s : State) (sid : Nat) : getSkein (setSkein s sid k) sid = k := by
  have hne : k ≠ Skein.reset := fun hr => h (congrArg Skein.turn hr)
  simp only [getSkein, setSkein, Tbl.set, hne, if_false, Tbl.get_put_self]

theorem takesTurn_parted {s : State} {g : Group} (h : 2 ≤ (partsOf (getSkein s g.sid) g.ply).length) :
    takesTurn s g = setSkein { s with cur := g } g.sid
      { getSkein s g.sid with turn := Tbl.set 0 (getSkein s g.sid).turn g.ply (g.strands.headD 0 + 1) } :=
  if_neg (Nat.not_lt.2 h)

/-- Taking the turn makes the group the issuing one and leaves strands, memory and partitions as they are. -/
theorem takesTurn_frame (s : State) (g : Group) :
    let a := takesTurn s g
    a.cur = g ∧ a.strands = s.strands ∧ a.mem = s.mem ∧ a.parts = s.parts := by
  unfold takesTurn
  dsimp only
  split
  · exact ⟨rfl, rfl, rfl, rfl⟩
  · exact ⟨rfl, rfl, rfl, rfl⟩

/-- Two states with the same group and the same strands have the same strand of the group. -/
theorem curStrand_congr {s t : State} (hc : s.cur = t.cur) (hs : s.strands = t.strands) : curStrand s = curStrand t := by
  funext n
  simp only [curStrand, curKey, getStrand, hc, hs]

/-- In a parted ply the group then stands behind the other parts. -/
theorem takesTurn_turn {s : State} {g : Group} (h : 2 ≤ (partsOf (getSkein s g.sid) g.ply).length) :
    Tbl.get 0 (curSkein (takesTurn s g)).turn g.ply = g.strands.headD 0 + 1 := by
  have hset : Tbl.set 0 (getSkein s g.sid).turn g.ply (g.strands.headD 0 + 1) =
      Tbl.put (g.strands.headD 0 + 1) (getSkein s g.sid).turn g.ply := if_neg (Nat.succ_ne_zero _)
  have hk : curSkein (takesTurn s g) = { getSkein s g.sid with turn := Tbl.put (g.strands.headD 0 + 1) (getSkein s g.sid).turn g.ply } := by
    rw [takesTurn_parted h, hset]
    exact getSkein_setSkein_turn (Tbl.put_ne_nil _ _ _) _ _
  rw [hk, Tbl.get_put_self]

/-! ## Fetching and executing (08 R136, R144) -/

theorem runWords_ok {s : State} {w f : Word} {i : Instr} (h : decodeWords w f = .ok i) :
    runWords w f s = onNext (chargeIssue s w f) (exec i s) := by
  simp only [runWords, h]

theorem runWords_error {s : State} {w f : Word} {e : DecodeError} (h : decodeWords w f = .error e) :
    runWords w f s = .next (chargeIssue s w f (undecoded s w f)) := by
  simp only [runWords, h, onNext]

section
variable {s b : State} {g : Group} {w : Word}

/-- A failed fetch traps. -/
theorem issue_fetchFail {c : Cause} {e : Nat} (h : let a := takesTurn s g
      fetchAt a (curSkein a) (curMode a) (curPc a).toNat = (.bad c e, w, b)) :
    issue s g = .next (fetchFail b (curPc (takesTurn s g)).toNat c e) := by
  simp only [issue, h]

variable {x : Xl} (h : let a := takesTurn s g
  fetchAt a (curSkein a) (curMode a) (curPc a).toNat = (.ok x, w, b))
include h

/-- A word other than XW runs alone. -/
theorem issue_word (hw : opByte w ≠ 0x7F) : issue s g = runWords w 0 b := by
  simp only [issue, h, hw, if_false]

/-- An XW runs with the word behind it. -/
theorem issue_pair {c : State} {y : Xl} {f : Word} (hw : opByte w = 0x7F)
    (hf : fetchAt b (curSkein b) (curMode b) ((curPc (takesTurn s g)).toNat + 4) = (.ok y, f, c)) : issue s g = runWords w f c := by
  simp only [issue, h, hw, if_true, hf]

end

/-! ## Energy (12 R228) -/

/-- The charges for an instruction and for its step change the partitions' energy and nothing else. -/
theorem account_chargeIssue_frame (s b t : State) (w f : Word) : account s (chargeIssue b w f t) =
    { t with parts := (account s (chargeIssue b w f t)).parts } := rfl

/-- Settles O56: a step by `step_of_turn` and `step_of_idle`, the group by `takesTurn_frame`, its word by `issue_word` and `issue_pair`. -/
theorem stepRunsTheDecodedWord : Obligations.step_runs_the_decoded_word := by
  intro s b c g x y w f i ca e rest a k m pc
  obtain ⟨hcur, hstr, hmem, hparts⟩ := takesTurn_frame s g
  have hcs : curStrand a = curStrand { s with cur := g } := curStrand_congr hcur hstr
  refine ⟨fun hb hp hc hs hf ha ht => ?_, fun hb hp hc hs hf ha hn hh he hr => ?_, ⟨hcur, hstr, hmem, hparts, ?_, ?_, takesTurn_turn⟩,
    fun h hw hd => ?_, fun h hw h2 hd => ?_, fun er h hw hd => ?_, issue_fetchFail, fun t u ht hu => ?_⟩
  · rw [step_of_turn hb hp hc hs hf ha, takeTurn_issue ht]
  · rw [step_of_idle hb hp hc hs hf ha, proceed_issues hn hh he hr]
  · simp only [curPc, grp, hcs, a, hcur]
  · simp only [curMode, grp, hcs, a, hcur]
  · rw [issue_word h hw, runWords_ok hd]
  · rw [issue_pair h hw h2, runWords_ok hd]
  · rw [issue_word h hw, runWords_error hd]
  · obtain rfl : account s (chargeIssue b w f t) = u := Host.Outcome.next.inj (ht ▸ hu)
    rw [account_chargeIssue_frame]
    exact ⟨rfl, rfl, rfl, rfl, rfl, rfl⟩

end Sys2Proof.Machine
end

section
/-! BR and UBR (O19): the decision of a strand, and where it goes. -/

namespace Sys2Proof.Machine

theorem taken_always (t : Strand) (p : BitVec 3) : t.taken p 0 = true := rfl

/-- BR.ANY: some live lane holds the predicate (08 R146). -/
theorem taken_any {t : Strand} {p : BitVec 3} :
    t.taken p 1 = true ↔ ∃ j, j < 4 ∧ t.liveLanes.getLsbD j = true ∧ t.pred j p.toNat = true := by
  refine List.any_eq_true.trans ?_
  simp only [mem_lanesOf, and_assoc]

/-- BR.ALL: there is a live lane, and every one holds the predicate. -/
theorem taken_all {t : Strand} {p : BitVec 3} :
    t.taken p 2 = true ↔ (∃ j, j < 4 ∧ t.liveLanes.getLsbD j = true) ∧
      ∀ j, j < 4 ∧ t.liveLanes.getLsbD j = true → t.pred j p.toNat = true := by
  refine Bool.and_eq_true_iff.trans (and_congr ?_ (List.all_eq_true.trans ?_))
  · rw [Bool.not_eq_true', List.isEmpty_eq_false_iff_exists_mem]
    simp only [mem_lanesOf]
  · simp only [mem_lanesOf]

/-- BR.NONE: no live lane holds the predicate. -/
theorem taken_none {t : Strand} {p : BitVec 3} :
    t.taken p 3 = true ↔ ∀ j, j < 4 ∧ t.liveLanes.getLsbD j = true → t.pred j p.toNat = false := by
  refine (iff_of_eq (Bool.not_eq_true' _)).trans (List.any_eq_false.trans ?_)
  simp only [mem_lanesOf, Bool.not_eq_true]

/-- UBR's comparisons of two W registers: equal or not, and less or not, signed and unsigned (08 R147). -/
theorem ubrCond_eq (k : Nat) (x y : DWord) : ubrCond k x y = (match k with
    | 0 => decide (x = y) | 1 => decide (x ≠ y)
    | 2 => decide (x.toInt < y.toInt) | 3 => decide (y.toInt ≤ x.toInt)
    | 4 => decide (x.toNat < y.toNat) | _ => decide (y.toNat ≤ x.toNat)) := by
  have sge : (!x.slt y) = decide (y.toInt ≤ x.toInt) := by simp only [BitVec.slt, ← decide_not, Int.not_lt]
  have uge : (!x.ult y) = decide (y.toNat ≤ x.toNat) := by simp only [BitVec.ult, ← decide_not, Nat.not_lt]
  match k with
  | 0 | 2 | 4 => rfl
  | 1 => exact (decide_not (p := x = y)).symm
  | 3 => exact sge
  | _ + 5 => exact uge

theorem exec_br {s : State} {p : BitVec 3} {c : BitVec 2} {o : BitVec 19} (hc : c ≠ 0 ∨ p = 0) (h : uniFree s .user [] []) :
    exec (.br p c o) s = .next (steer s (fun _ t =>
      { t with wait := .none, pc := if t.taken p c then t.pc + 4 * o.signExtend 64 else t.pc + 4 })) :=
  congrArg _ (uniEnter_free _ (by simpa [Instr.wf] using hc) h (by simp) (by simp))

theorem exec_ubr {s : State} {a b : BitVec 5} {k : BitVec 3} {o : BitVec 11} {yes : Bool} (hk : k.toNat < 6)
    (h : uniFree s .user [a.toNat, b.toNat] []) (hy : ubrCond k.toNat (wReg s a.toNat) (wReg s b.toNat) = yes) :
    exec (.ubr a b k o) s = .next (steer s (fun _ t =>
      { t with wait := .none, pc := if yes then t.pc + 4 * o.signExtend 64 else t.pc + 4 })) := by
  subst hy
  exact congrArg _ (uniEnter_free _ (show (Instr.ubr a b k o).wf = true from decide_eq_true hk) h (by simp) (by simp))

/-- Settles O19: each word by its equation, each decision over the live lanes that `lanesOf` lists. -/
theorem branchResults : Obligations.branch_results := by
  intro s p c o a b k u t
  exact ⟨exec_br, taken_always t p, taken_any, taken_all, taken_none, fun hk h => exec_ubr hk h (ubrCond_eq ..)⟩

end Sys2Proof.Machine
end

section
/-! The matrix engine's words (O40, O41): what the shared checks of the engine go on with, and each word once they pass. -/

namespace Sys2Proof.Machine

/-! ## Tokens, turns and room in the queue (10 R182, R184) -/

section
variable {s : State} {a : Nat}

theorem needToken_held (k : State → State) (h : tokenOf (curSkein s) a = s.cur.ply + 1) : needToken a s k = k s := if_pos (.inl h)

theorem needToken_missing (k : State → State) (h : tokenOf (curSkein s) a ≠ s.cur.ply + 1) (hj : tokenJudged a s = false) :
    needToken a s k = trapAll s .acctok (dw a) := if_neg (not_or_intro h (Bool.eq_false_iff.1 hj))

variable {o : MatOp} {w : Wait} (hc : (curSkein s).chain.active = false)
include hc

/-- A request that finds no chain, a place in the queue and, where it counts there, a place in TL does not wait. -/
theorem needQueue_room {tl : Bool} (k : State → State) (hq : (curSkein s).queue.length < 8)
    (htl : tl = true → ∀ n ∈ grp s, (curStrand s n).tl < 63) : needQueue tl w s k = k s := by
  have hroom : (tl && (grp s).any (fun n => decide (63 ≤ (curStrand s n).tl))) = false := by
    cases tl with
    | false => rfl
    | true => simpa using htl rfl
  refine if_neg ?_
  simp only [hc, hroom, decide_eq_false (Nat.not_le.2 hq), Bool.or_self, Bool.false_eq_true, not_false_eq_true]

/-- Where the queue is empty, the group's turn has come. -/
theorem inTurn_empty (k : State → State) (hq : (curSkein s).queue = []) : inTurn o w s k = k s := by
  simp only [inTurn, hq, hc, Bool.false_eq_true, if_false]

/-- Behind requests of which none is its own, the group takes its place in the queue and waits. -/
theorem inTurn_behind (k : State → State) (hne : (curSkein s).queue ≠ []) (hmine : ∀ r ∈ (curSkein s).queue, r.mine s o = false)
    (hq : (curSkein s).queue.length < 8) : inTurn o w s k = stall (pushMat s (matReq s o)) w := by
  obtain ⟨r, q, hrq⟩ := List.exists_cons_of_ne_nil hne
  obtain ⟨hr, hrest⟩ := List.forall_mem_cons.1 (hrq ▸ hmine)
  have hany : q.any (fun r => r.mine s o) = false := by simpa using hrest
  simp only [inTurn, hrq, hr, hany, Bool.false_eq_true, if_false]
  exact needQueue_room hc _ hq (fun h => nomatch h)

end

theorem inStore_iff {k : Skein} {off n : Nat} : inStore k off n = true ↔ off + n ≤ k.lsSize := decide_eq_true_iff

/-! ## TCFG, TLD and TST (10 R180, R189) -/

/-- A uniform word that names a tile beyond the skein's traps REGWIN (08 R136). -/
theorem uniEnter_tile_beyond {i : Instr} {need : Mode} {tiles accs reads writes : List Nat} {s : State} (k : State → State)
    (hw : i.wf = true) (hm : ∀ n ∈ grp s, (curStrand s n).mode.reaches need = true) {t : Nat} (ht : t ∈ tiles) (hb : (curSkein s).tiles ≤ t) :
    uniEnter i need tiles accs reads writes s k = trapAll s .regwin (instrWord i) := by
  have hmode : (grp s).any (fun n => !((curStrand s n).mode.reaches need)) = false := by simpa using hm
  have hbeyond : tiles.any (fun t => decide ((curSkein s).tiles ≤ t)) = true := List.any_eq_true.2 ⟨t, ht, decide_eq_true hb⟩
  simp only [uniEnter, hmode, hw, hbeyond, Bool.not_true, Bool.true_or, Bool.false_eq_true, if_false, if_true]

/-- What TCFG does in its turn. -/
def configureTile (t : Nat) (cfg : BitVec 14) (s : State) : State :=
  retire (setSkein s s.cur.sid { curSkein s with tileCfg := Tbl.set 0x0FE7 (curSkein s).tileCfg t cfg }) 4

section
variable {s : State} {t : BitVec 3}

theorem exec_tcfg {f : BitVec 3} {r : BitVec 6} {c : BitVec 5} (hw : (Instr.tcfg t f r c).wf = true) (h : uniFree s .user [] [])
    (ht : t.toNat < (curSkein s).tiles) :
    exec (.tcfg t f r c) s = .next (inTurn (.config t.toNat (f ++ r ++ c)) .poll s (configureTile t.toNat (f ++ r ++ c))) :=
  congrArg _ (uniEnter_free _ hw h (by simpa using ht) (by simp))

variable {a : BitVec 5} (h : uniFree s .user [a.toNat] []) (ht : t.toNat < (curSkein s).tiles)
include h ht

theorem exec_tld : exec (.tld t a) s = .next (tileMove t.toNat (wReg s a.toNat) (.load t.toNat) s) :=
  congrArg _ (uniEnter_free _ rfl h (by simpa using ht) (by simp))

theorem exec_tst : exec (.tst t a) s = .next (tileMove t.toNat (wReg s a.toNat) (.store t.toNat) s) :=
  congrArg _ (uniEnter_free _ rfl h (by simpa using ht) (by simp))

end

/-- A tile's move traps at an address off a multiple of 64 or beyond the local store, and enters the queue where it finds room. -/
theorem tileMove_outcomes {s : State} {t : Nat} {w : DWord} {op : Nat → MatOp} {o : Host.Outcome State Fault Refusal}
    (h : o = .next (tileMove t w op s)) : let bytes := cfgBytes (tileCfgOf (configured s) t)
    (lsOffset w % 64 ≠ 0 → o = .next (trapAll s .misalign w)) ∧
      (lsOffset w % 64 = 0 → (curSkein s).lsSize < lsOffset w + bytes → o = .next (trapAll s .lsbound w)) ∧
      (lsOffset w % 64 = 0 → lsOffset w + bytes ≤ (curSkein s).lsSize → (curSkein s).chain.active = false → (curSkein s).queue.length < 8 →
        (∀ n ∈ grp s, (curStrand s n).tl < 63) → o = .next (enterMat s (op (lsOffset w)))) := by
  subst h
  refine ⟨fun hal => congrArg _ (if_pos hal), fun hal hout => congrArg _ ?_, fun hal hin hc hq htl => congrArg _ ?_⟩
  · refine (if_neg (not_not_intro hal)).trans (if_pos ?_)
    rw [Bool.not_eq_true', ← Bool.not_eq_true, inStore_iff]
    exact Nat.not_le.2 hout
  · have hstore : inStore (configured s) (lsOffset w) (cfgBytes (tileCfgOf (configured s) t)) = true := inStore_iff.2 hin
    refine (if_neg (not_not_intro hal)).trans ((if_neg ?_).trans (needQueue_room hc _ hq (fun _ => htl)))
    rw [hstore]
    exact Bool.false_ne_true

/-! ## MACQ and MREL (10 R184) -/

/-- What MACQ does with an accumulator of the skein. -/
def takeToken (a : Nat) (s : State) : State :=
  let k := curSkein s
  if tokenOf k a = s.cur.ply + 1 then retire s 4
  else if k.token.any (fun e => e.2 == s.cur.ply + 1 && decide (a < e.1)) then trapAll s .acctok (dw a)
  else if tokenFree s s.cur.sid a then retire (setSkein s s.cur.sid { k with token := Tbl.set 0 k.token a (s.cur.ply + 1) }) 4
  else stall s (.accToken a)

/-- What MREL does with a token that its ply holds. -/
def giveToken (a : Nat) (s : State) : State :=
  let k := curSkein s
  let b := setSkein s s.cur.sid { k with token := Tbl.set 0 k.token a 0 }
  if k.queue.isEmpty then retire b 4
  else if 8 ≤ k.queue.length then stall s (.engine a)
  else retire (pushMat b (matReq s (.release a))) 4

section
variable {s : State} {a : BitVec 3} (h : uniFree s .user [] []) (ha : a.toNat < (curSkein s).accs)
include h ha

theorem exec_macq : exec (.macq a) s = .next (takeToken a.toNat s) :=
  congrArg _ (uniEnter_free _ rfl h (by simp) (by simpa using ha))

theorem exec_mrel : exec (.mrel a) s = .next (needToken a.toNat s (giveToken a.toNat)) :=
  congrArg _ (uniEnter_free _ rfl h (by simp) (by simpa using ha))

end

section
variable {s : State} {a : Nat}

theorem takeToken_held (h : tokenOf (curSkein s) a = s.cur.ply + 1) : takeToken a s = retire s 4 := if_pos h

/-- A ply that holds a higher token may not take this one. -/
theorem takeToken_descending (h : tokenOf (curSkein s) a ≠ s.cur.ply + 1) (ho : ∃ e ∈ (curSkein s).token, e.2 = s.cur.ply + 1 ∧ a < e.1) :
    takeToken a s = trapAll s .acctok (dw a) := (if_neg h).trans (if_pos (by simpa using ho))

theorem takeToken_ascending (h : tokenOf (curSkein s) a ≠ s.cur.ply + 1)
    (ho : ∀ e ∈ (curSkein s).token, e.2 = s.cur.ply + 1 → e.1 ≤ a) :
    takeToken a s = if tokenFree s s.cur.sid a then
      retire (setSkein s s.cur.sid { curSkein s with token := Tbl.set 0 (curSkein s).token a (s.cur.ply + 1) }) 4
      else stall s (.accToken a) := by
  refine (if_neg h).trans (if_neg fun hany => ?_)
  obtain ⟨e, he, hmore⟩ := List.any_eq_true.1 hany
  obtain ⟨hply, hlt⟩ := Bool.and_eq_true_iff.1 hmore
  exact Nat.not_lt.2 (ho e he (beq_iff_eq.1 hply)) (of_decide_eq_true hlt)

theorem giveToken_empty (hq : (curSkein s).queue = []) :
    giveToken a s = retire (setSkein s s.cur.sid { curSkein s with token := Tbl.set 0 (curSkein s).token a 0 }) 4 :=
  if_pos (List.isEmpty_iff.2 hq)

theorem giveToken_full (hq : 8 ≤ (curSkein s).queue.length) : giveToken a s = stall s (.engine a) := by
  have hne : (curSkein s).queue ≠ [] := List.ne_nil_of_length_pos (by omega)
  exact (if_neg (mt List.isEmpty_iff.1 hne)).trans (if_pos hq)

/-- The release stands behind what the queue holds: the skein that it is added to reads as MREL has just written it. -/
theorem giveToken_behind {k : Skein} (hk : k = { curSkein s with token := Tbl.set 0 (curSkein s).token a 0 })
    (hne : (curSkein s).queue ≠ []) (hq : (curSkein s).queue.length < 8) :
    giveToken a s = retire (setSkein (setSkein s s.cur.sid k) s.cur.sid { k with queue := k.queue ++ [matReq s (.release a)] }) 4 := by
  refine (if_neg (mt List.isEmpty_iff.1 hne)).trans ((if_neg (Nat.not_le.2 hq)).trans ?_)
  have hread : curSkein (setSkein s s.cur.sid k) = k := getSkein_setSkein_queued (hk ▸ hne) s s.cur.sid
  rw [← hk, pushMat, hread, setSkein_cur]

end

/-- Settles O40: TCFG by `inTurn`, TLD and TST by `tileMove_outcomes`, MACQ by `takeToken`, MREL by `giveToken`. -/
theorem tileAndAccumulatorTokenResults : Obligations.tile_and_accumulator_token_results := by
  intro s a tile acc fmt rows cols k w c
  refine ⟨fun hw hu ht hq hc => ?_, fun hw hu ht hne hmine hc hq => ?_, fun hw hu ht => ?_, fun hu ht => tileMove_outcomes (exec_tld hu ht),
    fun hu ht => tileMove_outcomes (exec_tst hu ht), fun hu ha hk => ?_, fun hu ha hk ho => ⟨fun hf => ?_, fun hf => ?_⟩,
    fun hu ha hk ho => ?_, fun hu ha hk => ⟨fun hq => ?_, fun hne hq => ?_, fun hq => ?_⟩, fun hu ha hk hj => ?_⟩
  · rw [exec_tcfg hw hu ht, inTurn_empty hc _ hq]
    rfl
  · rw [exec_tcfg hw hu ht, inTurn_behind hc _ hne hmine hq]
    rfl
  · obtain ⟨hmode, -⟩ := hu
    exact congrArg _ (uniEnter_tile_beyond _ hw hmode (List.mem_singleton_self _) ht)
  · rw [exec_macq hu ha, takeToken_held hk]
  · rw [exec_macq hu ha, takeToken_ascending hk ho, if_pos hf]
  · rw [exec_macq hu ha, takeToken_ascending hk ho, if_neg (Bool.eq_false_iff.1 hf)]
  · rw [exec_macq hu ha, takeToken_descending hk ho]
  · rw [exec_mrel hu ha, needToken_held _ hk, giveToken_empty hq]
  · rw [exec_mrel hu ha, needToken_held _ hk, giveToken_behind rfl hne hq]
    rfl
  · rw [exec_mrel hu ha, needToken_held _ hk, giveToken_full hq]
  · rw [exec_mrel hu ha, needToken_missing _ hk hj]

/-! ## MMA (10 R186) -/

/-- The format block that an MMA names: W0 names none. -/
def formatBlock (s : State) (w : BitVec 5) : Option Nat := if w = 0 then none else some (lsOffset (wReg s w.toNat))

/-- The request of an MMA, its scales read with the configurations that the queue will have given. -/
def mmaReq (k : Skein) (acc ta tb : Nat) (block : Option Nat) : MatOp :=
  let x := formatScales k block
  let kn := cfgCols (tileCfgOf k ta)
  .mma acc ta tb x.1 x.2 (readScales k x.1 (cfgRows (tileCfgOf k ta)) 0 kn, readScales k x.2 (cfgCols (tileCfgOf k tb)) 0 kn)

section
variable {s : State} {acc : BitVec 3} (ha : acc.toNat < (curSkein s).accs) (hk : tokenOf (curSkein s) acc.toNat = s.cur.ply + 1)
  (hc : (curSkein s).chain.active = false) (hq : (curSkein s).queue.length < 8) (htl : ∀ n ∈ grp s, (curStrand s n).tl < 63)
include ha hk hc hq htl

/-- An MMA whose shapes fit, and whose format block, where it names one, passes its checks, enters the queue. -/
theorem exec_mma {ta tb : BitVec 3} {w : BitVec 5} (hu : uniFree s .user [w.toNat] []) (hta : ta.toNat < (curSkein s).tiles)
    (htb : tb.toNat < (curSkein s).tiles) (hfit : shapesFit (configured s) ta.toNat tb.toNat = true)
    (hw : w = 0 ∨ (lsOffset (wReg s w.toNat) % 32 = 0 ∧ banksShut s (curCore s) = false ∧
      formatBad (configured s) (lsOffset (wReg s w.toNat)) ta.toNat tb.toNat 1 = none)) :
    exec (.mma acc ta tb w) s = .next (enterMat s (mmaReq (configured s) acc.toNat ta.toNat tb.toNat (formatBlock s w))) := by
  have hal : ¬(w ≠ 0 ∧ lsOffset (wReg s w.toNat) % 32 ≠ 0) := fun ⟨h0, hodd⟩ => hodd (hw.resolve_left h0).1
  have hopen : ¬(w ≠ 0 ∧ banksShut s (curCore s) = true) := fun ⟨h0, hshut⟩ => by
    obtain ⟨-, hb, -⟩ := hw.resolve_left h0
    exact Bool.eq_false_iff.1 hb hshut
  have hblock : (formatBlock s w).bind (fun off => formatBad (configured s) off ta.toNat tb.toNat 1) = none := by
    unfold formatBlock
    split
    next => rfl
    next h0 =>
      obtain ⟨-, -, hf⟩ := hw.resolve_left h0
      exact hf
  refine congrArg Host.Outcome.next ((uniEnter_free _ rfl hu (by simpa using ⟨hta, htb⟩) (by simpa using ha)).trans ?_)
  refine (needToken_held _ hk).trans ((if_neg (by simp [hfit])).trans ((if_neg hal).trans ((if_neg hopen).trans ?_)))
  rw [formatBlock] at hblock
  simp only [hblock]
  exact needQueue_room hc _ hq (fun _ => htl)

/-! ## MLOOP (10 R187, R188) -/

/-- An MLOOP whose loop block passes its checks starts its chain; one of no steps ends at once. -/
theorem exec_mloop {la lb : BitVec 2} {w : BitVec 5} {c : Chain} (hu : uniFree s .user [w.toNat] []) (hne : la ≠ lb)
    (hla : 2 * la.toNat + 1 < (curSkein s).tiles) (hlb : 2 * lb.toNat + 1 < (curSkein s).tiles) (hal : lsOffset (wReg s w.toNat) % 32 = 0)
    (hin : lsOffset (wReg s w.toNat) + 32 ≤ (curSkein s).lsSize) (hb : banksShut s (curCore s) = false)
    (hcc : c = chainOf s (configured s) (formatWords (configured s) (lsOffset (wReg s w.toNat))) acc.toNat (2 * la.toNat) (2 * lb.toNat))
    (hl : loopRefused (configured s) (wReg s w.toNat) (formatWords (configured s) (lsOffset (wReg s w.toNat))) c = none) :
    exec (.mloop acc la lb w) s = .next (if c.n = 0 then retire s 4
      else enterMat (setSkein s s.cur.sid { curSkein s with chain := c }) .loop) := by
  subst hcc
  have htiles : ∀ t ∈ [2 * la.toNat, 2 * lb.toNat], t < (curSkein s).tiles := by
    simp only [List.mem_cons, List.not_mem_nil, or_false, forall_eq_or_imp, forall_eq]
    omega
  have hhere : ¬((configured s).tiles ≤ 2 * la.toNat + 1 ∨ (configured s).tiles ≤ 2 * lb.toNat + 1) :=
    not_or_intro (Nat.not_le.2 hla) (Nat.not_le.2 hlb)
  have hstore : inStore (configured s) (lsOffset (wReg s w.toNat)) 32 = true := inStore_iff.2 hin
  refine congrArg Host.Outcome.next ((uniEnter_free (i := .mloop acc la lb w) _ (bne_iff_ne.2 hne) hu htiles (by simpa using ha)).trans ?_)
  refine (needToken_held _ hk).trans ((if_neg hhere).trans ((if_neg (not_not_intro hal)).trans ?_))
  refine (if_neg (by simp [hstore])).trans ((if_neg (Bool.eq_false_iff.1 hb)).trans ?_)
  simp only [hl]
  exact needQueue_room hc _ hq (fun _ => htl)

/-! ## AQNT and ACLR (10 R191) -/

/-- An AQNT whose elements and scales have room in the local store enters the queue. -/
theorem exec_aqnt {a b : BitVec 5} {cl tr fm : BitVec 1} {bl : BitVec 2} (hu : uniFree s .user [a.toNat, b.toNat] []) (hbl : bl ≠ 3)
    (hal : lsOffset (wReg s a.toNat) % 64 = 0)
    (he : lsOffset (wReg s a.toNat) + (if fm = 0 then 3072 else 4096) ≤ (curSkein s).lsSize)
    (hx : lsOffset (wReg s b.toNat) + 4096 / blkLen bl.toNat ≤ (curSkein s).lsSize) :
    exec (.aqnt acc a b cl tr bl fm) s = .next (enterMat s
      (.quant acc.toNat (lsOffset (wReg s a.toNat)) (lsOffset (wReg s b.toNat)) (cl == 1) (tr == 1) bl.toNat fm.toNat)) := by
  refine congrArg Host.Outcome.next ((uniEnter_free (i := .aqnt acc a b cl tr bl fm) _ (bne_iff_ne.2 hbl) hu (by simp) (by simpa using ha)).trans ?_)
  refine (needToken_held _ hk).trans ((if_neg (not_not_intro hal)).trans ((if_neg ?_).trans ((if_neg ?_).trans ?_)))
  · rw [inStore_iff.2 he]
    exact Bool.false_ne_true
  · rw [inStore_iff.2 hx]
    exact Bool.false_ne_true
  · exact needQueue_room hc _ hq (fun _ => htl)

end

theorem exec_aclr {s : State} {acc : BitVec 3} (hu : uniFree s .user [] []) (ha : acc.toNat < (curSkein s).accs) : exec (.aclr acc) s =
    .next (needToken acc.toNat s (fun s => needQueue true (.engine acc.toNat) s (fun s => enterMat s (.clear acc.toNat)))) :=
  congrArg _ (uniEnter_free _ rfl hu (by simp) (by simpa using ha))

/-! ## AMOV (10 R190) -/

/-- What AMOV does in its turn: each live lane of the group takes its elements of the rows from `r0` on. -/
def moveRows (k : Skein) (acc r0 rows v : Nat) (s : State) : State :=
  retire (mapStrands s s.cur.sid s.cur.ply (grp s) (fun n t =>
    (lanesOf t.liveLanes).foldl (fun u j => u.takeAcc k j (amovLane acc r0 rows v (4 * n + j)) t.pc) t)) 4

/-- A row number is all of its word. -/
theorem fieldOf_row {n : Nat} (h : n < 64) : fieldOf n 0 6 = n ∧ fieldOf n 6 58 = 0 := by
  unfold fieldOf
  omega

/-- AMOV of rows that the accumulator has, into registers that are the group's and await nothing, comes to its turn. -/
theorem exec_amov {s : State} {acc rows : BitVec 3} {a : BitVec 5} {v : BitVec 6} {r0 : Nat} (hr0 : r0 = (wReg s a.toNat).toNat)
    (ha : acc.toNat < (curSkein s).accs) (hu : uniFree s .user [a.toNat] []) (hk : tokenOf (curSkein s) acc.toNat = s.cur.ply + 1)
    (hrow : r0 < 64) (hrows : r0 + (rows.toNat + 1) ≤ 64) (hregs : ∀ n ∈ grp s, let regs := rangeFrom v.toNat (2 * (rows.toNat + 1))
      (curStrand s n).allowed (curSkein s).nreg regs = true ∧ (curStrand s n).awaits regs (curStrand s n).liveLanes = false) :
    exec (.amov acc a rows v) s = .next (inTurn (.move acc.toNat) (.engine acc.toNat) s
      (moveRows (curSkein s) acc.toNat r0 (rows.toNat + 1) v.toNat)) := by
  subst hr0
  obtain ⟨hlow, hhigh⟩ := fieldOf_row hrow
  have hmine : (grp s).any (fun n => !((curStrand s n).allowed (curSkein s).nreg (rangeFrom v.toNat (2 * (rows.toNat + 1))))) = false := by
    simpa using fun n hn => (hregs n hn).1
  have hidle : (grp s).any (fun n => (curStrand s n).awaits (rangeFrom v.toNat (2 * (rows.toNat + 1))) (curStrand s n).liveLanes) = false := by
    simpa using fun n hn => (hregs n hn).2
  refine (if_neg (by simp [hmine])).trans (congrArg Host.Outcome.next ?_)
  refine (uniEnter_free _ rfl hu (by simp) (by simpa using ha)).trans ((needToken_held _ hk).trans ?_)
  simp only [hlow, hhigh, hidle, Nat.not_lt.2 hrows, ne_eq, not_true_eq_false, or_self, Bool.false_eq_true, if_false]
  rfl

/-- Settles O41: each word by its equation, AMOV in its turn by `inTurn_empty`, ACLR by the checks of the token and of the queue. -/
theorem matrixRequestResults : Obligations.matrix_request_results := by
  intro s acc ta tb rows la lb a b v cl tr fm bl k w q ha
  refine ⟨fun hu hta htb hk hfit hw hc hq htl => exec_mma ha hk hc hq htl hu hta htb hfit hw,
    fun hu hne hla hlb hk hal hin hb => ?_, fun hu hrow hrows hk hq hc hregs => ?_,
    fun hu hbl hk hal he hx hc hq htl => exec_aqnt ha hk hc hq htl hu hbl hal he hx, fun hu hk hc hq htl => ?_, fun hu hk hj => ?_⟩
  · intro ws c hl hc hq htl
    have hrun := exec_mloop ha hk hc hq htl hu hne hla hlb hal hin hb rfl hl
    exact ⟨fun h0 => hrun.trans (congrArg _ (if_pos h0)), fun h0 => hrun.trans (congrArg _ (if_neg h0))⟩
  · rw [exec_amov rfl ha hu hk hrow hrows hregs, inTurn_empty hc _ hq]
    rfl
  · rw [exec_aclr hu ha, needToken_held _ hk, needQueue_room hc _ hq (fun _ => htl)]
  · rw [exec_aclr hu ha, needToken_missing _ hk hj]

end Sys2Proof.Machine
end

section
/-! Collective handles (O36): what COLLH, COLLH.ABORT and COLLH.TREE do once the checks of 08 R136 have passed. -/

namespace Sys2Proof.Machine

/-- 11 R204: a COLL or a tree is under way under a binding while one of its lanes is the group's. -/
theorem colling_iff {s : State} {n : Nat} : colling s n = true ↔
    (∃ x ∈ s.collWaits, x.sid = s.cur.sid ∧ x.ply = s.cur.ply ∧ x.bind = n ∧ ∃ l ∈ x.lanes, l.1 ∈ grp s) ∨
      ∃ x ∈ s.copies, x.kind = .tree ∧ x.sid = s.cur.sid ∧ x.ply = s.cur.ply ∧ x.bind = n ∧ ∃ l ∈ x.lanes, l.1 ∈ grp s := by
  simp only [colling, Bool.or_eq_true, List.any_eq_true, Bool.and_eq_true, beq_iff_eq, List.contains_iff_mem, and_assoc]

/-! ## COLLH (11 R203, R204) -/

/-- Freeing the bound entry touches the launches and the collective table only. -/
theorem unbind_frame (s : State) : ∃ ls cs, unbind s = { s with launches := ls, colls := cs } := by
  unfold unbind
  cases findLaunch s (curSkein s).launch with
  | none => exact ⟨s.launches, s.colls, rfl⟩
  | some l =>
    cases hb : l.bound with
    | none => exact ⟨_, s.colls, by simp only [hb]; rfl⟩
    | some id => exact ⟨_, _, by simp only [hb]; rfl⟩

@[simp] theorem wReg_unbind (s : State) (n : Nat) : wReg (unbind s) n = wReg s n := by
  obtain ⟨ls, cs, h⟩ := unbind_frame s
  rw [h]
  rfl

/-- The entry that a bind makes of the descriptor's bytes. -/
def handleEntry (s : State) (bs : List (List PByte)) : CollEntry :=
  { launch := (curSkein s).launch, words := bs.map (fun b => dw (pval b)), attempt := BitVec.ofNat 16 (pval (bs.getD 3 [])), bind := s.seq }

/-- 11 R203: a launch other than the group's, and still there, holds the table entry that a descriptor names. -/
def handleTaken (s : State) (h : CollEntry) : Bool :=
  s.colls.any (fun x => x.1 == collKey (curSkein s).part h.id && x.2.launch != (curSkein s).launch && (findLaunch s x.2.launch).isSome)

theorem handleTaken_eq_false_iff {s : State} {h : CollEntry} : handleTaken s h = false ↔ ∀ x ∈ s.colls,
    x.1 = collKey (curSkein s).part h.id → x.2.launch = (curSkein s).launch ∨ findLaunch s x.2.launch = none := by
  simp only [handleTaken, List.any_eq_false, Bool.and_eq_true, beq_iff_eq, bne_iff_ne]
  constructor
  · intro hfree x hx hkey
    cases hl : findLaunch s x.2.launch with
    | none => exact .inr rfl
    | some l => exact .inl (Decidable.byContradiction fun hother => hfree x hx ⟨⟨hkey, hother⟩, by rw [hl, Option.isSome_some]⟩)
  · rintro hfree x hx ⟨⟨hkey, hother⟩, hsome⟩
    obtain hmine | hgone := hfree x hx hkey
    · exact hother hmine
    · rw [hgone] at hsome
      exact nomatch hsome

/-- What a bind does with the entry that it makes of the descriptor at `va`. -/
def bindEntry (s : State) (va : DWord) (h : CollEntry) : State :=
  if collBad h || handleTaken s h || (!h.ord && skeinDet s s.cur.sid) then trapAll s .prot va
  else
    let t := { s with seq := s.seq + 1, colls := Tbl.set CollEntry.none s.colls (collKey (curSkein s).part h.id) h }
    retire (match findLaunch t (curSkein s).launch with
      | some l => setLaunch t { l with bound := some h.id, handle := va }
      | none => t) 4

theorem bindHandle_reads {s : State} {va : DWord} {xs : List Xl} (hal : va.toNat % 64 = 0) (hreads : readsPass s (dwordsAt va.toNat 8) 8 xs) :
    bindHandle va s =
      let r := readsGive s (dwordsAt va.toNat 8) 8 xs
      bindEntry r.2 va (handleEntry r.2 r.1) :=
  (if_neg (not_not_intro hal)).trans (readGroup_passes _ hreads)

/-- A descriptor that passes the checks of 11 R203 is bound to the group's launch. -/
theorem bindEntry_binds {s : State} {va : DWord} {h : CollEntry} {l : Launch} (hbad : collBad h = false)
    (hdet : h.ord = true ∨ skeinDet s s.cur.sid = false) (htaken : handleTaken s h = false)
    (hl : findLaunch s (curSkein s).launch = some l) :
    bindEntry s va h =
      let t := { s with seq := s.seq + 1, colls := Tbl.set CollEntry.none s.colls (collKey (curSkein s).part h.id) h }
      retire (setLaunch t { l with bound := some h.id, handle := va }) 4 := by
  have hord : (!h.ord && skeinDet s s.cur.sid) = false := Bool.and_eq_false_iff.2 (hdet.imp_left (by simp))
  have hsame (n : Nat) (cs : List (Nat × CollEntry)) : findLaunch { s with seq := n, colls := cs } (curSkein s).launch = some l := hl
  simp only [bindEntry, hbad, htaken, hord, Bool.or_self, Bool.false_eq_true, if_false, hsame]

section
variable {s : State} {a : BitVec 5} (hu : uniFree s .user [a.toNat] [])
include hu

/-- COLLH waits while the group has a COLL or a tree under way under the bound handle. -/
theorem exec_collh_busy {h : CollEntry} (hb : boundColl s (curSkein s) = some h) (hc : colling s h.bind = true) :
    exec (.collh a) s = .next (stall s .poll) := by
  refine congrArg Host.Outcome.next ((uniEnter_free _ rfl hu (by simp) (by simp)).trans (if_pos ?_))
  rw [hb, Option.any_some, hc]

/-- With none under way, COLLH frees the bound entry first, and binds unless it names W0. -/
theorem exec_collh_idle (hc : ∀ h, boundColl s (curSkein s) = some h → colling s h.bind = false) :
    exec (.collh a) s = .next (if a = 0 then retire (unbind s) 4 else bindHandle (wReg s a.toNat) (unbind s)) := by
  have hidle : ¬(boundColl s (curSkein s)).any (fun h => colling s h.bind) = true := by
    rw [Option.any_eq_true]
    exact fun ⟨h, hb, hbusy⟩ => Bool.eq_false_iff.1 (hc h hb) hbusy
  refine congrArg Host.Outcome.next ((uniEnter_free _ rfl hu (by simp) (by simp)).trans ((if_neg hidle).trans ?_))
  simp only [wReg_unbind]

end

/-! ## COLLH.ABORT (11 R205) -/

/-- The group's pending faults of the attempt that an entry leaves are gone, and the entry is in its next attempt. -/
def startAttempt (s : State) (h : CollEntry) : State :=
  let t := mapStrands s s.cur.sid s.cur.ply (grp s) (fun _ t => { t with faults := t.faults.filter (fun f => f.att != some (h.bind, h.attempt)) })
  { t with colls := Tbl.set CollEntry.none t.colls (collKey (curSkein s).part h.id) { h with attempt := h.attempt + 1 } }

section
variable {s : State} {d : BitVec 5} (hu : uniFree s .user [] [d.toNat])
include hu

theorem exec_collhAbort_unbound (hb : boundColl s (curSkein s) = none) : exec (.collhAbort d) s = .next (trapAll s .prot 0) := by
  refine congrArg Host.Outcome.next ((uniEnter_free _ rfl hu (by simp) (by simp)).trans ?_)
  simp only [hb]

/-- With no COLL of the group left in the bound attempt, COLLH.ABORT starts the next one. -/
theorem exec_collhAbort_drained {h : CollEntry} (hb : boundColl s (curSkein s) = some h)
    (hdone : ∀ w ∈ s.collWaits, w.sid = s.cur.sid → w.ply = s.cur.ply → w.bind = h.bind → w.attempt = h.attempt.toNat →
      ∀ l ∈ w.lanes, l.1 ∉ grp s) :
    exec (.collhAbort d) s = .next (uniResult (startAttempt s h) d.toNat ((h.attempt + 1).setWidth 64)) := by
  refine congrArg Host.Outcome.next ((uniEnter_free _ rfl hu (by simp) (by simp)).trans ?_)
  simp only [hb]
  refine if_neg ?_
  simp only [List.any_eq_true, Bool.and_eq_true, beq_iff_eq, List.contains_iff_mem]
  rintro ⟨w, hw, ⟨⟨⟨hsid, hply⟩, hbind⟩, hatt⟩, l, hl, hmine⟩
  exact hdone w hw hsid hply hbind hatt l hl hmine

end

/-! ## COLLH.TREE (11 R211) -/

/-- Of a word below 2^33, the bits that 11 R211 reserves are zero. -/
theorem fieldOf_treeWord {n : Nat} (h : n < 2 ^ 33) : fieldOf n 33 31 = 0 := by
  rw [fieldOf, Nat.shiftRight_eq_div_pow, Nat.div_eq_of_lt h, Nat.zero_mod]

/-- COLLH.TREE whose operands pass the checks of 11 R211 runs as a copy of the group under the bound handle. -/
theorem exec_collhTree {s : State} {d a b : BitVec 5} {c : BitVec 6} {e : BitVec 1} {h : CollEntry}
    (hu : uniFree s .user [d.toNat, a.toNat, b.toNat] []) (hb : boundColl s (curSkein s) = some h) (hw : (wReg s b.toNat).toNat < 2 ^ 33)
    (hlen : (wReg s b.toNat).toNat % 4 = 0) (hdst : (wReg s d.toNat).toNat % 4 = 0) (hsrc : (wReg s a.toNat).toNat % 4 = 0)
    (hdlim : (wReg s d.toNat).toNat < 2 ^ 57) (hslim : (wReg s a.toNat).toNat < 2 ^ 57) (hroom : copyFull s = false) :
    exec (.collhTree d a b c e) s = .next (retire (enterCopy (raiseCp s)
      { newCopy s .tree ((0 : BitVec 2) ++ e ++ c) (wReg s d.toNat) (wReg s a.toNat) (wReg s b.toNat) (dw (h.nrankm1 + 1)) with
        bind := h.bind }) 4) := by
  refine congrArg Host.Outcome.next ((uniEnter_free _ rfl hu (by simp) (by simp)).trans ?_)
  simp only [hb]
  refine (if_neg (not_not_intro (fieldOf_treeWord hw))).trans ((if_neg (not_not_intro hdst)).trans ((if_neg (not_not_intro hsrc)).trans ?_))
  refine (if_neg (not_not_intro hlen)).trans ((if_neg (Nat.not_le.2 hslim)).trans ((if_neg (Nat.not_le.2 hdlim)).trans ?_))
  exact if_neg (Bool.eq_false_iff.1 hroom)

/-- Settles O36: COLLH by `exec_collh_busy` and `exec_collh_idle`, its bind by `bindEntry`, the other words by their equations. -/
theorem collectiveHandleResults : Obligations.collective_handle_results := by
  intro s d a b c e
  refine ⟨fun _ hb hc hu => exec_collh_busy hu hb hc, fun hu hc => exec_collh_idle (uniFree_w0 hu) hc, fun xs => ?_,
    exec_collhAbort_unbound, fun _ hu => exec_collhAbort_drained hu, fun _ => exec_collhTree, fun _ => colling_iff⟩
  intro va u r k h hu ha hc hal hreads hbad hdet hfree l hl
  calc exec (.collh a) s
    _ = .next (bindHandle va u) := (exec_collh_idle hu hc).trans (congrArg _ (if_neg ha))
    _ = .next (bindEntry r.2 va h) := congrArg _ (bindHandle_reads hal hreads)
    _ = _ := congrArg _ (bindEntry_binds hbad hdet (handleTaken_eq_false_iff.2 hfree) hl)

end Sys2Proof.Machine
end

section
/-! Meeting and exit (O25): TWIST, SBAR, EXIT and UOWN once the checks of 08 R136 have passed. -/

namespace Sys2Proof.Machine

/-! ## What lines written back leave alone (02 R55) -/

/-- A later state differs from `s` in nothing but what writes of L1 lines at their homes change: memory, its poison and the lines held
there, the L1 lines, the address that stops the machine, and what an event changes. -/
def homePart (s t : State) : Prop := t = { s with
  mem := t.mem, bad := t.bad, mere := t.mere, l1 := t.l1, badPa := t.badPa, parts := t.parts, hostOut := t.hostOut, evHeld := t.evHeld }

theorem homePart_refl (s : State) : homePart s s := rfl

theorem homePart_trans {s t u : State} (h : homePart s t) (k : homePart t u) : homePart s u := by
  unfold homePart at *
  rw [k, h]

theorem homePart_of_eventPart {s t : State} (h : eventPart s t) : homePart s t := by
  unfold eventPart at h
  unfold homePart
  rw [h]

theorem writeMem_homePart (s : State) (pa : Nat) (data : List PByte) : homePart s (writeMem s pa data) := by
  unfold writeMem
  split
  · rfl
  · split <;> rfl

theorem homePut_homePart (s : State) (pa : Nat) (data : List PByte) : homePart s (homePut s pa data) := by
  unfold homePut
  split
  · exact homePart_of_eventPart (postEvent_eventPart ..)
  · exact writeMem_homePart ..

theorem writeBackLine_homePart (s : State) (l : L1Line) : homePart s (writeBackLine s l) :=
  List.foldlRecOn _ _ (homePart_refl s) (fun _ h _ _ => homePart_trans h (homePut_homePart ..))

theorem writeBack_homePart (s : State) (f : L1Line → Bool) : homePart s (writeBack s f) := by
  have hlines : ∀ ls : List L1Line, homePart s (ls.foldl writeBackLine s) := fun ls =>
    List.foldlRecOn _ _ (homePart_refl s) (fun _ h l _ => homePart_trans h (writeBackLine_homePart _ l))
  exact homePart_trans (hlines _) rfl

theorem writeOrdered_homePart (s : State) (u : Bool) : homePart s (writeOrdered s u) := writeBack_homePart ..

@[simp] theorem writeOrdered_cur (s : State) (u : Bool) : (writeOrdered s u).cur = s.cur := by rw [writeOrdered_homePart s u]

@[simp] theorem grp_writeOrdered (s : State) (u : Bool) : grp (writeOrdered s u) = grp s := by rw [grp, writeOrdered_cur, grp]

@[simp] theorem writeOrdered_strands (s : State) (u : Bool) : (writeOrdered s u).strands = s.strands := by
  rw [writeOrdered_homePart s u]

@[simp] theorem writeOrdered_launches (s : State) (u : Bool) : (writeOrdered s u).launches = s.launches := by
  rw [writeOrdered_homePart s u]

/-! ## TWIST (12 R215) -/

theorem exec_twist {s : State} (h : uniFree s .user [] []) :
    let a := mapStrands s s.cur.sid s.cur.ply (grp s) (fun _ t => { t with wait := .twist })
    let live := liveOfPly a s.cur.sid s.cur.ply
    exec .twist s = .next (if ∀ n ∈ live, (getStrand a (strandKey s.cur.sid s.cur.ply n)).wait = .twist then
      tick (refocus (mapStrands (setParts a s.cur.sid s.cur.ply (byPc a s.cur.sid s.cur.ply live)) s.cur.sid s.cur.ply live
        (fun _ t => { t with wait := .none, pc := t.pc + 4 })))
    else tick a) := by
  refine congrArg Host.Outcome.next ((uniEnter_free _ rfl h (by simp) (by simp)).trans (ite_congr (propext ?_) (fun _ => rfl) (fun _ => rfl)))
  simp only [List.all_eq_true, beq_iff_eq]

/-! ## SBAR (12 R225, 21 R366) -/

theorem waits_iff {s : State} {w : Wait} : waits s w = true ↔ ∀ n ∈ grp s, (curStrand s n).wait = w := by
  simp only [waits, List.all_eq_true, beq_iff_eq]

/-- The release at an arrival moves no strand, so the group waits there as it did before. -/
@[simp] theorem waits_writeOrdered (s : State) (u : Bool) (w : Wait) : waits (writeOrdered s u) w = waits s w := by
  simp only [waits, grp_writeOrdered, curStrand, curKey, getStrand, writeOrdered_cur, writeOrdered_strands]

/-- 12 R225: SBAR is refused outside a co-resident launch, and at level 4 with no handle bound. -/
def sbarRefused (s : State) (l : BitVec 3) : Bool :=
  let la := findLaunch s (curSkein s).launch
  !((la.map Launch.cores).getD false) || (l == 4 && ((la.map (fun x => x.handle)).getD 0) == 0)

theorem sbarRefused_eq_true {s : State} {l : BitVec 3}
    (h : ∀ la, findLaunch s (curSkein s).launch = some la → la.cores = false ∨ (l = 4 ∧ la.handle = 0)) : sbarRefused s l = true := by
  unfold sbarRefused
  cases hla : findLaunch s (curSkein s).launch with
  | none => rfl
  | some la =>
    obtain hc | ⟨rfl, hh⟩ := h la hla
    · simp [hc]
    · simp [hh]

theorem sbarRefused_eq_false {s : State} {l : BitVec 3} {la : Launch} (hla : findLaunch s (curSkein s).launch = some la)
    (hc : la.cores = true) (hh : l = 4 → la.handle ≠ 0) : sbarRefused s l = false := by
  simpa [sbarRefused, hla, hc] using hh

/-- What a group does that arrives at an SBAR, or waits there already: it waits, and the barrier is judged. -/
def meetSbar (s : State) (num lv place : Nat) : State :=
  tick (refocus (judgeSbar (mapStrands (if waits s (.sbar lv place) then s else joinSbar s num lv place) s.cur.sid s.cur.ply (grp s)
    (fun _ t => { t with wait := .sbar lv place })) num lv place))

theorem exec_sbar {s : State} {l : BitVec 3} (hl : 1 ≤ l.toNat ∧ l.toNat ≤ 4) (h : uniFree s .user [] []) : exec (.sbar l) s = .next (
    let place := sbarPlace (curSkein s) l.toNat
    let out := writeOrdered s false
    if sbarRefused s l then trapAll s .prot 0
    else if !(waits out (.sbar l.toNat place)) && unperformed out out.cur.sid out.cur.ply (grp out) then stall out .poll
    else meetSbar out (curSkein s).launch l.toNat place) := by
  have hwf : (Instr.sbar l).wf = true := Bool.and_eq_true_iff.2 ⟨decide_eq_true hl.1, decide_eq_true hl.2⟩
  exact congrArg _ (uniEnter_free _ hwf h (by simp) (by simp))

theorem joinSbar_launches (s : State) (num lv place : Nat) : (joinSbar s num lv place).launches = s.launches := by
  unfold joinSbar
  split <;> rfl

/-- A scope barrier completes once every skein of its launch is placed, where it joins more than a die, and every member has arrived. -/
theorem judgeSbar_eq {s : State} {num : Nat} {la : Launch} (hla : findLaunch s num = some la) (lv place : Nat) :
    judgeSbar s num lv place =
      let ms := sbarMembers s num lv place
      if (lv ≤ 2 ∨ la.total ≤ la.placed) ∧ ∀ m ∈ ms, sbarArrived s lv place m = true then
        ms.foldl (fun b m => releaseMember b (.sbar lv place) m) (dropSbar s num lv place)
      else s := by
  refine ite_congr (propext ?_) (fun _ => rfl) (fun _ => rfl)
  simp only [hla, Option.map_some, Option.getD_some, Bool.and_eq_true, Bool.not_eq_true', Bool.and_eq_false_iff, decide_eq_false_iff_not,
    Nat.not_lt, List.all_eq_true]

section
variable {s : State} {l : BitVec 3} (hl : 1 ≤ l.toNat ∧ l.toNat ≤ 4) (hu : uniFree s .user [] [])
include hl hu

theorem exec_sbar_refused (h : ∀ la, findLaunch s (curSkein s).launch = some la → la.cores = false ∨ (l = 4 ∧ la.handle = 0)) :
    exec (.sbar l) s = .next (trapAll s .prot 0) :=
  (exec_sbar hl hu).trans (congrArg _ (if_pos (sbarRefused_eq_true h)))

variable (hr : sbarRefused s l = false)
include hr

/-- Not yet waiting, the group stalls while an access of it is unperformed (log entry 14). -/
theorem exec_sbar_stalls {out : State} (hout : out = writeOrdered s false) (hun : unperformed out s.cur.sid s.cur.ply (grp s) = true)
    (hw : ∃ n ∈ grp s, (curStrand s n).wait ≠ .sbar l.toNat (sbarPlace (curSkein s) l.toNat)) :
    exec (.sbar l) s = .next (stall out .poll) := by
  subst hout
  have hnew : waits s (.sbar l.toNat (sbarPlace (curSkein s) l.toNat)) = false := by
    obtain ⟨n, hn, hne⟩ := hw
    exact Bool.eq_false_iff.2 fun h => hne (waits_iff.1 h n hn)
  refine (exec_sbar hl hu).trans (congrArg _ ((if_neg (Bool.eq_false_iff.1 hr)).trans (if_pos ?_)))
  rw [waits_writeOrdered, hnew, writeOrdered_cur, grp_writeOrdered]
  exact hun

/-- A group that has nothing left to perform, or waits already, meets the others. -/
theorem exec_sbar_meets (h : unperformed (writeOrdered s false) s.cur.sid s.cur.ply (grp s) = false ∨
      ∀ n ∈ grp s, (curStrand s n).wait = .sbar l.toNat (sbarPlace (curSkein s) l.toNat)) :
    exec (.sbar l) s = .next (meetSbar (writeOrdered s false) (curSkein s).launch l.toNat (sbarPlace (curSkein s) l.toNat)) := by
  refine (exec_sbar hl hu).trans (congrArg _ ((if_neg (Bool.eq_false_iff.1 hr)).trans (if_neg (Bool.eq_false_iff.1 ?_))))
  rw [waits_writeOrdered, writeOrdered_cur, grp_writeOrdered, Bool.and_eq_false_iff, Bool.not_eq_false', waits_iff]
  exact h.symm

end

/-- The group's arrival, with what the barrier then does spelt out. -/
theorem meetSbar_writeOrdered {s : State} {num : Nat} {la : Launch} (hla : findLaunch s num = some la) (lv place : Nat) :
    let out := writeOrdered s false
    let a := mapStrands (if ∀ n ∈ grp s, (curStrand s n).wait = .sbar lv place then out else joinSbar out num lv place)
      s.cur.sid s.cur.ply (grp s) (fun _ t => { t with wait := .sbar lv place })
    let ms := sbarMembers a num lv place
    meetSbar out num lv place = tick (refocus
      (if (lv ≤ 2 ∨ la.total ≤ la.placed) ∧ ∀ m ∈ ms, sbarArrived a lv place m = true
        then ms.foldl (fun b m => releaseMember b (.sbar lv place) m) (dropSbar a num lv place) else a)) := by
  intro out a ms
  have hlaunches : a.launches = s.launches := by
    rw [mapStrands_launches]
    split
    · exact writeOrdered_launches ..
    · rw [joinSbar_launches, writeOrdered_launches]
  have ha : findLaunch a num = some la := by rw [findLaunch, hlaunches]; exact hla
  have hjoin : (if waits out (.sbar lv place) then out else joinSbar out num lv place) =
      if ∀ n ∈ grp s, (curStrand s n).wait = .sbar lv place then out else joinSbar out num lv place :=
    ite_congr (propext (by rw [waits_writeOrdered, waits_iff])) (fun _ => rfl) (fun _ => rfl)
  rw [← judgeSbar_eq ha, meetSbar, hjoin, grp_writeOrdered, writeOrdered_cur]

/-- 12 R225, log entry 30: the generation that an arrival joins has the skeins placed there now and, while it is under way, those that
earlier arrivals have joined. -/
theorem sbarAt_joinSbar (s : State) {num lv place : Nat} (hlv : lv ≤ 2) : ∃ g, sbarAt (joinSbar s num lv place) num lv place = some g ∧
    ∀ m, m ∈ g.members ↔ m ∈ placedAt s num lv place ∨
      (sbarOpen s num lv place = true ∧ ∃ o, sbarAt s num lv place = some o ∧ m ∈ o.members) := by
  let old := if sbarOpen s num lv place then ((sbarAt s num lv place).map (fun b => b.members)).getD [] else []
  refine ⟨{ launch := num, level := lv, place := place, members := (old ++ placedAt s num lv place).eraseDups }, ?_, fun m => ?_⟩
  · have hgone : (dropSbar s num lv place).sbars.find? (fun b => b.launch == num && b.level == lv && b.place == place) = none := by
      rw [List.find?_eq_none]
      intro b hb
      obtain ⟨-, hother⟩ := List.mem_filter.1 hb
      rwa [Bool.not_eq_true', ← Bool.not_eq_true] at hother
    rw [joinSbar, if_neg (Nat.not_lt.2 hlv), sbarAt, List.find?_append, hgone]
    simp [old]
  · rw [List.mem_eraseDups, List.mem_append, or_comm]
    refine or_congr_right ?_
    dsimp only [old]
    cases sbarOpen s num lv place <;> cases sbarAt s num lv place <;> simp

/-! ## EXIT (21 R361) -/

theorem copyFault_none {t : Strand} (h : t.faults = []) : t.copyFault = none := by
  rw [Strand.copyFault, h]
  rfl

theorem fieldFault_none {t : Strand} (h : ∀ y ∈ t.xfers, y.failed = 0) : t.fieldFault = none := by
  have hfailed : t.failedXfer = none := List.find?_eq_none.2 fun y hy => by rw [h y hy]; decide
  rw [Strand.fieldFault, hfailed]
  rfl

/-- A fault that no strand of the group has is due in none. -/
theorem atRest_none {s : State} {f : Strand → Option TrapInfo} (h : ∀ n ∈ grp s, f (curStrand s n) = none) :
    (grp s).any (fun n => ((curStrand s n).atRest f).isSome) = false := by
  rw [List.any_eq_false]
  intro n hn
  rw [Strand.atRest, h n hn, ite_self]
  exact Bool.false_ne_true

theorem exitFaults_none {s : State} (k : State → State)
    (h : ∀ n ∈ grp s, (curStrand s n).faults = [] ∧ ∀ y ∈ (curStrand s n).xfers, y.failed = 0) : exitFaults s k = k s := by
  have hcopy := atRest_none fun n hn => copyFault_none (h n hn).1
  have hfield := atRest_none fun n hn => fieldFault_none (h n hn).2
  simp only [exitFaults, hcopy, hfield, Bool.false_eq_true, if_false]

section
variable {s : State} (hu : uniFree s .user [] [])
include hu

/-- EXIT is no word of a handler or of H mode. -/
theorem exec_exit_illegal (h : ∃ n ∈ grp s, (curStrand s n).edepth ≠ 0 ∨ (curStrand s n).mode = .hypervisor) :
    exec .exit s = .next (trapAll s .illegal (instrWord .exit)) := by
  refine congrArg Host.Outcome.next ((uniEnter_free _ rfl hu (by simp) (by simp)).trans (if_pos ?_))
  simpa only [List.any_eq_true, Bool.or_eq_true, bne_iff_ne, beq_iff_eq] using h

/-- With every counter zero and no fault to deliver, the whole group ends. -/
theorem exec_exit_ends (h : ∀ n ∈ grp s, (curStrand s n).edepth = 0 ∧ (curStrand s n).mode ≠ .hypervisor ∧ (curStrand s n).faults = [] ∧
      (curStrand s n).idle = true ∧ ∀ y ∈ (curStrand s n).xfers, y.failed = 0) (hne : grp s ≠ []) :
    exec .exit s = .next (tick (let b := endStrands s s.cur.sid s.cur.ply (grp s)
      { b with cur := { b.cur with strands := [] } })) := by
  have hlegal : (grp s).any (fun n => (curStrand s n).edepth != 0 || (curStrand s n).mode == .hypervisor) = false := by
    simp only [List.any_eq_false, Bool.or_eq_true, bne_iff_ne, beq_iff_eq, not_or, ne_eq, Decidable.not_not]
    intro n hn
    obtain ⟨hdepth, hmode, -⟩ := h n hn
    exact ⟨hdepth, hmode⟩
  have hfaults : ∀ n ∈ grp s, (curStrand s n).faults = [] ∧ ∀ y ∈ (curStrand s n).xfers, y.failed = 0 := fun n hn => by
    obtain ⟨-, -, hcopy, -, hfield⟩ := h n hn
    exact ⟨hcopy, hfield⟩
  have hidle : ∀ n ∈ grp s, (curStrand s n).idle = true := fun n hn => by
    obtain ⟨-, -, -, hzero, -⟩ := h n hn
    exact hzero
  have hout : (grp s).filter (fun n => (curStrand s n).idle) = grp s := List.filter_eq_self.2 hidle
  have hleft : (grp s).filter (fun n => !(curStrand s n).idle) = [] :=
    List.filter_eq_nil_iff.2 fun n hn => by rw [hidle n hn]; exact Bool.false_ne_true
  refine congrArg Host.Outcome.next ((uniEnter_free _ rfl hu (by simp) (by simp)).trans ((if_neg (Bool.eq_false_iff.1 hlegal)).trans ?_))
  rw [exitFaults_none _ hfaults, hout, hleft]
  exact if_neg (mt List.isEmpty_iff.1 hne)

end

/-! ## UOWN (21 R367) -/

theorem mem_rangeFrom {w a n : Nat} : w ∈ rangeFrom a n ↔ a ≤ w ∧ w < a + n := by
  induction n generalizing a with
  | zero => rw [rangeFrom]; simp
  | succ n ih =>
    rw [rangeFrom, List.mem_cons, ih]
    omega

theorem mem_namedW {m : DWord} {w : Nat} : w ∈ namedW m ↔ 1 ≤ w ∧ w < 32 ∧ m.getLsbD w = true := by
  rw [namedW, List.mem_filter, mem_rangeFrom, and_assoc]

/-- UOWN of registers that the ply is the writer of makes the named ply their writer. -/
theorem exec_uown {s : State} {a : BitVec 5} {p : BitVec 4} (hu : uniFree s .user [a.toNat] []) (hp : p.toNat < (curSkein s).plies)
    (hw : ∀ w, 1 ≤ w → w < 32 → (wReg s a.toNat).getLsbD w = true → Tbl.get 0 (curSkein s).writer w = s.cur.ply) :
    exec (.uown a p) s = .next (retire (setSkein s s.cur.sid { curSkein s with
      writer := (namedW (wReg s a.toNat)).foldl (fun m w => Tbl.set 0 m w p.toNat) (curSkein s).writer,
      late := (curSkein s).late.filter (fun e => !(e.ply == p.toNat && (namedW (wReg s a.toNat)).contains e.reg)) }) 4) := by
  have hmine : (namedW (wReg s a.toNat)).find? (fun w => Tbl.get 0 (curSkein s).writer w != s.cur.ply) = none := by
    rw [List.find?_eq_none]
    intro w hn
    obtain ⟨hlo, hhi, hbit⟩ := mem_namedW.1 hn
    simpa using hw w hlo hhi hbit
  refine congrArg Host.Outcome.next ((uniEnter_free _ rfl hu (by simp) (by simp)).trans ((if_neg (Nat.not_le.2 hp)).trans ?_))
  simp only [hmine]

/-- Settles O25: TWIST, SBAR, EXIT and UOWN by their equations, an arrival by `sbarAt_joinSbar`. -/
theorem meetingAndExitResults : Obligations.meeting_and_exit_results := by
  intro s
  refine ⟨exec_twist, fun l la hl hu hla hc hh => ?_, fun l hl hu => exec_sbar_refused hl hu, fun b num lv place => sbarAt_joinSbar b,
    fun b w m hm => ?_, exec_exit_ends, exec_exit_illegal, fun a p => exec_uown⟩
  · have hr : sbarRefused s l = false := sbarRefused_eq_false hla hc hh
    exact ⟨fun h => (exec_sbar_meets hl hu hr h).trans (congrArg _ (meetSbar_writeOrdered hla ..)), exec_sbar_stalls hl hu hr rfl⟩
  · simp only [releaseMember, hm, if_true]

end Sys2Proof.Machine
end

section
/-! The scheduling and save events (O51): an equation for each way in which one completes. -/

namespace Sys2Proof.Machine

/-! ## Placement (12 R221) -/

theorem execSkeinPlacement_schedules {s a : State} {p : Nat} {c : Cand} (h : schedule s p = some (c, a)) : execSkeinPlacement p s = .next a := by
  rw [execSkeinPlacement, h]

theorem execSkeinRestore_schedules {s a : State} {sid : Nat} (h : schedule s (getSkein s sid).part = some (.back sid, a)) :
    execSkeinRestore sid s = .next a := by
  simp only [execSkeinRestore, h, if_true]

/-- The first unplaced launch among some candidates. -/
def headFresh (cs : List Cand) : Option Nat :=
  cs.findSome? (fun c => match c with
    | .fresh m => some m
    | .back _ => none)

theorem execPlacementWaitTimeout_starves {s : State} {p m : Nat} {l : Launch} (hm : headFresh (candidates s p) = some m)
    (hl : findLaunch s m = some l) (ht : tryCand s (.fresh l.num) = none) :
    execPlacementWaitTimeout p s = .next (setLaunch s { l with starved := true }) := by
  have hhead : execPlacementWaitTimeout p s = .next (match (headFresh (candidates s p)).bind (findLaunch s) with
    | some l => if (tryCand s (.fresh l.num)).isNone then setLaunch s { l with starved := true } else s
    | none => s) := rfl
  rw [hhead, hm, Option.bind_some, hl]
  simp only [ht, Option.isNone_none, if_true]

/-! ## Active and pending plies (12 R223) -/

/-- Some element of a list has the least figure. -/
theorem exists_least {α : Type} (f : α → Nat) {l : List α} (h : l ≠ []) : ∃ e ∈ l, ∀ x ∈ l, f e ≤ f x := by
  induction l with
  | nil => exact absurd rfl h
  | cons a t ih =>
    by_cases ht : t = []
    · exact ⟨a, List.mem_cons_self, by simp [ht]⟩
    · obtain ⟨e, he, hmin⟩ := ih ht
      by_cases hle : f a ≤ f e
      · exact ⟨a, List.mem_cons_self, List.forall_mem_cons.2 ⟨Nat.le_refl _, fun x hx => Nat.le_trans hle (hmin x hx)⟩⟩
      · exact ⟨e, List.mem_cons_of_mem _ he, List.forall_mem_cons.2 ⟨Nat.le_of_not_le hle, hmin⟩⟩

section
variable {s : State} {core : Nat} {e : Nat × Nat} {f : Nat × Nat → Bool} {till : DWord}

theorem promote_free (h : activePlies s core < 8) : promote s core (some e) f till = takeSlot s e till := if_pos h

theorem promote_swaps {v : Nat × Nat} (h : 8 ≤ activePlies s core) (hv : (pliesOf s core true).reverse.find? f = some v) :
    promote s core (some e) f till = takeSlot (giveSlot s v) e till := by
  refine (if_neg (Nat.not_lt.2 h)).trans ?_
  rw [hv]

theorem execPlySwap_head (h : (readyPending s core).head? = some e) :
    execPlySwap core s = .next (promote s core (some e) (fun e => plyStuck s e.1 e.2) 0) := by
  rw [execPlySwap, h]

theorem execPlyAntiStarvation_longest (h : longestPending s core = some e) :
    execPlyAntiStarvation core s = .next (promote s core (some e) (fun e => !(keepsSlot s e)) (s.cycle + 64)) := by
  rw [execPlyAntiStarvation, h]

theorem longestPending_some (h : longestPending s core = some e) :
    e ∈ readyPending s core ∧ ∀ x ∈ readyPending s core, pendSince s e ≤ pendSince s x := by
  refine ⟨List.mem_of_find?_eq_some h, ?_⟩
  simpa only [List.all_eq_true, decide_eq_true_eq] using List.find?_some h

theorem exists_longestPending (h : readyPending s core ≠ []) : ∃ e, longestPending s core = some e := by
  obtain ⟨e, he, hmin⟩ := exists_least (pendSince s) h
  refine Option.isSome_iff_exists.1 (List.find?_isSome.2 ⟨e, he, ?_⟩)
  simpa only [List.all_eq_true, decide_eq_true_eq] using hmin

end

/-! ## Register requests (07 R125) -/

section
variable {s : State} {core sid ply strand need : Nat} {ns : List Nat} (hone : growRequests s core = [(sid, ply, strand, need)])
  (hns : (partsOf (getSkein s sid) ply).find? (fun ns => ns.contains strand) = some ns) (hok : growBad (getSkein s sid) need = false)
include hone hok

theorem execRgrowGrant_waits (hf : growFits s (getSkein s sid) need = false) : execRgrowGrant core s = .next s := by
  rw [execRgrowGrant, hone]
  simp only [grantAll, hok, hf, Bool.false_eq_true, if_false]

include hns

theorem execRgrowGrant_grants (hf : growFits s (getSkein s sid) need = true) : execRgrowGrant core s =
    .next (mapStrands (growBy s sid need) sid ply ns (fun _ t => { t with wait := .none, pc := t.pc + 4 })) := by
  rw [execRgrowGrant, hone]
  simp only [grantAll, hok, hf, hns, Bool.false_eq_true, if_false, if_true, Option.getD_some]

end

theorem execRgrowDeadlockBreak_saves {s : State} {core sid : Nat} {rs : List Nat} (hs : sortBy (goesBefore s) (residentOn s core) = rs ++ [sid])
    (hb : ∀ x ∈ residentOn s core, growBlocked s x = true ∧ (getSkein s x).saving = none) :
    execRgrowDeadlockBreak core s = .next (setSkein s sid { getSkein s sid with saving := some .deadlock }) := by
  have hall : ((residentOn s core).all (growBlocked s) && (residentOn s core).all (fun sid => (getSkein s sid).saving.isNone)) = true := by
    simp only [Bool.and_eq_true, List.all_eq_true, Option.isNone_iff_eq_none]
    exact ⟨fun x hx => (hb x hx).1, fun x hx => (hb x hx).2⟩
  refine congrArg Host.Outcome.next ((if_pos hall).trans ?_)
  rw [hs, List.getLast?_concat]

/-! ## Saves (14 R256, R261) -/

theorem execSkeinSave_saves {s : State} {sid : Nat} (hs : (getSkein s sid).saving.isSome = true) (hp : (getSkein s sid).place = .resident)
    (hc : coreStopped s (getSkein s sid).core = false) (hd : skeinDrained s sid = true) : execSkeinSave sid s = .next (saveSkein s sid) := by
  simp only [execSkeinSave, hs, hp, hc, hd, beq_self_eq_true, Bool.not_false, Bool.and_self, if_true]

theorem execSkeinSave_stopped {s : State} {sid : Nat} (hc : coreStopped s (getSkein s sid).core = true) : execSkeinSave sid s = .next s := by
  simp only [execSkeinSave, hc, Bool.not_true, Bool.and_false, Bool.false_and, Bool.false_eq_true, if_false]

theorem execSaveStopTimeout_fails {s : State} {sid : Nat} (hs : (getSkein s sid).saving.isSome = true) (hd : skeinDrained s sid = false) :
    execSaveStopTimeout sid s = .next (failSave s sid) := by
  simp only [execSaveStopTimeout, hs, hd, Bool.not_false, Bool.and_self, if_true]

/-! ## Poison (14 R265, 15 R276) -/

theorem poisonDue_iff {s : State} {sid : Nat} {t : Strand} : poisonDue s sid t = true ↔ t.alive = true ∧
    (t.newDead ≠ 0 ∨ t.foldBad.isSome = true) ∧ (getSkein s sid).place = .resident ∧ t.wait.sleeps = false ∧ t.wait.begun = false := by
  simp only [poisonDue, Bool.and_eq_true, Bool.or_eq_true, bne_iff_ne, beq_iff_eq, Bool.not_eq_true', and_assoc, ne_eq]

section
variable {s : State} {sid ply n : Nat} {t : Strand} (ht : getStrand s (strandKey sid ply n) = t) (h : poisonDue s sid t = true)
include ht h

theorem execPoisonTrap_dead (hd : t.newDead ≠ 0) : execPoisonTrap sid ply n s =
    .next (trapOne (setStrand s (strandKey sid ply n) { t with newDead := 0, poisonAddr := 0 }) sid ply n
      { trapOf t.newDead .poison t.pc t.poisonAddr with top := ~~~ t.dead }) := by
  subst ht
  refine congrArg Host.Outcome.next ((if_neg ?_).trans (if_pos hd))
  rw [h]
  exact Bool.false_ne_true

theorem execPoisonTrap_folded (hd : t.newDead = 0) : execPoisonTrap sid ply n s =
    .next (trapOne (setStrand s (strandKey sid ply n) { t with foldBad := none }) sid ply n
      { trapOf t.liveLanes .poison t.pc (t.foldBad.getD 0) with top := ~~~ t.dead }) := by
  subst ht
  refine congrArg Host.Outcome.next ((if_neg ?_).trans (if_neg (not_not_intro hd)))
  rw [h]
  exact Bool.false_ne_true

end

/-! ## Pre-emption and time slices (14 R260, R262) -/

/-- A partition that is not as at reset has an entry of its own, which reads as written. -/
theorem getPart_setPart_of_ne_reset {x : Partition} (h : x ≠ Partition.reset) (s : State) (p : Nat) : getPart (setPart s p x) p = x := by
  simp only [getPart, setPart, Tbl.set, h, if_false, Tbl.get_put_self]

theorem ne_reset_of_preReq {x : Partition} (h : x.preReq = true) : x ≠ Partition.reset := by
  rintro rfl
  cases h

theorem ne_reset_of_dbgHalt {x : Partition} (h : x.dbgHalt = true) : x ≠ Partition.reset := by
  rintro rfl
  cases h

theorem prectlSet_req {s : State} {p : Nat} {w : DWord} (hw : w.getLsbD 0 = true) (hq : (getPart s p).preReq = false) :
    let x := getPart (prectlSet s p w) p
    x.preReq = true ∧ x.preState = 1 ∧ x.preTarget = (w.extractLsb' 32 16).toNat := by
  simp only [prectlSet, hw, hq, Bool.and_false, Bool.false_eq_true, if_false, if_true]
  rw [getPart_setPart_of_ne_reset (ne_reset_of_preReq rfl)]
  exact ⟨rfl, rfl, rfl⟩

/-- A write of RESUME alone releases every hold (log entry 23). -/
theorem prectlSet_resume {s : State} {p : Nat} {w : DWord} (h0 : w.getLsbD 0 = false) (h1 : w.getLsbD 1 = true)
    (hp : (getPart s p).present = true) : (getPart (prectlSet s p w) p).preHeld = [] := by
  simp only [prectlSet, h0, h1, Bool.false_and, Bool.false_eq_true, if_false, if_true]
  exact congrArg Partition.preHeld (getPart_setPart_self (by exact hp) s p)

theorem execPreemptDeadline_done {s : State} {p : Nat} (h : (getPart s p).preState = 1 ∨ (getPart s p).preState = 2)
    (ht : preTargets s p (getPart s p).preTarget = []) : execPreemptDeadline p s = .next (endPreempt s p 3) :=
  congrArg Host.Outcome.next ((if_pos h).trans (if_pos (List.isEmpty_iff.2 ht)))

theorem execSliceExpiry_idle {s : State} {p : Nat} (h : (getPart s p).sliceLen = 0 ∨ (getPart s p).preReq = true) :
    execSliceExpiry p s = .next s := by
  refine congrArg Host.Outcome.next (if_pos ?_)
  simpa only [Bool.or_eq_true, decide_eq_true_eq] using h

theorem sliceTarget_runs {s : State} {p c : Nat} (h : sliceTarget s p = some c) : runsOn s p c = true := by
  have hpick := List.find?_some (show List.find? _ (getPart s p).running = some c from h)
  exact (Bool.and_eq_true_iff.1 hpick).1

theorem sliceTarget_none {s : State} {p : Nat} (h : ∀ c ∈ (getPart s p).running, runsOn s p c = false) : sliceTarget s p = none :=
  List.find?_eq_none.2 fun c hc => by rw [h c hc, Bool.false_and]; exact Bool.false_ne_true

/-- A partition whose context `c` has had its slice: the context is pre-empted (14 R262). -/
def Partition.expire (x : Partition) (c : Nat) : Partition :=
  { x with preReq := true, preState := 1, preSaved := 0, preHeld := x.preHeld ++ [c], preTarget := c, preSlice := true }

theorem getPart_expire (s : State) (p : Nat) (x : Partition) (c : Nat) : getPart (setPart s p (x.expire c)) p = x.expire c :=
  getPart_setPart_of_ne_reset (ne_reset_of_preReq rfl) s p

theorem execSliceExpiry_expires {s : State} {p c : Nat} (hl : (getPart s p).sliceLen ≠ 0) (hq : (getPart s p).preReq = false)
    (hc : sliceTarget s p = some c) : execSliceExpiry p s = .next (setPart s p ((getPart s p).expire c)) := by
  have hrun : ¬(decide ((getPart s p).sliceLen = 0) || (getPart s p).preReq) = true := by
    rw [hq, Bool.or_false, decide_eq_true_iff]
    exact hl
  refine congrArg Host.Outcome.next ((if_neg hrun).trans ?_)
  rw [hc]
  rfl

/-! ## The debugger (14 R263) -/

theorem ne_reset_of_saving {k : Skein} {r : SaveReason} (h : k.saving = some r) : k ≠ Skein.reset := by
  rintro rfl
  cases h

theorem getSkein_setSkein_saving {k : Skein} {r : SaveReason} (h : k.saving = some r) (s : State) (sid : Nat) :
    getSkein (setSkein s sid k) sid = k := by
  simp only [getSkein, setSkein, Tbl.set, ne_reset_of_saving h, if_false, Tbl.get_put_self]

/-- What stops one skein leaves every other as it was. -/
theorem getSkein_setSkein_saving_ne {k : Skein} {r : SaveReason} (h : k.saving = some r) (s : State) {sid other : Nat} (hne : other ≠ sid) :
    getSkein (setSkein s sid k) other = getSkein s other := by
  simp only [getSkein, setSkein, Tbl.set, ne_reset_of_saving h, if_false, Tbl.get_put_ne _ _ _ hne]

/-- One skein told to stop. -/
def stopSkein (r : SaveReason) (s : State) (sid : Nat) : State :=
  let k := getSkein s sid
  if k.place = .resident ∧ k.saving = none then setSkein s sid { k with saving := some r } else s

theorem stopSkein_other (r : SaveReason) (s : State) {sid other : Nat} (hne : other ≠ sid) :
    getSkein (stopSkein r s sid) other = getSkein s other := by
  unfold stopSkein
  dsimp only
  split
  · exact getSkein_setSkein_saving_ne rfl s hne
  · rfl

theorem stopSkein_stops {r : SaveReason} {s : State} {sid : Nat} (hp : (getSkein s sid).place = .resident) (hs : (getSkein s sid).saving = none) :
    (getSkein (stopSkein r s sid) sid).saving = some r := by
  rw [stopSkein, if_pos ⟨hp, hs⟩, getSkein_setSkein_saving rfl]

theorem stopSkein_stopped {r q : SaveReason} {s : State} {sid : Nat} (hs : (getSkein s sid).saving = some q) : stopSkein r s sid = s := by
  refine if_neg fun h => ?_
  rw [hs] at h
  exact nomatch h.2

theorem stopSkeins_parts (s : State) (sids : List Nat) (r : SaveReason) : (stopSkeins s sids r).parts = s.parts := by
  refine List.foldlRecOn sids (stopSkein r) (motive := fun a => a.parts = s.parts) rfl fun a ha sid _ => ?_
  unfold stopSkein
  dsimp only
  split
  · exact ha
  · exact ha

/-- A skein that is being saved already is not stopped anew (14 R264). -/
theorem stopSkeins_stopped {r : SaveReason} {sid : Nat} (sids : List Nat) {s : State} (hs : (getSkein s sid).saving = some r) :
    (getSkein (stopSkeins s sids r) sid).saving = some r := by
  refine List.foldlRecOn sids (stopSkein r) (motive := fun a => (getSkein a sid).saving = some r) hs fun a ha x _ => ?_
  by_cases hx : sid = x
  · subst hx
    rwa [stopSkein_stopped ha]
  · rwa [stopSkein_other r a hx]

theorem stopSkeins_stops {r : SaveReason} {sid : Nat} {sids : List Nat} {s : State} (hmem : sid ∈ sids)
    (hp : (getSkein s sid).place = .resident) (hs : (getSkein s sid).saving = none) :
    (getSkein (stopSkeins s sids r) sid).saving = some r := by
  induction sids generalizing s with
  | nil => cases hmem
  | cons x xs ih =>
    by_cases hx : sid = x
    · subst hx
      exact stopSkeins_stopped xs (stopSkein_stops hp hs)
    · have hsame := stopSkein_other r s hx
      exact ih ((List.mem_cons.1 hmem).resolve_left hx) (hsame ▸ hp) (hsame ▸ hs)

theorem dbgctlSet_halts {s : State} {p : Nat} {w : DWord} (hw : w.getLsbD 24 = true) :
    (getPart (dbgctlSet s p w) p).dbgHalt = true ∧ (getPart (dbgctlSet s p w) p).dbgLaunch = w.extractLsb' 0 24 := by
  have hset : getPart (setPart s p { getPart s p with dbgHalt := true, dbgLaunch := w.extractLsb' 0 24 }) p =
      { getPart s p with dbgHalt := true, dbgLaunch := w.extractLsb' 0 24 } :=
    getPart_setPart_of_ne_reset (ne_reset_of_dbgHalt rfl) s p
  have hpart : getPart (dbgctlSet s p w) p = { getPart s p with dbgHalt := true, dbgLaunch := w.extractLsb' 0 24 } := by
    simp only [dbgctlSet, hw, if_true]
    rw [getPart, stopSkeins_parts]
    exact hset
  rw [hpart]
  exact ⟨rfl, rfl⟩

theorem dbgctlSet_stops {s : State} {p sid : Nat} {w : DWord} (hw : w.getLsbD 24 = true) (hmem : (sid, getSkein s sid) ∈ s.skeins)
    (hpart : (getSkein s sid).part = p) (hl : (getSkein s sid).launch = (w.extractLsb' 0 24).toNat) (hp : (getSkein s sid).place = .resident)
    (hs : (getSkein s sid).saving = none) : (getSkein (dbgctlSet s p w) sid).saving = some .debug := by
  simp only [dbgctlSet, hw, if_true]
  refine stopSkeins_stops (List.mem_map.2 ⟨(sid, getSkein s sid), List.mem_filter.2 ⟨hmem, ?_⟩, rfl⟩) hp hs
  simp only [hpart, hl, beq_self_eq_true, Bool.and_self]

theorem dbgctlSet_releases {s : State} {p : Nat} {w : DWord} (hw : w.getLsbD 24 = false) (hp : (getPart s p).present = true) :
    (getPart (dbgctlSet s p w) p).dbgHalt = false ∧ (getPart (dbgctlSet s p w) p).dbgLaunch = w.extractLsb' 0 24 := by
  have hset : getPart (dbgctlSet s p w) p = { getPart s p with dbgHalt := false, dbgLaunch := w.extractLsb' 0 24 } := by
    simp only [dbgctlSet, hw, Bool.false_eq_true, if_false]
    exact getPart_setPart_self (by exact hp) s p
  rw [hset]
  exact ⟨rfl, rfl⟩

/-! ## The end of a phase (15 R273, R278) -/

section
variable {s a : State} {num : Nat} {l : Launch}
  (ha : a = ((skeinsOf s num).filter (fun sid => (getSkein s sid).place == .resident)).foldl commitSkein s) (hl : findLaunch a num = some l)
  (hdet : l.det = true) (hplaced : l.total ≤ l.placed) (hne : skeinsOf a num ≠ []) (hph : l.phase < l.nphase)
  (hall : ∀ x ∈ skeinsOf a num, (getSkein a x).committed = true ∧ (getSkein a x).phase = l.phase)
include ha hl hdet hplaced hne hph hall

/-- With every skein committed the phase is executed again, where the launch's mode asks for it, or settled. -/
theorem execPhaseAllCommitted_done : execPhaseAllCommitted num s = .next (
    let wrong := (skeinsOf a num).any (fun sid => loggedDigest a l l.phase (getSkein a sid).index != some (getSkein a sid).digest)
    if l.run = 0 && (l.detMode == 3 || (l.detMode == 2 && wrong)) then restartPhase a l else advanceAll (settlePhase a l) num) := by
  have hcommitted : (skeinsOf a num).all (fun sid => (getSkein a sid).committed && (getSkein a sid).phase == l.phase) = true := by
    simpa only [List.all_eq_true, Bool.and_eq_true, beq_iff_eq] using hall
  have hsome : (skeinsOf a num).isEmpty = false := Bool.eq_false_iff.2 (mt List.isEmpty_iff.1 hne)
  subst ha
  simp only [execPhaseAllCommitted, hl, hdet, hcommitted, hsome, decide_eq_true hplaced, decide_eq_true hph, Bool.not_false, Bool.not_true,
    Bool.and_self, Bool.or_self, Bool.false_eq_true, if_false]

theorem execPhaseAllCommitted_restarts (hr : l.run = 0) (hm : l.detMode = 3) : execPhaseAllCommitted num s = .next (restartPhase a l) := by
  refine (execPhaseAllCommitted_done ha hl hdet hplaced hne hph hall).trans (congrArg _ (if_pos ?_))
  simp [hr, hm]

theorem execPhaseAllCommitted_settles (h : l.run ≠ 0 ∨ (l.detMode ≠ 2 ∧ l.detMode ≠ 3)) :
    execPhaseAllCommitted num s = .next (advanceAll (settlePhase a l) num) := by
  refine (execPhaseAllCommitted_done ha hl hdet hplaced hne hph hall).trans (congrArg _ (if_neg ?_))
  obtain hr | ⟨h2, h3⟩ := h
  · simp [hr]
  · simp [h2, h3]

end

/-! ## The words that PRECTL and DBGCTL are written with -/

/-- REQ leaves CTX as it is. -/
theorem extractLsb'_withReq (w : DWord) : (w ||| 1).extractLsb' 32 16 = w.extractLsb' 32 16 := by
  rw [BitVec.extractLsb'_or]
  simp

/-- HALT leaves LAUNCH as it is. -/
theorem extractLsb'_withHalt (w : DWord) : (w ||| 0x1000000).extractLsb' 0 24 = w.extractLsb' 0 24 := by
  rw [BitVec.extractLsb'_or]
  simp

theorem extractLsb'_withoutHalt (w : DWord) : (w &&& ~~~ 0x1000000).extractLsb' 0 24 = w.extractLsb' 0 24 := by
  rw [BitVec.extractLsb'_and]
  exact BitVec.and_allOnes

/-- Settles O51: each event by the equations above. -/
theorem schedulingAndSaveEventResults : Obligations.scheduling_and_save_event_results := by
  intro s p core sid ply strand part num w k t
  refine ⟨fun c a => execSkeinPlacement_schedules, fun a => execSkeinRestore_schedules, fun m l => execPlacementWaitTimeout_starves,
    fun e he => ⟨fun h => (execPlySwap_head he).trans (congrArg _ (promote_free h)),
      fun v h hv => (execPlySwap_head he).trans (congrArg _ (promote_swaps h hv))⟩,
    fun e he => ⟨longestPending_some he, fun h => (execPlyAntiStarvation_longest he).trans (congrArg _ (promote_free h)),
      fun v h hv => (execPlyAntiStarvation_longest he).trans (congrArg _ (promote_swaps h hv))⟩, exists_longestPending, rfl,
    fun ns need hone hns hok => ⟨execRgrowGrant_grants hone hns hok, execRgrowGrant_waits hone hok⟩,
    fun rs => execRgrowDeadlockBreak_saves, ?_, ?_, ?_, fun ht hal hd hf hp hs hb => ?_, fun ht hal hd hp hs hb => ?_, fun hq => ?_,
    fun hp hw => ⟨_, rfl, prectlSet_resume ?_ ?_ hp⟩, execPreemptDeadline_done, execSliceExpiry_idle,
    fun c hl hq hc => ⟨sliceTarget_runs hc, _, execSliceExpiry_expires hl hq hc, ?_⟩, sliceTarget_none, ?_, fun hp => ?_,
    fun l hl hdet hplaced hne hph hall => ⟨execPhaseAllCommitted_restarts rfl hl hdet hplaced hne hph hall,
      execPhaseAllCommitted_settles rfl hl hdet hplaced hne hph hall⟩⟩
  · rintro rfl
    exact execSkeinSave_saves
  · rintro rfl
    exact execSkeinSave_stopped
  · rintro rfl
    exact execSaveStopTimeout_fails
  · exact execPoisonTrap_folded ht (poisonDue_iff.2 ⟨hal, .inr hf, hp, hs, hb⟩) hd
  · exact execPoisonTrap_dead ht (poisonDue_iff.2 ⟨hal, .inl hd, hp, hs, hb⟩) hd
  · refine ⟨_, rfl, ?_⟩
    have hset := prectlSet_req (w := w ||| 1) (by simp) hq
    rwa [extractLsb'_withReq] at hset
  · simpa using hw
  · simp
  · dsimp only
    rw [getPart_expire]
    exact ⟨rfl, rfl, rfl⟩
  · have hon : (w ||| 0x1000000).getLsbD 24 = true := by simp
    obtain ⟨hhalt, hlaunch⟩ := dbgctlSet_halts (s := s) (p := p) hon
    rw [extractLsb'_withHalt] at hlaunch
    refine ⟨_, rfl, hhalt, hlaunch, fun hmem hpart hl hp hs => dbgctlSet_stops hon hmem hpart ?_ hp hs⟩
    rw [extractLsb'_withHalt, hl]
  · have hoff : (w &&& ~~~ 0x1000000).getLsbD 24 = false := by simp
    have hset := dbgctlSet_releases hoff hp
    rw [extractLsb'_withoutHalt] at hset
    exact ⟨_, rfl, hset⟩

end Sys2Proof.Machine
end

section
/-! Traps into their handlers (O59): what a group's traps change, and the words that a lower mode may not run. -/

namespace Sys2Proof.Machine

/-! ## TrapEntry (14 R244, R245) -/

/-- In H mode a trap raises the halt line (14 R244, R267). -/
theorem trapEntry_hypervisor {s : State} {key : Nat} {x : TrapInfo} (h : (getStrand s key).mode = .hypervisor) :
    trapEntry s key x = raiseHalt s key false := by
  simp only [trapEntry, h]

/-- A trap below EDEPTH 2 fills the next trap-state set and enters S mode (14 R244). -/
theorem trapStrand_enters {u v : Strand} {x : TrapInfo} (hv : v = trapStrand u x) (hu : u.edepth ≠ 2) :
    v = { u with
      set1 := v.set1, set2 := v.set2, edepth := u.edepth + 1, mode := .supervisor, pc := u.evec, wait := .none,
      masks := (x.top.setWidth 8 ||| 0x10) :: u.masks, calls := 1 :: u.calls } ∧
    (if u.edepth = 0 then v.set1 else v.set2) =
      { epc := x.epc &&& ~~~ 3, eaddr := x.eaddr, ecause := x.causes, emask := x.mask, prev := u.mode } ∧
    (if u.edepth = 0 then v.set2 else v.set1) = (if u.edepth = 0 then u.set2 else u.set1) := by
  subst hv
  by_cases h0 : u.edepth = 0
  · simp only [trapStrand, if_neg hu, if_pos h0, and_self]
  · simp only [trapStrand, if_neg hu, if_neg h0, and_self]

/-- A trap at EDEPTH 2 enters H mode with NEST, and both sets stay (14 R244, R251). -/
theorem trapStrand_nests {u v : Strand} {x : TrapInfo} (hv : v = trapStrand u x) (hu : u.edepth = 2) :
    v = { u with
      hepc := x.epc, hcause := v.hcause, masks := (u.top.setWidth 8 ||| 0x20) :: u.masks, calls := 2 :: u.calls,
      mode := .hypervisor, pc := u.hvec, wait := .none } ∧ v.hcause.toNat % 256 = 0x16 := by
  subst hv
  rw [trapStrand, if_pos hu]
  refine ⟨rfl, ?_⟩
  simp only [hEntry, BitVec.toNat_ofNat]
  omega

/-! ## The traps of a group (14 R245) -/

/-- The strand of number `n` after the group's traps: it enters its handler where `f` names it. -/
def Strand.trapped (t : Strand) (f : Nat → Option TrapInfo) (n : Nat) : Strand :=
  match f n with
  | some i => trapStrand t i
  | none => t

section
variable {s : State} {f : Nat → Option TrapInfo} (hd : (grp s).Nodup) (hw : Tbl.wf Strand.reset s.strands = true)
  (hlow : ∀ n ∈ grp s, f n ≠ none → (curStrand s n).mode ≠ .hypervisor)
include hd hw hlow

/-- The traps of a group below H mode: its part is split, and each strand that `f` names enters its handler. -/
theorem trapGroup_eq : trapGroup s f =
    tick (mapStrands (splitPart s s.cur.sid s.cur.ply (grp s)
        ((grp s).filter (fun n => (f n).isNone) :: ((grp s).filter (fun n => (f n).isSome)).map (fun n => [n])))
      s.cur.sid s.cur.ply ((grp s).filter (fun n => (f n).isSome)) (fun n t => t.trapped f n)) := by
  have hfold := trapFold_eq (sid := s.cur.sid) (ply := s.cur.ply) f ((grp s).filter (fun n => (f n).isSome))
    (s := splitPart s s.cur.sid s.cur.ply (grp s)
      ((grp s).filter (fun n => (f n).isNone) :: ((grp s).filter (fun n => (f n).isSome)).map (fun n => [n])))
    (fun n hn => hlow n (List.mem_of_mem_filter hn)) (hd.filter _) hw
  rw [List.filter_filter] at hfold
  simp only [Bool.and_self] at hfold
  exact congrArg tick hfold

theorem trapGroup_frame : trapGroup s f = { s with
    strands := (trapGroup s f).strands, skeins := (trapGroup s f).skeins, cur := (trapGroup s f).cur,
    cycle := (trapGroup s f).cycle, ticks := (trapGroup s f).ticks } := by
  rw [trapGroup_eq hd hw hlow, tick, mapStrands_eq]
  rfl

theorem getStrand_trapGroup_ne {key : Nat} (hk : key ∉ (grp s).map (curKey s)) : getStrand (trapGroup s f) key = getStrand s key := by
  rw [trapGroup_eq hd hw hlow]
  refine getStrand_mapStrands_ne (s := splitPart s _ _ _ _) hw _ fun hmem => hk ?_
  obtain ⟨n, hn, rfl⟩ := List.mem_map.1 hmem
  exact List.mem_map_of_mem (List.mem_of_mem_filter hn)

theorem getStrand_trapGroup {n : Nat} (hn : n ∈ grp s) : getStrand (trapGroup s f) (curKey s n) = (curStrand s n).trapped f n := by
  rw [trapGroup_eq hd hw hlow]
  cases hf : f n with
  | some i => exact getStrand_mapStrands (s := splitPart s _ _ _ _) hw _ (hd.filter _) (List.mem_filter.2 ⟨hn, by rw [hf]; rfl⟩)
  | none =>
    refine (getStrand_mapStrands_ne (s := splitPart s _ _ _ _) hw _ fun hmem => ?_).trans (by rw [Strand.trapped, hf]; rfl)
    obtain ⟨m, hm, hkey⟩ := List.mem_map.1 hmem
    obtain ⟨-, hsome⟩ := List.mem_filter.1 hm
    rw [strandKey_inj hkey, hf] at hsome
    cases hsome

end

/-! ## Uniform words and their modes (08 R136, R154) -/

/-- A uniform word that names no register, past the checks of 08 R136. -/
theorem uniEnter_bare {i : Instr} {need : Mode} {s : State} (k : State → State) (hw : i.wf = true) (h : uniFree s need [] []) :
    uniEnter i need [] [] [] [] s k = k s :=
  uniEnter_free k hw h (List.forall_mem_nil _) (List.forall_mem_nil _)

section
variable {s : State} {i : Instr} {tiles accs reads writes : List Nat} (k : State → State)

/-- A word of S mode in a group with a U-mode strand. -/
theorem supervisorWord_priv (h : ∃ n ∈ grp s, (curStrand s n).mode = .user) :
    (.next (uniEnter i .supervisor tiles accs reads writes s k) : Host.Outcome State Fault Refusal) = .next (trapAll s .priv (instrWord i)) := by
  obtain ⟨n, hn, hmode⟩ := h
  exact congrArg _ (uniEnter_priv k hn (by rw [hmode]; rfl))

/-- A word of H mode in a group with a strand below it. -/
theorem hypervisorWord_priv (h : ∃ n ∈ grp s, (curStrand s n).mode ≠ .hypervisor) :
    (.next (uniEnter i .hypervisor tiles accs reads writes s k) : Host.Outcome State Fault Refusal) = .next (trapAll s .priv (instrWord i)) := by
  obtain ⟨n, hn, hmode⟩ := h
  refine congrArg _ (uniEnter_priv k hn ?_)
  cases hm : (curStrand s n).mode with
  | user => rfl
  | supervisor => rfl
  | hypervisor => exact absurd hm hmode

end

/-- Settles O59: `trapGroup` by its strands, and each word by the mode that its entry asks for. -/
theorem trapsEnterTheirHandlers : Obligations.traps_enter_their_handlers := by
  intro s t f key x d a b n q
  refine ⟨trapEntry_hypervisor, ?_, fun h => ?_, fun h => ?_⟩
  · rintro rfl hd hw hlow
    refine ⟨trapGroup_frame hd hw hlow, fun _ => getStrand_trapGroup_ne hd hw hlow, fun n hn => ?_⟩
    have hv := getStrand_trapGroup hd hw hlow hn
    refine ⟨fun hf => hv.trans (by rw [Strand.trapped, hf]), fun x hf => ?_⟩
    have htrap : getStrand (trapGroup s f) (curKey s n) = trapStrand (curStrand s n) x := hv.trans (by rw [Strand.trapped, hf])
    exact ⟨trapStrand_enters htrap, trapStrand_nests htrap⟩
  · exact ⟨supervisorWord_priv _ h, supervisorWord_priv _ h, supervisorWord_priv _ h, supervisorWord_priv _ h, supervisorWord_priv _ h,
      supervisorWord_priv _ h, supervisorWord_priv _ h, supervisorWord_priv _ h, supervisorWord_priv _ h, supervisorWord_priv _ h,
      supervisorWord_priv _ h, supervisorWord_priv _ h, supervisorWord_priv _ h, supervisorWord_priv _ h⟩
  · exact ⟨hypervisorWord_priv _ h, hypervisorWord_priv _ h, hypervisorWord_priv _ h, hypervisorWord_priv _ h⟩

end Sys2Proof.Machine
end

section
/-! SYSC, BRK and COLL (O33): what each word does once the checks of 08 R136 have passed. -/

namespace Sys2Proof.Machine

theorem acting_eq_nil_iff {s : State} {g : Guard} : acting s g = [] ↔ ∀ n ∈ grp s, (curStrand s n).active g = 0 := by
  simp [acting, List.filter_eq_nil_iff]

/-! ## SYSC and BRK (14 R248, 22 R386) -/

/-- The strands of the group with no active lane pass over a word of 4 bytes. -/
def passOver (s : State) (g : Guard) : State :=
  mapStrands s s.cur.sid s.cur.ply ((grp s).filter (fun n => (curStrand s n).active g == 0)) (fun _ t => { t with pc := t.pc + 4, wait := .none })

/-- SYSC's trap of a strand with an active lane: EPC stands behind the word (14 R248). -/
def syscTrap (s : State) (g : Guard) (i : BitVec 8) (n : Nat) : Option TrapInfo :=
  let t := curStrand s n
  if t.active g = 0 then none else some (trapOf (t.active g) .sysc (t.pc + 4) (i.setWidth 64))

section
variable {s : State} {g : Guard} {i : BitVec 8} (h : laneFree s g .user [] [])
include h

theorem exec_sysc : exec (.sysc g i) s = .next (
    if ((grp s).filter (fun n => (curStrand s n).active g == 0)).length = (grp s).length then tick (passOver s g)
    else trapGroup (passOver s g) (syscTrap s g i)) :=
  congrArg Host.Outcome.next (laneEnter_free _ rfl ⟨by simp, by simp, by simp⟩ h rfl (fun h8 => nomatch h8) (fun _ hw => nomatch hw))

theorem exec_sysc_traps (ha : acting s g ≠ []) : exec (.sysc g i) s = .next (trapGroup (passOver s g) (syscTrap s g i)) := by
  rw [exec_sysc h, if_neg]
  intro hall
  rw [List.length_filter_eq_length_iff] at hall
  exact ha (acting_eq_nil_iff.2 fun n hn => by simpa using hall n hn)

theorem exec_sysc_passes (ha : acting s g = []) : exec (.sysc g i) s = .next (retire s 4) := by
  have hall : (grp s).filter (fun n => (curStrand s n).active g == 0) = grp s :=
    List.filter_eq_self.2 fun n hn => by simpa using acting_eq_nil_iff.1 ha n hn
  rw [exec_sysc h, passOver, hall, if_pos rfl]
  rfl

end

theorem exec_brk {s : State} {m : BitVec 9} (h : uniFree s .user [] []) : exec (.brk m) s = .next (trapAll s .brk (m.setWidth 64)) :=
  congrArg _ (uniEnter_bare _ rfl h)

/-! ## COLL (11 R203, R207 to R209) -/

theorem lanesOf_eq_nil_iff : ∀ {m : BitVec 4}, lanesOf m = [] ↔ m = 0 := by decide

theorem collLanes_eq_nil_iff {s : State} {g : Guard} {d a b : BitVec 6} : collLanes s g d a b = [] ↔ acting s g = [] := by
  simp only [collLanes, List.flatMap_eq_nil_iff, List.map_eq_nil_iff, lanesOf_eq_nil_iff, acting_eq_nil_iff]

/-- The lookup of a lane's member package, as COLL's load of its entry in the list (11 R203). -/
def memberCheck (s : State) (e : CollEntry) (l : Nat × Nat × Nat × Word) : LaneChk :=
  let va := e.list + 4 * l.2.1
  { lane := l.1, va := va,
    chk := checkVa s (curSkein s).core (curSkein s).part (curSkein s).ctx (curStrand s (l.1 / 4)).mode .load va 4 4 }

/-- COLL's lookups are the checks of the group's lanes at their entries in the list. -/
theorem map_memberCheck (s : State) (g : Guard) (d a b : BitVec 6) (e : CollEntry) :
    (collLanes s g d a b).map (memberCheck s e) =
      laneChecks s g .load 4 4 (fun n j => e.list + 4 * ((curStrand s n).v a.toNat j).toNat) := by
  simp only [collLanes, laneChecks, List.map_flatMap, List.map_map]
  refine List.flatMap_congr fun n _ => List.map_congr_left fun j hj => ?_
  obtain ⟨hlt, -⟩ := mem_lanesOf.1 hj
  have hn : (4 * n + j) / 4 = n := by omega
  simp only [Function.comp_apply, memberCheck, hn]

/-- The lookups of member packages, and the state that they leave. -/
def memberReads (s : State) (ok : List (LaneChk × Xl × Bool)) : List (List PByte) × State :=
  groupReads 4 (ok.map (fun c => (c.1.va, c.2.1))) (keptXl s (ok.map (fun c => c.2.1)))

section
variable {s : State} {g : Guard} {d a b : BitVec 6} {e : CollEntry} {ok : List (LaneChk × Xl × Bool)}
  (hpass : lanesPass s g .load 4 4 (fun n j => e.list + 4 * ((curStrand s n).v a.toNat j).toNat) ok)
  (hfree : ∀ c ∈ ok, mustWait (keptXl s (ok.map (fun c => c.2.1))) c.2.1 4 = false)
  (hmem : ∀ q ∈ (memberReads s ok).1.map pval, q < 0x200000 ∧ inPartition (memberReads s ok).2 (curSkein s).part q = true)
include hpass hfree hmem

/-- Lookups that pass go on with the member packages that they name. -/
theorem collLookup_passes (k : State → List Nat → State) :
    collLookup e (collLanes s g d a b) s k = k (memberReads s ok).2 ((memberReads s ok).1.map pval) := by
  have hwait : ok.any (fun c => mustWait (keptXl s (ok.map (fun c => c.2.1))) c.2.1 4) = false :=
    List.any_eq_false.2 fun c hc => by simp [hfree c hc]
  have hgood : ((collLanes s g d a b).zip ((memberReads s ok).1.map pval)).filter
      (fun x => decide (0x200000 ≤ x.2) || !(inPartition (memberReads s ok).2 (curSkein s).part x.2)) = [] :=
    List.filter_eq_nil_iff.2 fun x hx => by
      obtain ⟨hlt, hin⟩ := hmem x.2 (List.of_mem_zip hx).2
      simp [hlt, hin]
  unfold collLookup
  change accessLanes s .load 4 ((collLanes s g d a b).map (memberCheck s e)) (fun _ => none) _ = _
  rw [map_memberCheck, accessLanes_passes _ hpass (fun _ _ => rfl), hwait, if_neg (by decide)]
  exact if_pos (List.isEmpty_iff.2 hgood)


end

section
variable {s : State} {g : Guard} {d a b : BitVec 6} {o : BitVec 2} (h : laneFree s g .user [] [[d.toNat], [a.toNat], [b.toNat]])
include h

/-- COLL past the checks of 08 R136. -/
theorem laneEnter_coll (k : State → State) :
    laneEnter { instr := .coll g d a b o, guard := g, len := 4, mode := .user, blocks := [[d.toNat], [a.toNat], [b.toNat]],
                src := [d.toNat, a.toNat, b.toNat], dst := [], base := none, far := .none } s k = k s := by
  refine laneEnter_free _ rfl ⟨?_, ?_, ?_⟩ h rfl (fun h8 => nomatch h8) (fun _ hw => nomatch hw)
  · exact fun vs hvs => .inr hvs
  · exact fun v hv => nomatch hv
  · exact fun v hv => ⟨[v], List.mem_map_of_mem (f := fun x => [x]) hv, List.mem_singleton_self v⟩

theorem exec_coll_idle (ha : acting s g = []) : exec (.coll g d a b o) s = .next (retire s 4) :=
  congrArg Host.Outcome.next ((laneEnter_coll h _).trans (if_pos (List.isEmpty_iff.2 (collLanes_eq_nil_iff.2 ha))))

theorem exec_coll_looksUp {e : CollEntry} (ha : acting s g ≠ []) (hcp : ∀ n ∈ acting s g, (curStrand s n).cp < 63)
    (hfence : cpHolds s true false = false) (hbound : boundColl s (curSkein s) = some e)
    (hlane : ∀ l ∈ collLanes s g d a b, collFault e o l.2.1 l.2.2.1 = none) :
    exec (.coll g d a b o) s =
      .next (collLookup e (collLanes s g d a b) s (fun u pkgs => sendColl u g e o (collLanes s g d a b) pkgs)) := by
  have hsome : (collLanes s g d a b).isEmpty = false := List.isEmpty_eq_false_iff.2 (collLanes_eq_nil_iff.not.2 ha)
  have hroom : (acting s g).any (fun n => decide (63 ≤ (curStrand s n).cp)) = false :=
    List.any_eq_false.2 fun n hn => by simpa using hcp n hn
  have hgood : (collLanes s g d a b).filterMap
      (fun l => (collFault e o l.2.1 l.2.2.1).map (fun c => (l.1, c, dw (e.woff + l.2.2.1)))) = [] :=
    List.filterMap_eq_nil_iff.2 fun l hl => Option.map_eq_none_iff.2 (hlane l hl)
  refine congrArg Host.Outcome.next ((laneEnter_coll h _).trans ?_)
  simp only [hsome, hroom, hfence, hbound, hgood, Bool.or_false, Bool.false_eq_true, if_false, List.isEmpty_nil, Bool.not_true]

end

/-- Settles O33: SYSC by whether a lane is active, BRK by its entry, COLL by its checks in turn. -/
theorem systemCallAndCollectiveResults : Obligations.system_call_and_collective_results := by
  intro s g i m d a b o
  refine ⟨exec_sysc_traps, exec_sysc_passes, exec_brk, exec_coll_idle, ?_⟩
  intro e ok ls s1 r pkgs hl ha hcp hfence hbound hlane hpass hfree hmem
  rw [exec_coll_looksUp hl ha hcp hfence hbound hlane, collLookup_passes hpass hfree hmem]
  rfl

end Sys2Proof.Machine
end

section
/-! The returns from a handler (O44): TRET, HCALL, HRET and HALT once the checks of 08 R136 have passed. -/

namespace Sys2Proof.Machine

/-! ## TRET and HCALL (14 R249, R251; 22 R379, R380) -/

section
variable {s : State} {n : BitVec 8} (h : uniFree s .supervisor [] [])
include h

theorem exec_tret_returns (hin : ∀ m ∈ grp s, (curStrand s m).mode ≠ .hypervisor ∧ (curStrand s m).edepth ≠ 0)
    (hacc : (curSkein s).accept = false) : exec .tret s = .next (steer s (fun _ t => { tretStrand t with wait := .none })) := by
  have hlegal : (grp s).any (fun m => (curStrand s m).mode == .hypervisor || (curStrand s m).edepth == 0) = false :=
    List.any_eq_false.2 fun m hm => by simpa using hin m hm
  refine congrArg Host.Outcome.next ((uniEnter_bare _ rfl h).trans ?_)
  simp only [hlegal, hacc, Bool.false_and, Bool.false_eq_true, if_false]

theorem exec_tret_illegal (hout : ∃ m ∈ grp s, (curStrand s m).mode = .hypervisor ∨ (curStrand s m).edepth = 0) :
    exec .tret s = .next (trapAll s .illegal (instrWord .tret)) := by
  refine congrArg Host.Outcome.next ((uniEnter_bare _ rfl h).trans (if_pos ?_))
  simpa using hout

theorem exec_hcall_enters (hlow : ∀ m ∈ grp s, (curStrand s m).mode ≠ .hypervisor) :
    exec (.hcall n) s = .next (steer s (fun _ t => hEntry t 0x20 0 n.toNat (t.pc + 4))) := by
  refine congrArg Host.Outcome.next ((uniEnter_bare _ rfl h).trans (if_neg ?_))
  simpa using hlow

theorem exec_hcall_illegal (hhigh : ∃ m ∈ grp s, (curStrand s m).mode = .hypervisor) :
    exec (.hcall n) s = .next (trapAll s .illegal (instrWord (.hcall n))) := by
  refine congrArg Host.Outcome.next ((uniEnter_bare _ rfl h).trans (if_pos ?_))
  simpa using hhigh

end

/-! ## HRET and HALT (14 R251, R267; 22 R381, R387) -/

/-- What HRET of entered strands does: the first one that NEST brought to H mode decides. -/
def leaveHypervisor (s : State) : State :=
  match (grp s).find? (fun m => (curStrand s m).hcause.toNat % 256 == Cause.nest.code) with
  | some m => tick (killSkein s s.cur.sid ((curStrand s m).hcause.toNat / 256 % 256) false)
  | none => steer s (fun _ t => hretStrand t)

section
variable {s : State} (h : uniFree s .hypervisor [] [])
include h

theorem exec_hret_illegal (hout : ∃ m ∈ grp s, (curStrand s m).entered = false) :
    exec .hret s = .next (trapAll s .illegal (instrWord .hret)) := by
  refine congrArg Host.Outcome.next ((uniEnter_bare _ rfl h).trans (if_pos ?_))
  simpa using hout

theorem exec_hret_entered (hin : ∀ m ∈ grp s, (curStrand s m).entered = true) : exec .hret s = .next (leaveHypervisor s) := by
  refine congrArg Host.Outcome.next ((uniEnter_bare _ rfl h).trans (if_neg ?_))
  simpa using hin

theorem exec_hret_returns (hin : ∀ m ∈ grp s, (curStrand s m).entered = true)
    (hnest : ∀ m ∈ grp s, (curStrand s m).hcause.toNat % 256 ≠ Cause.nest.code) :
    exec .hret s = .next (steer s (fun _ t => hretStrand t)) := by
  rw [exec_hret_entered h hin, leaveHypervisor, List.find?_eq_none.2 fun m hm => by simpa using hnest m hm]

theorem exec_hret_kills (hin : ∀ m ∈ grp s, (curStrand s m).entered = true) {m : Nat}
    (hnest : (grp s).find? (fun m => (curStrand s m).hcause.toNat % 256 == Cause.nest.code) = some m) :
    exec .hret s = .next (tick (killSkein s s.cur.sid ((curStrand s m).hcause.toNat / 256 % 256) false)) := by
  rw [exec_hret_entered h hin, leaveHypervisor, hnest]

theorem exec_halt : exec .halt s = .next (tick (raiseHalt s (curKey s ((grp s).headD 0)) true)) :=
  congrArg _ (uniEnter_bare _ rfl h)

end

/-- Settles O44: each word by the equations above, and below its mode by its entry. -/
theorem handlerReturnResults : Obligations.handler_return_results := by
  intro s n
  refine ⟨exec_tret_returns, exec_tret_illegal, exec_hcall_enters, exec_hcall_illegal, exec_hret_returns, fun hu hin m => exec_hret_kills hu hin,
    exec_hret_illegal, exec_halt, fun hlow => ?_⟩
  have hbelow : ∃ m ∈ grp s, (curStrand s m).mode ≠ .hypervisor := hlow.imp fun m hm => ⟨hm.1, by rw [hm.2]; decide⟩
  exact ⟨supervisorWord_priv _ hlow, supervisorWord_priv _ hlow, hypervisorWord_priv _ hbelow, hypervisorWord_priv _ hbelow⟩

end Sys2Proof.Machine
end

section
/-! PHASE and the digests (O42): each word once its checks pass, and a DGST.FOLD whose words have all returned. -/

namespace Sys2Proof.Machine

/-! ## PHASE (15 R273) -/

section
variable {s : State} (h : uniFree s .user [] [])
include h

theorem exec_phase_commits (hdet : skeinDet s s.cur.sid = true) (hopen : (curSkein s).committed = false)
    (hidle : ∀ n ∈ grp s, (curStrand s n).idle = true) : exec .phase s = .next (commitSkein (stall s .phase) s.cur.sid) := by
  have hbusy : (grp s).any (fun n => !(curStrand s n).idle) = false :=
    List.any_eq_false.2 fun n hn => by simp [hidle n hn]
  refine congrArg Host.Outcome.next ((uniEnter_bare _ rfl h).trans ?_)
  simp only [hdet, hopen, hbusy, Bool.not_true, Bool.or_self, Bool.false_eq_true, if_false]

theorem exec_phase_refused (hdet : skeinDet s s.cur.sid = false) : exec .phase s = .next (trapAll s .prot 0) :=
  congrArg Host.Outcome.next ((uniEnter_bare _ rfl h).trans (if_pos (by rw [hdet]; rfl)))

/-! ## DGST.READ, ON, OFF and CLR (15 R276) -/

theorem exec_dgstOn : exec .dgstOn s = .next (groupResult s (fun t => { t with digestOn := true })) :=
  congrArg Host.Outcome.next (uniEnter_bare _ rfl h)

theorem exec_dgstOff : exec .dgstOff s = .next (if skeinDet s s.cur.sid then trapAll s .prot 0
    else groupResult s (fun t => { t with digestOn := false })) :=
  congrArg Host.Outcome.next (uniEnter_bare _ rfl h)

theorem exec_dgstClr : exec .dgstClr s = .next (if skeinDet s s.cur.sid then trapAll s .prot 0
    else groupResult s (fun t => { t with digest := 0 })) :=
  congrArg Host.Outcome.next (uniEnter_bare _ rfl h)

end

theorem exec_dgstRead {s : State} {d : BitVec 5} (h : uniFree s .user [] [d.toNat]) : exec (.dgstRead d) s = .next (uniResult s d.toNat
    ((grp s).foldl (fun h n => foldDigest h (dw (8 * s.cur.ply + n)) (curStrand s n).digest) 0)) :=
  congrArg Host.Outcome.next (uniEnter_free _ rfl h (List.forall_mem_nil _) (List.forall_mem_nil _))

/-! ## DGST.FOLD (15 R275, R276) -/

/-- A DGST.FOLD of an aligned range, with no store outstanding and room in LD, asks for every doubleword of it. -/
theorem exec_dgstFold {s : State} {a b : BitVec 5} {va n : Nat} {xs : List Xl} (hva : va = (wReg s a.toNat).toNat)
    (hn : n = (wReg s b.toNat).toNat) (hu : uniFree s .user [a.toNat, b.toNat] []) (hal : va % 8 = 0) (hlen : n % 8 = 0)
    (hmax : n ≤ 2 ^ 24) (hroom : ∀ m ∈ grp s, (curStrand s m).stores = [] ∧ (curStrand s m).replies.length < 63)
    (hpass : rangePasses s .load (dwordsAt va (n / 8)) 8 8 xs) :
    exec (.dgstFold a b) s = .next (issueFold (keptXl s xs) ((dwordsAt va (n / 8)).zip xs)) := by
  subst hva hn
  have hfree : ¬ (grp s).any (fun m => !(curStrand s m).stores.isEmpty || fullLd s m) = true := by
    rw [Bool.not_eq_true, List.any_eq_false]
    intro m hm
    obtain ⟨hst, hld⟩ := hroom m hm
    simp [hst, fullLd, hld]
  refine congrArg Host.Outcome.next ((uniEnter_free _ rfl hu (List.forall_mem_nil _) (List.forall_mem_nil _)).trans ?_)
  refine (if_neg (not_or_intro (not_not_intro hal) (not_not_intro hlen))).trans ((if_neg (Nat.not_lt.2 hmax)).trans ?_)
  exact (if_neg hfree).trans (accessRange_passes _ hpass)

/-- The block of a DGST.FOLD whose words have all returned. -/
def returnedBlock (tag : Nat) (on : Bool) (ws : List (Nat × DWord × Bool)) : FoldItem := .block tag on (ws.map (fun w => (w.1, some w.2)))

/-- The digest `h` with the words of a DGST.FOLD folded in. -/
def foldWords (h : DWord) (ws : List (Nat × DWord × Bool)) : DWord :=
  ws.foldl (fun h w => foldDigest h (dw w.1 ^^^ 0xFF00000000000000) w.2.1) h

@[simp] theorem blockWords_returned (ws : List (Nat × DWord × Bool)) : blockWords (ws.map (fun w => (w.1, some w.2))) = some ws := by
  induction ws with
  | nil => rfl
  | cons w ws ih => rw [List.map_cons, blockWords, ih, Option.map_some]

@[simp] theorem poisoned_returnedBlock (tag : Nat) (on : Bool) (ws : List (Nat × DWord × Bool)) :
    (returnedBlock tag on ws).poisoned = (ws.find? (fun w => w.2.2)).map (fun w => w.1) := by
  rw [returnedBlock, FoldItem.poisoned, blockWords_returned, Option.bind_some]

theorem drainFolds_returnedBlock (h : DWord) (tag : Nat) (on : Bool) (ws : List (Nat × DWord × Bool)) :
    drainFolds h [returnedBlock tag on ws] = (if on then foldWords h ws else h, []) := by
  rw [returnedBlock, drainFolds, blockWords_returned]
  rfl

/-- Words that are all clean are folded, if the digest was enabled. -/
theorem drain_returnedBlock_clean {t : Strand} {tag : Nat} {on : Bool} {ws : List (Nat × DWord × Bool)} (hclean : ∀ w ∈ ws, w.2.2 = false) :
    t.drain [returnedBlock tag on ws] = { t with folds := [], digest := if on then foldWords t.digest ws else t.digest } := by
  have hnone : ws.find? (fun w => w.2.2) = none := List.find?_eq_none.2 fun w hw => Bool.eq_false_iff.1 (hclean w hw)
  simp [Strand.drain, hnone, drainFolds_returnedBlock]

/-- A poisoned word leaves the digest as it is, and the lowest one is remembered unless an earlier fold's still is. -/
theorem drain_returnedBlock_poisoned {t : Strand} {tag : Nat} {on : Bool} {ws : List (Nat × DWord × Bool)} {w : Nat × DWord × Bool}
    (hbad : ws.find? (fun w => w.2.2) = some w) :
    t.drain [returnedBlock tag on ws] = { t with folds := [], foldBad := some (t.foldBad.getD (dw w.1)) } := by
  simp only [Strand.drain, List.filter_cons, List.findSome?_cons, poisoned_returnedBlock, hbad]
  cases t.foldBad <;> rfl

/-- Settles O42: PHASE and each DGST by their equations, and a fold that has returned by what `drain` makes of its block. -/
theorem phaseAndDigestResults : Obligations.phase_and_digest_results := by
  intro s d a b
  refine ⟨exec_phase_commits, exec_phase_refused, exec_dgstRead, exec_dgstOn, fun hu hfree => ?_, fun hu hdet => ?_,
    fun xs => exec_dgstFold rfl rfl, fun t tag on ws => ⟨drain_returnedBlock_clean, fun w => drain_returnedBlock_poisoned⟩⟩
  · rw [exec_dgstOff hu, exec_dgstClr hu, hfree]
    exact ⟨rfl, rfl⟩
  · rw [exec_dgstOff hu, exec_dgstClr hu, hdet]
    exact ⟨rfl, rfl⟩

end Sys2Proof.Machine
end

section
/-! The order logs (O43): ORDR.REC and ORDR.PLAY by one account of arming, and ORDR.OFF. -/

namespace Sys2Proof.Machine

/-! ## The descriptor (15 R280) -/

theorem withDescriptor_misaligned {h : DWord} {s : State} {k : State → List Nat → State} (hal : h.toNat % 32 ≠ 0) :
    withDescriptor h s k = trapAll s .misalign h := if_pos hal

theorem withDescriptor_passes {h : DWord} {s : State} {k : State → List Nat → State} {xs : List Xl} (hal : h.toNat % 32 = 0)
    (hr : readsPass s (dwordsAt h.toNat 4) 8 xs) : withDescriptor h s k =
      k (readsGive s (dwordsAt h.toNat 4) 8 xs).2 ((readsGive s (dwordsAt h.toNat 4) 8 xs).1.map pval) :=
  (if_neg (not_not_intro hal)).trans (readGroup_passes _ hr)

/-! ## ORDR.REC and ORDR.PLAY (15 R281) -/

/-- The entry that a descriptor with the words `ws` at `desc` describes, for the word at `pa` and the log at `lg`. -/
def describedOrder (s : State) (k : Skein) (desc : Nat) (ws : List Nat) (pa lg : Nat) (play : Bool) : OrderEntry :=
  { home := homeOf s pa, part := k.part, ctx := k.ctx, launch := k.launch, sid := s.cur.sid, desc := desc,
    pa := pa, log := lg, cap := fieldOf (ws.getD 2 0) 32 16, used := fieldOf (ws.getD 2 0) 0 32,
    div := false, full := false, play := play, runAgent := 0, runLen := 0, stopped := false }

/-- Arms a word that has passed the checks: a gate starts at its head chunk. -/
def armWord (d : Nat) (e : OrderEntry) (s : State) : State :=
  let b := flushWord s e.pa
  uniResult (enableDigest { b with orders := b.orders ++ [if e.play then e.atHead b else e] } true) d 0

/-- What arming comes to once its checks have passed: 2 for a word that is armed, 1 without a free entry in its home slice. -/
def judgeOrder (d : Nat) (e : OrderEntry) (s : State) : State :=
  if s.orders.any (fun x => x.pa == e.pa) then uniResult s d 2
  else if 4 ≤ (s.orders.filter (fun x => x.home == e.home)).length then uniResult s d 1
  else armWord d e s

section
variable {d : Nat} {e : OrderEntry} {s : State}

theorem judgeOrder_watched (h : ∃ x ∈ s.orders, x.pa = e.pa) : judgeOrder d e s = uniResult s d 2 :=
  if_pos (by simpa using h)

theorem judgeOrder_unwatched (h : ∀ x ∈ s.orders, x.pa ≠ e.pa) : judgeOrder d e s =
    if 4 ≤ (s.orders.filter (fun x => x.home == e.home)).length then uniResult s d 1 else armWord d e s :=
  if_neg (by simpa using h)

/-- The three outcomes: the word is armed already, its home slice is full, or the entry is armed. -/
theorem judgeOrder_outcomes {o : Host.Outcome State Fault Refusal} (ho : o = .next (judgeOrder d e s)) :
    ((∃ x ∈ s.orders, x.pa = e.pa) → o = .next (uniResult s d 2)) ∧
      ((∀ x ∈ s.orders, x.pa ≠ e.pa) → 4 ≤ (s.orders.filter (fun x => x.home == e.home)).length → o = .next (uniResult s d 1)) ∧
      ((∀ x ∈ s.orders, x.pa ≠ e.pa) → (s.orders.filter (fun x => x.home == e.home)).length < 4 → o = .next (armWord d e s)) := by
  subst ho
  refine ⟨fun hin => ?_, fun hout hfull => ?_, fun hout hroom => ?_⟩
  · rw [judgeOrder_watched hin]
  · rw [judgeOrder_unwatched hout, if_pos hfull]
  · rw [judgeOrder_unwatched hout, if_neg (Nat.not_le.2 hroom)]

end

theorem armOrder_misaligned {s : State} {play : Bool} {d a : BitVec 5} (hal : (wReg s a.toNat).toNat % 32 ≠ 0) :
    armOrder play d a s = trapAll s .misalign (wReg s a.toNat) := by
  unfold armOrder
  exact withDescriptor_misaligned hal

/-- A descriptor, its word and its log that pass their checks are judged. -/
theorem armOrder_passes {s t1 t : State} {play : Bool} {d a : BitVec 5} {h : DWord} {ws : List Nat} {r : List (List PByte) × State}
    {x1 xl : List Xl} {xw : Xl} (hh : h = wReg s a.toNat) (er : r = readsGive s (dwordsAt h.toNat 4) 8 x1) (ew : ws = r.1.map pval)
    (e1 : t1 = keptXl r.2 [xw]) (et : t = keptXl t1 xl) (hal : h.toNat % 32 = 0) (hr : readsPass s (dwordsAt h.toNat 4) 8 x1)
    (hlog : ws.getD 1 0 % 64 = 0) (hword : ws.getD 0 0 % 8 = 0) (hgood : orderBad (curSkein r.2) ws = false)
    (hw : rangePasses r.2 .store [ws.getD 0 0] 8 8 [xw])
    (hl : rangePasses t1 .store (logBlocks (ws.getD 1 0) (fieldOf (ws.getD 2 0) 32 16)) 4 4 xl) :
    armOrder play d a s =
      judgeOrder d.toNat (describedOrder t (curSkein r.2) h.toNat ws xw.pa ((xl.map (fun x => x.pa)).headD 0) play) t := by
  subst et e1 ew er hh
  unfold armOrder
  refine (withDescriptor_passes hal hr).trans ?_
  refine (if_neg (not_not_intro hlog)).trans ((if_neg (not_not_intro hword)).trans ((if_neg (Bool.eq_false_iff.1 hgood)).trans ?_))
  exact (accessRange_passes _ hw).trans (accessRange_passes _ hl)

section
variable {s : State} {d a : BitVec 5} (h : uniFree s .user [a.toNat] [d.toNat])
include h

theorem exec_ordrRec : exec (.ordrRec d a) s = .next (armOrder false d a s) :=
  congrArg Host.Outcome.next (uniEnter_free _ rfl h (List.forall_mem_nil _) (List.forall_mem_nil _))

theorem exec_ordrPlay : exec (.ordrPlay d a) s = .next (armOrder true d a s) :=
  congrArg Host.Outcome.next (uniEnter_free _ rfl h (List.forall_mem_nil _) (List.forall_mem_nil _))

end

/-! ## ORDR.OFF (15 R281) -/

/-- Disarms entry `e`: USED, DIV and FULL go over those of the descriptor at `desc`, whose words are `ws`. -/
def disarm (d desc : Nat) (ws : List Nat) (e : OrderEntry) (s : State) : State :=
  let y := finishOrder s e
  uniResult (storeGroup (desc + 16) [dw (ws.getD 2 0 / 2 ^ 32 * 2 ^ 32 + y.1.used),
    dw (ws.getD 3 0 / 4 * 4 + (if y.1.div then 2 else 0) + (if y.1.full then 1 else 0))] { y.2 with orders := y.2.orders.erase e })
    d (dw y.1.used)

/-- ORDR.OFF past the checks of the descriptor: the entry armed from it, if there is one, is disarmed. -/
def disarmFrom (d desc : Nat) (ws : List Nat) (s : State) : State :=
  match s.orders.find? (fun e => e.part == (curSkein s).part && e.ctx == (curSkein s).ctx && e.desc == desc) with
  | none => uniResult s d 0x8000000000000000
  | some e => disarm d desc ws e s

theorem disarmFrom_unarmed {d desc : Nat} {ws : List Nat} {s : State}
    (h : s.orders.find? (fun e => e.part == (curSkein s).part && e.ctx == (curSkein s).ctx && e.desc == desc) = none) :
    disarmFrom d desc ws s = uniResult s d 0x8000000000000000 := by
  rw [disarmFrom, h]

theorem disarmFrom_armed {d desc : Nat} {ws : List Nat} {s : State} {e : OrderEntry}
    (h : s.orders.find? (fun e => e.part == (curSkein s).part && e.ctx == (curSkein s).ctx && e.desc == desc) = some e) :
    disarmFrom d desc ws s = disarm d desc ws e s := by
  rw [disarmFrom, h]

theorem exec_ordrOff_misaligned {s : State} {d a : BitVec 5} (hu : uniFree s .user [a.toNat] [d.toNat])
    (hal : (wReg s a.toNat).toNat % 32 ≠ 0) : exec (.ordrOff d a) s = .next (trapAll s .misalign (wReg s a.toNat)) :=
  congrArg Host.Outcome.next ((uniEnter_free _ rfl hu (List.forall_mem_nil _) (List.forall_mem_nil _)).trans (withDescriptor_misaligned hal))

theorem exec_ordrOff_passes {s t : State} {d a : BitVec 5} {h : DWord} {r : List (List PByte) × State} {x1 x2 : List Xl}
    (hh : h = wReg s a.toNat) (er : r = readsGive s (dwordsAt h.toNat 4) 8 x1) (et : t = keptXl r.2 x2)
    (hu : uniFree s .user [a.toNat] [d.toNat]) (hal : h.toNat % 32 = 0) (hr : readsPass s (dwordsAt h.toNat 4) 8 x1)
    (hst : rangePasses r.2 .store [h.toNat + 16, h.toNat + 24] 8 8 x2) :
    exec (.ordrOff d a) s = .next (disarmFrom d.toNat h.toNat (r.1.map pval) t) := by
  subst et er hh
  refine congrArg Host.Outcome.next ((uniEnter_free _ rfl hu (List.forall_mem_nil _) (List.forall_mem_nil _)).trans ?_)
  exact (withDescriptor_passes hal hr).trans (checkStore_passes _ hst)

/-- Settles O43: ORDR.REC and ORDR.PLAY by `judgeOrder` of the described entry, ORDR.OFF by `disarmFrom`. -/
theorem orderLogResults : Obligations.order_log_results := by
  intro s d a h armed hu
  refine ⟨fun hal => ⟨(exec_ordrRec hu).trans (congrArg _ (armOrder_misaligned hal)),
    (exec_ordrPlay hu).trans (congrArg _ (armOrder_misaligned hal)), exec_ordrOff_misaligned hu hal⟩, fun hal x1 xl xw => ?_, fun hal x1 xl xw => ?_, fun hal x1 x2 => ?_⟩
  · intro r ws t1 t k lg hr hlog hword hgood hw hl
    exact judgeOrder_outcomes ((exec_ordrRec hu).trans
      (congrArg _ (armOrder_passes rfl rfl rfl rfl rfl hal hr hlog hword hgood hw hl)))
  · intro r ws t1 t k lg hr hlog hword hgood hw hl
    exact judgeOrder_outcomes ((exec_ordrPlay hu).trans
      (congrArg _ (armOrder_passes rfl rfl rfl rfl rfl hal hr hlog hword hgood hw hl)))
  · intro r t ws hr hst o
    rw [exec_ordrOff_passes rfl rfl rfl hu hal hr hst]
    exact ⟨fun hno => congrArg _ (disarmFrom_unarmed hno), fun e he => congrArg _ (disarmFrom_armed he)⟩

end Sys2Proof.Machine
end

section
/-! The lane integer, logic, compare and move words (O1 to O7): each computes one element of its table in every active lane. -/

namespace Sys2Proof.Machine

/-! ## A word without an extension word -/

section
variable {i : Instr} {g : Guard} {s : State} {sh : Shape} {d a b : Nat} {op : Alu} {f : Strand → Nat → LaneOut} {dst src : List (List Nat)}

/-- An unextended arithmetic word whose operands are free: every active lane writes what its element computes. -/
theorem alu_plain (h : laneFree s g .user dst src) (hw : i.wf = true)
    (hd : rangeFrom d sh.d = [] ∨ rangeFrom d sh.d ∈ dst) (ha : rangeFrom a sh.a = [] ∨ rangeFrom a sh.a ∈ src)
    (hb : rangeFrom b sh.b = [] ∨ rangeFrom b sh.b ∈ src) (hc : rangeFrom d sh.c = [] ∨ rangeFrom d sh.c ∈ src)
    (hf : ∀ t : Strand, ∀ j, op false .rne d a b d (fun r => t.v r j) (fun q => t.pred j q) = f t j) :
    Host.Outcome.next (ρ := Refusal) (φ := Fault) (alu i g 4 Ext.plain sh d a b op s) = .next (laneResult s g 4 f) := by
  have hf' : (fun t j => blockOut Ext.plain op d a b (Ext.plain.s3.getD d) (fun r => t.v r j) (fun q => t.pred j q)) = f := by
    funext t j
    rw [blockOut_plain, plain_s3, hf]
  rw [alu_free hw h (fun h8 => absurd h8 (by decide)) (by simpa using hd) (by simpa using ha) (by simpa using hb) (by simpa using hc), hf']

/-- A word of D, S1 and S2. -/
theorem alu_binary (h : laneFree s g .user [[d]] [[a], [b]]) (hw : i.wf = true)
    (hf : ∀ t : Strand, ∀ j, op false .rne d a b d (fun r => t.v r j) (fun q => t.pred j q) = f t j) :
    Host.Outcome.next (ρ := Refusal) (φ := Fault) (alu i g 4 Ext.plain { d := 1, a := 1, b := 1, c := 0 } d a b op s) =
      .next (laneResult s g 4 f) :=
  alu_plain h hw (by simp) (by simp) (by simp) (by simp) hf

/-- A word of D, S1 and S2 that reads D as well. -/
theorem alu_ternary (h : laneFree s g .user [[d]] [[a], [b]]) (hc : laneFree s g .user [] [[d]]) (hw : i.wf = true)
    (hf : ∀ t : Strand, ∀ j, op false .rne d a b d (fun r => t.v r j) (fun q => t.pred j q) = f t j) :
    Host.Outcome.next (ρ := Refusal) (φ := Fault) (alu i g 4 Ext.plain { d := 1, a := 1, b := 1, c := 1 } d a b op s) =
      .next (laneResult s g 4 f) :=
  alu_plain (laneFree_join h hc) hw (by simp) (by simp) (by simp) (by simp) hf

/-- A word of D and S1. -/
theorem alu_unary (h : laneFree s g .user [[d]] src) (ha : [a] ∈ src) (hw : i.wf = true)
    (hf : ∀ t : Strand, ∀ j, op false .rne d a 0 d (fun r => t.v r j) (fun q => t.pred j q) = f t j) :
    Host.Outcome.next (ρ := Refusal) (φ := Fault) (alu i g 4 Ext.plain { d := 1, a := 1, b := 0, c := 0 } d a 0 op s) =
      .next (laneResult s g 4 f) :=
  alu_plain h hw (by simp) (by simpa using ha) (by simp) (by simp) hf
end

/-! ## Sums, products, minima and shifts (18 R300 to R303) -/

/-- A sum that wraps is the sum of words. -/
theorem sat32_add (x y : Word) : sat32 false (x.toInt + y.toInt) = x + y := by
  simp [sat32, BitVec.ofInt_add]

theorem sat32_sub (x y : Word) : sat32 false (x.toInt - y.toInt) = x - y := by
  simp [sat32, ← BitVec.toInt_inj, BitVec.toInt_sub]

theorem sat32_mul (x y : Word) : sat32 false (x.toInt * y.toInt) = x * y := by
  simp [sat32, BitVec.ofInt_mul]

theorem sat32_mul_add (x y z : Word) : sat32 false (x.toInt * y.toInt + z.toInt) = x * y + z := by
  simp [sat32, BitVec.ofInt_add, BitVec.ofInt_mul]

/-- Settles O1: each word computes its element; a result that wraps is the result of the words. -/
theorem integerAddMultiplyResults : Obligations.integer_add_multiply_results := by
  intro s g d a b h hl
  refine ⟨alu_binary hl rfl fun t j => ?_, alu_binary hl rfl fun t j => ?_, alu_binary hl rfl fun t j => rfl,
    alu_binary hl rfl fun t j => ?_, alu_binary hl rfl fun t j => rfl, alu_binary hl rfl fun t j => rfl,
    fun hc => alu_ternary hl hc rfl fun t j => ?_⟩
  · exact congrArg (fun w => wr [(d.toNat, w)]) (sat32_add _ _)
  · exact congrArg (fun w => wr [(d.toNat, w)]) (sat32_sub _ _)
  · exact congrArg (fun w => wr [(d.toNat, w)]) (sat32_mul _ _)
  · exact congrArg (fun w => wr [(d.toNat, w)]) (sat32_mul_add _ _ _)

/-- Settles O2: a signed compare of words is that of their integers, an unsigned one that of their naturals. -/
theorem integerMinMaxResults : Obligations.integer_min_max_results := by
  intro s g d a b h hl
  refine ⟨alu_binary hl rfl fun t j => ?_, alu_binary hl rfl fun t j => ?_, alu_binary hl rfl fun t j => ?_,
    alu_binary hl rfl fun t j => ?_⟩
  · simp [aluImins, BitVec.sle_iff_toInt_le]
  · simp [aluIminu, BitVec.ule]
  · simp [aluImaxs, BitVec.sle_iff_toInt_le]
  · simp [aluImaxu, BitVec.ule]

/-- Settles O3: each word computes its element. -/
theorem logicResults : Obligations.logic_results := by
  intro s g d a b h i hl
  exact ⟨alu_binary hl rfl fun _ _ => rfl, alu_binary hl rfl fun _ _ => rfl, alu_binary hl rfl fun _ _ => rfl,
    alu_binary hl rfl fun _ _ => rfl, alu_unary hl (by simp) rfl fun _ _ => rfl, alu_unary hl (by simp) rfl fun _ _ => rfl,
    alu_unary hl (by simp) rfl fun _ _ => rfl⟩

/-- Settles O4: each word computes its element. -/
theorem shiftResults : Obligations.shift_results := by
  intro s g d a b h n i hl
  exact ⟨alu_binary hl rfl fun _ _ => rfl, alu_binary hl rfl fun _ _ => rfl, alu_binary hl rfl fun _ _ => rfl,
    alu_unary hl (by simp) rfl fun _ _ => rfl, alu_unary hl (by simp) rfl fun _ _ => rfl, alu_unary hl (by simp) rfl fun _ _ => rfl,
    alu_unary hl (by simp) rfl fun _ _ => rfl⟩

/-! ## Bit fields and counts (18 R304, R305) -/

/-- Bits 12 to 8 of S2 give the length of a field. -/
theorem fieldMask_eq (w : Word) : fieldMask w = BitVec.ofNat 32 (2 ^ (w.toNat / 256 % 32) - 1) := by
  simp [fieldMask, fieldOf, Nat.shiftRight_eq_div_pow]

theorem popCount_eq_countP (w : Word) (n : Nat) : popCount w n = (List.range n).countP (fun k => w.getLsbD k) := by
  induction n with
  | zero => rfl
  | succ n ih => simp [popCount, ih, List.range_succ, List.countP_append, List.countP_singleton]

theorem leadingZeros_eq_length (w : Word) (n : Nat) :
    leadingZeros w n = ((List.range n).reverse.takeWhile (fun k => !w.getLsbD k)).length := by
  induction n with
  | zero => rfl
  | succ n ih =>
    rw [leadingZeros, List.range_succ, List.reverse_append, List.reverse_singleton, List.singleton_append, List.takeWhile_cons, ih]
    cases w.getLsbD n <;> simp

/-- Settles O5: the field's mask by `fieldMask_eq`, the counts by induction on the bits looked at. -/
theorem bitFieldResults : Obligations.bit_field_results := by
  intro s g d a b h e hl
  refine ⟨alu_binary hl rfl fun t j => ?_, fun hc => alu_ternary hl hc rfl fun t j => ?_, alu_unary hl (by simp) rfl fun t j => ?_,
    alu_unary hl (by simp) rfl fun t j => ?_, alu_unary hl (by simp) rfl fun _ _ => rfl⟩
  · simp only [aluBfx, fieldMask_eq, amount]
  · simp only [aluBfi, fieldMask_eq, amount]
  · simp only [aluPopc, popCount_eq_countP]
  · simp only [aluClz, leadingZeros_eq_length]

/-! ## Compares, predicates and moves (18 R306 to R310) -/

section
variable {i : Instr} {g : Guard} {s : State} {a b : Nat} {op : Alu} {f : Strand → Nat → LaneOut}

/-- A word of S1 and S2 that writes a predicate. -/
theorem alu_compare (h : laneFree s g .user [] [[a], [b]]) (hw : i.wf = true)
    (hf : ∀ t : Strand, ∀ j, op false .rne 0 a b 0 (fun r => t.v r j) (fun q => t.pred j q) = f t j) :
    Host.Outcome.next (ρ := Refusal) (φ := Fault) (alu i g 4 Ext.plain { d := 0, a := 1, b := 1, c := 0 } 0 a b op s) =
      .next (laneResult s g 4 f) :=
  alu_plain h hw (by simp) (by simp) (by simp) (by simp) hf
end

/-- The six conditions, over a linear order that gives equality and the strict order. -/
theorem condHolds_eq {α : Type} [LinearOrder α] [DecidableEq α] [DecidableLT α] [DecidableLE α] {eq lt : Bool} {x y : α} (c : Nat)
    (he : eq = decide (x = y)) (hl : lt = decide (x < y)) :
    condHolds c eq lt = (match c with
      | 0 => decide (x = y) | 1 => decide (x ≠ y) | 2 => decide (x < y) | 3 => decide (x ≤ y) | 4 => decide (y < x) | _ => decide (y ≤ x)) := by
  subst he hl
  unfold condHolds
  split <;> apply Bool.eq_iff_iff.mpr
  · rfl
  · simp
  · rfl
  · simp [le_iff_lt_or_eq]
  · simp [lt_iff_le_and_ne (a := y), ne_comm]
  · simp

/-- Words are equal when their integers are. -/
theorem word_beq_toInt (x y : Word) : (x == y) = decide (x.toInt = y.toInt) := by
  rw [Bool.beq_eq_decide_eq]; simp [BitVec.toInt_inj]

theorem word_beq_toNat (x y : Word) : (x == y) = decide (x.toNat = y.toNat) := by
  rw [Bool.beq_eq_decide_eq]; simp [BitVec.toNat_inj]

/-- Settles O6: the compare of the words is that of their integers, or of their naturals in ICMPU. -/
theorem compareResults : Obligations.compare_results := by
  intro s g q c a b h i hl hc
  have hw : decide (c.toNat < 6) = true := decide_eq_true hc
  have hi : (i.signExtend 32).toInt = i.toInt := BitVec.toInt_signExtend_of_le (by decide)
  refine ⟨alu_compare hl hw fun t j => ?_, alu_compare hl hw fun t j => ?_,
    alu_plain hl hw (by simp) (by simp) (by simp) (by simp) fun t j => ?_⟩
  · exact congrArg (wp q.toNat) (condHolds_eq c.toNat (word_beq_toInt _ _) (by rfl))
  · exact congrArg (wp q.toNat) (condHolds_eq c.toNat (word_beq_toNat _ _) (by rfl))
  · refine congrArg (wp q.toNat) (condHolds_eq c.toNat ?_ ?_)
    · rw [← hi]; exact word_beq_toInt _ _
    · rw [← hi]; rfl

/-- A sum built up from the left. -/
theorem foldl_add_eq_sum (f : Nat → Nat) (l : List Nat) (n : Nat) : l.foldl (fun m k => m + f k) n = n + (l.map f).sum := by
  induction l generalizing n with
  | nil => simp
  | cons k l ih => simp [ih, Nat.add_assoc]

/-- Settles O7: each word computes its element. -/
theorem predicateAndMoveResults : Obligations.predicate_and_move_results := by
  intro s g q x y u d a b e k i hl
  refine ⟨alu_plain hl rfl (by simp) (by simp) (by simp) (by simp) fun _ _ => rfl, alu_plain hl rfl (by simp) (by simp) (by simp) (by simp) fun t j => ?_,
    alu_plain hl rfl (by simp) (by simp) (by simp) (by simp) fun _ _ => rfl, alu_binary hl rfl fun _ _ => rfl,
    alu_unary hl (by simp) rfl fun _ _ => rfl, alu_plain hl rfl (by simp) (by simp) (by simp) (by simp) fun _ _ => rfl,
    fun hc => alu_plain (laneFree_join hl hc) rfl (by simp) (by simp) (by simp) (by simp) fun _ _ => rfl⟩
  · refine congrArg (fun n => wr [(d.toNat, BitVec.ofNat 32 n)]) ?_
    rw [foldl_add_eq_sum, Nat.zero_add]

end Sys2Proof.Machine
end

section
/-! The lane floating-point arithmetic (O8), and what reading an FP32 gives, which the comparison (O11) uses too. -/

namespace Sys2Proof.Machine

/-! ## Reading FP32 (09 R161) -/

/-- Bits 30 to 0 tell a NaN, an infinity and the finite values apart; bit 31 is the sign. -/
theorem f32_read (x : Nat) : f32.read x =
    if 0x7F800000 < x % 2 ^ 31 then .nan (!x.testBit 22)
    else if x % 2 ^ 31 = 0x7F800000 then .inf (x.testBit 31)
    else if x % 2 ^ 31 < 2 ^ 23 then .fin (x.testBit 31) (x % 2 ^ 31) (-149)
    else .fin (x.testBit 31) (2 ^ 23 + x % 2 ^ 31 % 2 ^ 23) ((x % 2 ^ 31 / 2 ^ 23 : Nat) - 150) := by
  have he : fieldOf x 23 8 = x % 2 ^ 31 / 2 ^ 23 := by
    simp only [fieldOf, Nat.shiftRight_eq_div_pow]; omega
  have hf : x % 2 ^ 23 = x % 2 ^ 31 % 2 ^ 23 := by omega
  have hq : (x % 2 ^ 23).testBit 22 = x.testBit 22 := by rw [Nat.testBit_mod_two_pow]; rfl
  have hlt : x % 2 ^ 31 < 2 ^ 31 := Nat.mod_lt _ (by decide)
  change (if fieldOf x 23 8 = 255 then if x % 2 ^ 23 = 0 then FNum.inf (x.testBit 31) else .nan (!(x % 2 ^ 23).testBit 22)
    else if fieldOf x 23 8 = 0 then .fin (x.testBit 31) (x % 2 ^ 23) (-149)
    else .fin (x.testBit 31) (2 ^ 23 + x % 2 ^ 23) ((fieldOf x 23 8 : Int) - 127 - 23)) = _
  rw [he, hq, hf]
  generalize x % 2 ^ 31 = m at hlt
  rcases lt_trichotomy m 0x7F800000 with h | h | h
  · rw [if_neg (show m / 2 ^ 23 ≠ 255 by omega), if_neg (show ¬ 0x7F800000 < m by omega), if_neg (show m ≠ 0x7F800000 by omega)]
    by_cases h3 : m < 2 ^ 23
    · rw [if_pos (show m / 2 ^ 23 = 0 by omega), if_pos h3, Nat.mod_eq_of_lt h3]
    · rw [if_neg (show m / 2 ^ 23 ≠ 0 by omega), if_neg h3]
      congr 1
      omega
  · subst h; rfl
  · rw [if_pos (show m / 2 ^ 23 = 255 by omega), if_neg (show m % 2 ^ 23 ≠ 0 by omega), if_pos h]

/-- A finite magnitude in units of the smallest one. -/
def f32Units (m : Nat) : Nat := if m < 2 ^ 23 then m else (2 ^ 23 + m % 2 ^ 23) * 2 ^ (m / 2 ^ 23 - 1)

theorem f32Units_strictMono : StrictMono f32Units := by
  refine strictMono_nat_of_lt_succ fun m => ?_
  by_cases h : m + 1 < 2 ^ 23
  · rw [f32Units, f32Units, if_pos h, if_pos (Nat.lt_of_succ_lt h)]
    exact Nat.lt_succ_self m
  · by_cases h' : m < 2 ^ 23
    · have : m = 2 ^ 23 - 1 := by omega
      subst this; decide
    · simp only [f32Units, if_neg h, if_neg h']
      by_cases hm : (m + 1) % 2 ^ 23 = 0
      · have h1 : (m + 1) / 2 ^ 23 - 1 = (m / 2 ^ 23 - 1) + 1 := by omega
        have h2 : m % 2 ^ 23 = 2 ^ 23 - 1 := by omega
        rw [hm, h1, h2, pow_succ 2 (m / 2 ^ 23 - 1)]
        have := Nat.two_pow_pos (m / 2 ^ 23 - 1)
        generalize 2 ^ (m / 2 ^ 23 - 1) = u at this ⊢
        omega
      · have h1 : (m + 1) / 2 ^ 23 = m / 2 ^ 23 := by omega
        have h2 : (m + 1) % 2 ^ 23 = m % 2 ^ 23 + 1 := by omega
        rw [h1, h2]
        exact Nat.mul_lt_mul_of_pos_right (by omega) (Nat.two_pow_pos _)

/-- A finite value is its magnitude's units of 2^-149. -/
theorem f32_read_fin {x : Nat} (h : x % 2 ^ 31 < 0x7F800000) :
    ∃ m e : Nat, f32.read x = .fin (x.testBit 31) m (e - 149) ∧ m * 2 ^ e = f32Units (x % 2 ^ 31) := by
  rw [f32_read, if_neg (by omega), if_neg (by omega)]
  by_cases h1 : x % 2 ^ 31 < 2 ^ 23
  · exact ⟨x % 2 ^ 31, 0, by rw [if_pos h1]; rfl, by rw [f32Units, if_pos h1, Nat.pow_zero, Nat.mul_one]⟩
  · refine ⟨2 ^ 23 + x % 2 ^ 31 % 2 ^ 23, x % 2 ^ 31 / 2 ^ 23 - 1, ?_, by rw [f32Units, if_neg h1]⟩
    rw [if_neg h1]
    congr 1
    omega

theorem f32_read_inf {x : Nat} (h : x % 2 ^ 31 = 0x7F800000) : f32.read x = .inf (x.testBit 31) := by
  rw [f32_read, if_neg (by omega), if_pos h]

theorem f32_read_nan {x : Nat} (h : 0x7F800000 < x % 2 ^ 31) : f32.read x = .nan (!x.testBit 22) := by
  rw [f32_read, if_pos h]

theorem f32_isNan (x : Nat) : (f32.read x).isNan = decide (0x7F800000 < x % 2 ^ 31) := by
  rcases lt_trichotomy (x % 2 ^ 31) 0x7F800000 with h | h | h
  · obtain ⟨m, e, hr, -⟩ := f32_read_fin h
    rw [hr, decide_eq_false (by omega)]; rfl
  · rw [f32_read_inf h, h]; rfl
  · rw [f32_read_nan h, decide_eq_true h]; rfl

theorem f32_signals (x : Nat) : (f32.read x).signals = (decide (0x7F800000 < x % 2 ^ 31) && !x.testBit 22) := by
  rcases lt_trichotomy (x % 2 ^ 31) 0x7F800000 with h | h | h
  · obtain ⟨m, e, hr, -⟩ := f32_read_fin h
    rw [hr, decide_eq_false (by omega)]; rfl
  · rw [f32_read_inf h, h]; rfl
  · rw [f32_read_nan h, decide_eq_true h]; rfl

/-- A signed magnitude scaled. -/
theorem signed_mul (n : Bool) (a c : Nat) : signed n (a * c) = signed n a * c := by
  cases n <;> simp [signed]

/-- Finite values compare as their units do. -/
theorem lt_fin (n k : Bool) (m l e f : Nat) :
    (FNum.fin n m (e - 149)).lt (.fin k l (f - 149)) = decide (signed n (m * 2 ^ e) < signed k (l * 2 ^ f)) := by
  set g := min e f with hg
  have he : m * 2 ^ e = m * 2 ^ (e - g) * 2 ^ g := by rw [Nat.mul_assoc, ← Nat.pow_add]; congr 2; omega
  have hf : l * 2 ^ f = l * 2 ^ (f - g) * 2 ^ g := by rw [Nat.mul_assoc, ← Nat.pow_add]; congr 2; omega
  have h1 : ((e : Int) - 149 - min ((e : Int) - 149) (f - 149)).toNat = e - g := by omega
  have h2 : ((f : Int) - 149 - min ((e : Int) - 149) (f - 149)).toNat = f - g := by omega
  simp only [FNum.lt]
  rw [h1, h2, he, hf, signed_mul n _ (2 ^ g), signed_mul k _ (2 ^ g)]
  exact decide_eq_decide.mpr (Int.mul_lt_mul_right (by positivity)).symm

/-- Magnitudes under a sign compare as their images under a map that keeps 0 and the order. -/
theorem signed_lt_iff {g : Nat → Nat} (hg : StrictMono g) (h0 : g 0 = 0) (n k : Bool) (a b : Nat) :
    signed n (g a) < signed k (g b) ↔ signed n a < signed k b := by
  have h1 : g a < g b ↔ a < b := hg.lt_iff_lt
  have h2 : g b < g a ↔ b < a := hg.lt_iff_lt
  have h3 : g a = 0 ↔ a = 0 := ⟨fun h => hg.injective (h.trans h0.symm), fun h => h ▸ h0⟩
  have h4 : g b = 0 ↔ b = 0 := ⟨fun h => hg.injective (h.trans h0.symm), fun h => h ▸ h0⟩
  cases n <;> cases k <;> simp only [signed] <;> grind

/-- Numbers compare as their signed magnitudes do, an infinity's being the largest. -/
theorem f32_lt {x y : Nat} (hx : x % 2 ^ 31 ≤ 0x7F800000) (hy : y % 2 ^ 31 ≤ 0x7F800000) : (f32.read x).lt (f32.read y) =
    decide (signed (x.testBit 31) (x % 2 ^ 31 : Nat) < signed (y.testBit 31) (y % 2 ^ 31 : Nat)) := by
  rcases Nat.lt_or_eq_of_le hx with hx | hx <;> rcases Nat.lt_or_eq_of_le hy with hy | hy
  · obtain ⟨m, e, hr, hu⟩ := f32_read_fin hx
    obtain ⟨l, f, hs, hv⟩ := f32_read_fin hy
    rw [hr, hs, lt_fin, hu, hv]
    exact decide_eq_decide.mpr (signed_lt_iff f32Units_strictMono (by decide) _ _ _ _)
  · obtain ⟨m, e, hr, -⟩ := f32_read_fin hx
    rw [hr, f32_read_inf hy, hy]
    cases x.testBit 31 <;> cases y.testBit 31 <;> simp [FNum.lt, signed] <;> omega
  · obtain ⟨l, f, hs, -⟩ := f32_read_fin hy
    rw [hs, f32_read_inf hx, hx]
    cases x.testBit 31 <;> cases y.testBit 31 <;> simp [FNum.lt, signed] <;> omega
  · rw [f32_read_inf hx, f32_read_inf hy, hx, hy]
    cases x.testBit 31 <;> cases y.testBit 31 <;> simp [FNum.lt, signed]

theorem f32_isZero (x : Nat) : (f32.read x).isZero = decide (x % 2 ^ 31 = 0) := by
  rcases lt_trichotomy (x % 2 ^ 31) 0x7F800000 with h | h | h
  · obtain ⟨m, e, hr, hu⟩ := f32_read_fin h
    have hz : m = 0 ↔ x % 2 ^ 31 = 0 := by
      rw [← f32Units_strictMono.injective.eq_iff (a := x % 2 ^ 31) (b := 0), ← hu]
      simp [f32Units]
    rw [hr, ← decide_eq_decide.mpr hz]; rfl
  · rw [f32_read_inf h, h]; rfl
  · rw [f32_read_nan h, decide_eq_false (by omega)]; rfl

theorem f32_sign {x : Nat} (h : x % 2 ^ 31 ≤ 0x7F800000) : (f32.read x).sign = x.testBit 31 := by
  rcases Nat.lt_or_eq_of_le h with h | h
  · obtain ⟨m, e, hr, -⟩ := f32_read_fin h
    rw [hr]; rfl
  · rw [f32_read_inf h]; rfl

/-! ## Minima and maxima (19 R319) -/

/-- Where a number stands among the others, -0 just below +0. -/
def f32Place (x : Word) : Int := if x.getLsbD 31 then -1 - (x.toNat % 2 ^ 31 : Nat) else (x.toNat % 2 ^ 31 : Nat)

/-- A word is its magnitude and its sign. -/
theorem word_toNat_eq (x : Word) : x.toNat = x.toNat % 2 ^ 31 + (if x.getLsbD 31 then 2 ^ 31 else 0) := by
  have h : x.getLsbD 31 = decide (x.toNat / 2 ^ 31 % 2 = 1) := Nat.testBit_eq_decide_div_mod_eq
  have := x.isLt
  rw [h]
  split <;> simp_all <;> omega

theorem f32Place_injective {x y : Word} (h : f32Place x = f32Place y) : x = y := by
  apply BitVec.eq_of_toNat_eq
  rw [word_toNat_eq x, word_toNat_eq y]
  unfold f32Place at h
  split at h <;> split at h <;> simp_all <;> omega

/-- The order of FMIN and FMAX: that of the values, and -0 below +0. -/
theorem f32Place_lt {x y : Word} (hx : x.toNat % 2 ^ 31 ≤ 0x7F800000) (hy : y.toNat % 2 ^ 31 ≤ 0x7F800000) :
    ((f32.read x.toNat).lt (f32.read y.toNat) || ((f32.read x.toNat).isZero && (f32.read y.toNat).isZero && (f32.read x.toNat).sign &&
      !(f32.read y.toNat).sign)) = decide (f32Place x < f32Place y) := by
  rw [f32_lt hx hy, f32_isZero, f32_isZero, f32_sign hx, f32_sign hy, BitVec.testBit_toNat, BitVec.testBit_toNat]
  unfold f32Place signed
  cases x.getLsbD 31 <;> cases y.getLsbD 31 <;> apply Bool.eq_iff_iff.mpr <;> simp [-Nat.reducePow] <;> omega

/-- Of two numbers FMIN gives the one that stands lower, FMAX the one that stands higher. -/
theorem fminmax_number {x y : Word} (hx : x.toNat % 2 ^ 31 ≤ 0x7F800000) (hy : y.toNat % 2 ^ 31 ≤ 0x7F800000) :
    (fminmax f32 false x.toNat y.toNat).1 = (if f32Place x ≤ f32Place y then x else y).toNat ∧
      (fminmax f32 true x.toNat y.toNat).1 = (if f32Place y ≤ f32Place x then x else y).toNat := by
  have hn : ∀ {z : Word}, z.toNat % 2 ^ 31 ≤ 0x7F800000 → (f32.read z.toNat).isNan = false :=
    fun h => by rw [f32_isNan, decide_eq_false (by omega)]
  simp only [fminmax, hn hx, hn hy, f32Place_lt hx hy]
  rcases lt_trichotomy (f32Place x) (f32Place y) with h | h | h
  · simp [h, h.le, not_le.mpr h]
  · simp [f32Place_injective h]
  · simp [h.not_gt, h.le, not_le.mpr h]

/-- A NaN yields to a number, and two give the canonical one. -/
theorem fminmax_nan (m : Bool) {x y : Nat} (hx : 0x7F800000 < x % 2 ^ 31) :
    (¬ 0x7F800000 < y % 2 ^ 31 → (fminmax f32 m x y).1 = y ∧ (fminmax f32 m y x).1 = y) ∧
      (0x7F800000 < y % 2 ^ 31 → (fminmax f32 m x y).1 = 0x7FC00000) := by
  have h : (f32.read x).isNan = true := by rw [f32_isNan, decide_eq_true hx]
  refine ⟨fun hy => ?_, fun hy => ?_⟩
  · have h' : (f32.read y).isNan = false := by rw [f32_isNan, decide_eq_false hy]
    simp [fminmax, h, h']
  · have h' : (f32.read y).isNan = true := by rw [f32_isNan, decide_eq_true hy]
    simp only [fminmax, h, h']
    rfl

/-- A signaling NaN raises NV. -/
theorem fminmax_flags (m : Bool) (x y : Nat) :
    (fminmax f32 m x y).2 = flagIf (decide ((0x7F800000 < x % 2 ^ 31 ∧ x.testBit 22 = false) ∨
      (0x7F800000 < y % 2 ^ 31 ∧ y.testBit 22 = false))) fNV := by
  have h : (fminmax f32 m x y).2 = flagIf ((f32.read x).signals || (f32.read y).signals) fNV := by
    simp only [fminmax]; split_ifs <;> rfl
  rw [h, f32_signals, f32_signals]
  refine congrArg (flagIf · fNV) (Bool.eq_iff_iff.mpr ?_)
  simp [-Nat.reducePow]

/-! ## Functions (19 R321) -/

/-- Rounding to nearest even does not look at the sign. -/
theorem roundFin_rne_pack (f : Fmt) (m : Nat) (e : Int) (st : Bool) :
    ∃ b fl, ∀ n, roundFin f .rne false n m e st = (f.pack n b, fl) := by
  have hr : ∀ n q, roundAt .rne n m e st q = roundAt .rne false m e st q := fun n q => by cases n <;> rfl
  simp only [roundFin, hr, Fmt.inf]
  split
  · exact ⟨_, _, fun _ => rfl⟩
  · split
    · exact ⟨_, _, fun _ => rfl⟩
    · exact ⟨_, _, fun _ => rfl⟩

/-- A finite value and its magnitude read alike but for the sign. -/
theorem f32_read_mag {x : Nat} (h : x % 2 ^ 31 < 0x7F800000) :
    ∃ m e, f32.read x = .fin (x.testBit 31) m e ∧ f32.read (x % 2 ^ 31) = .fin false m e ∧ (m = 0 ↔ x % 2 ^ 31 = 0) := by
  have hs : (x % 2 ^ 31).testBit 31 = false := by rw [Nat.testBit_mod_two_pow]; rfl
  simp only [f32_read x, f32_read (x % 2 ^ 31), Nat.mod_mod, hs, if_neg (Nat.not_lt_of_lt h), if_neg (Nat.ne_of_lt h)]
  by_cases h1 : x % 2 ^ 31 < 2 ^ 23
  · simp only [if_pos h1]
    exact ⟨_, _, rfl, rfl, Iff.rfl⟩
  · simp only [if_neg h1]
    exact ⟨_, _, rfl, rfl, by omega⟩

/-- A negative number that is finite and not zero. -/
theorem functions_negative {x : Nat} (hs : x.testBit 31 = true) (h0 : 0 < x % 2 ^ 31) (h : x % 2 ^ 31 < 0x7F800000) :
    frsq x = (0x7FC00000, fNV) ∧ flg2 x = (0x7FC00000, fNV) ∧
      frcp x = (0x80000000 + (frcp (x % 2 ^ 31)).1, (frcp (x % 2 ^ 31)).2) := by
  obtain ⟨m, e, hr, hr', hm⟩ := f32_read_mag h
  have hm0 : m ≠ 0 := fun h => by omega
  rw [hs] at hr
  refine ⟨?_, ?_, ?_⟩
  · simp only [frsq, hr, if_neg hm0]; rfl
  · simp only [flg2, hr, if_neg hm0]; rfl
  · simp only [frcp, hr, hr', if_neg hm0]
    obtain ⟨b, fl, hb⟩ := roundFin_rne_pack f32 (2 ^ (bitLen m + 64) / m) (-((bitLen m + 64 : Nat) : Int) - e) (2 ^ (bitLen m + 64) % m != 0)
    rw [hb, hb]
    simp [Fmt.pack, f32]

/-- The functions of a NaN give the canonical one; a signaling one raises NV. -/
theorem functions_nan {x : Nat} (h : 0x7F800000 < x % 2 ^ 31) :
    let v : Nat × BitVec 6 := (0x7FC00000, if x.testBit 22 then 0 else fNV)
    frcp x = v ∧ frsq x = v ∧ fex2 x = v ∧ flg2 x = v := by
  simp only [frcp, frsq, fex2, flg2, f32_read_nan h]
  cases x.testBit 22 <;> exact ⟨rfl, rfl, rfl, rfl⟩

theorem twoSum_fst (x y : Nat) : (twoSum x y).1 = (fadd f32 .rne false x y).1 := by
  simp only [twoSum]; split <;> rfl

/-- Settles O8: each word computes its element; minima by `fminmax_number` and `fminmax_nan`, the functions by the table of their special
cases. -/
theorem floatArithmeticResults : Obligations.float_arithmetic_results := by
  intro s g d a b h e hl
  refine ⟨alu_binary hl rfl fun _ _ => rfl, alu_binary hl rfl fun _ _ => rfl, fun hc => alu_ternary hl hc rfl fun _ _ => rfl,
    alu_binary hl rfl fun _ _ => rfl, alu_binary hl rfl fun _ _ => rfl, alu_unary hl (by simp) rfl fun _ _ => rfl,
    alu_unary hl (by simp) rfl fun _ _ => rfl, alu_unary hl (by simp) rfl fun _ _ => rfl, alu_unary hl (by simp) rfl fun _ _ => rfl,
    fun hw hp => alu_plain (laneFree_join hl hp) hw (by simp [rangeFrom]) (by simp) (by simp) (by simp) fun _ _ => ?_,
    ?_, by decide, by decide, by decide, by decide⟩
  · exact congrArg (fun n => ({ regs := [(d.toNat, BitVec.ofNat 32 n), _], preds := [], flags := _ } : LaneOut)) (twoSum_fst _ _)
  intro x y mag nan sig place neg
  refine ⟨fun hx hy => ⟨?_, ?_⟩, fun m => ⟨fun hx => (fminmax_nan m hx).1, fun hx => (fminmax_nan m hx).2, fun hs => ?_, fun hs => ?_⟩,
    fun ⟨hs, h0, ht⟩ => functions_negative hs h0 ht, functions_nan⟩
  · exact (fminmax_number (not_lt.mp hx) (not_lt.mp hy)).1
  · exact (fminmax_number (not_lt.mp hx) (not_lt.mp hy)).2
  · rw [fminmax_flags, decide_eq_true]; exacts [rfl, hs]
  · rw [fminmax_flags, decide_eq_false]; exacts [rfl, hs]

end Sys2Proof.Machine
end

section
/-! The lane floating-point comparison (O11). -/

namespace Sys2Proof.Machine

/-- Of numbers, a condition holds as it does of their signed magnitudes, an infinity's being the largest; the zeros are equal. -/
theorem fcmp_number {x y : Nat} (hx : x % 2 ^ 31 ≤ 0x7F800000) (hy : y % 2 ^ 31 ≤ 0x7F800000) {i j : Int}
    (hi : i = signed (x.testBit 31) (x % 2 ^ 31)) (hj : j = signed (y.testBit 31) (y % 2 ^ 31)) (c : Nat) :
    (fcmp f32 c x y).1 = (match c with
      | 0 => decide (i = j) | 1 => decide (i ≠ j) | 2 => decide (i < j) | 3 => decide (i ≤ j) | 4 => decide (j < i) | 5 => decide (j ≤ i)
      | 6 => true | _ => false) := by
  have hlt : (f32.read x).lt (f32.read y) = decide (i < j) := hi ▸ hj ▸ f32_lt hx hy
  have hgt : (f32.read y).lt (f32.read x) = decide (j < i) := hi ▸ hj ▸ f32_lt hy hx
  have heq : (!decide (i < j) && !decide (j < i)) = decide (i = j) := by
    apply Bool.eq_iff_iff.2
    simp only [Bool.and_eq_true, Bool.not_eq_true', decide_eq_false_iff_not, decide_eq_true_eq]
    omega
  have hun : ((f32.read x).isNan || (f32.read y).isNan) = false := by
    rw [f32_isNan, f32_isNan, decide_eq_false hx.not_gt, decide_eq_false hy.not_gt]
    rfl
  simp only [fcmp, hlt, hgt, heq, hun, Bool.not_false, Bool.true_and, Bool.false_or]
  rcases c with _ | _ | _ | _ | _ | _ | _ | c
  · rfl
  · exact decide_not.symm
  · rfl
  · exact (Bool.decide_or _ _).symm.trans (decide_eq_decide.2 le_iff_lt_or_eq.symm)
  · rfl
  · exact (Bool.decide_or _ _).symm.trans (decide_eq_decide.2 ((or_congr_right eq_comm).trans le_iff_lt_or_eq.symm))
  · rfl
  · rfl

/-- A NaN makes the conditions NE and UN hold, and no other. -/
theorem fcmp_nan {x y : Nat} (h : 0x7F800000 < x % 2 ^ 31 ∨ 0x7F800000 < y % 2 ^ 31) (c : BitVec 3) :
    (fcmp f32 c.toNat x y).1 = decide (c = 1 ∨ c = 7) := by
  have hun : ((f32.read x).isNan || (f32.read y).isNan) = true := by
    rw [f32_isNan, f32_isNan, ← Bool.decide_or]
    exact decide_eq_true h
  simp only [fcmp, hun, Bool.not_true, Bool.false_and, Bool.true_or]
  revert c
  decide

/-- A signaling NaN raises NV, and a quiet one under LT, LE, GT and GE. -/
theorem fcmp_flags (c x y : Nat) : (fcmp f32 c x y).2 = flagIf (decide (
    ((0x7F800000 < x % 2 ^ 31 ∧ x.testBit 22 = false) ∨ (0x7F800000 < y % 2 ^ 31 ∧ y.testBit 22 = false)) ∨
      ((0x7F800000 < x % 2 ^ 31 ∨ 0x7F800000 < y % 2 ^ 31) ∧ 2 ≤ c ∧ c ≤ 5))) fNV := by
  simp only [fcmp, f32_isNan, f32_signals]
  congr 1
  apply Bool.eq_iff_iff.2
  simp only [Bool.or_eq_true, Bool.and_eq_true, decide_eq_true_eq, Bool.not_eq_true', and_assoc]

/-- Settles O11: the word's element by the model's equation, the condition and the flag by what reading an FP32 gives. -/
theorem floatCompareResult : Obligations.float_compare_result := by
  intro s g q c a b h hl
  refine ⟨alu_compare hl rfl fun _ _ => rfl, ?_⟩
  intro x y mag nan sig value
  have hvalue (w : Word) : value w = signed (w.toNat.testBit 31) (w.toNat % 2 ^ 31) := by
    cases hw : w.getLsbD 31
    · simp only [value, mag, signed, BitVec.testBit_toNat, hw, Bool.false_eq_true, if_false]
    · simp only [value, mag, signed, BitVec.testBit_toNat, hw, if_true]
  refine ⟨fun hn => fcmp_nan hn c, fun hn => ?_, fun hs => ?_, fun hs => ?_⟩
  · obtain ⟨hx, hy⟩ := not_or.1 hn
    exact fcmp_number (not_lt.1 hx) (not_lt.1 hy) (hvalue x) (hvalue y) c.toNat
  · exact (fcmp_flags c.toNat x.toNat y.toNat).trans (congrArg (fun p => flagIf p fNV) (decide_eq_true (or_assoc.2 hs)))
  · exact (fcmp_flags c.toNat x.toNat y.toNat).trans (congrArg (fun p => flagIf p fNV) (decide_eq_false fun h => hs (or_assoc.1 h)))

end Sys2Proof.Machine
end

section
/-! The packed, double and converting words, and those on bytes (O9, O10, O12, O13): each word's element. -/

namespace Sys2Proof.Machine

/-- Settles O9: each word computes its element. -/
theorem packedFloatResults : Obligations.packed_float_results := by
  intro s g d a b h hl
  exact ⟨alu_binary hl rfl fun _ _ => rfl, alu_binary hl rfl fun _ _ => rfl, fun hc => alu_ternary hl hc rfl fun _ _ => rfl,
    alu_binary hl rfl fun _ _ => rfl, alu_binary hl rfl fun _ _ => rfl, fun hc => alu_ternary hl hc rfl fun _ _ => rfl⟩

theorem rangeFrom_two (n : Nat) : rangeFrom n 2 = [n, n + 1] := rfl

/-- Settles O10: each word computes its element over the pairs that it names. -/
theorem doubleFloatResults : Obligations.double_float_results := by
  intro s g d a b hl
  refine ⟨fun hw => alu_plain hl hw ?_ ?_ ?_ ?_ fun _ _ => rfl, fun hw => alu_plain hl hw ?_ ?_ ?_ ?_ fun _ _ => rfl,
    fun hc hw => alu_plain (laneFree_join hl hc) hw ?_ ?_ ?_ ?_ fun _ _ => rfl⟩
  all_goals simp [rangeFrom_two]

/-! ## Conversions (18 R312 to R314) -/

/-- A value of type code F64 takes two registers, any other one. -/
theorem cvtRegs_eq (n : BitVec 4) : cvtRegs n.toNat = if n = 11 then 2 else 1 := by
  revert n; decide

theorem bit_add_one (q : BitVec 1) : q.toNat + 1 = if q = 1 then 2 else 1 := by
  revert q; decide

theorem toNat_eq_eleven (n : BitVec 4) : n.toNat = 11 ↔ n = 11 := by
  revert n; decide

/-- Settles O12: each word computes its element, of one register or two as its type fields say. -/
theorem conversionResults : Obligations.conversion_results := by
  intro s g d a m n q x k
  refine ⟨fun hw hl => alu_plain hl hw ?_ ?_ (.inl rfl) (.inl rfl) fun t j => ?_,
    fun hw hl => alu_plain hl hw ?_ ?_ (.inl rfl) (.inl rfl) fun t j => ?_,
    fun hw hl => alu_plain hl hw ?_ ?_ (.inl rfl) (.inl rfl) fun t j => ?_⟩
  · simp [cvtRegs_eq]
  · simp [cvtRegs_eq]
  · simp only [aluCvt, toNat_eq_eleven]
  · simp [bit_add_one]
  · simp [bit_add_one]
  · simp only [aluF2fx, beq_iff_eq]
    split_ifs <;> rfl
  · simp [bit_add_one]
  · simp [bit_add_one]
  · simp only [aluFx2f, beq_iff_eq]

/-! ## Tapered codes and bytes (18 R315, 19 R325 to R328) -/

/-- A sum of four terms built up from the left. -/
theorem foldl_four {α : Type} [AddCommMonoid α] (f : Nat → α) :
    [0, 1, 2, 3].foldl (fun x k => x + f k) 0 = ((List.range 4).map f).sum := by
  simp [List.range_succ, add_assoc]

/-- Four bytes put together. -/
theorem foldl_bytes (f : Nat → Nat) : BitVec.ofNat 32 ([0, 1, 2, 3].foldl (fun x k => x + f k * 2 ^ (8 * k)) 0) = bytesWord f := by
  rw [bytesWord, List.foldl_cons, List.foldl_cons, List.foldl_cons, List.foldl_cons, List.foldl_nil, Nat.zero_add, Nat.mul_zero, pow_zero,
    Nat.mul_one]

/-- A nibble. -/
theorem fieldOf_four (n lo : Nat) : fieldOf n lo 4 = n / 2 ^ lo % 16 := by
  simp only [fieldOf, Nat.shiftRight_eq_div_pow, Nat.reducePow]

/-- Settles O13: each word computes its element. -/
theorem byteAndTaperedResults : Obligations.byte_and_tapered_results := by
  intro s g d a b h m x k hl
  refine ⟨fun hc => alu_ternary hl hc rfl fun t j => ?_, fun hc => alu_ternary hl hc rfl fun t j => ?_,
    fun hw => alu_unary hl (by simp) hw fun t j => ?_,
    fun hc hw => alu_plain (laneFree_join hl hc) hw (by simp) (by simp) (by simp) (by simp) fun t j => ?_,
    fun hb => alu_plain (laneFree_join hl hb) rfl (by simp) (by simp) (by simp) (by simp) fun t j => ?_,
    fun hb => alu_plain (laneFree_join hl hb) rfl (by simp) (by simp) (by simp) (by simp) fun t j => ?_,
    fun hc => alu_ternary hl hc rfl fun t j => ?_⟩
  · simp only [aluIdp4s, foldl_four]
  · simp only [aluIdp4u, foldl_four]
  · simp only [aluTdec, beq_iff_eq]
    split_ifs <;> rfl
  · simp only [aluTenc, beq_iff_eq]
    split_ifs <;> rfl
  · simp only [aluTbl, foldl_bytes, fieldOf_four, Nat.add_zero]
  · simp only [aluTbl, foldl_bytes, fieldOf_four]
  · simp only [aluBsel, foldl_bytes]

end Sys2Proof.Machine
end

section
/-! The cross-lane words, indirect registers and SRD (O14 to O16): what each word reads in other lanes, and what it writes. -/

namespace Sys2Proof.Machine

/-! ## Words that read other lanes (19 R317) -/

/-- A word that reads other lanes, each of which is free, goes on to its own effect. -/
theorem laneEnter_far {f : LaneForm} {s : State} {dst src : List (List Nat)} (k : State → State) (hw : f.instr.wf = true) (h4 : f.len = 4)
    (hb : f.base = none) (h : laneFree s f.guard f.mode dst src)
    (hblocks : ∀ vs ∈ f.blocks, vs = [] ∨ vs ∈ dst ++ src ∨ ∃ v l, vs = [v] ∧ farFree s f.guard v l)
    (hd : ∀ v ∈ f.dst, ∃ vs ∈ dst, v ∈ vs) (hs : ∀ v ∈ f.src, ∃ vs ∈ src, v ∈ vs)
    (hfar : ∀ x v j, f.far.source s x = some (v, j) → ∃ l, farFree s f.guard v l ∧ l x = some j) : laneEnter f s k = k s := by
  refine laneEnter_ready k hw (fun n hn hl => ⟨((h n hn).1 hl).1, fun vs hv => ⟨?_, fun h8 => absurd (h4.symm.trans h8) (by decide)⟩⟩)
    (fun n hn => awaits_cover BitVec.and_self (h n hn).2.1 hd) (fun n hn e he => ?_) (by rw [hb]; intro w hw; cases hw)
  · rcases hblocks vs hv with rfl | hv | ⟨v, l, rfl, hf⟩
    · exact allowed_nil _ _
    · exact ((h n hn).1 hl).2 vs hv
    · exact hf.1 n hn hl
  · rcases List.mem_cons.mp he with rfl | he
    · exact ⟨awaits_cover BitVec.and_self (fun vs hv => ((h n hn).2.2 vs hv).1) hs,
        lostLanes_cover BitVec.and_self (fun vs hv => ((h n hn).2.2 vs hv).2) hs⟩
    · obtain ⟨⟨v, j⟩, hm, rfl⟩ := List.mem_map.mp he
      obtain ⟨hsrc, hsup⟩ := List.mem_filter.mp hm
      obtain ⟨hon, hnj⟩ : supplies s j = true ∧ (j / 4 == n) = true := Bool.and_eq_true_iff.mp hsup
      obtain ⟨x, hx, hxs⟩ := List.mem_filterMap.mp hsrc
      obtain ⟨l, hl, hlx⟩ := hfar x v j hxs
      obtain rfl : j / 4 = n := by simpa using hnj
      exact hl.2 j (List.mem_filterMap.mpr ⟨x, hx, hlx⟩) hon

/-- A permute: it reads `src` in its own lanes, and V`a` and V`b` where `Far.source` says. -/
theorem cross_far {i : Instr} {g : Guard} {d : BitVec 6} {a b : Option (BitVec 6)} {src : List Nat} {x : Far} {op : State → Nat → LaneOut}
    {s : State} (hw : i.wf = true) (h : laneFree s g .user [[d.toNat]] (src.map (fun v => [v])))
    (hab : ∀ v, a = some v ∨ b = some v → v.toNat ∈ src ∨ ∃ l, farFree s g v.toNat l)
    (hfar : ∀ y v j, x.source s y = some (v, j) → ∃ l, farFree s g v l ∧ l y = some j) :
    cross { crossForm i g (some d) a b with src := src, far := x } op s = acrossResult s g (op s) := by
  have hr : ∀ o : Option (BitVec 6), (∀ v, o = some v → v.toNat ∈ src ∨ ∃ l, farFree s g v.toNat l) →
      (o.map BitVec.toNat).toList = [] ∨ (o.map BitVec.toNat).toList ∈ [[d.toNat]] ++ src.map (fun v => [v]) ∨
        ∃ v l, (o.map BitVec.toNat).toList = [v] ∧ farFree s g v l := by
    intro o ho
    cases o with
    | none => exact .inl rfl
    | some v =>
      rcases ho v rfl with hv | ⟨l, hl⟩
      · exact .inr (.inl (List.mem_append_right _ (List.mem_map_of_mem hv)))
      · exact .inr (.inr ⟨v.toNat, l, rfl, hl⟩)
  refine (laneEnter_far _ hw rfl rfl h (fun vs hv => ?_) (by simp [crossForm]) (by simp) hfar).trans rfl
  simp only [crossForm, List.mem_cons, List.not_mem_nil, or_false] at hv
  rcases hv with rfl | rfl | rfl
  · exact .inr (.inl (by simp))
  · exact hr a fun v hv => hab v (.inl hv)
  · exact hr b fun v hv => hab v (.inr hv)

/-- Settles O14: each word reads its own lanes and the lanes that `Far.source` names. -/
theorem permuteResults : Obligations.permute_results := by
  intro s g d a b h i ix
  refine ⟨fun hl ha => congrArg Host.Outcome.next (cross_far (src := [b.toNat]) rfl hl ?_ fun y v j hy => ?_),
    fun hl ha => congrArg Host.Outcome.next (cross_far (src := []) rfl hl ?_ fun y v j hy => ?_),
    fun hl ha hb => congrArg Host.Outcome.next (cross_far (src := []) rfl hl ?_ fun y v j hy => ?_)⟩
  · rintro v (hv | hv) <;> cases hv
    · exact .inr ⟨_, ha⟩
    · exact .inl (by simp)
  · simp only [Far.source] at hy
    split at hy <;> cases hy
    exact ⟨_, ha, if_pos ‹_›⟩
  · rintro v (hv | hv) <;> cases hv
    exact .inr ⟨_, ha⟩
  · simp only [Far.source] at hy
    split at hy <;> cases hy
    exact ⟨_, ha, if_pos ‹_›⟩
  · rintro v (hv | hv) <;> cases hv
    · exact .inr ⟨_, ha⟩
    · exact .inr ⟨_, hb⟩
  · simp only [Far.source] at hy
    split at hy <;> cases hy
    · exact ⟨_, hb, if_pos ‹_›⟩
    · exact ⟨_, ha, if_neg ‹_›⟩

/-! ## Votes and reductions (19 R330 to R332) -/

/-- A word of this chapter that reads its own lanes only. -/
theorem laneEnter_cross {i : Instr} {g : Guard} {d a b : Option (BitVec 6)} {s : State} {dst src : List (List Nat)} (k : State → State)
    (hw : i.wf = true) (h : laneFree s g .user dst src) (hd : ∀ v, d = some v → [v.toNat] ∈ dst)
    (hab : ∀ v, a = some v ∨ b = some v → [v.toNat] ∈ src) : laneEnter (crossForm i g d a b) s k = k s := by
  refine laneEnter_free k hw ⟨fun vs hv => ?_, fun v hv => ?_, fun v hv => ?_⟩ h rfl (fun h8 => absurd h8 (by simp [crossForm]))
    (by intro w hw; cases hw)
  · have hr : ∀ o : Option (BitVec 6), (∀ v, o = some v → [v.toNat] ∈ dst ++ src) →
        (o.map BitVec.toNat).toList = [] ∨ (o.map BitVec.toNat).toList ∈ dst ++ src := by
      intro o ho
      cases o with
      | none => exact .inl rfl
      | some v => exact .inr (ho v rfl)
    simp only [crossForm, List.mem_cons, List.not_mem_nil, or_false] at hv
    rcases hv with rfl | rfl | rfl
    · exact hr d fun v hv => List.mem_append_left _ (hd v hv)
    · exact hr a fun v hv => List.mem_append_right _ (hab v (.inl hv))
    · exact hr b fun v hv => List.mem_append_right _ (hab v (.inr hv))
  · obtain ⟨r, hr, rfl⟩ : ∃ r, d = some r ∧ r.toNat = v := by simpa [crossForm] using hv
    exact ⟨_, hd r hr, by simp⟩
  · obtain ⟨r, hr, rfl⟩ | ⟨r, hr, rfl⟩ : (∃ r, a = some r ∧ r.toNat = v) ∨ ∃ r, b = some r ∧ r.toNat = v := by simpa [crossForm] using hv
    · exact ⟨_, hab r (.inl hr), by simp⟩
    · exact ⟨_, hab r (.inr hr), by simp⟩

/-- VOTE's value, as 19 R330 lists it. -/
theorem voteValue_eq (op : Nat) (on : List Nat) (p : Nat → Bool) :
    voteValue op on (on.filter p) = (match op with
      | 0 => BitVec.ofNat 32 (((on.filter p).map (fun l => 2 ^ l)).sum)
      | 1 => if on.filter p = [] then 0 else 1
      | 2 => if on.filter p = on then 1 else 0
      | _ => BitVec.ofNat 32 (on.filter p).length) := by
  have h0 : (on.filter p).foldl (fun x l => x + 2 ^ l) 0 = ((on.filter p).map (fun l => 2 ^ l)).sum := by
    rw [foldl_add_eq_sum, Nat.zero_add]
  have h2 : (on.filter p).length = on.length ↔ on.filter p = on := List.length_filter_eq_length_iff.trans List.filter_eq_self.symm
  simp only [voteValue, h0, List.isEmpty_iff, h2] <;> rfl

/-- Flags that every lane raises alike are raised once. -/
theorem foldl_or_self {α : Type} (l : List α) (c : BitVec 6) : l.foldl (fun x _ => x ||| c) c = c := by
  induction l with
  | nil => rfl
  | cons _ l ih => rw [List.foldl_cons, BitVec.or_self, ih]

/-- A cross-lane word that reads its own lanes only. -/
theorem cross_near {i : Instr} {g : Guard} {d a b : Option (BitVec 6)} {op : State → Nat → LaneOut} {s : State} {dst src : List (List Nat)}
    (hw : i.wf = true) (h : laneFree s g .user dst src) (hd : ∀ v, d = some v → [v.toNat] ∈ dst)
    (hab : ∀ v, a = some v ∨ b = some v → [v.toNat] ∈ src) : cross (crossForm i g d a b) op s = acrossResult s g (op s) :=
  laneEnter_cross _ hw h hd hab

/-- A reduction gives each active lane its combination, and raises its flags in all of them. -/
theorem reduce_near {i : Instr} {g : Guard} {d a : BitVec 6} {op : Nat} {val : State → Nat → RedVal} {s : State}
    (hw : i.wf = true) (h : laneFree s g .user [[d.toNat]] [[a.toNat]]) :
    reduce (crossForm i g (some d) (some a) none) d.toNat a.toNat op val s = acrossResult s g (fun l =>
      wrf d.toNat ((val s l).1.getD (redIdentity op)) (((List.range 32).filter (laneOn s g)).foldl (fun x l => x ||| (val s l).2)
        (redTree op (contributes s g a.toNat) 5 0).2)) :=
  laneEnter_cross _ hw h (by simp) (by simp)

/-- Settles O15: each word reads its own lanes; VOTE's value by `voteValue_eq`, LRED's flags are those of the tree. -/
theorem voteAndReductionResults : Obligations.vote_and_reduction_results := by
  intro s g d a q o u e hl
  refine ⟨fun hw => congrArg Host.Outcome.next ((cross_near hw hl (by simp) (by simp)).trans (congrArg (acrossResult s g) (funext fun l => ?_))),
    fun hw => congrArg Host.Outcome.next ((reduce_near hw hl).trans (congrArg (acrossResult s g) (funext fun l => ?_))),
    fun hw => congrArg Host.Outcome.next (reduce_near hw hl)⟩
  · exact congrArg (fun w => wr [(d.toNat, w)]) (voteValue_eq _ _ _)
  · exact congrArg (wrf d.toNat _) (foldl_or_self _ _)

/-! ## Indirect registers (19 R334) -/

/-- A mask that no lane of a strand meets. -/
theorem laneMask_none {f : Nat → Bool} (h : ∀ j < 4, f j = false) : laneMask f = 0 :=
  laneMask_eq_zero.mpr ⟨h 0 (by decide), h 1 (by decide), h 2 (by decide), h 3 (by decide)⟩

/-- A strand with a lane in a mask has some. -/
theorem ne_zero_of_getLsbD {m : BitVec 4} {j : Nat} (h : m.getLsbD j = true) : m ≠ 0 := by
  rintro rfl; simp at h

/-- No index of a strand is out of range. -/
theorem badIndex_eq_zero {s : State} {g : Guard} {r n : Nat} (hr : rdiReady s g r) (hn : n ∈ grp s) : badIndex s g r n = 0 := by
  unfold badIndex
  refine laneMask_none fun j hj => ?_
  cases ha : ((curStrand s n).active g).getLsbD j with
  | false => simp
  | true =>
    have := (hr n hn (ne_zero_of_getLsbD ha)).2 j hj ha
    simp only [Bool.true_and, decide_eq_false_iff_not]
    omega

/-- With no reply outstanding and every index in range, RDI and WRI go on to their own effect. -/
theorem indirect_ready {i : Instr} {g : Guard} {d a b : Option (BitVec 6)} {r : Nat} {s : State} {dst src : List (List Nat)} (k : State → State)
    (hw : i.wf = true) (h : laneFree s g .user dst src) (hd : ∀ v, d = some v → [v.toNat] ∈ dst)
    (hab : ∀ v, a = some v ∨ b = some v → [v.toNat] ∈ src) (hr : rdiReady s g r) : indirect (crossForm i g d a b) r s k = k s := by
  have h1 : (acting s g).any (fun n => !(curStrand s n).replies.isEmpty) = false := by
    rw [List.any_eq_false]
    intro n hn
    obtain ⟨hn, ha⟩ := List.mem_filter.mp hn
    rw [(hr n hn (by simpa using ha)).1]
    simp
  have h2 : (grp s).any (fun n => badIndex s g r n != 0) = false := by
    rw [List.any_eq_false]
    intro n hn
    rw [badIndex_eq_zero hr hn]
    simp
  refine (laneEnter_cross _ hw h hd hab).trans ?_
  have hg : (crossForm i g d a b).guard = g := rfl
  simp only [hg, h1, h2, Bool.false_eq_true, if_false]

/-- No register that an index names is marked lost. -/
theorem lostIndex_eq_zero {s : State} {g : Guard} {a n : Nat}
    (h : ∀ j < 4, ((curStrand s n).active g).getLsbD j = true → (false, (curStrand s n).vwb + ((curStrand s n).v a j).toNat, j) ∉ (curStrand s n).lost) :
    lostIndex s g a n = 0 := by
  unfold lostIndex
  refine laneMask_none fun j hj => ?_
  cases ha : ((curStrand s n).active g).getLsbD j with
  | false => simp
  | true => simpa [indexed] using h j hj ha

theorem exec_rdi {s : State} {g : Guard} {d a : BitVec 6} {h : BitVec 1} (hl : laneFree s g .user [[d.toNat]] [[a.toNat]])
    (hr : rdiReady s g a.toNat) (hz : ∀ n ∈ grp s, lostIndex s g a.toNat n = 0) :
    exec (.rdi g d a h) s = .next (laneResult s g 4 (fun t j => wr [(d.toNat, t.reg (indexed t a.toNat j) j)])) := by
  have h1 : (grp s).any (fun n => lostIndex s g a.toNat n != 0) = false := by
    rw [List.any_eq_false]
    intro n hn
    rw [hz n hn]
    simp
  refine congrArg Host.Outcome.next ((indirect_ready _ rfl hl (by simp) (by simp) hr).trans ?_)
  simp only [h1, Bool.false_eq_true, if_false]
  rfl

/-- Lanes whose results agree write alike. -/
theorem lanewise_congr {t : Strand} {m : BitVec 4} {op op' : Nat → LaneOut} (h : ∀ j < 4, op j = op' j) : t.lanewise m op = t.lanewise m op' := by
  unfold Strand.lanewise
  exact List.foldl_ext _ _ _ fun u j hj => by rw [h j (mem_lanesOf.mp hj).1]

/-- SRD, where what FSTAT reflects has been performed. -/
theorem exec_srd {s : State} {g : Guard} {d : BitVec 6} {i : BitVec 14} (hw : (Instr.srd g d i).wf = true)
    (hl : laneFree s g (srMode i.toNat) [[d.toNat]] []) (hq : srWaits s i.toNat (acting s g) = false) :
    exec (.srd g d i) s = .next (acrossResult s g (fun l => wr [(d.toNat, (srRead s i.toNat (l / 4) (l % 4)).setWidth 32)])) := by
  refine congrArg Host.Outcome.next ((laneEnter_free _ hw ⟨by simp, by simp, by simp⟩ hl rfl (by simp) (by intro w hw; cases hw)).trans ?_)
  have hlane : ∀ n (t : Strand), (t.lanewise (t.active g) fun j => wr [(d.toNat, (srRead s i.toNat n j).setWidth 32)]) =
      t.lanewise (t.active g) fun j => wr [(d.toNat, (srRead s i.toNat ((4 * n + j) / 4) ((4 * n + j) % 4)).setWidth 32)] := fun n t =>
    lanewise_congr fun j hj => by rw [show (4 * n + j) / 4 = n by omega, show (4 * n + j) % 4 = j by omega]
  simp only [hq, Bool.false_eq_true, if_false, hlane]
  rfl

/-- Settles O16: RDI and WRI by `indirect_ready`; SRD reads each lane's register by its number in the ply. -/
theorem indirectRegisterResults : Obligations.indirect_register_results := by
  intro s g d a b h e i
  refine ⟨fun hl hr hlost => exec_rdi hl hr fun n hn => lostIndex_eq_zero (hlost n hn),
    fun hl hr => congrArg Host.Outcome.next (indirect_ready _ rfl hl (by simp) (fun v hv => ?_) hr), fun hw hl hq => exec_srd hw hl ?_⟩
  · rcases hv with hv | hv <;> cases hv <;> simp
  · rw [srWaits, Bool.and_eq_false_imp]
    intro hi
    have hi : i = 0x018 := by simpa [← BitVec.toNat_inj] using hi
    exact List.any_eq_false.mpr fun n hn => by rw [hq hi n hn]; simp

end Sys2Proof.Machine
end

section
/-! Uniform arithmetic (O18): each word writes one W register. -/

namespace Sys2Proof.Machine

/-- A group free for some registers is free for fewer. -/
theorem uniFree_mono {s : State} {need : Mode} {reads writes reads' writes' : List Nat} (h : uniFree s need reads writes)
    (hr : reads' ⊆ reads) (hw : writes' ⊆ writes) : uniFree s need reads' writes' := by
  obtain ⟨h1, h2, h3, h4⟩ := h
  exact ⟨h1, fun w hm => h2 w (hr hm), fun w hm => h3 w (hw hm), fun w hm => h4 w (List.append_subset.mpr
    ⟨List.subset_append_of_subset_left _ hr, List.subset_append_of_subset_right _ hw⟩ hm)⟩

section
variable {i : Instr} {s : State} {d a b : Nat} {f : (Nat → DWord) → DWord} {x : DWord}

/-- A uniform word of two registers. -/
theorem uniAlu_binary (h : uniFree s .user [a, b] [d]) (hw : i.wf = true) (hx : f (wReg s) = x) :
    Host.Outcome.next (ρ := Refusal) (φ := Fault) (uniAlu i d [a, b] f s) = .next (uniResult s d x) := by
  rw [uniAlu_free hw h, hx]

/-- A uniform word of one register. -/
theorem uniAlu_unary (h : uniFree s .user [a, b] [d]) (hw : i.wf = true) (hx : f (wReg s) = x) :
    Host.Outcome.next (ρ := Refusal) (φ := Fault) (uniAlu i d [a] f s) = .next (uniResult s d x) := by
  rw [uniAlu_free hw (uniFree_mono h (by simp) (by simp)), hx]
end

theorem shiftLeft_eq_mul (x : DWord) (n : Nat) : x <<< n = BitVec.ofNat 64 (x.toNat * 2 ^ n) := by
  apply BitVec.eq_of_toNat_eq
  rw [BitVec.toNat_shiftLeft, BitVec.toNat_ofNat, Nat.shiftLeft_eq]

theorem shiftRight_eq_div (x : DWord) (n : Nat) : x >>> n = BitVec.ofNat 64 (x.toNat / 2 ^ n) := by
  apply BitVec.eq_of_toNat_eq
  rw [BitVec.toNat_ushiftRight, BitVec.toNat_ofNat, Nat.shiftRight_eq_div_pow,
    Nat.mod_eq_of_lt (lt_of_le_of_lt (Nat.div_le_self _ _) x.isLt)]

theorem sshiftRight_eq_div (x : DWord) (n : Nat) : x.sshiftRight n = BitVec.ofInt 64 (x.toInt / 2 ^ n) := by
  rw [BitVec.sshiftRight, Int.shiftRight_eq_div_pow, Nat.cast_pow, Nat.cast_ofNat]

/-- The smaller of two values by `below`. -/
theorem below_min (u : BitVec 1) (x y : DWord) : (if below u y x then y else x) =
    if u = 1 then (if x.toNat ≤ y.toNat then x else y) else if x.toInt ≤ y.toInt then x else y := by
  unfold below
  split
  · simp only [BitVec.ult, decide_eq_true_eq, ← not_le, ite_not]
  · simp only [BitVec.slt, decide_eq_true_eq, ← not_le, ite_not]

/-- The larger of two values in an order that tells them apart, whichever way a tie is decided. -/
theorem ite_lt_eq_ite_le {α β : Type} [LinearOrder β] {f : α → β} (hf : Function.Injective f) (x y : α) :
    (if f x < f y then y else x) = if f x ≤ f y then y else x := by
  rcases lt_trichotomy (f x) (f y) with h | h | h
  · rw [if_pos h, if_pos h.le]
  · rw [hf h, if_neg (lt_irrefl _), if_pos le_rfl]
  · rw [if_neg h.not_gt, if_neg h.not_ge]

/-- The larger of two values by `below`. -/
theorem below_max (u : BitVec 1) (x y : DWord) : (if below u x y then y else x) =
    if u = 1 then (if x.toNat ≤ y.toNat then y else x) else if x.toInt ≤ y.toInt then y else x := by
  rw [← ite_lt_eq_ite_le (fun _ _ => BitVec.eq_of_toNat_eq) x y, ← ite_lt_eq_ite_le (fun _ _ => BitVec.eq_of_toInt_eq) x y]
  unfold below
  split
  · simp [BitVec.ult]
  · simp [BitVec.slt]

/-- Settles O18: each word computes its value from the registers that it reads. -/
theorem uniformArithmeticResults : Obligations.uniform_arithmetic_results := by
  intro s d a b p n i u h
  have hi : i.signExtend 64 = BitVec.ofInt 64 i.toInt := rfl
  refine ⟨congrArg _ (uniEnter_bare _ rfl (uniFree_mono h (by simp) (by simp))), uniAlu_binary h rfl rfl, uniAlu_binary h rfl rfl, uniAlu_binary h rfl rfl,
    uniAlu_binary h rfl rfl, uniAlu_binary h rfl rfl, uniAlu_binary h rfl rfl, uniAlu_unary h rfl (shiftLeft_eq_mul _ _),
    uniAlu_unary h rfl (shiftRight_eq_div _ _), uniAlu_unary h rfl (sshiftRight_eq_div _ _), uniAlu_binary h rfl (below_min _ _ _),
    uniAlu_binary h rfl (below_max _ _ _), uniAlu_unary h rfl rfl, uniAlu_unary h rfl rfl, ?_, fun hp hd => ?_⟩
  · exact congrArg _ (uniAlu_free rfl (uniFree_mono h (by simp) (by simp)))
  · exact congrArg _ (uniAlu_free (show (Instr.umovhi d p i).wf = true from decide_eq_true hp) (uniFree_join hd (uniFree_mono h (by simp) (by simp))))

end Sys2Proof.Machine
end

section
/-! Control flow (O20 to O22): calls, masks, the frames of JOIN and RET, and table jumps. -/

namespace Sys2Proof.Machine

/-! ## Masks and steered groups -/

theorem getLsbD_laneMask (f : Nat → Bool) (j : Nat) : (laneMask f).getLsbD j = (decide (j < 4) && f j) := by
  by_cases hj : j < 4
  · obtain rfl | rfl | rfl | rfl : j = 0 ∨ j = 1 ∨ j = 2 ∨ j = 3 := by omega
    all_goals
      unfold laneMask
      generalize f 0 = p, f 1 = q, f 2 = r, f 3 = t
      revert p q r t
      decide
  · simp [hj, BitVec.getLsbD_of_ge _ j (Nat.not_lt.mp hj)]

/-- Strands changed alike wherever the group has one. -/
theorem mapStrands_congr {s : State} {sid ply : Nat} {ns : List Nat} {f g : Nat → Strand → Strand} (h : ∀ n ∈ ns, f n = g n) :
    mapStrands s sid ply ns f = mapStrands s sid ply ns g := by
  unfold mapStrands
  exact List.foldl_ext _ _ _ fun a n hn => by rw [h n hn]

theorem steer_congr {s : State} {f g : Nat → Strand → Strand} (h : ∀ n ∈ grp s, f n = g n) : steer s f = steer s g := by
  unfold steer
  rw [mapStrands_congr h]

/-! ## CALL and BRS (21 R353, R354) -/

theorem room_call (t : Strand) : t.room 0 1 = decide (t.calls.length + 1 + t.reserve ≤ 16) := rfl

theorem room_mask (t : Strand) : t.room 1 0 = decide (t.masks.length + 1 + t.reserve ≤ 32) := by
  simp [Strand.room]

/-- What a push must leave free, by the mode (14 R246). -/
theorem reserve_eq (t : Strand) : t.reserve = if t.mode = .user then 3 else if t.mode = .supervisor then 3 - t.edepth else 0 := by
  unfold Strand.reserve
  cases t.mode <;> rfl

/-- The lanes that BRS keeps. -/
theorem getLsbD_kept (t : Strand) (p : BitVec 3) (e : BitVec 1) (j : Nat) :
    (t.kept p e).getLsbD j = true ↔ j < 4 ∧ t.liveLanes.getLsbD j = true ∧ (t.pred j p.toNat = true ↔ e = 0) := by
  rw [Strand.kept, getLsbD_laneMask, Bool.and_eq_true, decide_eq_true_eq, Bool.and_eq_true, beq_iff_eq]
  exact and_congr_right fun _ => and_congr_right fun _ => Bool.eq_iff_iff.trans (iff_congr Iff.rfl beq_iff_eq)

section
variable {s : State} {p : BitVec 3} {c : BitVec 2} {e : BitVec 1} {o : BitVec 19}

theorem exec_call (hc : c ≠ 0 ∨ p = 0) (h : uniFree s .user [] []) :
    exec (.call p c o) s = .next (if (grp s).any (fun n => (curStrand s n).taken p c && !((curStrand s n).room 0 1)) then
        trapAll s .calldepth (instrWord (.call p c o))
      else steer s (fun _ t =>
        if t.taken p c then { t with wait := .none, calls := (t.pc + 4) :: t.calls, pc := target t.pc (o.signExtend 64) }
        else { t with wait := .none, pc := t.pc + 4 })) :=
  congrArg _ (uniEnter_bare _ (by simpa [Instr.wf] using hc) h)

theorem exec_brs (h : uniFree s .user [] []) :
    exec (.brs p e o) s = .next (if (grp s).any (fun n => (curStrand s n).kept p e != 0 && !((curStrand s n).room 1 0)) then
        trapAll s .calldepth (instrWord (.brs p e o))
      else steer s (fun _ t =>
        if t.kept p e = 0 then { t with wait := .none, pc := target t.pc (o.signExtend 64) }
        else { t with wait := .none, masks := (t.kept p e).setWidth 8 :: t.masks, pc := t.pc + 4 })) :=
  congrArg _ (uniEnter_bare _ rfl h)
end

/-- Settles O20: each word by its equation; a strand that pushes has room or the group traps. -/
theorem callAndMaskResults : Obligations.call_and_mask_results := by
  intro s p c e o h
  refine ⟨fun hc hroom => ?_, fun hc hfull => ?_, fun hroom => ?_, fun hfull => ?_, fun t j => getLsbD_kept t p e j, reserve_eq⟩
  · rw [exec_call hc h, if_neg]
    · rfl
    · simpa [room_call] using hroom
  · rw [exec_call hc h, if_pos]
    simpa [room_call] using hfull
  · rw [exec_brs h, if_neg]
    · rfl
    · simpa [room_mask] using hroom
  · rw [exec_brs h, if_pos]
    simpa [room_mask] using hfull

/-! ## Words fetched for a table (21 R357) -/

/-- A fetch touches what the core keeps only. -/
theorem fetchAt_eq (s : State) (k : Skein) (m : Mode) (va : Nat) :
    ∃ l c, (fetchAt s k m va).2.2 = { s with tlb := l, icache := c } := by
  unfold fetchAt
  split
  · exact ⟨s.tlb, s.icache, rfl⟩
  · rename_i x _
    obtain ⟨l, hl⟩ := fillTlb_eq s k.core k.part k.ctx x
    simp only [hl]
    split
    · exact ⟨l, s.icache, rfl⟩
    · exact ⟨l, _, rfl⟩

/-- Fetches touch what the core keeps only. -/
theorem fetched_eq {vas : List Nat} {s a : State} {ws : List Word} (h : fetched vas s = some (ws, a)) :
    ∃ l c, a = { s with tlb := l, icache := c } := by
  induction vas generalizing s a ws with
  | nil => cases h; exact ⟨s.tlb, s.icache, rfl⟩
  | cons va vas ih =>
    obtain ⟨l, c, he⟩ := fetchAt_eq s (curSkein s) (curMode s) va
    rw [fetched] at h
    split at h
    · rename_i x w b hf
      rw [hf] at he
      obtain ⟨⟨vs, d⟩, hd, hx⟩ := Option.map_eq_some_iff.mp h
      obtain ⟨l', c', ha⟩ := ih hd
      cases hx
      exact ⟨l', c', by rw [ha, show b = _ from he]⟩
    · cases h

/-- Fetches leave the group and its strands alone. -/
theorem fetched_group {vas : List Nat} {s a : State} {ws : List Word} (h : fetched vas s = some (ws, a)) :
    grp a = grp s ∧ ∀ n, curStrand a n = curStrand s n := by
  obtain ⟨l, c, rfl⟩ := fetched_eq h
  exact ⟨rfl, fun _ => rfl⟩

/-- Words that pass their checks are fetched one after another. -/
theorem withFetch_fetched {vas : List Nat} {s a : State} {ws : List Word} (k : State → List Word → State) (h : fetched vas s = some (ws, a)) :
    withFetch vas s k = k a ws := by
  induction vas generalizing s a ws k with
  | nil => cases h; rfl
  | cons va vas ih =>
    rw [fetched] at h
    split at h
    · rename_i x w b hf
      obtain ⟨⟨vs, d⟩, hd, hx⟩ := Option.map_eq_some_iff.mp h
      cases hx
      simp only [withFetch, hf]
      exact ih _ hd
    · cases h

/-- What was paired with a member of a list is found again. -/
theorem find_zip_map {α : Type} (f : Nat → α) (w : Nat → Word) {l : List Nat} {n : Nat} (h : n ∈ l) :
    ((l.map (fun n => (n, f n))).zip (l.map w)).find? (fun e => e.1.1 == n) = some ((n, f n), w n) := by
  induction l with
  | nil => cases h
  | cons m l ih =>
    by_cases hm : m = n
    · subst hm; simp
    · rcases List.mem_cons.mp h with rfl | h
      · exact absurd rfl hm
      · simpa [hm] using ih h

/-! ## JOIN and RET (21 R355, R359) -/

section
variable {i : Instr} {f : Strand → Turning} {s a b : State}

/-- Some strand has no frame: the whole group traps. -/
theorem runTurns_bad (h : ∃ n ∈ grp s, f (curStrand s n) = .bad) : runTurns i f s = trapAll s .illegal (instrWord i) := by
  have h1 : (grp s).any (fun n => f (curStrand s n) == .bad) = true := by simpa using h
  simp only [runTurns, h1, if_true]

/-- Every strand goes on with an address of its own. -/
theorem runTurns_go {g : Nat → Strand} (h : ∀ n ∈ grp s, f (curStrand s n) = .go (g n)) : runTurns i f s = steer s (fun n _ => g n) := by
  have h1 : (grp s).any (fun n => f (curStrand s n) == .bad) = false := by
    rw [List.any_eq_false]; intro n hn; rw [h n hn]; simp
  simp only [runTurns, h1, Bool.false_eq_true, if_false]
  rw [List.filterMap_eq_nil_iff.mpr]
  · exact steer_congr fun n hn => by rw [h n hn]
  · intro n hn
    rw [h n hn]

/-- Every strand leaves its switch: it goes on at the join point that the table of the switch names. -/
theorem runTurns_join {g : Nat → Strand} {sw : Nat → DWord} {w o : Nat → Word} (h : ∀ n ∈ grp s, f (curStrand s n) = .join (g n) (sw n))
    (hw : fetched ((grp s).map (fun n => (sw n).toNat)) s = some ((grp s).map w, a))
    (ho : fetched ((grp s).map (fun n => (tableOf (sw n) (w n) + 4).toNat)) a = some ((grp s).map o, b)) :
    runTurns i f s = steer b (fun n _ => { g n with pc := target (tableOf (sw n) (w n)) ((o n).signExtend 64) }) := by
  have h1 : (grp s).any (fun n => f (curStrand s n) == .bad) = false := by
    rw [List.any_eq_false]; intro n hn; rw [h n hn]; simp
  have hts : ((grp s).map (fun n => (n, sw n))).zip ((grp s).map w) = (grp s).map (fun n => ((n, sw n), w n)) := List.zip_map'
  obtain ⟨hga, hsa⟩ := fetched_group hw
  obtain ⟨hgb, hsb⟩ := fetched_group ho
  simp only [runTurns, h1, Bool.false_eq_true, if_false]
  rw [List.filterMap_congr (g := some ∘ fun n => (n, sw n)) fun n hn => by rw [h n hn, Function.comp_apply], List.filterMap_eq_map]
  rw [withFetch_fetched _ (ws := (grp s).map w) (by simpa [Function.comp_def] using hw), hts]
  rw [withFetch_fetched _ (ws := (grp s).map o) (by simpa [Function.comp_def] using ho)]
  refine steer_congr fun n hn => funext fun t => ?_
  rw [hgb, hga] at hn
  simp only [hsb, hsa, h n hn, List.map_map, Function.comp_def, find_zip_map (fun n => tableOf (sw n) (w n)) o hn]

end

/-! ### What each frame asks for -/

section
variable {t : Strand} {x y : BitVec 8} {l : List (BitVec 8)} {c : DWord} {q : List DWord}

/-- JOIN under an unmarked mask. -/
theorem joinTurn_pops (hm : t.masks = x :: y :: l) (hx : (x.extractLsb' 4 3 : BitVec 3) = 0) (hy : y.getLsbD 6 = false) :
    joinTurn t = .go { t with masks := t.masks.drop 1, pc := t.pc + 4, wait := .none } := by
  simp only [joinTurn, hm, hx, hy, bne_self_eq_false, Bool.false_eq_true, if_false, List.drop_succ_cons, List.drop_zero]

/-- JOIN in a case of a BRT. -/
theorem joinTurn_case (hm : t.masks = x :: y :: l) (hc : t.calls = c :: q) (hx : (x.extractLsb' 4 3 : BitVec 3) = 0) (hy : y.getLsbD 6 = true)
    (h62 : c.getLsbD 62 = true) (h61 : c.getLsbD 61 = false) : joinTurn t = endCase t (y :: l) c := by
  simp only [joinTurn, hm, hc, hx, hy, switchOf, h62, h61, bne_self_eq_false, Bool.false_eq_true, if_false, if_true, beq_self_eq_true, Bool.and_self]

/-- JOIN with no unmarked mask above another. -/
theorem joinTurn_bad (h : t.masks.length < 2 ∨ ∃ x l, t.masks = x :: l ∧ (x.extractLsb' 4 3 : BitVec 3) ≠ 0) : joinTurn t = .bad := by
  unfold joinTurn
  split
  · rename_i top below rest hm
    rcases h with h | ⟨x, l, hl, hx⟩
    · rw [hm] at h
      simp at h
    · obtain ⟨rfl, -⟩ := List.cons.inj (hm.symm.trans hl)
      exact if_pos (bne_iff_ne.mpr hx)
  · rfl

/-- RET under an entry that is no switch. -/
theorem retTurn_pops (hc : t.calls = c :: q) (h0 : (c.extractLsb' 0 2 : BitVec 2) = 0) (h62 : c.getLsbD 62 = false) :
    retTurn t = .go { t with calls := t.calls.drop 1, pc := callAddr c, wait := .none } := by
  simp only [retTurn, hc, h0, switchOf, h62, bne_self_eq_false, Bool.false_and, Bool.or_self, Bool.false_eq_true, if_false, List.drop_succ_cons,
    List.drop_zero]

/-- RET in a case of a CALLT. -/
theorem retTurn_case (hm : t.masks = x :: y :: l) (hc : t.calls = c :: q) (hx : (x.extractLsb' 4 3 : BitVec 3) = 0)
    (h0 : (c.extractLsb' 0 2 : BitVec 2) = 0) (hy : y.getLsbD 6 = true) (h62 : c.getLsbD 62 = true) (h61 : c.getLsbD 61 = true) :
    retTurn t = endCase t (y :: l) c := by
  simp only [retTurn, hm, hc, hx, h0, hy, switchOf, h62, h61, bne_self_eq_false, beq_self_eq_true, Bool.and_self, Bool.not_true, Bool.or_self,
    Bool.false_eq_true, if_false, if_true, Bool.true_and, (by decide : (true == false) = false)]

/-- RET with no unmarked call entry. -/
theorem retTurn_bad (h : t.calls = [] ∨ ∃ c q, t.calls = c :: q ∧ (c.extractLsb' 0 2 : BitVec 2) ≠ 0) : retTurn t = .bad := by
  rcases h with h | ⟨c, q, hc, h0⟩
  · simp [retTurn, h]
  · rw [retTurn, hc]
    exact if_pos (Bool.or_eq_true_iff.mpr (.inl (bne_iff_ne.mpr h0)))

/-- A case ends while its switch has live lanes left. -/
theorem endCase_continues (h : y.extractLsb' 0 4 &&& ~~~ t.dead ≠ 0) :
    endCase t (y :: l) c = .go { t with masks := y :: l, pc := callAddr c, wait := .none } :=
  if_pos (bne_iff_ne.mpr h)

/-- The last case of a switch ends. -/
theorem endCase_leaves (h : y.extractLsb' 0 4 &&& ~~~ t.dead = 0) :
    endCase t (y :: l) c = .join { t with masks := l, calls := t.calls.drop 1, wait := .none } (callAddr c) :=
  if_neg fun hl => bne_iff_ne.mp hl h
end

theorem exec_join {s : State} (h : uniFree s .user [] []) : exec .join s = .next (runTurns .join joinTurn s) :=
  congrArg _ (uniEnter_bare _ rfl h)

theorem exec_ret {s : State} (h : uniFree s .user [] []) : exec .ret s = .next (runTurns .ret retTurn s) :=
  congrArg _ (uniEnter_bare _ rfl h)

/-- Settles O21: each word by the frames of its strands, which `joinTurn` and `retTurn` read, and `runTurns` over the group. -/
theorem joinAndReturnResults : Obligations.join_and_return_results := by
  intro s h
  refine ⟨fun hf => (exec_join h).trans (congrArg _ (runTurns_go fun n hn => ?_)), fun hf => (exec_join h).trans (congrArg _ (runTurns_go fun n hn => ?_)),
    fun hf => (exec_ret h).trans (congrArg _ (runTurns_go fun n hn => ?_)), ?_, ?_,
    fun ⟨n, hn, hf⟩ => (exec_join h).trans (congrArg _ (runTurns_bad ⟨n, hn, joinTurn_bad hf⟩)),
    fun ⟨n, hn, hf⟩ => (exec_ret h).trans (congrArg _ (runTurns_bad ⟨n, hn, retTurn_bad hf⟩))⟩
  · obtain ⟨x, y, l, hm, hx, hy⟩ := hf n hn
    exact joinTurn_pops hm hx hy
  · obtain ⟨x, y, l, c, q, hm, hc, hx, hy, h62, h61, hlive⟩ := hf n hn
    rw [joinTurn_case hm hc hx hy h62 h61, endCase_continues hlive]
    simp only [hm, hc, List.drop_succ_cons, List.drop_zero, List.headD_cons, callAddr]
  · obtain ⟨c, q, hc, h0, h62⟩ := hf n hn
    rw [retTurn_pops hc h0 h62]
    simp only [hc, List.headD_cons, callAddr]
  · intro a b w o sw tab hf hw ho
    refine (exec_join h).trans (congrArg _ (runTurns_join (g := fun n => let t := curStrand s n
      { t with masks := t.masks.drop 2, calls := t.calls.drop 1, wait := .none }) (sw := sw) (fun n hn => ?_) hw ho))
    obtain ⟨x, y, l, c, q, hm, hc, hx, h0, hy, h62, h61, hlive⟩ := hf n hn
    rw [joinTurn_case hm hc hx hy h62 h61, endCase_leaves hlive]
    simp only [sw, hm, hc, List.drop_succ_cons, List.drop_zero, List.headD_cons, callAddr]
  · intro a b w o sw tab hf hw ho
    refine (exec_ret h).trans (congrArg _ (runTurns_join (g := fun n => let t := curStrand s n
      { t with masks := t.masks.drop 2, calls := t.calls.drop 1, wait := .none }) (sw := sw) (fun n hn => ?_) hw ho))
    obtain ⟨x, y, l, c, q, hm, hc, hx, h0, hy, h62, h61, hlive⟩ := hf n hn
    rw [retTurn_case hm hc hx h0 hy h62 h61, endCase_leaves hlive]
    simp only [sw, hm, hc, List.drop_succ_cons, List.drop_zero, List.headD_cons, callAddr]

/-! ## Table jumps (21 R357, R358) -/

/-- What BRT and CALLT do once the count of their table is fetched. -/
def countedJump (i : Instr) (x : BitVec 6) (callt : Bool) (table : DWord) (count : Nat) (s : State) : State :=
  let beyond n := laneMask (fun j => (curStrand s n).liveLanes.getLsbD j && decide (count ≤ (curStrand s n).index x j))
  if (count = 0 ∨ 65535 < count) ∧ (grp s).any (fun n => (curStrand s n).liveLanes != 0) then
    trapGroup s (fun n => if (curStrand s n).liveLanes = 0 then none
      else some (trapOf (curStrand s n).liveLanes .brtab (curStrand s n).pc table))
  else if (grp s).any (fun n => beyond n != 0) then
    trapGroup s (fun n => if beyond n = 0 then none else some (trapOf (beyond n) .brtab (curStrand s n).pc table))
  else if (grp s).any (fun n => !((curStrand s n).roomForCase callt)) then trapAll s .calldepth (instrWord i)
  else
    let ks := (grp s).map (fun n => (n, (curStrand s n).caseOf x))
    withFetch (ks.map (fun e => (table + 4 * dw (match e.2 with
      | some k => 2 + k
      | none => 1)).toNat)) s (fun s ws =>
        steer s (fun n t =>
          match (ks.zip ws).find? (fun e => e.1.1 == n) with
          | some e =>
            let dst := target table (e.2.signExtend 64)
            if t.liveLanes = 0 then t.skipSwitch callt dst else t.dispatch x callt dst
          | none => t))

section
variable {i : Instr} {x : BitVec 6} {off : BitVec 18} {callt : Bool} {s a b : State} {count : Word} {w : Nat → Word} {table : DWord} {c : Nat}

/-- A table jump whose index registers are ready goes on with the count of its table. -/
theorem tableJump_counted (hw : i.wf = true) (h : uniFree s .user [] [])
    (hr : ∀ n ∈ grp s, (curStrand s n).allowed (curSkein s).nreg [x.toNat] = true ∧
      (curStrand s n).awaits [x.toNat] (curStrand s n).liveLanes = false ∧ (curStrand s n).lostLanes [x.toNat] (curStrand s n).liveLanes = 0)
    (hf : fetched [(target (curPc s) (off.signExtend 64)).toNat] s = some ([count], a)) :
    tableJump i x off callt s = countedJump i x callt (target (curPc s) (off.signExtend 64)) count.toNat a := by
  have h1 : (grp s).any (fun n => !((curStrand s n).allowed (curSkein s).nreg [x.toNat])) = false := by
    rw [List.any_eq_false]; intro n hn; simp [(hr n hn).1]
  have h2 : (grp s).any (fun n => (curStrand s n).awaits [x.toNat] (curStrand s n).liveLanes) = false := by
    rw [List.any_eq_false]; intro n hn; simp [(hr n hn).2.1]
  have h3 : (grp s).any (fun n => (curStrand s n).lostLanes [x.toNat] (curStrand s n).liveLanes != 0) = false := by
    rw [List.any_eq_false]; intro n hn; simp [(hr n hn).2.2]
  rw [tableJump, uniEnter_bare _ hw h]
  simp only [h1, h2, h3, Bool.false_eq_true, if_false]
  exact withFetch_fetched _ hf

/-- A count that no table has: every strand with a live lane traps. -/
theorem countedJump_badCount (hc : c = 0 ∨ 65535 < c) (hl : ∃ n ∈ grp s, (curStrand s n).liveLanes ≠ 0) :
    countedJump i x callt table c s = trapGroup s (fun n => if (curStrand s n).liveLanes = 0 then none
      else some (trapOf (curStrand s n).liveLanes .brtab (curStrand s n).pc table)) :=
  if_pos ⟨hc, by simpa using hl⟩

/-- The lanes of a strand whose index is past the table. -/
def beyondTable (s : State) (x : BitVec 6) (c n : Nat) : BitVec 4 :=
  laneMask (fun j => (curStrand s n).liveLanes.getLsbD j && decide (c ≤ (curStrand s n).index x j))

/-- A good count, or no lane that would look at it. -/
def countServes (s : State) (c : Nat) : Prop := (0 < c ∧ c < 65536) ∨ ∀ n ∈ grp s, (curStrand s n).liveLanes = 0

theorem badCount_not (h : countServes s c) : ¬ ((c = 0 ∨ 65535 < c) ∧ (grp s).any (fun n => (curStrand s n).liveLanes != 0) = true) := by
  rintro ⟨hc, hl⟩
  rcases h with h | h
  · omega
  · obtain ⟨n, hn, hl⟩ := List.any_eq_true.mp hl
    simp [h n hn] at hl

/-- An index past the table: the strands that have one trap. -/
theorem countedJump_beyond (hc : countServes s c) (hb : ∃ n ∈ grp s, beyondTable s x c n ≠ 0) :
    countedJump i x callt table c s = trapGroup s (fun n => if beyondTable s x c n = 0 then none
      else some (trapOf (beyondTable s x c n) .brtab (curStrand s n).pc table)) :=
  (if_neg (badCount_not hc)).trans (if_pos (by simpa [beyondTable] using hb))

theorem beyond_none (hb : ∀ n ∈ grp s, beyondTable s x c n = 0) : (grp s).any (fun n => beyondTable s x c n != 0) = false := by
  rw [List.any_eq_false]; intro n hn; simp [hb n hn]

/-- A stack without room for the next case. -/
theorem countedJump_full (hc : countServes s c) (hb : ∀ n ∈ grp s, beyondTable s x c n = 0)
    (hr : ∃ n ∈ grp s, (curStrand s n).roomForCase callt = false) : countedJump i x callt table c s = trapAll s .calldepth (instrWord i) :=
  (if_neg (badCount_not hc)).trans ((if_neg (Bool.eq_false_iff.mp (beyond_none hb))).trans (if_pos (by simpa using hr)))

/-- Every strand goes to its next case, or past its switch. -/
theorem countedJump_dispatches (hc : countServes s c) (hb : ∀ n ∈ grp s, beyondTable s x c n = 0)
    (hr : ∀ n ∈ grp s, (curStrand s n).roomForCase callt = true)
    (hw : fetched ((grp s).map (fun n => (table + 4 * dw (match (curStrand s n).caseOf x with
        | some k => 2 + k
        | none => 1)).toNat)) s = some ((grp s).map w, b)) :
    countedJump i x callt table c s = steer b (fun n t => if t.liveLanes = 0 then t.skipSwitch callt (target table ((w n).signExtend 64))
      else t.dispatch x callt (target table ((w n).signExtend 64))) := by
  refine (if_neg (badCount_not hc)).trans ((if_neg (Bool.eq_false_iff.mp (beyond_none hb))).trans ((if_neg ?_).trans ?_))
  · simpa using hr
  · refine (withFetch_fetched _ (ws := (grp s).map w) (a := b) ?_).trans (steer_congr fun n hn => funext fun t => ?_)
    · rw [List.map_map]
      exact hw
    · rw [(fetched_group hw).1] at hn
      rw [find_zip_map _ _ hn]
end

/-! ### The frames of a switch (21 R352, R358) -/

theorem continues_iff (t : Strand) (q : Bool) : t.continues q = true ↔ ∃ m ms c cs, t.masks = m :: ms ∧ t.calls = c :: cs ∧ m.getLsbD 6 = true ∧
    c.getLsbD 62 = true ∧ c.getLsbD 61 = q ∧ c &&& 0x01FFFFFFFFFFFFFC = t.pc := by
  unfold Strand.continues
  split
  · rename_i m ms c cs hm hc
    simp only [switchOf, callAddr, Bool.and_eq_true, beq_iff_eq, and_assoc]
    exact ⟨fun h => ⟨m, ms, c, cs, hm, hc, h⟩, fun ⟨m', ms', c', cs', hm', hc', h⟩ => by
      obtain ⟨rfl, -⟩ := List.cons.inj (hm.symm.trans hm')
      obtain ⟨rfl, -⟩ := List.cons.inj (hc.symm.trans hc')
      exact h⟩
  · rename_i hno
    refine ⟨fun h => absurd h (by decide), ?_⟩
    rintro ⟨m, ms, c, cs, hm, hc, -⟩
    exact (hno m ms c cs hm hc).elim

/-- The lanes that a case leaves for the others. -/
theorem live_without_case (t : Strand) (x : BitVec 6) (k : Nat) :
    t.liveLanes &&& ~~~ laneMask (fun j => t.liveLanes.getLsbD j && t.index x j == k) =
      laneMask (fun j => t.liveLanes.getLsbD j && (t.v x.toNat j).toNat != k) := by
  apply BitVec.eq_of_getLsbD_eq
  intro j hj
  rw [BitVec.getLsbD_and, BitVec.getLsbD_not, getLsbD_laneMask, getLsbD_laneMask]
  cases t.liveLanes.getLsbD j <;> simp [hj, Strand.index, bne]

theorem dispatch_continues {t : Strand} {x : BitVec 6} {q : Bool} {dst : DWord} {k : Nat} (hq : t.continues q = true) (hk : t.caseOf x = some k) :
    t.dispatch x q dst = { t with
      masks := (laneMask (fun j => t.liveLanes.getLsbD j && (t.v x.toNat j).toNat == k)).setWidth 8 ::
        ((laneMask (fun j => t.liveLanes.getLsbD j && (t.v x.toNat j).toNat != k)).setWidth 8 ||| 0x40) :: t.masks.drop 1,
      pc := dst, wait := .none } := by
  simp only [Strand.dispatch, hk, hq, if_true, Option.getD_some, live_without_case]
  rfl

theorem dispatch_enters {t : Strand} {x : BitVec 6} {q : Bool} {dst : DWord} {k : Nat} (hq : t.continues q = false) (hk : t.caseOf x = some k) :
    t.dispatch x q dst = { t with
      masks := (laneMask (fun j => t.liveLanes.getLsbD j && (t.v x.toNat j).toNat == k)).setWidth 8 ::
        ((laneMask (fun j => t.liveLanes.getLsbD j && (t.v x.toNat j).toNat != k)).setWidth 8 ||| 0x40) :: t.masks,
      calls := (t.pc ||| 0x4000000000000000 ||| (if q then 0x2000000000000000 else 0)) :: t.calls, pc := dst, wait := .none } := by
  simp only [Strand.dispatch, hk, hq, Bool.false_eq_true, if_false, Option.getD_some, live_without_case]
  rfl

theorem skipSwitch_eq (t : Strand) (q : Bool) (dst : DWord) : t.skipSwitch q dst =
    if t.continues q then { t with masks := t.masks.drop 1, calls := t.calls.drop 1, pc := dst, wait := .none }
    else { t with pc := dst, wait := .none } := by
  unfold Strand.skipSwitch
  split <;> rfl

section
variable {s a b : State} {i : Instr} {x : BitVec 6} {off : BitVec 18} {callt : Bool} {count : Word} {w : Nat → Word} {table : DWord} {c : Nat}

/-- Indices in the table. -/
theorem beyondTable_eq_zero {n : Nat} (h : ∀ j, (curStrand s n).liveLanes.getLsbD j = true → ((curStrand s n).v x.toNat j).toNat < c) :
    beyondTable s x c n = 0 := by
  refine laneMask_none fun j _ => ?_
  cases hl : (curStrand s n).liveLanes.getLsbD j with
  | false => rfl
  | true => exact decide_eq_false (not_le.mpr (h j hl))

/-- A group whose strands have their indices in the table and room for their cases goes on. -/
theorem tableJump_dispatches (hi : i.wf = true) (h : uniFree s .user [] []) (ht : target (curPc s) (off.signExtend 64) = table)
    (hr : ∀ n ∈ grp s, let t := curStrand s n
      t.allowed (curSkein s).nreg [x.toNat] = true ∧ t.awaits [x.toNat] t.liveLanes = false ∧ t.lostLanes [x.toNat] t.liveLanes = 0 ∧
        (∀ j, t.liveLanes.getLsbD j = true → (t.v x.toNat j).toNat < count.toNat) ∧ t.roomForCase callt = true)
    (hc : countServes s count.toNat) (hf : fetched [table.toNat] s = some ([count], a))
    (hw : fetched ((grp s).map (fun n => (table + 4 * dw (match (curStrand s n).caseOf x with
        | some k => 2 + k
        | none => 1)).toNat)) a = some ((grp s).map w, b)) :
    tableJump i x off callt s = steer b (fun n t =>
      if t.liveLanes = 0 then t.skipSwitch callt (target table ((w n).signExtend 64)) else t.dispatch x callt (target table ((w n).signExtend 64))) := by
  subst ht
  obtain ⟨hga, hsa⟩ := fetched_group hf
  rw [tableJump_counted hi h (fun n hn => ⟨(hr n hn).1, (hr n hn).2.1, (hr n hn).2.2.1⟩) hf]
  refine countedJump_dispatches ?_ (fun n hn => beyondTable_eq_zero ?_) (fun n hn => ?_) ?_
  · simpa only [countServes, hga, hsa] using hc
  · rw [hga] at hn
    rw [hsa]
    exact (hr n hn).2.2.2.1
  · rw [hga] at hn
    rw [hsa]
    exact (hr n hn).2.2.2.2
  · simpa only [hga, hsa] using hw

/-- A group whose table or stacks refuse traps, BRTAB before CALLDEPTH. -/
theorem tableJump_traps (hi : i.wf = true) (h : uniFree s .user [] []) (ht : target (curPc s) (off.signExtend 64) = table)
    (hr : ∀ n ∈ grp s, (curStrand s n).allowed (curSkein s).nreg [x.toNat] = true ∧
      (curStrand s n).awaits [x.toNat] (curStrand s n).liveLanes = false ∧ (curStrand s n).lostLanes [x.toNat] (curStrand s n).liveLanes = 0)
    (hf : fetched [table.toNat] s = some ([count], a)) (hl : ∃ n ∈ grp s, (curStrand s n).liveLanes ≠ 0) :
    (count.toNat = 0 ∨ 65535 < count.toNat → tableJump i x off callt s = trapGroup a (fun n => let t := curStrand s n
      if t.liveLanes = 0 then none else some (trapOf t.liveLanes .brtab t.pc table))) ∧
    (0 < count.toNat ∧ count.toNat < 65536 → (∃ n ∈ grp s, beyondTable s x count.toNat n ≠ 0) → tableJump i x off callt s =
      trapGroup a (fun n => if beyondTable s x count.toNat n = 0 then none
        else some (trapOf (beyondTable s x count.toNat n) .brtab (curStrand s n).pc table))) ∧
    (0 < count.toNat ∧ count.toNat < 65536 → (∀ n ∈ grp s, beyondTable s x count.toNat n = 0) →
      (∃ n ∈ grp s, (curStrand s n).roomForCase callt = false) → tableJump i x off callt s = trapAll a .calldepth (instrWord i)) := by
  subst ht
  obtain ⟨hga, hsa⟩ := fetched_group hf
  have hb : beyondTable a x count.toNat = beyondTable s x count.toNat := funext fun n => by simp only [beyondTable, hsa]
  rw [tableJump_counted hi h hr hf]
  refine ⟨fun hc => ?_, fun hc hy => ?_, fun hc hy hroom => ?_⟩
  · rw [countedJump_badCount hc (by simpa only [hga, hsa] using hl)]
    simp only [hsa]
  · rw [countedJump_beyond (.inl hc) (by simpa only [hga, hb] using hy)]
    simp only [hsa, hb]
  · exact countedJump_full (.inl hc) (by simpa only [hga, hb] using hy) (by simpa only [hga, hsa] using hroom)
end

/-- Settles O22: BRT and CALLT are one table jump, and a strand's stacks change as the frames of its switch say. -/
theorem tableJumpResults : Obligations.table_jump_results := by
  intro s
  refine ⟨?_, ?_, ?_, fun t x q dst k => dispatch_continues, skipSwitch_eq, continues_iff, fun t x q dst k => dispatch_enters⟩
  · intro x off count a b w table h hr hc hf hw
    exact congrArg _ (tableJump_dispatches rfl h rfl hr hc hf hw)
  · intro x off count a b w table h hr hc hf hw
    exact congrArg _ (tableJump_dispatches rfl h rfl hr hc hf hw)
  · intro x off count a table beyond h hr hf hl
    obtain ⟨b1, b2, b3⟩ := tableJump_traps (i := .brt x off) (callt := false) rfl h rfl hr hf hl
    obtain ⟨c1, c2, c3⟩ := tableJump_traps (i := .callt x off) (callt := true) rfl h rfl hr hf hl
    exact ⟨fun hc => ⟨congrArg _ (b1 hc), congrArg _ (c1 hc)⟩, fun hc hy => ⟨congrArg _ (b2 hc hy), congrArg _ (c2 hc hy)⟩,
      fun hc hy => ⟨fun hroom => congrArg _ (b3 hc hy hroom), fun hroom => congrArg _ (c3 hc hy hroom)⟩⟩

end Sys2Proof.Machine
end

section
/-! Waiting and fences (O23): YIELD, WAIT, FENCE, and what a FENCE in flight holds. -/

namespace Sys2Proof.Machine

/-! ## WAIT (21 R363) -/

/-- With no pending fault that it would deliver, WAIT goes on to its counters. -/
theorem deliverFaults_none {cp xf : Bool} {s : State} (k : State → State) (hc : cp = true → ∀ n ∈ grp s, (curStrand s n).faults = [])
    (hx : xf = true → ∀ n ∈ grp s, ∀ y ∈ (curStrand s n).xfers, y.failed = 0) : deliverFaults cp xf s k = k s := by
  have hcopy : (cp && (grp s).any (fun n => (curStrand s n).copyFault.isSome)) = false := by
    cases cp
    · rfl
    · exact List.any_eq_false.2 fun n hn => by simp [copyFault_none (hc rfl n hn)]
  have hfield : (xf && (grp s).any (fun n => (curStrand s n).fieldFault.isSome)) = false := by
    cases xf
    · rfl
    · exact List.any_eq_false.2 fun n hn => by simp [fieldFault_none (hx rfl n hn)]
  simp only [deliverFaults, hcopy, hfield, Bool.false_eq_true, if_false]

/-- Whether the counters of a strand are no greater than the fields of a WAIT, a field at its largest value apart. -/
def Strand.waited (t : Strand) (l st cp : BitVec 4) (tl xf : BitVec 3) : Bool :=
  (l == 15 || decide (t.replies.length ≤ l.toNat)) && (st == 15 || decide (t.stores.length ≤ st.toNat)) &&
    (cp == 15 || decide (t.cp ≤ cp.toNat)) && (tl == 7 || decide (t.tl ≤ tl.toNat)) && (xf == 7 || decide (t.xf ≤ xf.toNat))

theorem waited_iff {t : Strand} {l st cp : BitVec 4} {tl xf : BitVec 3} : t.waited l st cp tl xf = true ↔
    (l = 15 ∨ t.replies.length ≤ l.toNat) ∧ (st = 15 ∨ t.stores.length ≤ st.toNat) ∧ (cp = 15 ∨ t.cp ≤ cp.toNat) ∧
      (tl = 7 ∨ t.tl ≤ tl.toNat) ∧ (xf = 7 ∨ t.xf ≤ xf.toNat) := by
  simp only [Strand.waited, Bool.and_eq_true, Bool.or_eq_true, beq_iff_eq, decide_eq_true_eq, and_assoc]

theorem exec_wait {s : State} {l st cp : BitVec 4} {tl xf : BitVec 3} (h : uniFree s .user [] [])
    (hc : cp ≠ 15 → ∀ n ∈ grp s, (curStrand s n).faults = [])
    (hx : xf ≠ 7 → ∀ n ∈ grp s, ∀ y ∈ (curStrand s n).xfers, y.failed = 0) : exec (.wait l st cp tl xf) s =
      .next (if (grp s).all (fun n => (curStrand s n).waited l st cp tl xf) then retire s 4 else stall s .poll) :=
  congrArg Host.Outcome.next ((uniEnter_bare _ rfl h).trans (deliverFaults_none _ (fun h => hc (bne_iff_ne.1 h))
    (fun h => hx (bne_iff_ne.1 h))))

/-! ## FENCE (13 R237 to R239) -/

/-- Whether an item in flight is a FENCE. -/
def Item.isFence : Item → Bool
  | .fence _ => true
  | _ => false

/-- A fold that no element changes. -/
theorem foldl_stays {α β : Type} {f : α → β → α} {a : α} {l : List β} (h : ∀ b ∈ l, f a b = a) : l.foldl f a = a :=
  List.foldlRecOn (motive := fun x => x = a) l f rfl fun _ hx b hb => hx ▸ h b hb

/-- What settling does with one item in flight. -/
def settleItem (a : State) : Item → State
  | .fence f => if f.ready a then endFence a f else a
  | _ => a

theorem settleFences_eq (s : State) : settleFences s = s.flight.foldl settleItem s := rfl

/-- A FENCE that is the only one, at the end of those in flight, is gone at once when its order holds. -/
theorem settleFences_last {a b : State} {f : Fence} (hb : b = { a with flight := a.flight ++ [.fence f] })
    (h : ∀ i ∈ a.flight, i.isFence = false) (hr : f.ready b = true) :
    settleFences b = if f.wide && f.acq then acquire a f.core f.all else a := by
  have hflight : b.flight = a.flight ++ [.fence f] := by rw [hb]
  have hend : endFence b f = if f.wide && f.acq then acquire a f.core f.all else a := by
    have herase : (a.flight ++ [Item.fence f]).erase (.fence f) = a.flight := by
      rw [List.erase_append_right _ fun hm => absurd (h (.fence f) hm).symm Bool.false_ne_true, List.erase_cons_head, List.append_nil]
    have hgone : { b with flight := b.flight.erase (.fence f) } = a := by
      rw [hflight, herase, hb]
    rw [endFence, hgone]
  have hothers : a.flight.foldl settleItem b = b := foldl_stays fun i hi => by
    cases i with
    | fence g => exact absurd (h _ hi).symm Bool.false_ne_true
    | _ => rfl
  rw [settleFences_eq, hflight, List.foldl_append, hothers, List.foldl_cons, List.foldl_nil, settleItem, if_pos hr, hend]

/-- A FENCE has no access of its own. -/
theorem keeps_fence (f g : Fence) (s : State) : f.keeps s (.fence g) = false := rfl

theorem keeps_eq_false {f : Fence} {s : State} {i : Item} (h : ∀ e ∈ i.pending, f.earlier e = true → f.wide = false ∧ f.cp = false ∧
      f.xf = false ∧ watched s e.2.pa e.2.size = false ∧ (match i with
        | .gatherHome p => p.write = true
        | .gatherStack p => p.write = true
        | _ => False)) : f.keeps s i = false := by
  unfold Fence.keeps
  refine List.any_eq_false.2 fun e he hk => ?_
  obtain ⟨hearly, hor⟩ := Bool.and_eq_true_iff.1 hk
  obtain ⟨hwide, hcp, hxf, hwatch, hplain⟩ := h e he hearly
  cases i with
  | gatherHome p =>
    simp [hwide, hcp, hxf, hwatch, show p.write = true from hplain] at hor
  | gatherStack p =>
    simp [hwide, hcp, hxf, hwatch, show p.write = true from hplain] at hor
  | _ => exact hplain

theorem exec_fence {s : State} {sc : BitVec 3} {k : BitVec 2} {c x : BitVec 1} (hsc : sc.toNat < 6) (hk : k ≠ 0) (h : uniFree s .user [] []) :
    exec (.fence sc k c x) s = .next (
      let full := sc == 5 && k == 3
      let f : Fence := { core := curCore s, sid := s.cur.sid, ply := s.cur.ply, strands := grp s, acq := k != 2, rel := k != 1, wide := sc != 0,
                         all := full, cp := c == 1, xf := x == 1, tag := s.seq }
      let a := if sc ≠ 0 ∧ k ≠ 1 then writeOrdered s full else s
      retire (settleFences { a with flight := a.flight ++ [.fence f], seq := a.seq + 1 }) 4) := by
  have hwf : (Instr.fence sc k c x).wf = true := Bool.and_eq_true_iff.2 ⟨decide_eq_true hsc, bne_iff_ne.2 hk⟩
  refine congrArg Host.Outcome.next ((uniEnter_bare _ hwf h).trans ?_)
  simp only [Bool.and_eq_true, bne_iff_ne, ne_eq]

/-- The order of a FENCE holds once no reply, access, copy or transfer that it waits for is left. -/
theorem ready_of_none_left {f : Fence} {b : State}
    (hacq : f.acq = true → ∀ n ∈ f.strands, (getStrand b (strandKey f.sid f.ply n)).replies = [])
    (hrel : f.rel = true → ∀ i ∈ b.flight, f.keeps b i = false)
    (hcp : f.cp = true → (∀ y ∈ b.copies, f.counts y.sid y.ply y.seq y.lanes = false) ∧
      ∀ y ∈ b.collWaits, f.counts y.sid y.ply y.seq y.lanes = false)
    (hxf : f.xf = true → ∀ n ∈ f.strands, ∀ y ∈ (getStrand b (strandKey f.sid f.ply n)).xfers, y.undecided = 0 ∧ y.awaiting = 0) :
    f.ready b = true := by
  have hor {p : Bool} {q : Bool} (h : p = true → q = true) : (!p || q) = true := by
    cases p
    · rfl
    · exact h rfl
  rw [Fence.ready, Fence.settled]
  refine Bool.and_eq_true_iff.2 ⟨Bool.and_eq_true_iff.2 ⟨Bool.and_eq_true_iff.2 ⟨Bool.and_eq_true_iff.2 ⟨hor fun h => ?_, hor fun h => ?_⟩,
    hor fun h => ?_⟩, hor fun h => ?_⟩, hor fun h => ?_⟩
  · refine List.all_eq_true.2 fun t ht => ?_
    obtain ⟨n, hn, rfl⟩ := List.mem_map.1 ht
    rw [hacq h n hn]
    rfl
  · exact List.all_eq_true.2 fun i hi => by rw [hrel h i hi]; rfl
  · exact List.all_eq_true.2 fun y hy => by rw [(hcp h).2 y hy]; rfl
  · refine List.all_eq_true.2 fun t ht => List.all_eq_true.2 fun y hy => ?_
    obtain ⟨n, hn, rfl⟩ := List.mem_map.1 ht
    obtain ⟨hu, ha⟩ := hxf h n hn y hy
    simp [hu, ha]
  · exact List.all_eq_true.2 fun y hy => by rw [(hcp h).1 y hy]; rfl

/-! ## What a FENCE in flight holds -/

section
variable {u : State} {f : Fence} {m n : Nat} (hmn : m < n) (hf : u.flight[m]? = some (.fence f))
include hmn hf

/-- An item behind a FENCE that holds one of its accesses may not be performed. -/
theorem mayGo_fenced {store : Bool} {es : List (Origin × LaneAcc)} (he : ∃ e ∈ es, f.holds store e = true) : mayGo u n store es = false := by
  have hmem : Item.fence f ∈ u.flight.take n := List.mem_iff_getElem?.2 ⟨m, by rw [List.getElem?_take_of_lt hmn, hf]⟩
  have hprec : precedes u (.fence f) store es = true := List.any_eq_true.2 he
  rw [mayGo, List.all_eq_false.2 ⟨_, hmem, by rw [hprec]; decide⟩, Bool.false_and]

theorem execAtomicAtHome_fenced {r : AtomReq} (hr : u.flight[n]? = some (.atomic r))
    (he : ∃ e ∈ (Item.atomic r).pending, f.holds true e = true) : execAtomicAtHome n u = .next u := by
  have hmay : mayPerform u n = false := by
    rw [mayPerform, hr]
    exact mayGo_fenced hmn hf he
  simp only [execAtomicAtHome, hr, hmay, Bool.false_and, Bool.false_eq_true, if_false]

end

theorem LaneAcc.same_iff {l x : LaneAcc} : l.same x = true ↔ x.lane = l.lane ∧ x.va = l.va := by
  simp only [LaneAcc.same, Bool.and_eq_true, beq_iff_eq]

theorem LaneAcc.mates_self (l : LaneAcc) : l.mates l = true := by
  rw [LaneAcc.mates, LaneAcc.same_iff.2 ⟨rfl, rfl⟩, Bool.true_or]

/-- One lane's turn in a packet: with its mates it is performed, unless one of them may not go. -/
def packetTurn (p : Packet) (go : LaneAcc → Bool) (ls : List LaneAcc) (a : List LaneAcc × State) (l : LaneAcc) : List LaneAcc × State :=
  if a.1.any l.same then a
  else
    match if (ls.filter l.mates).all go then stepMates p (ls.filter l.mates) a.2 else none with
    | some x => (a.1 ++ x.1, x.2)
    | none => (a.1 ++ ls.filter l.mates, a.2)

theorem packetLanes_eq (p : Packet) (go : LaneAcc → Bool) (s : State) (ls : List LaneAcc) :
    packetLanes p go s ls = (ls.map (fun l => ((ls.foldl (packetTurn p go ls) ([], s)).1.find? l.same).getD l),
      (ls.foldl (packetTurn p go ls) ([], s)).2) := rfl

/-- With no lane that may go, a packet's lanes and the state stay as they are. -/
theorem packetLanes_none {p : Packet} {go : LaneAcc → Bool} {s : State} {ls : List LaneAcc} (hd : (ls.map (fun l => l.lane)).Nodup)
    (hgo : ∀ l ∈ ls, go l = false) : packetLanes p go s ls = (ls, s) := by
  have hturn : ∀ a : List LaneAcc × State, ∀ l ∈ ls, a.1 ⊆ ls ∧ a.2 = s →
      (packetTurn p go ls a l).1 ⊆ ls ∧ (packetTurn p go ls a l).2 = s := by
    intro a l hl ha
    have hall : (ls.filter l.mates).all go = false :=
      List.all_eq_false.2 ⟨l, List.mem_filter.2 ⟨hl, l.mates_self⟩, by rw [hgo l hl]; decide⟩
    unfold packetTurn
    split
    · exact ha
    · rw [hall]
      exact ⟨List.append_subset.2 ⟨ha.1, List.filter_subset_self _⟩, ha.2⟩
  obtain ⟨hsub, hstate⟩ := List.foldlRecOn (motive := fun a => a.1 ⊆ ls ∧ a.2 = s) ls (packetTurn p go ls)
    (b := ([], s)) ⟨List.nil_subset ls, rfl⟩ fun a ha l hl => hturn a l hl ha
  rw [packetLanes_eq]
  refine Prod.ext ?_ hstate
  refine (List.map_congr_left fun l hl => ?_).trans (List.map_id ls)
  cases hfind : List.find? l.same _ with
  | none => rfl
  | some x =>
    have hxl : x ∈ ls := hsub (List.mem_of_find?_eq_some hfind)
    exact List.inj_on_of_nodup_map hd hxl hl (LaneAcc.same_iff.1 (List.find?_some hfind)).1

@[simp] theorem ackStores_mem (s : State) (sid ply tag : Nat) (ls : List Nat) : (ackStores s sid ply tag ls).mem = s.mem :=
  mapStrands_mem ..

@[simp] theorem ackStores_flight (s : State) (sid ply tag : Nat) (ls : List Nat) : (ackStores s sid ply tag ls).flight = s.flight :=
  mapStrands_flight ..

/-- An item replaced by itself. -/
theorem replaceItem_self {s : State} {n : Nat} {i : Item} (h : s.flight[n]? = some i) : replaceItem s n [i] = s := by
  obtain ⟨hlt, hi⟩ := List.getElem?_eq_some_iff.1 h
  have hflight : s.flight.take n ++ [i] ++ s.flight.drop (n + 1) = s.flight := by
    rw [← hi, List.append_assoc, List.singleton_append, List.cons_getElem_drop_succ, List.take_append_drop]
  rw [replaceItem, hflight]

/-- A packet none of whose lanes may go stays where it is, and memory as it was. -/
theorem execGatherPacketAtStack_held {u : State} {n : Nat} {p : Packet} (hp : u.flight[n]? = some (.gatherStack p)) (hne : p.lanes ≠ [])
    (hd : (p.lanes.map (fun l => l.lane)).Nodup) (ht : runTogether u p = none)
    (hl : ∀ l ∈ p.lanes, l.finished = false ∧ laneAlone u n p l = false) :
    ∃ t, execGatherPacketAtStack n u = .next t ∧ t.mem = u.mem ∧ t.flight = u.flight := by
  have hrest : p.lanes.filter (fun l => !l.finished) = p.lanes := List.filter_eq_self.2 fun l h => by rw [(hl l h).1]; rfl
  have hdone : p.lanes.filter LaneAcc.finished = [] := List.filter_eq_nil_iff.2 fun l h => by rw [(hl l h).1]; decide
  refine ⟨answerPacket u n p [] [.gatherStack p], ?_, ?_⟩
  · simp only [execGatherPacketAtStack, hp, ht, Option.getD_none, packetLanes_none hd fun l h => (hl l h).2, hrest, hdone,
      List.isEmpty_iff, hne, if_false]
  · simp only [answerPacket, List.isEmpty_nil, Bool.or_true, if_true, List.append_nil, replaceItem_self hp]
    split <;> simp

theorem exec_yield {s : State} (h : uniFree s .user [] []) : exec .yield s =
    .next (mapStrands (retire s 4) s.cur.sid s.cur.ply (grp s) (fun _ t => { t with wait := .yielded })) := by
  refine congrArg Host.Outcome.next ((uniEnter_bare _ rfl h).trans ?_)
  simp only [grp, retire_cur]

/-- Settles O23: WAIT and FENCE by the lemmas above; what a FENCE holds may not go, so the events at the home and the stack do nothing. -/
theorem waitAndFenceResults : Obligations.wait_and_fence_results := by
  intro s l st cp tl xf sc k c x h
  refine ⟨exec_yield h, fun hok => ?_, fun hno hf => ?_, ?_, fun u f m n hmn hf => ⟨fun r hr he =>
    execAtomicAtHome_fenced hmn hf hr he, fun p hp hne hd ht hl => execGatherPacketAtStack_held hp hne hd ht fun l hm => ⟨(hl l hm).1, ?_⟩⟩⟩
  · refine (exec_wait h (fun hc n hn => ?_) (fun hx n hn => ?_)).trans (congrArg _ (if_pos (List.all_eq_true.2 fun n hn => waited_iff.2 ?_)))
    · exact ((hok n hn).2.2.1.resolve_left hc).2
    · exact ((hok n hn).2.2.2.2.resolve_left hx).2
    · obtain ⟨h1, h2, h3, h4, h5⟩ := hok n hn
      exact ⟨h1, h2, h3.imp_right And.left, h4, h5.imp_right And.left⟩
  · refine (exec_wait h (fun _ n hn => (hf n hn).1) (fun _ n hn => (hf n hn).2)).trans (congrArg _ (if_neg fun hall => ?_))
    obtain ⟨n, hn, hlow⟩ := hno
    obtain ⟨h1, h2, h3, h4, h5⟩ := waited_iff.1 (List.all_eq_true.1 hall n hn)
    rcases hlow with ⟨hne, hlt⟩ | ⟨hne, hlt⟩ | ⟨hne, hlt⟩ | ⟨hne, hlt⟩ | ⟨hne, hlt⟩
    · exact hlt.not_ge (h1.resolve_left hne)
    · exact hlt.not_ge (h2.resolve_left hne)
    · exact hlt.not_ge (h3.resolve_left hne)
    · exact hlt.not_ge (h4.resolve_left hne)
    · exact hlt.not_ge (h5.resolve_left hne)
  · intro hsc hk full f a
    refine ⟨exec_fence hsc hk h, fun hnone hacq hrel hcp hxf => ?_⟩
    have ha : homePart s a := by
      dsimp only [a]
      split
      · exact writeOrdered_homePart s full
      · exact homePart_refl s
    have hflight : a.flight = s.flight := by rw [ha]
    have hgone := settleFences_last (a := { a with seq := a.seq + 1 }) (f := f)
      (b := { a with flight := a.flight ++ [.fence f], seq := a.seq + 1 }) rfl (fun i hi => ?_) (ready_of_none_left ?_ ?_ ?_ ?_)
    · refine (exec_fence hsc hk h).trans (congrArg (fun t => Host.Outcome.next (retire t 4)) (hgone.trans ?_))
      simp only [f, Bool.and_eq_true, bne_iff_ne, ne_eq]
    · have hi := hnone i (hflight ▸ hi)
      cases i with
      | fence g => exact hi.elim
      | _ => rfl
    · intro hf n hn
      have hstrands : a.strands = s.strands := by rw [ha]
      simp only [getStrand, hstrands]
      exact hacq (bne_iff_ne.1 hf) n hn
    · intro hf i hi
      rcases List.mem_append.1 hi with hi | hi
      · refine keeps_eq_false fun e he hearly => ?_
        obtain ⟨h0, hc0, hx0, hwatch, hplain⟩ := hrel (bne_iff_ne.1 hf) i (hflight ▸ hi) e he hearly
        have horders : a.orders = s.orders := by rw [ha]
        exact ⟨by simp [f, h0], by simp [f, hc0], by simp [f, hx0], by simpa only [watched, horders] using hwatch, hplain⟩
      · rw [List.mem_singleton.1 hi, keeps_fence]
    · intro hf
      have hcopies : a.copies = s.copies := by rw [ha]
      have hcolls : a.collWaits = s.collWaits := by rw [ha]
      simp only [hcopies, hcolls]
      exact hcp (beq_iff_eq.1 hf)
    · intro hf n hn
      have hstrands : a.strands = s.strands := by rw [ha]
      simp only [getStrand, hstrands]
      exact hxf (beq_iff_eq.1 hf) n hn
  · rw [laneAlone, laneMay, mayGo_fenced hmn hf (hl l hm).2, Bool.false_and, Bool.false_and]

end Sys2Proof.Machine
end

section
/-! Named barriers (O24): BAR, BARA and BARW, an arrival, and what a completed generation does. -/

namespace Sys2Proof.Machine

/-! ## Barriers and strands read as they were written -/

/-- A skein with a barrier noted is not the one that an unlisted key reads as, so it is read as it was written. -/
theorem getSkein_setSkein_barred {k : Skein} (h : k.bars ≠ []) (s : State) (sid : Nat) : getSkein (setSkein s sid k) sid = k := by
  have hne : k ≠ Skein.reset := fun hr => h (congrArg Skein.bars hr)
  simp only [getSkein, setSkein, Tbl.set, hne, if_false, Tbl.get_put_self]

/-- A barrier in use is read as it was written. -/
theorem bar_setBar {b : Barrier} (h : b.inUse = true) (s : State) (sid name : Nat) :
    Tbl.get Barrier.reset (getSkein (setBar s sid name b) sid).bars name = b := by
  have hne : b ≠ Barrier.reset := fun hr => Bool.noConfusion (h.symm.trans (congrArg Barrier.inUse hr))
  have hput : Tbl.set Barrier.reset (getSkein s sid).bars name b = Tbl.put b (getSkein s sid).bars name := if_neg hne
  have hbars : Tbl.set Barrier.reset (getSkein s sid).bars name b ≠ [] := by
    rw [hput]
    exact Tbl.put_ne_nil _ _ _
  rw [setBar, getSkein_setSkein_barred hbars, hput, Tbl.get_put_self]

theorem getStrand_setStrand_live {t : Strand} (h : t.live = true) (s : State) (key : Nat) : getStrand (setStrand s key t) key = t := by
  have hne : t ≠ Strand.reset := fun hr => Bool.noConfusion (h.symm.trans (congrArg Strand.live hr))
  simp only [getStrand, setStrand, Tbl.set, hne, if_false, Tbl.get_put_self]

theorem getStrand_setStrand_live_ne {t : Strand} (h : t.live = true) (s : State) {key other : Nat} (hk : other ≠ key) :
    getStrand (setStrand s key t) other = getStrand s other := by
  have hne : t ≠ Strand.reset := fun hr => Bool.noConfusion (h.symm.trans (congrArg Strand.live hr))
  simp only [getStrand, setStrand, Tbl.set, hne, if_false, Tbl.get_put_ne _ _ _ hk]

/-! ## An arrival, and what completes a generation (14 R266) -/

/-- A barrier in use, once set, is judged by its own arrivals. -/
theorem judgeBar_setBar {b : Barrier} (h : b.inUse = true) (s : State) (sid name : Nat) :
    judgeBar (setBar s sid name b) sid name =
      let a := setBar s sid name b
      if needOf a sid b ≤ b.arrived then (let c := setBar a sid name Barrier.reset
        releaseWait (setSkein c sid ((getSkein c sid).meetPlies (meeting a sid name b))) sid (.barrier name)) else a := by
  simp only [judgeBar, bar_setBar h, h, Bool.true_and, decide_eq_true_eq]

theorem arrive_eq (a : State) (sid ply n name count : Nat) :
    let o := Tbl.get Barrier.reset (getSkein a sid).bars name
    let g : Barrier := if o.inUse then { o with arrived := o.arrived + 1, who := o.who ++ [ply * 8 + n] }
      else { arrived := 1, expected := count, inUse := true, who := [ply * 8 + n] }
    arrive a sid ply n name count = judgeBar (setBar a sid name g) sid name ∧ g.inUse = true := by
  intro o g
  have hg : g = (let b := if o.inUse then o else { arrived := 0, expected := count, inUse := true, who := [] }
      { b with arrived := b.arrived + 1, who := b.who ++ [ply * 8 + n] }) ∧ g.inUse = true := by
    dsimp only [g]
    split
    · exact ⟨rfl, ‹_›⟩
    · exact ⟨rfl, rfl⟩
  exact ⟨by rw [hg.1]; rfl, hg.2⟩

theorem needOf_eq (a : State) (sid : Nat) (g : Barrier) :
    let st (e : Nat × Nat) : Strand := getStrand a (strandKey sid e.1 e.2)
    needOf a sid g = if g.expected = 0 then ((skeinAll (getSkein a sid)).filter (fun e => (st e).live && (st e).dead != 0xF)).length
      else max 1 (g.expected - ((skeinAll (getSkein a sid)).filter (fun e => (st e).dead == 0xF && !(g.who.contains (e.1 * 8 + e.2)))).length) := by
  simp only [needOf, allStrands, List.filter_map, List.length_map]
  rfl

/-! ## Its waiters go on -/

/-- The strand behind the instruction that it waited at. -/
def Strand.released (t : Strand) : Strand := { t with wait := .none, pc := t.pc + 4 }

/-- What the completion does with one strand of the skein. -/
def releaseStrand (sid : Nat) (w : Wait) (a : State) (e : Nat × Nat) : State :=
  let t := getStrand a (strandKey sid e.1 e.2)
  if t.live && t.wait == w then setStrand a (strandKey sid e.1 e.2) t.released else a

theorem releaseWait_eq (s : State) (sid : Nat) (w : Wait) :
    releaseWait s sid w = (skeinAll (getSkein s sid)).foldl (releaseStrand sid w) s := rfl

theorem getStrand_releaseStrand (sid : Nat) (w : Wait) (a : State) (e : Nat × Nat) (key : Nat) :
    getStrand (releaseStrand sid w a e) key =
      if key = strandKey sid e.1 e.2 ∧ (getStrand a key).live = true ∧ (getStrand a key).wait = w then (getStrand a key).released
      else getStrand a key := by
  unfold releaseStrand
  simp only [Bool.and_eq_true, beq_iff_eq]
  split
  · rename_i h
    have hlive : (getStrand a (strandKey sid e.1 e.2)).released.live = true := h.1
    by_cases hk : key = strandKey sid e.1 e.2
    · subst hk
      rw [getStrand_setStrand_live hlive, if_pos ⟨rfl, h⟩]
    · rw [getStrand_setStrand_live_ne hlive _ hk, if_neg fun hc => hk hc.1]
  · rename_i h
    refine (if_neg ?_).symm
    rintro ⟨rfl, hc⟩
    exact h hc

theorem getStrand_releaseStrands_ne {sid key : Nat} {w : Wait} {l : List (Nat × Nat)} (h : ∀ e ∈ l, key ≠ strandKey sid e.1 e.2) (a : State) :
    getStrand (l.foldl (releaseStrand sid w) a) key = getStrand a key :=
  List.foldlRecOn (motive := fun b => getStrand b key = getStrand a key) l _ rfl fun b hb e he => by
    rw [getStrand_releaseStrand, if_neg fun hc => h e he hc.1, hb]

theorem getStrand_releaseStrands {sid key : Nat} {w : Wait} {l : List (Nat × Nat)} (hd : (l.map (fun e => strandKey sid e.1 e.2)).Nodup)
    (hk : key ∈ l.map (fun e => strandKey sid e.1 e.2)) (a : State) : getStrand (l.foldl (releaseStrand sid w) a) key =
      if (getStrand a key).live = true ∧ (getStrand a key).wait = w then (getStrand a key).released else getStrand a key := by
  induction l generalizing a with
  | nil => cases hk
  | cons e l ih =>
    obtain ⟨hnot, hd⟩ := List.nodup_cons.1 hd
    rw [List.foldl_cons]
    rcases List.mem_cons.1 hk with rfl | hk
    · have hother : ∀ x ∈ l, strandKey sid e.1 e.2 ≠ strandKey sid x.1 x.2 := fun x hx hkey => hnot (List.mem_map.2 ⟨x, hx, hkey.symm⟩)
      rw [getStrand_releaseStrands_ne hother, getStrand_releaseStrand]
      simp only [true_and]
    · have hne : key ≠ strandKey sid e.1 e.2 := by
        rintro rfl
        exact hnot hk
      have hkeep : getStrand (releaseStrand sid w a e) key = getStrand a key := by
        rw [getStrand_releaseStrand, if_neg fun hc => hne hc.1]
      rw [ih hd hk, hkeep]

/-- The strands of a skein with at most 8 in a ply have keys of their own. -/
theorem nodup_skeinKeys {k : Skein} (hs : k.strands ≤ 8) (sid : Nat) :
    ((skeinAll k).map (fun e => strandKey sid e.1 e.2)).Nodup := by
  have hall : (skeinAll k).Nodup := List.nodup_range.product List.nodup_range
  refine hall.map_on fun x hx y hy h => ?_
  simp only [skeinAll, List.mem_flatMap, List.mem_map, List.mem_range] at hx hy
  obtain ⟨p, hp1, n, hn1, rfl⟩ := hx
  obtain ⟨q, hq1, m, hm1, rfl⟩ := hy
  simp only [strandKey] at h
  exact Prod.ext (by dsimp only; omega) (by dsimp only; omega)

theorem getStrand_releaseWait {a : State} {sid p n : Nat} (w : Wait) (hs : (getSkein a sid).strands ≤ 8)
    (hpl : p < (getSkein a sid).plies) (hn : n < (getSkein a sid).strands) : getStrand (releaseWait a sid w) (strandKey sid p n) =
      let t := getStrand a (strandKey sid p n)
      if t.live = true ∧ t.wait = w then { t with wait := .none, pc := t.pc + 4 } else t := by
  rw [releaseWait_eq]
  refine getStrand_releaseStrands (nodup_skeinKeys hs sid) (List.mem_map_of_mem (f := fun e => strandKey sid e.1 e.2) (a := (p, n)) ?_) a
  simp [skeinAll, hpl, hn]

/-! ## BAR, BARA and BARW (21 R364) -/

theorem barRefused_iff {s : State} {name count : Nat} : barRefused s name count = true ↔
    (curSkein s).plies * (curSkein s).strands < count ∨
      ((Tbl.get Barrier.reset (curSkein s).bars name).inUse = true ∧ (Tbl.get Barrier.reset (curSkein s).bars name).expected ≠ count) := by
  simp only [barRefused, Bool.or_eq_true, decide_eq_true_eq, Bool.and_eq_true, bne_iff_ne]

section
variable {s : State} {m : BitVec 4} {c : BitVec 10} (h : uniFree s .user [] [])
include h

theorem exec_bara : exec (.bara m c) s = .next (if barRefused s m.toNat c.toNat then trapAll s .prot 0 else if watchedAway s then stall s .poll
    else
      let a := (grp s).foldl (fun a n => arrive a a.cur.sid a.cur.ply n m.toNat c.toNat) s
      retire (partAll a a.cur.sid) 4) :=
  congrArg Host.Outcome.next (uniEnter_bare _ rfl h)

variable (hw : ∃ n ∈ grp s, (curStrand s n).wait ≠ .barrier m.toNat)
include hw

theorem exec_bar_new : exec (.bar m c) s = .next (if barRefused s m.toNat c.toNat then trapAll s .prot 0 else if watchedAway s then stall s .poll
    else settleParts ((grp s).foldl (fun a n => arrive (setWait a n (.barrier m.toNat)) a.cur.sid a.cur.ply n m.toNat c.toNat) s)) := by
  obtain ⟨n, hn, hne⟩ := hw
  exact congrArg Host.Outcome.next ((uniEnter_bare _ rfl h).trans (if_neg fun hall => hne (waits_iff.1 hall n hn)))

theorem exec_barw_new : exec (.barw m) s = .next (if watchedAway s then stall s .poll
    else if (Tbl.get Barrier.reset (curSkein s).bars m.toNat).inUse then stall s (.barrier m.toNat) else retire s 4) := by
  obtain ⟨n, hn, hne⟩ := hw
  exact congrArg Host.Outcome.next ((uniEnter_bare _ rfl h).trans (if_neg fun hall => hne (waits_iff.1 hall n hn)))

end

/-- Settles O24: the words by their equations above, an arrival and the release of its waiters by the tables' read after write. -/
theorem namedBarrierResults : Obligations.named_barrier_results := by
  intro s m c h b no
  have hno : ¬ no → ¬ barRefused s m.toNat c.toNat = true := fun hn hr => hn (barRefused_iff.1 hr)
  have haway {x : Bool} (hx : x = false) : ¬ x = true := Bool.eq_false_iff.1 hx
  refine ⟨fun hw hn ha => ?_, fun hn ha => ?_, fun hw hn => ?_, fun hn => ?_, fun hw ha hb => ?_, fun hw ha hb => ?_,
    fun hw ha => ⟨fun hn => ?_, fun hn => ?_, ?_⟩, fun a sid ply n => ?_, fun a sid g => needOf_eq a sid g, fun a sid p n w _ => getStrand_releaseWait w⟩
  · exact (exec_bar_new h hw).trans (congrArg _ ((if_neg (hno hn)).trans (if_neg (haway ha))))
  · exact (exec_bara h).trans (congrArg _ ((if_neg (hno hn)).trans (if_neg (haway ha))))
  · exact (exec_bar_new h hw).trans (congrArg _ (if_pos (barRefused_iff.2 hn)))
  · exact (exec_bara h).trans (congrArg _ (if_pos (barRefused_iff.2 hn)))
  · exact (exec_barw_new h hw).trans (congrArg _ ((if_neg (haway ha)).trans (if_neg (haway hb))))
  · exact (exec_barw_new h hw).trans (congrArg _ ((if_neg (haway ha)).trans (if_pos hb)))
  · exact (exec_bar_new h hw).trans (congrArg _ ((if_neg (hno hn)).trans (if_pos ha)))
  · exact (exec_bara h).trans (congrArg _ ((if_neg (hno hn)).trans (if_pos ha)))
  · exact (exec_barw_new h hw).trans (congrArg _ (if_pos ha))
  · obtain ⟨harrive, hin⟩ := arrive_eq a sid ply n m.toNat c.toNat
    exact harrive.trans (judgeBar_setBar hin a sid m.toNat)

end Sys2Proof.Machine
end

section
/-! The local store and memory (O28 to O31): what a word does whose lanes, or whose group, pass their checks. -/

namespace Sys2Proof.Machine

/-! ## The local store (20 R335 to R340) -/

/-- The widths of 16 bytes have code 2. -/
theorem sizeOf_eq_sixteen {sz : BitVec 2} : Machine.sizeOf sz = 16 ↔ sz = 2 := by
  revert sz
  decide

theorem halfOrder_fst (s : State) : (halfOrder s).1 = if s.upper = true then 8 else 0 := by
  unfold halfOrder
  split <;> rfl

theorem halfOrder_snd (s : State) : (halfOrder s).2 = if s.upper = true then 0 else 8 := by
  unfold halfOrder
  split <;> rfl

section
variable {s : State} {g : Guard} {d a : BitVec 6} {wb : BitVec 4} {i : Instr} {n size : Nat} (hw : i.wf = true)
  (h : laneFree s g .user [] [[a.toNat]]) (hb : baseFree s g wb.toNat) (hp : localPasses s g wb a size)
include hw h hb hp

/-- A load of the local store that passes its checks goes on with its lanes. -/
theorem localEnter_load (k : State → List (Nat × Nat) → State) (hd : laneFree s g .user [rangeFrom d.toNat n] [])
    (hn : ∀ n ∈ acting s g, (curStrand s n).replies.length < 63) :
    localEnter (localForm i g d a wb n false false) wb a size true s k = k s (localLanes s g wb a) :=
  localEnter_passes (dst := [rangeFrom d.toNat n]) (src := [[a.toNat]]) k hw
    ⟨by simp [localForm], by simp [localForm], by simp [localForm]⟩ (laneFree_join hd h) rfl rfl rfl hb hp hn

/-- A store to it goes on likewise. -/
theorem localEnter_store (k : State → List (Nat × Nat) → State) (hd : laneFree s g .user [] [rangeFrom d.toNat n])
    (hn : ∀ n ∈ acting s g, (curStrand s n).stores.length < 63) :
    localEnter (localForm i g d a wb n true true) wb a size false s k = k s (localLanes s g wb a) :=
  localEnter_passes (dst := []) (src := [[a.toNat], rangeFrom d.toNat n]) k hw
    ⟨by simp [localForm], by simp [localForm], by simp [localForm]⟩ (laneFree_join h hd) rfl rfl rfl hb hp hn

/-- ATOML goes on likewise: it writes the first of the registers that it reads. -/
theorem localEnter_atomic (k : State → List (Nat × Nat) → State) (hd : laneFree s g .user [[d.toNat]] [rangeFrom d.toNat n])
    (hn : ∀ n ∈ acting s g, (curStrand s n).replies.length < 63) :
    localEnter { localForm i g d a wb n false true with dst := [d.toNat] } wb a size true s k = k s (localLanes s g wb a) :=
  localEnter_passes (dst := [[d.toNat]]) (src := [[a.toNat], rangeFrom d.toNat n]) k hw
    ⟨by simp [localForm], by simp, by simp [localForm]⟩ (laneFree_join h hd) rfl rfl rfl hb hp hn

end

/-- The new word of ATOML by the width code that selects it. -/
theorem atomlNew_eq (sz : BitVec 2) (old v n : Word) : atomlNew sz.toNat old v n =
    if sz = 0 then old + v else if sz = 1 then old ||| v else if sz = 2 then v else if old = v then n else old := by
  obtain rfl | rfl | rfl | rfl : sz = 0 ∨ sz = 1 ∨ sz = 2 ∨ sz = 3 := by revert sz; decide
  all_goals rfl

/-- Settles O28: each word goes on with its lanes, and does what its definition says. -/
theorem localStoreResults : Obligations.local_store_results := by
  intro s g d a wb sz c size ds ls k near far got h hb
  refine ⟨fun hw hd hp hn => ?_, fun hw hd hp hn hfull => ?_, fun hw hd hp hn hempty => ?_, fun hw hd hp hn => ?_, fun hw hd hp hn => ?_,
    fun hw hd hp hn => ?_⟩
  · refine ⟨fun hone => ?_, fun htwo hne => ?_⟩
    · refine congrArg Host.Outcome.next ((localEnter_load hw h hb hp _ hd hn).trans (if_neg ?_))
      simpa [sizeOf_eq_sixteen, imp_iff_not_or] using hone
    · refine congrArg Host.Outcome.next ((localEnter_load hw h hb hp _ hd hn).trans ((if_pos ?_).trans ?_))
      · simpa [sizeOf_eq_sixteen, htwo] using hne
      · simp only [loadHalves, halfOf, halfOrder_fst, halfOrder_snd]
        rfl
  · refine congrArg Host.Outcome.next ((localEnter_load hw h hb hp _ hd hn).trans ((if_neg ?_).trans rfl))
    simpa [allFull] using hfull
  · refine congrArg Host.Outcome.next ((localEnter_load hw h hb hp _ hd hn).trans (if_pos ?_))
    simpa [allFull] using hempty
  · refine ⟨fun hone => ?_, fun htwo hne => ?_⟩
    · refine congrArg Host.Outcome.next ((localEnter_store hw h hb hp _ hd hn).trans (if_neg ?_))
      simpa [sizeOf_eq_sixteen, imp_iff_not_or] using hone
    · refine congrArg Host.Outcome.next ((localEnter_store hw h hb hp _ hd hn).trans ((if_pos ?_).trans ?_))
      · simpa [sizeOf_eq_sixteen, htwo] using hne
      · simp only [storeHalves, halfOf, halfOrder_fst, halfOrder_snd]
        rfl
  · exact congrArg Host.Outcome.next (localEnter_store hw h hb hp _ hd hn)
  · refine congrArg Host.Outcome.next ((localEnter_atomic hw h hb hp _ hd hn).trans ?_)
    refine congrArg (fun t => retire t 4) (List.foldl_ext _ _ _ fun b l _ => ?_)
    simp only [atomlLane, atomlNew_eq]

/-! ## Global accesses (20 R341 to R345) -/

section
variable {s : State} {g : Guard} {d a : BitVec 6} {wb : BitVec 4} {i : Instr} {ok : List (LaneChk × Xl × Bool)} (hw : i.wf = true)
  (h : laneFree s g .user [] [[a.toNat]]) (hb : baseFree s g wb.toNat)
include hw h hb

/-- A global word whose registers are free goes on. -/
theorem globalEnter_free {use src dst : List Nat} {ds ss : List (List Nat)} (k : State → State) (hd : laneFree s g .user ds ss)
    (huse : use ∈ ds ++ ss) (hdst : dst = [] ∨ dst ∈ ds) (hsrc : src = [] ∨ src ∈ ss) :
    laneEnter (globalForm i g a wb use src dst) s k = k s := by
  refine laneEnter_based (w := wb.toNat) (dst := ds) (src := [a.toNat] :: ss) k hw ⟨fun vs hvs => ?_, fun v hv => ?_, fun v hv => ?_⟩
    (laneFree_join h hd) rfl rfl rfl hb
  · simp only [globalForm, List.mem_cons, List.not_mem_nil, or_false] at hvs
    rcases hvs with rfl | rfl
    · simp
    · rcases List.mem_append.1 huse with hu | hu
      · exact .inr (List.mem_append_left _ hu)
      · exact .inr (List.mem_append_right _ (List.mem_cons_of_mem _ hu))
  · rcases hdst with rfl | hm
    · cases hv
    · exact ⟨dst, hm, hv⟩
  · rcases List.mem_cons.1 hv with rfl | hv
    · exact ⟨[a.toNat], List.mem_cons_self, List.mem_cons_self⟩
    · rcases hsrc with rfl | hm
      · cases hv
      · exact ⟨src, List.mem_cons_of_mem _ hm, hv⟩

/-- A gather whose lanes pass: a converted one asks a conversion of each page. -/
theorem gather_passes {ord conv : BitVec 2} {size nd : Nat} {acc : Acc} (hd : laneFree s g .user [rangeFrom d.toNat nd] [])
    (hn : ∀ n ∈ acting s g, (curStrand s n).replies.length < 63) (hok : lanesPass s g acc size size (vaOf s wb a) ok)
    (hconv : conv = 0 ∨ ∀ c ∈ ok, c.2.1.cnv ≠ 0) :
    gather i g d a wb ord conv size nd acc s = issueLoads d.toNat nd size ord conv (keptXl s (ok.map (fun c => c.2.1))) ok := by
  have hfull : ¬ (acting s g).any (fullLd s) = true := by
    simpa [fullLd] using hn
  unfold gather
  rw [globalEnter_free hw h hb _ hd (by simp) (.inr (List.mem_singleton.2 rfl)) (.inl rfl), if_neg hfull]
  refine accessLanes_passes _ hok fun c hc => ?_
  have hno : ¬ (conv != 0 && c.2.1.cnv == 0) = true := by
    rcases hconv with rfl | hconv
    · simp
    · simp [hconv c hc]
  simp only [(hok.2.1 c hc).1, if_neg hno]

/-- An atomic or reduction whose lanes pass. -/
theorem atomic_passes {f : AtomForm} {ord : BitVec 2}
    (hd : laneFree s g .user (if f.reply then [rangeFrom d.toNat f.regs] else []) [rangeFrom d.toNat (f.regs * (if f.repl then 2 else 1))])
    (hn : ∀ n ∈ acting s g, (if f.reply then (curStrand s n).replies.length else (curStrand s n).stores.length) < 63)
    (hok : lanesPass s g .atomic f.width f.align (vaOf s wb a) ok) :
    atomic i f g d a wb ord s = issueAtomics f d.toNat ord (keptXl s (ok.map (fun c => c.2.1))) ok := by
  have hfull : ¬ (acting s g).any (if f.reply then fullLd s else fullSt s) = true := by
    cases hr : f.reply
    · simpa [fullSt, hr] using hn
    · simpa [fullLd, hr] using hn
  have hdst : (if f.reply then rangeFrom d.toNat f.regs else []) = [] ∨
      (if f.reply then rangeFrom d.toNat f.regs else []) ∈ (if f.reply then [rangeFrom d.toNat f.regs] else []) := by
    cases f.reply
    · exact .inl rfl
    · exact .inr (List.mem_singleton.2 rfl)
  unfold atomic
  rw [globalEnter_free hw h hb _ hd (by simp) hdst (.inr (List.mem_singleton.2 rfl)), if_neg hfull]
  exact accessLanes_passes _ hok fun _ _ => rfl

end

/-- Settles O29: once the lanes have passed, the words issue. -/
theorem globalAccessResults : Obligations.global_access_results := by
  intro s g d a wb ord sz ok va ds h hb
  refine ⟨fun hw hd hn hok => congrArg _ (gather_passes hw h hb hd hn hok (.inl rfl)),
    fun hw hd hcnv hn hok => congrArg _ (gather_passes (nd := 1) hw h hb hd hn hok (.inr hcnv)), fun hw hd hn hok => ?_⟩
  have hfull : ¬ (acting s g).any (fullSt s) = true := by
    simpa [fullSt] using hn
  exact congrArg Host.Outcome.next ((globalEnter_free hw h hb _ hd (List.mem_singleton.2 rfl) (.inl rfl) (.inr (List.mem_singleton.2 rfl))).trans
    ((if_neg hfull).trans (accessLanes_passes _ hok fun _ _ => rfl)))

/-- What SZ selects, for each of the four words. -/
theorem atomgaForm_eq (sz : BitVec 2) : atomgaForm sz =
    { op := (if sz = 0 then .add else if sz = 1 then .mins else if sz = 2 then .maxs else .exch),
      width := 4, align := 4, regs := 1, repl := false, reply := true } := by
  revert sz
  decide

theorem atomgbForm_eq (sz : BitVec 2) : atomgbForm sz =
    { op := (if sz = 0 then .and else if sz = 1 then .or else if sz = 2 then .xor else .cas),
      width := 4, align := 4, regs := 1, repl := sz == 3, reply := true } := by
  revert sz
  decide

theorem atomg64Form_eq (sz : BitVec 2) : atomg64Form sz =
    { op := (if sz = 0 then .add else if sz = 1 then .exch else if sz = 2 then .cas else .maxu),
      width := 8, align := 8, regs := 2, repl := sz == 2, reply := true } := by
  revert sz
  decide

theorem redgForm_eq (sz : BitVec 2) : redgForm sz =
    { op := (if sz = 0 then .add else if sz = 1 then .pair else if sz = 2 then .mins else .maxs),
      width := if sz = 1 then 8 else 4, align := 4, regs := 1, repl := false, reply := false } := by
  revert sz
  decide

/-- Settles O30: once the lanes have passed, the words issue the form that SZ selects. -/
theorem atomicIssueResults : Obligations.atomic_issue_results := by
  intro s g d a wb ord sz ok va h hb
  refine ⟨fun hw hd hn hok => congrArg _ ((atomic_passes (f := atomgaForm sz) hw h hb hd hn hok).trans ?_),
    fun hw hd hn hok => congrArg _ ((atomic_passes (f := atomgbForm sz) hw h hb hd hn hok).trans ?_),
    fun hw hd hn hok => congrArg _ ((atomic_passes (f := atomg64Form sz) hw h hb hd hn hok).trans ?_),
    fun hw hd hn hok => congrArg _ ((atomic_passes (f := redgForm sz) hw h hb hd hn hok).trans ?_)⟩
  · rw [atomgaForm_eq]
  · rw [atomgbForm_eq]
  · rw [atomg64Form_eq]
  · rw [redgForm_eq]

/-! ## ULD and UST (20 R346, R347) -/

/-- Keeping a translation moves no strand, no skein and no group. -/
theorem keptXl_frame (s : State) (xs : List Xl) : let b := keptXl s xs
    b.cur = s.cur ∧ b.strands = s.strands ∧ b.skeins = s.skeins := by
  obtain ⟨l, hl⟩ := keptXl_eq s xs
  rw [hl]
  exact ⟨rfl, rfl, rfl⟩

@[simp] theorem keptXl_cur (s : State) (xs : List Xl) : (keptXl s xs).cur = s.cur := (keptXl_frame s xs).1

@[simp] theorem grp_keptXl (s : State) (xs : List Xl) : grp (keptXl s xs) = grp s := congrArg Group.strands (keptXl_cur s xs)

@[simp] theorem getSkein_keptXl (s : State) (xs : List Xl) (sid : Nat) : getSkein (keptXl s xs) sid = getSkein s sid :=
  congrArg (fun t => Tbl.get Skein.reset t sid) (keptXl_frame s xs).2.2

@[simp] theorem wReg_keptXl (s : State) (xs : List Xl) (n : Nat) : wReg (keptXl s xs) n = wReg s n := by
  simp only [wReg, keptXl_cur, getSkein_keptXl]

@[simp] theorem uva_keptXl (s : State) (xs : List Xl) (a : BitVec 5) (i : BitVec 14) : uva (keptXl s xs) a i = uva s a i := by
  simp only [uva, wReg_keptXl]

section
variable {s : State} {d a : BitVec 5} {i : BitVec 14} {x : Xl}

theorem exec_uld (h : uniFree s .user [a.toNat] [d.toNat]) (hn : ∀ n ∈ grp s, (curStrand s n).replies.length < 63)
    (hp : rangePasses s .load [uva s a i] 8 8 [x]) :
    exec (.uld d a i) s = .next (issueUld d.toNat (keptXl s [x]) (uva s a i) x) := by
  have hfull : ¬ (grp s).any (fullLd s) = true := by simpa [fullLd] using hn
  refine congrArg Host.Outcome.next ((uniEnter_free _ rfl h (by simp) (by simp)).trans ((if_neg hfull).trans
    ((accessRange_passes _ hp).trans ?_)))
  simp only [uva_keptXl]

theorem exec_ust (h : uniFree s .user [a.toNat, d.toNat] []) (hn : ∀ n ∈ grp s, (curStrand s n).stores.length < 63)
    (hp : rangePasses s .store [uva s a i] 8 8 [x]) :
    exec (.ust d a i) s = .next (issueUst (keptXl s [x]) (uva s a i) x (natToBytes (wReg s d.toNat).toNat 8)) := by
  have hfull : ¬ (grp s).any (fullSt s) = true := by simpa [fullSt] using hn
  refine congrArg Host.Outcome.next ((uniEnter_free _ rfl h (by simp) (by simp)).trans ((if_neg hfull).trans
    ((accessRange_passes _ hp).trans ?_)))
  simp only [uva_keptXl, wReg_keptXl]

end

theorem takeW_eq (k : Skein) (ply : Nat) (d : BitVec 5) (bs : List PByte) : k.takeW ply d.toNat bs =
    if d = 0 then k else if bs.any (fun b => b.bad) then { k with wBad := Tbl.set false k.wBad d.toNat true }
      else k.setW ply d.toNat (BitVec.ofNat 64 (bytesToNat (bs.map (fun b => b.val)))) :=
  ite_congr (propext (BitVec.toNat_inj (y := 0#5))) (fun _ => rfl) (fun _ => rfl)

theorem issueUst_allowed {s : State} {va : Nat} {x : Xl} {back : Bool} (h : tokenCheck s s.cur.sid va true x = .allowed back) (bs : List Byte) :
    issueUst s va x bs =
      let o := origin s 0
      let l := groupAcc s va x (clean bs)
      let a := mapStrands s s.cur.sid s.cur.ply (grp s) (fun _ t => t.fold (storeFolds va bs))
      if (grp s).all (fun n => storeStays s o back n l) then retire (keepStore a o l) 4
      else retire (send (expectGroupStore (toHomes a o 0 [l]) o.tag) (packetsOf o true 0 (some (grp s, none)) [(l, x.die)])) 4 := by
  simp only [issueUst, h]

/-- Settles O31: the checks leave the access to issue, which stays in the L1 or leaves. -/
theorem uniformAccessResults : Obligations.uniform_access_results := by
  intro s d a i x va s1 o
  have hcur : s1.cur = s.cur := keptXl_cur s [x]
  have hgrp : grp s1 = grp s := grp_keptXl s [x]
  refine ⟨?_, fun k ply bs => takeW_eq k ply d bs, ?_⟩
  · intro h hn hp l
    refine ⟨fun hall => ?_, fun hone => ?_⟩
    · have hhit : (grp s1).all (fun n => loadHits s1 o n l) = true := by simpa [hgrp] using hall
      refine (exec_uld h hn hp).trans (congrArg Host.Outcome.next ((if_pos hhit).trans ?_))
      rw [curSkein, hcur, getSkein_keptXl]
      rfl
    · have hmiss : ¬ (grp s1).all (fun n => loadHits s1 o n l) = true := by simpa [hgrp] using hone
      refine (exec_uld h hn hp).trans (congrArg Host.Outcome.next ((if_neg hmiss).trans ?_))
      rw [hgrp]
      rfl
  · intro h hn hp back hb bs l b
    rw [← hcur] at hb
    refine ⟨fun hall => ?_, fun hone => ?_⟩
    · have hstay : (grp s1).all (fun n => storeStays s1 o back n l) = true := by simpa [hgrp] using hall
      refine (exec_ust h hn hp).trans (congrArg Host.Outcome.next ((issueUst_allowed hb _).trans ((if_pos hstay).trans ?_)))
      rw [hcur, hgrp]
    · have hleave : ¬ (grp s1).all (fun n => storeStays s1 o back n l) = true := by simpa [hgrp] using hone
      refine (exec_ust h hn hp).trans (congrArg Host.Outcome.next ((issueUst_allowed hb _).trans ((if_neg hleave).trans ?_)))
      rw [hcur, hgrp]

end Sys2Proof.Machine
end

section
/-! Launches, saves and messages (O45, O47): LNCH, SKSV, SKRS, MSGS and MSGR once the checks of 08 R136 have passed. -/

namespace Sys2Proof.Machine

/-! ## Bits above a bound -/

theorem ushiftRight_ne_zero {x : DWord} {n : Nat} (h : 2 ^ n ≤ x.toNat) : x >>> n ≠ 0 :=
  fun h0 => h.not_gt ((ushiftRight_eq_zero_iff x n).1 h0)

theorem not_ushiftRight_ne_zero {x : DWord} {n : Nat} (h : x.toNat < 2 ^ n) : ¬ x >>> n ≠ 0 :=
  not_not_intro ((ushiftRight_eq_zero_iff x n).2 h)

section
variable {s : State} {d a b : BitVec 5} (h : uniFree s .supervisor [a.toNat, b.toNat] [d.toNat])
include h

/-! ## LNCH (22 R382) -/

/-- What LNCH does with the verdict on its message. -/
def launchAnswer (s : State) (d : Nat) : Verdict → State
  | .held => stall s .home
  | .refused c => uniResult s d (dw (2 ^ 63 + c))
  | .accepted l => uniResult (acceptLaunch s l) d (dw l.num)

theorem exec_lnch : exec (.lnch d a b) s = .next (launchAnswer s d.toNat (judgeMessage s (curSkein s).part (wReg s a.toNat) (wReg s b.toNat)
    (curStrand s ((grp s).headD 0)).evec (curStrand s ((grp s).headD 0)).hvec)) :=
  congrArg Host.Outcome.next (uniEnter_free _ rfl h (by simp) (by simp))

/-! ## SKSV and SKRS (22 R383, R384) -/

theorem exec_sksv_range (hx : 2 ^ 24 ≤ (wReg s a.toNat).toNat) : exec (.sksv d a b) s = .next (trapAll s .prot (wReg s a.toNat)) :=
  congrArg Host.Outcome.next ((uniEnter_free _ rfl h (by simp) (by simp)).trans (if_pos (ushiftRight_ne_zero hx)))

theorem exec_skrs_range (hy : 2 ^ 16 ≤ (wReg s b.toNat).toNat) : exec (.skrs d a b) s = .next (trapAll s .prot (wReg s b.toNat)) :=
  congrArg Host.Outcome.next ((uniEnter_free _ rfl h (by simp) (by simp)).trans (if_pos (ushiftRight_ne_zero hy)))

/-- What SKSV does with a launch, found or not, when the group does not wait at it yet. -/
def sksvAnswer (s : State) (d : Nat) (x : DWord) (index : Nat) : Option Launch → State
  | none => uniResult s d 2
  | some l =>
    if l.part != (curSkein s).part || decide (l.total ≤ index) then uniResult s d 2
    else if x.toNat == (curSkein s).launch && (index == (curSkein s).index || l.cores) then trapAll s .prot x
    else if (getSkein s (skeinId x.toNat index)).place != .resident then uniResult s d 1
    else stall ((sksvTargets s l index).foldl (fun c i => let z := getSkein c i
      setSkein c i { z with saving := if z.place = .resident then some (z.saving.getD .named) else z.saving, heldSave := true }) s) .save

theorem exec_sksv_new (hx : (wReg s a.toNat).toNat < 2 ^ 24) (hw : waits s .save = false) : exec (.sksv d a b) s =
    .next (sksvAnswer s d.toNat (wReg s a.toNat) (wReg s b.toNat).toNat (findLaunch s (wReg s a.toNat).toNat)) := by
  refine congrArg Host.Outcome.next ((uniEnter_free _ rfl h (by simp) (by simp)).trans ((if_neg (not_ushiftRight_ne_zero hx)).trans
    ((if_neg (Bool.eq_false_iff.1 hw)).trans ?_)))
  cases findLaunch s (wReg s a.toNat).toNat with
  | none => rfl
  | some l => rfl

theorem exec_sksv_saved (hx : (wReg s a.toNat).toNat < 2 ^ 24) (hw : waits s .save = true)
    (hidle : ∀ e ∈ s.skeins, ¬ (e.2.launch = (wReg s a.toNat).toNat ∧ e.2.heldSave = true ∧ e.2.saving.isSome = true)) :
    exec (.sksv d a b) s = .next (uniResult s d.toNat
      (if (findLaunch s (wReg s a.toNat).toNat).isNone || (getSkein s (skeinId (wReg s a.toNat).toNat (wReg s b.toNat).toNat)).plies == 0
        then 3 else 0)) := by
  have hbusy : ¬ s.skeins.any (fun e => e.2.launch == (wReg s a.toNat).toNat && e.2.heldSave && e.2.saving.isSome) = true := by
    simpa [and_assoc] using hidle
  refine congrArg Host.Outcome.next ((uniEnter_free _ rfl h (by simp) (by simp)).trans ((if_neg (not_ushiftRight_ne_zero hx)).trans
    ((if_pos hw).trans ((if_neg hbusy).trans ?_))))
  split
  · rfl
  · rfl

/-- What SKRS does with the saved skein of an image, found or not. -/
def skrsAnswer (s : State) (d : Nat) : Option (Nat × Skein) → State
  | none => uniResult s d 1
  | some e =>
    if e.2.heldSave || e.2.heldFault then uniResult (setSkein s e.1 { e.2 with heldSave := false, heldFault := false }) d 0
    else uniResult s d 2

theorem exec_skrs (hy : (wReg s b.toNat).toNat < 2 ^ 16) : exec (.skrs d a b) s = .next (skrsAnswer s d.toNat
    (s.skeins.find? (fun e => e.2.place == .saved && e.2.part == (curSkein s).part &&
      e.2.ctx == (if (wReg s b.toNat).toNat = 0xFFFF then (curSkein s).ctx else (wReg s b.toNat).toNat) &&
      imageVa s e.2 == (wReg s a.toNat).toNat))) := by
  refine congrArg Host.Outcome.next ((uniEnter_free _ rfl h (by simp) (by simp)).trans ((if_neg (not_ushiftRight_ne_zero hy)).trans ?_))
  unfold skrsAnswer
  rfl

end

/-- Settles O45: each word's answer, by the verdict or the skein found. -/
theorem launchAndSaveResults : Obligations.launch_and_save_results := by
  intro s d a b x y k t h
  refine ⟨fun l hv => ?_, fun hv => ?_, fun c hv => ?_, fun hx => exec_sksv_range h hx, fun hx hw => ⟨fun hno => ?_, fun l hl hp hy => ?_⟩,
    fun hx hw hidle => exec_sksv_saved h hx hw hidle, fun hy => ?_, fun hy => exec_skrs_range h hy⟩
  · exact (exec_lnch h).trans (by rw [hv]; rfl)
  · exact (exec_lnch h).trans (by rw [hv]; rfl)
  · exact (exec_lnch h).trans (by rw [hv]; rfl)
  · refine (exec_sksv_new h hx hw).trans (congrArg _ ?_)
    cases hl : findLaunch s (wReg s a.toNat).toNat with
    | none => rfl
    | some l => exact if_pos (by simpa using hno l hl)
  · have hfound : ¬ (l.part != k.part || decide (l.total ≤ y.toNat)) = true := by simp [hp, hy]
    have hself : (x.toNat == k.launch && (y.toNat == k.index || l.cores)) = true ↔ x.toNat = k.launch ∧ (y.toNat = k.index ∨ l.cores = true) := by
      simp
    have hsaves := (exec_sksv_new h hx hw).trans (congrArg (fun o => Host.Outcome.next (sksvAnswer s d.toNat x y.toNat o)) hl)
    refine ⟨fun hme => ?_, fun hme hpl => ?_, fun hme hpl => ?_⟩
    · exact hsaves.trans (congrArg _ ((if_neg hfound).trans (if_pos (hself.2 hme))))
    · exact hsaves.trans (congrArg _ ((if_neg hfound).trans ((if_neg (mt hself.1 hme)).trans (if_pos (bne_iff_ne.2 hpl)))))
    · exact hsaves.trans (congrArg _ ((if_neg hfound).trans ((if_neg (mt hself.1 hme)).trans (if_neg (by simp [hpl])))))
  · intro ctx o
    refine ⟨fun ho => ?_, fun e ho hheld => ?_, fun e ho hheld => ?_⟩
    · exact (exec_skrs h hy).trans (congrArg (fun o => Host.Outcome.next (skrsAnswer s d.toNat o)) ho)
    · exact (exec_skrs h hy).trans ((congrArg (fun o => Host.Outcome.next (skrsAnswer s d.toNat o)) ho).trans (congrArg _ (if_pos hheld)))
    · exact (exec_skrs h hy).trans ((congrArg (fun o => Host.Outcome.next (skrsAnswer s d.toNat o)) ho).trans
        (congrArg _ (if_neg (Bool.eq_false_iff.1 hheld))))

/-! ## MSGS and MSGR (22 R389, R390) -/

section
variable {s : State} {d a b : BitVec 5} {none_ : State → State}

/-- The issuer under which a message is stored. -/
def messageOrigin (t : State) : Origin :=
  { core := curCore t, die := dieOf (curCore t), sid := t.cur.sid, ply := t.cur.ply, tag := 0, ctx := (curSkein t).ctx, pc := curPc t,
    acq := false, rel := false }

/-- The store of a message at its home, behind the L1 lines of its bytes. -/
def messageStore (t : State) (x : Xl) (m : Msg) : Option State :=
  homeWrite (leaveL1 t (curCore t) x.pa) (laneAgent (messageOrigin t) (4 * (grp t).headD 0)) x.pa (clean (msgBytes m))

theorem receive_range (hs : 2 ^ 33 ≤ (wReg s b.toNat).toNat) : receive d a b none_ s = trapAll s .prot (wReg s b.toNat) :=
  if_pos (ushiftRight_ne_zero hs)

section
variable (hs : (wReg s b.toNat).toNat < 2 ^ 33)
include hs

theorem receive_misaligned (ha : (wReg s a.toNat).toNat % 32 ≠ 0) : receive d a b none_ s = trapAll s .misalign (wReg s a.toNat) :=
  (if_neg (not_ushiftRight_ne_zero hs)).trans (if_pos ha)

variable (ha : (wReg s a.toNat).toNat % 32 = 0)
include ha

theorem receive_none (hq : pickQueue (getPart s (curSkein s).part) (wReg s b.toNat) = none) : receive d a b none_ s = none_ s := by
  refine (if_neg (not_ushiftRight_ne_zero hs)).trans ((if_neg (not_not_intro ha)).trans ?_)
  rw [hq]

variable {q : Nat} {m : Msg} {x : Xl} (hq : pickQueue (getPart s (curSkein s).part) (wReg s b.toNat) = some (q, m))
  (hp : rangePasses s .store [(wReg s a.toNat).toNat] 32 32 [x]) (hm : mustWait (keptXl s [x]) x 32 = false)
include hq hp hm

/-- A message whose store the gate of a watched word holds stays in its queue. -/
theorem receive_gated (hw : messageStore (keptXl s [x]) x m = none) : receive d a b none_ s = stall (keptXl s [x]) (.gate x.pa) := by
  refine (if_neg (not_ushiftRight_ne_zero hs)).trans ((if_neg (not_not_intro ha)).trans ?_)
  rw [hq]
  refine (accessRange_passes _ hp).trans ((if_neg (Bool.eq_false_iff.1 hm)).trans ?_)
  unfold messageStore messageOrigin at hw
  rw [hw]

/-- A message that is stored leaves its queue. -/
theorem receive_stored {u : State} (hw : messageStore (keptXl s [x]) x m = some u) : receive d a b none_ s =
    let y := getPart u (curSkein s).part
    uniResult (setPart u (curSkein s).part { y with queues := Tbl.set [] y.queues q ((queueOf y q).drop 1) }) d.toNat (dw q) := by
  refine (if_neg (not_ushiftRight_ne_zero hs)).trans ((if_neg (not_not_intro ha)).trans ?_)
  rw [hq]
  refine (accessRange_passes _ hp).trans ((if_neg (Bool.eq_false_iff.1 hm)).trans ?_)
  unfold messageStore messageOrigin at hw
  rw [hw]
  rfl

end

variable (h : uniFree s .supervisor [a.toNat, b.toNat] [d.toNat])
include h

theorem exec_msgr : exec (.msgr d a b) s = .next (receive d a b (fun s => stall s .poll) s) :=
  congrArg Host.Outcome.next (uniEnter_free _ rfl h (by simp) (by simp))

theorem exec_msgrTry : exec (.msgrTry d a b) s = .next (receive d a b (fun s => uniResult s d.toNat 0x8000000000000000) s) :=
  congrArg Host.Outcome.next (uniEnter_free _ rfl h (by simp) (by simp))

theorem exec_msgs (q : BitVec 5) : exec (.msgs d a b q) s = .next (
    let x := getPart s (curSkein s).part
    if x.busy || decide (64 ≤ (queueOf x q.toNat).length) then
      uniResult (setPart s (curSkein s).part { x with lostQ := x.lostQ ||| (1#32 <<< q.toNat) }) d.toNat 1
    else uniResult (setPart s (curSkein s).part (enqueue x q.toNat (wReg s a.toNat, wReg s b.toNat, 0, 0))) d.toNat 0) :=
  congrArg Host.Outcome.next (uniEnter_free _ rfl h (by simp) (by simp))

end

/-- Settles O47: the queue's room decides MSGS, and MSGR's checks, its queue and its store decide the rest. -/
theorem messageQueueResults : Obligations.message_queue_results := by
  intro s d a b q p buf sel plain
  refine ⟨fun h hbusy hlen => ?_, fun h hfull => ?_, fun h => ⟨fun hs => ?_, fun hs ha => ?_, fun n m x hs ha hq hp => ?_,
    fun hs ha hq => ?_, fun n m x u hs ha hq hp => ?_⟩, fun h => ⟨fun hs => ?_, fun hs ha => ?_, fun n m x hs ha hq hp => ?_,
    fun hs ha hq => ?_, fun n m x u hs ha hq hp => ?_⟩⟩
  · exact (exec_msgs h q).trans (congrArg _ (if_neg (by simpa using ⟨hbusy, hlen⟩)))
  · exact (exec_msgs h q).trans (congrArg _ (if_pos (by simpa using hfull)))
  · exact (exec_msgr h).trans (congrArg _ (receive_range hs))
  · exact (exec_msgr h).trans (congrArg _ (receive_misaligned hs ha))
  · exact fun hm hw => (exec_msgr h).trans (congrArg _ (receive_gated hs ha hq hp hm hw))
  · exact (exec_msgr h).trans (congrArg _ (receive_none hs ha hq))
  · exact fun hm hw => (exec_msgr h).trans (congrArg _ (receive_stored hs ha hq hp hm hw))
  · exact (exec_msgrTry h).trans (congrArg _ (receive_range hs))
  · exact (exec_msgrTry h).trans (congrArg _ (receive_misaligned hs ha))
  · exact fun hm hw => (exec_msgrTry h).trans (congrArg _ (receive_gated hs ha hq hp hm hw))
  · exact (exec_msgrTry h).trans (congrArg _ (receive_none hs ha hq))
  · exact fun hm hw => (exec_msgrTry h).trans (congrArg _ (receive_stored hs ha hq hp hm hw))

end Sys2Proof.Machine
end

section
/-! What a word leaves unchanged (O60): the one clause that asks nothing of the table of W registers fails where that table is not in
canonical form. -/

namespace Sys2Proof.Machine

/-- A group of one U-mode strand whose skein's table of W registers lists W5 twice, as no canonical table does (log entry 1). -/
def doubledW : State := { State.reset with
  cur := { sid := 0, ply := 0, strands := [0] }, strands := [(0, { fetchStrand with mode := .user })],
  skeins := [(0, { fetchSkein with w := [(5, 1), (5, 2)] })] }

/-- A request of no lane. -/
def noRequest : AtomReq :=
  { op := .add, width := 4, pa := 0, va := 0, kind := .unordered, die := 0, ordered := false, det := false, merged := 0, pair := none, lanes := [] }

theorem uniFree_doubledW : uniFree doubledW .user [] [5] := by
  refine ⟨fun n _ => rfl, List.forall_mem_nil _, fun w hw => ?_, fun w hw => ?_⟩
  · rw [List.mem_singleton.1 hw]
    rfl
  · rw [List.mem_singleton.1 hw]
    rfl

/-- UMOVI of 0 to W5 drops the first of the two entries, and W5 then reads the second. -/
theorem wReg_doubledW : exec (.umovi 5 0) doubledW = .next (uniResult doubledW 5 0) ∧ wReg (uniResult doubledW 5 0) 5 = 2 := by
  refine ⟨congrArg Host.Outcome.next (uniAlu_free (i := .umovi 5 0) rfl uniFree_doubledW), ?_⟩
  rfl

/-- Refutes O60: UMOVI writes 0 to W5 where the table of W registers lists W5 twice, and W5 then reads 2. The clause on the register that
a uniform word writes has no hypothesis on that table, which the clause on the other registers has. -/
theorem not_wordsLeaveTheRestUnchanged : ¬ Obligations.words_leave_the_rest_unchanged := by
  intro h
  obtain ⟨hexec, hread⟩ := wReg_doubledW
  obtain ⟨-, -, -, huni, -⟩ := h doubledW (uniResult doubledW 5 0) (.umovi 5 0) ⟨0, 0⟩ 4 5 0 0 (fun _ _ => wr []) (fun _ => wr []) id
    (askPacket (origin doubledW 0) none []) noRequest
  obtain ⟨-, -, -, -, -, -, hwritten⟩ := huni hexec rfl (by decide) (by decide) (by decide)
  exact absurd (hread.symm.trans (hwritten (by decide))) (by decide)

end Sys2Proof.Machine
end
